-- ==== Sys2Proof/Word.lean ====
section
/-! DEFINITION. The word types of the machine. -/

namespace Sys2Proof

/-- A 32-bit register value. -/
abbrev Word := BitVec 32
/-- A 64-bit value: a pair, a pointer, an instruction word. -/
abbrev DWord := BitVec 64
/-- A byte. -/
abbrev Byte := BitVec 8

end Sys2Proof
end

