-- ==== Sys2Proof/Config.lean ====
section
/-! DEFINITION. What the spec leaves to each device, as free values: constants with no body, so that nothing can be
proved of them (log 9). -/

namespace Sys2Proof.Config

/-- A fresh word, by index: a result that the spec says is undefined. -/
opaque freeWord : Nat → Word
/-- A fresh choice, by index: which of several candidates a unit takes where the spec lets any be taken. -/
opaque freeNat : Nat → Nat
/-- Emax of R124 for an element format to which the rule gives none, by the format's code. -/
opaque emax : Nat → Int
/-- Stepping of the device, bits 15:0 of DEVID (R347). -/
opaque stepping : BitVec 16
/-- Bytes of the device's public key, by the digest of its image and offset (R355). -/
opaque publicKey : BitVec 256 → Nat → Byte
/-- Bytes of the signature over a message with the key of an image's digest, by offset (R355). -/
opaque signature : BitVec 256 → List Byte → Nat → Byte
/-- The chain map: the chain on which a bit of the machine's state lies, by the bit's number (R449). -/
opaque chainOf : Nat → BitVec 32
/-- The chain map: the order of the bits that lie on one chain (R449). -/
opaque chainKey : Nat → Nat
/-- What is shifted out of a chain once all its bits are out, by index. -/
opaque chainPast : Nat → Bool
/-- Offsets and bytes that the device writes into a save area, a spill area or an entry of a backing table, whose layouts are
not architectural (R309, R411), by index. -/
opaque areaBytes : Nat → List (Nat × Byte)
/-- The debug port's instruction code of SAMPLE/PRELOAD, which the spec does not give (R449). -/
opaque sampleCode : BitVec 8
/-- The debug port's instruction code of EXTEST, which the spec does not give (R449). -/
opaque extestCode : BitVec 8

end Sys2Proof.Config
end

