-- ==== Sys2Proof/Syntax.lean ====
section
/-! DEFINITION. The instructions: one constructor of `Instr` for each row of spec/opcode_table.json (R154, R156, and
the steps that the device, its engines, the host and the debug port take on their own). -/

namespace Sys2Proof

/-- V register index (R141). -/
abbrev VReg := BitVec 8
/-- Predicate index (R141). -/
abbrev PReg := BitVec 6
/-- Team register W index (R141). -/
abbrev WReg := BitVec 6
/-- Convergence register index (R141). -/
abbrev KReg := BitVec 4
/-- Descriptor register index (R141). -/
abbrev DReg := BitVec 5
/-- Accumulator tile field; an index from 0 to 47 (R141). -/
abbrev CReg := BitVec 6

/-- The ICMP and WAITC conditions (R156). -/
inductive Cond where
  | eq | ne | lt | le | gt | ge
deriving DecidableEq, Repr

/-- The code of a value, as R156 numbers it. -/
def Cond.code : Cond → BitVec 3
  | .eq => 0#3
  | .ne => 1#3
  | .lt => 2#3
  | .le => 3#3
  | .gt => 4#3
  | .ge => 5#3

/-- The value a code names; none for a reserved code. -/
def Cond.ofCode (k : BitVec 3) : Option Cond :=
  [Cond.eq, Cond.ne, Cond.lt, Cond.le, Cond.gt, Cond.ge][k.toNat]?

/-- The FCMP conditions (R156). -/
inductive FCond where
  | eq | ne | lt | le | gt | ge | num | nan
deriving DecidableEq, Repr

/-- The code of a value, as R156 numbers it. -/
def FCond.code : FCond → BitVec 3
  | .eq => 0#3
  | .ne => 1#3
  | .lt => 2#3
  | .le => 3#3
  | .gt => 4#3
  | .ge => 5#3
  | .num => 6#3
  | .nan => 7#3

/-- The value a code names; none for a reserved code. -/
def FCond.ofCode (k : BitVec 3) : Option FCond :=
  [FCond.eq, FCond.ne, FCond.lt, FCond.le, FCond.gt, FCond.ge, FCond.num, FCond.nan][k.toNat]?

/-- The rounding modes (R115). -/
inductive Rm where
  | rn | rz | ru | rd
deriving DecidableEq, Repr

/-- The code of a value, as R115 numbers it. -/
def Rm.code : Rm → BitVec 2
  | .rn => 0#2
  | .rz => 1#2
  | .ru => 2#2
  | .rd => 3#2

/-- The value a code names; none for a reserved code. -/
def Rm.ofCode (k : BitVec 2) : Option Rm :=
  [Rm.rn, Rm.rz, Rm.ru, Rm.rd][k.toNat]?

/-- The SHFL modes (R156). -/
inductive ShflMode where
  | idx | up | down | xor
deriving DecidableEq, Repr

/-- The code of a value, as R156 numbers it. -/
def ShflMode.code : ShflMode → BitVec 2
  | .idx => 0#2
  | .up => 1#2
  | .down => 2#2
  | .xor => 3#2

/-- The value a code names; none for a reserved code. -/
def ShflMode.ofCode (k : BitVec 2) : Option ShflMode :=
  [ShflMode.idx, ShflMode.up, ShflMode.down, ShflMode.xor][k.toNat]?

/-- The VOTE modes (R156). -/
inductive VoteMode where
  | any | all | ballot
deriving DecidableEq, Repr

/-- The code of a value, as R156 numbers it. -/
def VoteMode.code : VoteMode → BitVec 2
  | .any => 0#2
  | .all => 1#2
  | .ballot => 2#2

/-- The value a code names; none for a reserved code. -/
def VoteMode.ofCode (k : BitVec 2) : Option VoteMode :=
  [VoteMode.any, VoteMode.all, VoteMode.ballot][k.toNat]?

/-- The REDL and SCANL operations (R156). -/
inductive RedOp where
  | iadd | fadd | smin | smax | umin | umax | fmin | fmax | and | or | xor
deriving DecidableEq, Repr

/-- The code of a value, as R156 numbers it. -/
def RedOp.code : RedOp → BitVec 4
  | .iadd => 0#4
  | .fadd => 1#4
  | .smin => 2#4
  | .smax => 3#4
  | .umin => 4#4
  | .umax => 5#4
  | .fmin => 6#4
  | .fmax => 7#4
  | .and => 8#4
  | .or => 9#4
  | .xor => 10#4

/-- The value a code names; none for a reserved code. -/
def RedOp.ofCode (k : BitVec 4) : Option RedOp :=
  [RedOp.iadd, RedOp.fadd, RedOp.smin, RedOp.smax, RedOp.umin, RedOp.umax, RedOp.fmin, RedOp.fmax, RedOp.and, RedOp.or, RedOp.xor][k.toNat]?

/-- The ATOM and RED operations (R156). -/
inductive AtomOp where
  | iadd | fadd | smin | smax | umin | umax | fmin | fmax | and | or | xor | xchg | inc | dec
deriving DecidableEq, Repr

/-- The code of a value, as R156 numbers it. -/
def AtomOp.code : AtomOp → BitVec 5
  | .iadd => 0#5
  | .fadd => 1#5
  | .smin => 2#5
  | .smax => 3#5
  | .umin => 4#5
  | .umax => 5#5
  | .fmin => 6#5
  | .fmax => 7#5
  | .and => 8#5
  | .or => 9#5
  | .xor => 10#5
  | .xchg => 11#5
  | .inc => 12#5
  | .dec => 13#5

/-- The value a code names; none for a reserved code. -/
def AtomOp.ofCode (k : BitVec 5) : Option AtomOp :=
  [AtomOp.iadd, AtomOp.fadd, AtomOp.smin, AtomOp.smax, AtomOp.umin, AtomOp.umax, AtomOp.fmin, AtomOp.fmax, AtomOp.and, AtomOp.or, AtomOp.xor, AtomOp.xchg, AtomOp.inc, AtomOp.dec][k.toNat]?

/-- The RELABEL operations (R156). -/
inductive RelOp where
  | sum | min | max | count | first
deriving DecidableEq, Repr

/-- The code of a value, as R156 numbers it. -/
def RelOp.code : RelOp → BitVec 3
  | .sum => 0#3
  | .min => 1#3
  | .max => 2#3
  | .count => 3#3
  | .first => 4#3

/-- The value a code names; none for a reserved code. -/
def RelOp.ofCode (k : BitVec 3) : Option RelOp :=
  [RelOp.sum, RelOp.min, RelOp.max, RelOp.count, RelOp.first][k.toNat]?

/-- The widths of the load and store instructions (R156). -/
inductive Width where
  | b8 | b16 | b32 | b64 | b128
deriving DecidableEq, Repr

/-- The code of a value, as R156 numbers it. -/
def Width.code : Width → BitVec 3
  | .b8 => 0#3
  | .b16 => 1#3
  | .b32 => 2#3
  | .b64 => 3#3
  | .b128 => 4#3

/-- The value a code names; none for a reserved code. -/
def Width.ofCode (k : BitVec 3) : Option Width :=
  [Width.b8, Width.b16, Width.b32, Width.b64, Width.b128][k.toNat]?

/-- The number formats (R109). -/
inductive Fmt where
  | fp32 | fp16 | bf16 | e4m3 | e5m2 | e2m1 | i8 | n8 | i4 | n4 | e8m0
deriving DecidableEq, Repr

/-- The code of a value, as R109 numbers it. -/
def Fmt.code : Fmt → BitVec 4
  | .fp32 => 0#4
  | .fp16 => 1#4
  | .bf16 => 2#4
  | .e4m3 => 3#4
  | .e5m2 => 4#4
  | .e2m1 => 5#4
  | .i8 => 6#4
  | .n8 => 7#4
  | .i4 => 8#4
  | .n4 => 9#4
  | .e8m0 => 10#4

/-- The value a code names; none for a reserved code. -/
def Fmt.ofCode (k : BitVec 4) : Option Fmt :=
  [Fmt.fp32, Fmt.fp16, Fmt.bf16, Fmt.e4m3, Fmt.e5m2, Fmt.e2m1, Fmt.i8, Fmt.n8, Fmt.i4, Fmt.n4, Fmt.e8m0][k.toNat]?

/-- The special registers (R145). -/
inductive SReg where
  | tid | lane | slot | group | team | cluster | core | die | ln0 | ln1 | ln2 | ln3 | time | timehi | ctx
deriving DecidableEq, Repr

/-- The code of a value, as R145 numbers it. -/
def SReg.code : SReg → BitVec 8
  | .tid => 0#8
  | .lane => 1#8
  | .slot => 2#8
  | .group => 3#8
  | .team => 4#8
  | .cluster => 5#8
  | .core => 6#8
  | .die => 7#8
  | .ln0 => 8#8
  | .ln1 => 9#8
  | .ln2 => 10#8
  | .ln3 => 11#8
  | .time => 12#8
  | .timehi => 13#8
  | .ctx => 14#8

/-- The value a code names; none for a reserved code. -/
def SReg.ofCode (k : BitVec 8) : Option SReg :=
  [SReg.tid, SReg.lane, SReg.slot, SReg.group, SReg.team, SReg.cluster, SReg.core, SReg.die, SReg.ln0, SReg.ln1, SReg.ln2, SReg.ln3, SReg.time, SReg.timehi, SReg.ctx][k.toNat]?

/-- The paired operations (R151). -/
inductive PairOp where
  | fadd | fmul | ffma | iadd | and | or | xor | shl | mov | isel
deriving DecidableEq, Repr

/-- The code of a value, as R151 numbers it. -/
def PairOp.code : PairOp → BitVec 4
  | .fadd => 0#4
  | .fmul => 1#4
  | .ffma => 2#4
  | .iadd => 3#4
  | .and => 4#4
  | .or => 5#4
  | .xor => 6#4
  | .shl => 7#4
  | .mov => 8#4
  | .isel => 9#4

/-- The value a code names; none for a reserved code. -/
def PairOp.ofCode (k : BitVec 4) : Option PairOp :=
  [PairOp.fadd, PairOp.fmul, PairOp.ffma, PairOp.iadd, PairOp.and, PairOp.or, PairOp.xor, PairOp.shl, PairOp.mov, PairOp.isel][k.toNat]?

/-- Guard fields of an instruction (R142). -/
structure Grd where
  pred : PReg
  pneg : Bool
deriving DecidableEq, Repr

/-- Guard, lookahead and scoreboard fields of the standard and memory forms (R140, R147). -/
structure Ctl where
  pred : PReg
  pneg : Bool
  la   : BitVec 4
  qc   : BitVec 3
  qe   : Bool
deriving DecidableEq, Repr

/-- The guard of a control field. -/
def Ctl.grd (c : Ctl) : Grd := ⟨c.pred, c.pneg⟩

/-- Control fields of the conversion form (R149). -/
structure CvCtl where
  pred    : PReg
  pneg    : Bool
  slot    : BitVec 3
  rm      : Rm
  useslot : Bool
  ovf     : BitVec 2
  qc      : BitVec 3
  qe      : Bool
deriving DecidableEq, Repr

/-- The guard of a conversion word. -/
def CvCtl.grd (c : CvCtl) : Grd := ⟨c.pred, c.pneg⟩

/-- Source B (R143). -/
inductive SrcB where
  | v   (r : VReg)
  | w   (r : WReg)
  | s8  (i : BitVec 8)
  | sr  (r : SReg)
  | i24 (i : BitVec 24)
deriving DecidableEq, Repr

/-- The combine of a compare with a predicate (R156, R162). -/
inductive Comb where
  | none
  | and (q : PReg)
  | or  (q : PReg)
  | xor (q : PReg)
deriving DecidableEq, Repr

/-- The two shapes of PMOV (R169). -/
inductive PmovOp where
  | save (hi : Bool) (d : VReg)
  | load (hi : Bool) (b : VReg)
deriving DecidableEq, Repr

/-- Memory operand of ATOM, ATOMC and RED: AM 0 or AM 1 (R148). -/
inductive MAddr where
  | ptr  (addr : VReg) (off : BitVec 14)
  | desc (dn : DReg) (i : VReg)
deriving DecidableEq, Repr

/-- The second operation Y of a paired word (R150). -/
structure POp where
  op : PairOp
  pd : VReg
  pa : VReg
  pb : VReg
deriving DecidableEq, Repr

/-- A place that holds copies of lines (R73, R76): the L1 of a core, a local copy at an L2 slice, the Selvedge cache of
a die-to-die port, or the home slices. -/
inductive Place where
  | l1 (core : Nat)
  | localSlice (slice : Nat)
  | selvedge (port : Nat)
  | home
deriving DecidableEq, Repr

/-- What the check codes of a DRAM sector say when the scrubber reads it (R443). -/
inductive EccCheck where
  | clean | corrected | uncorrectable
deriving DecidableEq, Repr

/-- An access of the host or of a peer: a read of `n` bytes, or a write of bytes, lowest address first, and whether its data
came with the poisoned indication (R444, R445). -/
inductive HostAcc where
  | read (n : Nat)
  | write (bytes : List (BitVec 8)) (poison : Bool)
deriving DecidableEq, Repr

/-- A wire with a flit check: a device link or a die-to-die port (R445). -/
inductive Wire where
  | link (n : Nat)
  | port (n : Nat)
deriving DecidableEq, Repr

/-- One contribution to a collective by a peer device: NaN, an infinity, or the exact value `m · 2^e` (R279). -/
inductive PeerVal where
  | nan
  | inf (neg : Bool)
  | fin (neg : Bool) (m : Nat) (e : Int)
deriving DecidableEq, Repr

/-- One peer's part in a collective: its record (R278), its contributions in element order, and the device link over which
flits of it came poisoned (R444, R445). -/
structure PeerPart where
  record : BitVec 512
  vals   : List PeerVal
  poison : Option Nat
deriving DecidableEq, Repr

/-- The peers' side of a collective: whether a link error ended it, and the part of every other device (R279, R280). -/
structure CollPeers where
  linkError : Bool
  parts     : List PeerPart
deriving DecidableEq, Repr

/-- What the board controller and the boot firmware bring to BOOT (R355): the image, whether its signature verified, the
digests of stages 1 to 3, which dies have LPDDR trained, the device time set, which device links and host links trained
(bit j for link j), and which host links carry CXL. -/
structure BootIn where
  image    : List (BitVec 8)
  verified : Bool
  stages   : List (BitVec 256)
  lp       : BitVec 4
  time     : Nat
  links    : BitVec 12
  pcie     : BitVec 2
  cxl      : BitVec 2
deriving DecidableEq, Repr

/-- The window a doorbell write goes to: the context, and the PCIe link that carries the write (R352, R446). -/
structure LinkCtx where
  link : Nat
  ctx  : Nat
deriving DecidableEq, Repr

/-- The instructions of the machine: the words of the instruction set, and the steps that its engines, the dispatcher,
the host and the debug port take. Each constructor names its row's rule. -/
inductive Instr where
  /-- CLAUSE_ISSUE (R40). -/
  | clauseIssue (core slice : Nat)
  /-- FAIRNESS_OVERRIDE (R41). -/
  | fairnessOverride (thread : Nat)
  /-- STARVATION_FLAG (R42). -/
  | starvationFlag (group : Nat)
  /-- INSTRUCTION_COMPLETE (R36). -/
  | instructionComplete (flight : Nat)
  /-- NOP (R158). -/
  | nop (raw : BitVec 56)
  /-- MOV (R158). -/
  | mov (c : Ctl) (d : VReg) (b : SrcB)
  /-- MOVI (R158). -/
  | movi (g : Grd) (d : VReg) (imm : Word)
  /-- MOVW (R158). -/
  | movw (c : Ctl) (w : WReg) (b : SrcB)
  /-- IADD (R159). -/
  | iadd (c : Ctl) (u : Bool) (sat : Bool) (d : VReg) (a : VReg) (b : SrcB)
  /-- ISUB (R159). -/
  | isub (c : Ctl) (u : Bool) (sat : Bool) (d : VReg) (a : VReg) (b : SrcB)
  /-- IADDC (R159). -/
  | iaddc (c : Ctl) (p : PReg) (d : VReg) (a : VReg) (b : SrcB)
  /-- IMUL (R159). -/
  | imul (c : Ctl) (u : Bool) (sat : Bool) (d : VReg) (a : VReg) (b : SrcB)
  /-- IMULH (R159). -/
  | imulh (c : Ctl) (u : Bool) (d : VReg) (a : VReg) (b : SrcB)
  /-- IMAD (R159). -/
  | imad (c : Ctl) (u : Bool) (sat : Bool) (d : VReg) (a : VReg) (b : SrcB) (x : VReg)
  /-- IMIN (R161). -/
  | imin (c : Ctl) (u : Bool) (d : VReg) (a : VReg) (b : SrcB)
  /-- IMAX (R161). -/
  | imax (c : Ctl) (u : Bool) (d : VReg) (a : VReg) (b : SrcB)
  /-- IABS (R161). -/
  | iabs (c : Ctl) (d : VReg) (b : SrcB)
  /-- IADD64 (R160). -/
  | iadd64 (c : Ctl) (u : Bool) (sat : Bool) (d : VReg) (a : VReg) (b : SrcB)
  /-- IMAD64 (R160). -/
  | imad64 (c : Ctl) (u : Bool) (sat : Bool) (d : VReg) (a : VReg) (b : SrcB) (x : VReg)
  /-- LEA (R160). -/
  | lea (c : Ctl) (sh : BitVec 3) (d : VReg) (a : VReg) (b : SrcB)
  /-- ICMP (R162). -/
  | icmp (c : Ctl) (cond : Cond) (u : Bool) (cmb : Comb) (d : PReg) (a : VReg) (b : SrcB)
  /-- ISEL (R162). -/
  | isel (c : Ctl) (p : PReg) (d : VReg) (a : VReg) (b : SrcB)
  /-- AND (R163). -/
  | land (c : Ctl) (d : VReg) (a : VReg) (b : SrcB)
  /-- OR (R163). -/
  | lor (c : Ctl) (d : VReg) (a : VReg) (b : SrcB)
  /-- XOR (R163). -/
  | lxor (c : Ctl) (d : VReg) (a : VReg) (b : SrcB)
  /-- ANDN (R163). -/
  | landn (c : Ctl) (d : VReg) (a : VReg) (b : SrcB)
  /-- NOT (R163). -/
  | lnot (c : Ctl) (d : VReg) (b : SrcB)
  /-- SHL (R164). -/
  | shl (c : Ctl) (d : VReg) (a : VReg) (b : SrcB)
  /-- SHR (R164). -/
  | shr (c : Ctl) (d : VReg) (a : VReg) (b : SrcB)
  /-- SAR (R164). -/
  | sar (c : Ctl) (d : VReg) (a : VReg) (b : SrcB)
  /-- ROT (R164). -/
  | rot (c : Ctl) (d : VReg) (a : VReg) (b : SrcB)
  /-- BFE (R165). -/
  | bfe (c : Ctl) (u : Bool) (d : VReg) (a : VReg) (b : SrcB) (x : VReg)
  /-- BFI (R165). -/
  | bfi (c : Ctl) (d : VReg) (a : VReg) (b : SrcB) (x : VReg)
  /-- POPC (R166). -/
  | popc (c : Ctl) (d : VReg) (b : SrcB)
  /-- CLZ (R166). -/
  | clz (c : Ctl) (d : VReg) (b : SrcB)
  /-- BREV (R166). -/
  | brev (c : Ctl) (d : VReg) (b : SrcB)
  /-- PERM (R167). -/
  | perm (c : Ctl) (d : VReg) (a : VReg) (b : SrcB) (x : VReg)
  /-- PLOP (R168). -/
  | plop (c : Ctl) (p3 : PReg) (d : PReg) (p1 : PReg) (p2 : PReg) (table : BitVec 8)
  /-- PMOV (R169). -/
  | pmov (c : Ctl) (op : PmovOp)
  /-- FADD (R170). -/
  | fadd (c : Ctl) (na : Bool) (d : VReg) (a : VReg) (b : SrcB)
  /-- FSUB (R170). -/
  | fsub (c : Ctl) (na : Bool) (d : VReg) (a : VReg) (b : SrcB)
  /-- FMUL (R170). -/
  | fmul (c : Ctl) (na : Bool) (d : VReg) (a : VReg) (b : SrcB)
  /-- FFMA (R170). -/
  | ffma (c : Ctl) (na : Bool) (nc : Bool) (d : VReg) (a : VReg) (b : SrcB) (x : VReg)
  /-- FMIN (R171). -/
  | fmin (c : Ctl) (d : VReg) (a : VReg) (b : SrcB)
  /-- FMAX (R171). -/
  | fmax (c : Ctl) (d : VReg) (a : VReg) (b : SrcB)
  /-- FCLAMP (R171). -/
  | fclamp (c : Ctl) (d : VReg) (a : VReg) (b : SrcB) (x : VReg)
  /-- FCMP (R172). -/
  | fcmp (c : Ctl) (cond : FCond) (cmb : Comb) (d : PReg) (a : VReg) (b : SrcB)
  /-- FRND (R173). -/
  | frnd (c : Ctl) (rm : Rm) (d : VReg) (b : SrcB)
  /-- FRCP (R174). -/
  | frcp (c : Ctl) (d : VReg) (b : SrcB)
  /-- FRSQ (R174). -/
  | frsq (c : Ctl) (d : VReg) (b : SrcB)
  /-- FSQRT (R174). -/
  | fsqrt (c : Ctl) (d : VReg) (b : SrcB)
  /-- FEX2 (R174). -/
  | fex2 (c : Ctl) (d : VReg) (b : SrcB)
  /-- FLG2 (R174). -/
  | flg2 (c : Ctl) (d : VReg) (b : SrcB)
  /-- FSIN (R174). -/
  | fsin (c : Ctl) (d : VReg) (b : SrcB)
  /-- FCOS (R174). -/
  | fcos (c : Ctl) (d : VReg) (b : SrcB)
  /-- HADD2 (R175). -/
  | hadd2 (c : Ctl) (bf : Bool) (d : VReg) (a : VReg) (b : SrcB)
  /-- HMUL2 (R175). -/
  | hmul2 (c : Ctl) (bf : Bool) (d : VReg) (a : VReg) (b : SrcB)
  /-- HFMA2 (R175). -/
  | hfma2 (c : Ctl) (bf : Bool) (d : VReg) (a : VReg) (b : SrcB) (x : VReg)
  /-- HMINMAX2 (R175). -/
  | hminmax2 (c : Ctl) (bf : Bool) (mx : Bool) (d : VReg) (a : VReg) (b : SrcB)
  /-- HCMP2 (R176). -/
  | hcmp2 (c : Ctl) (bf : Bool) (cond : Cond) (cmb : Comb) (d : PReg) (a : VReg) (b : SrcB)
  /-- CVT (R178). -/
  | cvt (c : CvCtl) (d a : VReg) (sf df : Fmt)
  /-- CVTPK (R179). -/
  | cvtpk (c : CvCtl) (d a : VReg) (df : Fmt)
  /-- CVTUP (R179). -/
  | cvtup (c : CvCtl) (d a : VReg) (sf : Fmt)
  /-- SCALEQ (R180). -/
  | scaleq (c : CvCtl) (d a : VReg) (df : Fmt) (ss : VReg)
  /-- DESCALE (R180). -/
  | descale (c : CvCtl) (d a : VReg) (sf : Fmt) (ss : VReg)
  /-- DP4 (R181). -/
  | dp4 (c : Ctl) (sat : Bool) (ua : Bool) (ub : Bool) (d : VReg) (a : VReg) (b : SrcB) (x : VReg)
  /-- DP8 (R181). -/
  | dp8 (c : Ctl) (sat : Bool) (ua : Bool) (ub : Bool) (d : VReg) (a : VReg) (b : SrcB) (x : VReg)
  /-- DP2H (R181). -/
  | dp2h (c : Ctl) (bf : Bool) (d : VReg) (a : VReg) (b : SrcB) (x : VReg)
  /-- SHFL (R183). -/
  | shfl (c : Ctl) (mode : ShflMode) (d : VReg) (a : VReg) (b : SrcB) (mm : VReg)
  /-- VOTE (R184). -/
  | vote (c : Ctl) (mode : VoteMode) (d : BitVec 8) (p : PReg) (mm : VReg)
  /-- REDL (R185). -/
  | redl (c : Ctl) (op : RedOp) (d : VReg) (p : PReg) (b : VReg) (mm : VReg)
  /-- SCANL (R185). -/
  | scanl (c : Ctl) (op : RedOp) (excl : Bool) (d : VReg) (p : PReg) (b : VReg) (mm : VReg)
  /-- MATCH (R186). -/
  | matchl (c : Ctl) (w64 : Bool) (d : VReg) (b : VReg) (mm : VReg)
  /-- ELECT (R187). -/
  | elect (c : Ctl) (d : PReg) (mm : VReg)
  /-- ACTMASK (R188). -/
  | actmask (c : Ctl) (d : VReg) (mm : VReg)
  /-- BRA (R189). -/
  | bra (g : Grd) (imm : Word)
  /-- BRP (R189). -/
  | brp (g : Grd) (p : PReg) (imm : Word)
  /-- CALL (R189). -/
  | call (g : Grd) (d : VReg) (imm : Word)
  /-- BRX (R190). -/
  | brx (c : Ctl) (b : VReg)
  /-- CALLI (R190). -/
  | calli (c : Ctl) (d : VReg) (b : VReg)
  /-- RET (R190). -/
  | ret (c : Ctl) (b : VReg)
  /-- EXIT (R191). -/
  | exit (c : Ctl)
  /-- YIELD (R192). -/
  | yield_ (c : Ctl)
  /-- SLEEPN (R193). -/
  | sleepn (c : Ctl) (b : SrcB)
  /-- SLEEPN_DEADLINE (R193). -/
  | sleepnDeadline (flight : Nat)
  /-- LNMARK (R194). -/
  | lnmark (c : Ctl) (b : SrcB)
  /-- RBACQ (R195). -/
  | rbacq (c : Ctl) (d : PReg) (b : SrcB)
  /-- RBREL (R195). -/
  | rbrel (c : Ctl) (b : SrcB)
  /-- RBQRY (R195). -/
  | rbqry (c : Ctl) (d : VReg)
  /-- KDECL (R196). -/
  | kdecl (c : Ctl) (k : KReg) (a : VReg) (b : SrcB)
  /-- SIGN (R197). -/
  | sign (c : Ctl) (d : VReg) (k : KReg)
  /-- WAITK (R198). -/
  | waitk (c : Ctl) (k : KReg) (b : SrcB)
  /-- LD (R202). -/
  | ld (c : Ctl) (w : Width) (sx : Bool) (data : VReg) (addr : VReg) (off : BitVec 14) (scope : BitVec 3)
  /-- ST (R202). -/
  | st (c : Ctl) (w : Width) (data : VReg) (addr : VReg) (off : BitVec 14) (scope : BitVec 3)
  /-- LDB (R202). -/
  | ldb (c : Ctl) (w : Width) (sx : Bool) (data : VReg) (dn : DReg) (i : VReg) (scope : BitVec 3)
  /-- STB (R202). -/
  | stb (c : Ctl) (w : Width) (data : VReg) (dn : DReg) (i : VReg) (scope : BitVec 3)
  /-- LDS (R204). -/
  | lds (c : Ctl) (w : Width) (sx : Bool) (data : VReg) (addr : VReg) (off : BitVec 14) (scope : BitVec 3)
  /-- STS (R204). -/
  | sts (c : Ctl) (w : Width) (data : VReg) (addr : VReg) (off : BitVec 14) (scope : BitVec 3)
  /-- LDC (R205). -/
  | ldc (c : Ctl) (w : Width) (sx : Bool) (data : VReg) (addr : VReg) (off : BitVec 14) (scope : BitVec 3)
  /-- STC (R205). -/
  | stc (c : Ctl) (w : Width) (data : VReg) (addr : VReg) (off : BitVec 14) (scope : BitVec 3)
  /-- PREF (R206). -/
  | pref (c : Ctl) (addr : VReg) (off : BitVec 14)
  /-- TAGST (R207). -/
  | tagst (c : Ctl) (data addr : VReg) (off : BitVec 14) (scope : BitVec 3)
  /-- TAGLD (R207). -/
  | tagld (c : Ctl) (data addr : VReg) (off : BitVec 14) (scope : BitVec 3)
  /-- DLOAD (R208). -/
  | dload (c : Ctl) (dn : DReg) (addr : VReg) (off : BitVec 14) (scope : BitVec 3)
  /-- DQRY (R209). -/
  | dqry (c : Ctl) (d : VReg) (dn : DReg) (b : SrcB)
  /-- CPY (R211). -/
  | cpy (c : Ctl) (s2g : Bool) (gather : Bool) (esz : BitVec 3) (a : VReg) (b : SrcB) (x : VReg)
  /-- CPYG (R211). -/
  | cpyg (c : Ctl) (gather : Bool) (esz : BitVec 3) (a : VReg) (b : SrcB) (x : VReg)
  /-- CPYT (R213). -/
  | cpyt (c : Ctl) (s2t : Bool) (dn : DReg) (b : SrcB) (x : VReg)
  /-- COPY_ROOM (R214). -/
  | copyRoom (thread : Nat)
  /-- COPY_LINE_LANDS (R72). -/
  | copyLineLands (copy : Nat)
  /-- COPY_COMPLETE (R102). -/
  | copyComplete (copy : Nat)
  /-- DISCT (R215). -/
  | disct (c : Ctl) (b : SrcB)
  /-- CACHEOP_WB (R216). -/
  | cacheopWb (c : Ctl) (a : VReg) (b : SrcB)
  /-- CACHEOP_WBINV (R216). -/
  | cacheopWbinv (c : Ctl) (a : VReg) (b : SrcB)
  /-- CACHEOP_ICINV (R216). -/
  | cacheopIcinv (c : Ctl) (a : VReg) (b : SrcB)
  /-- TEXS (R220). -/
  | texs (c : Ctl) (d : VReg) (a : VReg) (b : SrcB) (dn : DReg)
  /-- TEXL (R220). -/
  | texl (c : Ctl) (d : VReg) (a : VReg) (b : SrcB) (dn : DReg)
  /-- TEXF (R222). -/
  | texf (c : Ctl) (d : VReg) (a : VReg) (dn : DReg)
  /-- SURFST (R222). -/
  | surfst (c : Ctl) (a : VReg) (b : VReg) (dn : DReg)
  /-- ATOM (R224). -/
  | atom (c : Ctl) (w64 : Bool) (op : AtomOp) (data : VReg) (ad : MAddr) (scope : BitVec 3)
  /-- ATOMC (R225). -/
  | atomc (c : Ctl) (w64 : Bool) (data : VReg) (ad : MAddr) (scope : BitVec 3)
  /-- RED (R226). -/
  | red (c : Ctl) (w64 : Bool) (op : AtomOp) (data : VReg) (ad : MAddr) (scope : BitVec 3)
  /-- COUCHED_APPLY (R107). -/
  | couchedApply (lid : Nat)
  /-- WAITC (R229). -/
  | waitc (c : Ctl) (w64 : Bool) (cond : Cond) (u : Bool) (data addr : VReg) (off : BitVec 14) (scope : BitVec 3)
  /-- MONITOR_WAKE (R96). -/
  | monitorWake (thread : Nat)
  /-- WAITC_TIMEOUT (R96). -/
  | waitcTimeout (thread : Nat)
  /-- MONITOR_REEVALUATE (R96). -/
  | monitorReevaluate (thread : Nat)
  /-- FENCE_ACQ (R230). -/
  | fenceAcq (c : Ctl) (scope : BitVec 3)
  /-- FENCE_REL (R230). -/
  | fenceRel (c : Ctl) (scope : BitVec 3)
  /-- FENCE_AR (R230). -/
  | fenceAr (c : Ctl) (scope : BitVec 3)
  /-- FENCE_REF (R230). -/
  | fenceRef (c : Ctl) (scope : BitVec 3)
  /-- TIME (R231). -/
  | time (c : Ctl) (d : VReg)
  /-- BAR (R232). -/
  | bar (c : Ctl) (n : BitVec 4) (b : SrcB)
  /-- BARC (R233). -/
  | barc (c : Ctl)
  /-- BARG (R233). -/
  | barg (c : Ctl)
  /-- OSENTER (R236). -/
  | osenter (c : Ctl) (d : PReg) (a : VReg) (b : SrcB)
  /-- OSLEAVE (R237). -/
  | osleave (c : Ctl) (a : VReg)
  /-- OSABORT (R237). -/
  | osabort (c : Ctl) (a : VReg)
  /-- OSSTAT (R238). -/
  | osstat (c : Ctl) (clrp : Bool) (d : VReg) (a : VReg)
  /-- LAUNCH (R239). -/
  | launch (c : Ctl) (a : VReg) (b : SrcB)
  /-- AMSEND (R240). -/
  | amsend (c : Ctl) (a : VReg) (b : SrcB)
  /-- AMDONE (R242). -/
  | amdone (c : Ctl)
  /-- MESSAGE_HANDLER_SPAWN (R241). -/
  | messageHandlerSpawn (msg slice : Nat)
  /-- MMA (R247). -/
  | mma (c : Ctl) (f : BitVec 3) (reuse : Bool) (x : CReg) (a : VReg) (b : VReg) (k : KReg)
  /-- MMAC (R252). -/
  | mmac (c : Ctl) (f : BitVec 3) (reuse : Bool) (x : CReg) (a : VReg) (b : VReg) (k : KReg)
  /-- MATRIX_PASS (R254). -/
  | matrixPass (engine : Nat)
  /-- RESERVATION_RAISE (R254). -/
  | reservationRaise (engine entry : Nat)
  /-- ACCZ (R255). -/
  | accz (c : Ctl) (x : CReg)
  /-- ACCLD (R255). -/
  | accld (c : Ctl) (f : BitVec 3) (x : CReg) (b : SrcB)
  /-- ACCST (R255). -/
  | accst (c : Ctl) (f : BitVec 3) (x : CReg) (b : SrcB)
  /-- ACCRD (R255). -/
  | accrd (c : Ctl) (d : VReg) (x : CReg) (b : SrcB)
  /-- ACCWR (R255). -/
  | accwr (c : Ctl) (x : CReg) (a : VReg) (b : SrcB)
  /-- MPERM (R256). -/
  | mperm (c : Ctl) (f : BitVec 3) (d : VReg) (b : SrcB)
  /-- FMTQ (R257). -/
  | fmtq (c : Ctl) (f : BitVec 3) (x : CReg) (b : SrcB)
  /-- EQOPEN (R261). -/
  | eqopen (c : Ctl) (d : VReg) (a : VReg)
  /-- UNITE (R262). -/
  | unite (c : Ctl) (d : VReg) (a : VReg) (b : SrcB) (x : VReg)
  /-- FIND (R261). -/
  | find (c : Ctl) (d : VReg) (a : VReg) (x : VReg)
  /-- EQSIZE (R261). -/
  | eqsize (c : Ctl) (d : VReg) (a : VReg) (x : VReg)
  /-- RELABEL (R264). -/
  | relabel (c : Ctl) (op : RelOp) (d : VReg) (a : VReg) (x : VReg)
  /-- EQSNAP (R263). -/
  | eqsnap (c : Ctl) (b : SrcB) (x : VReg)
  /-- EQUNDO (R263). -/
  | equndo (c : Ctl) (x : VReg)
  /-- EQCLOSE (R261). -/
  | eqclose (c : Ctl) (x : VReg)
  /-- EQV_APPLY (R259). -/
  | eqvApply (request : Nat)
  /-- TRACE (R269). -/
  | trace (c : Ctl) (d : VReg) (a : VReg) (b : VReg)
  /-- RAY_COMPLETE (R269). -/
  | rayComplete (ray : Nat)
  /-- SHADER_GROUP_SPAWN (R342). -/
  | shaderGroupSpawn (ray core slice : Nat)
  /-- TRWAIT (R269). -/
  | trwait (c : Ctl) (d : VReg) (b : SrcB)
  /-- TRHIT_GET (R270). -/
  | trhitGet (c : Ctl) (d : VReg)
  /-- TRHIT_RET (R270). -/
  | trhitRet (c : Ctl) (b : SrcB)
  /-- BOXT (R271). -/
  | boxt (c : Ctl) (d : VReg) (a : VReg) (b : VReg)
  /-- TRIT (R272). -/
  | trit (c : Ctl) (cb : Bool) (cf : Bool) (d : VReg) (a : VReg) (b : VReg)
  /-- XFORM (R273). -/
  | xform (c : Ctl) (d : VReg) (a : VReg) (b : VReg)
  /-- SHADOW (R274). -/
  | shadow (c : Ctl) (n : BitVec 2) (a : VReg) (b : VReg) (x : VReg)
  /-- SHADOW_RAY_TEST (R274). -/
  | shadowRayTest (ray : Nat)
  /-- RNG (R275). -/
  | rng (c : Ctl) (n : BitVec 3) (unit : Bool) (d : VReg) (a : VReg) (b : SrcB)
  /-- COLL (R279). -/
  | coll (c : Ctl) (d : VReg) (a : VReg)
  /-- COLLECTIVE_COMPLETE (R279). -/
  | collectiveComplete (coll : Nat) (peers : CollPeers)
  /-- COLLW (R280). -/
  | collw (c : Ctl) (d : VReg) (b : SrcB)
  /-- RESID (R281). -/
  | resid (c : Ctl) (a : VReg) (b : SrcB) (x : VReg)
  /-- GETSR (R284). -/
  | getsr (c : Ctl) (d : VReg) (b : SrcB)
  /-- SETSR (R284). -/
  | setsr (c : Ctl) (n : Bool) (b : SrcB)
  /-- TRAP (R285). -/
  | trap (c : Ctl) (b : SrcB)
  /-- BKPT (R285). -/
  | bkpt (c : Ctl)
  /-- RETT (R285). -/
  | rett (c : Ctl) (b : VReg)
  /-- TLBINV (R286). -/
  | tlbinv (c : Ctl) (a : VReg) (b : SrcB) (x : VReg)
  /-- LPSWEEP (R286). -/
  | lpsweep (c : Ctl) (b : SrcB)
  /-- DIGEST (R288). -/
  | digest (c : Ctl) (d : VReg)
  /-- CTXSAVE (R287). -/
  | ctxsave (c : Ctl) (b : SrcB)
  /-- CTXLOAD (R287). -/
  | ctxload (c : Ctl) (b : SrcB)
  /-- HALT (R287). -/
  | halt (c : Ctl)
  /-- PAIR_FADD (R151). -/
  | pairFadd (g : Grd) (d a b : VReg) (y : POp)
  /-- PAIR_FMUL (R151). -/
  | pairFmul (g : Grd) (d a b : VReg) (y : POp)
  /-- PAIR_FFMA (R151). -/
  | pairFfma (g : Grd) (d a b : VReg) (y : POp)
  /-- PAIR_IADD (R151). -/
  | pairIadd (g : Grd) (d a b : VReg) (y : POp)
  /-- PAIR_AND (R151). -/
  | pairAnd (g : Grd) (d a b : VReg) (y : POp)
  /-- PAIR_OR (R151). -/
  | pairOr (g : Grd) (d a b : VReg) (y : POp)
  /-- PAIR_XOR (R151). -/
  | pairXor (g : Grd) (d a b : VReg) (y : POp)
  /-- PAIR_SHL (R151). -/
  | pairShl (g : Grd) (d a b : VReg) (y : POp)
  /-- PAIR_MOV (R151). -/
  | pairMov (g : Grd) (d a : VReg) (y : POp)
  /-- PAIR_ISEL (R151). -/
  | pairIsel (g : Grd) (d a b : VReg) (y : POp)
  /-- HANDLER_SPAWN (R374). -/
  | handlerSpawn (thread core slice : Nat)
  /-- STORE_WRITEBACK_TIMEOUT (R92). -/
  | storeWritebackTimeout (core line : Nat)
  /-- LINE_EVICTION (R74). -/
  | lineEviction (place : Place) (line : Nat)
  /-- LEASE_EXPIRY (R90). -/
  | leaseExpiry (place : Place) (line : Nat)
  /-- LAUNCH_HEAD_CHECK (R310). -/
  | launchHeadCheck (ctx q : Nat)
  /-- LAUNCH_WAITS_HOLD (R312). -/
  | launchWaitsHold (ctx q : Nat)
  /-- PLACE_CLUSTER (R314). -/
  | placeCluster (lid core : Nat)
  /-- TILE_JOB (R332). -/
  | tileJob (tile : Nat)
  /-- PLACEMENT_RESERVATION (R453). -/
  | placementReservation (lid : Nat)
  /-- PRIORITY_PREEMPT (R321). -/
  | priorityPreempt (lid : Nat)
  /-- SWAP_OUT (R323). -/
  | swapOut (lid : Nat)
  /-- TIME_SLICE_PREEMPT (R351). -/
  | timeSlicePreempt (ctx : Nat)
  /-- PREEMPT_TEAM (R322). -/
  | preemptTeam (team : Nat)
  /-- RESTORE_TEAM (R324). -/
  | restoreTeam (team core : Nat)
  /-- LAUNCH_COMPLETE (R312). -/
  | launchComplete (lid : Nat)
  /-- ORDERED_STALL (R414). -/
  | orderedStall (lid : Nat)
  /-- TIME_AGREEMENT_CHECK (R409). -/
  | timeAgreementCheck (peerSkews : List Int)
  /-- GUARD_EXIT (R410). -/
  | guardExit (die : Nat)
  /-- DRAM_SCRUB (R443). -/
  | dramScrub (sector : Nat) (check : EccCheck)
  /-- HEALTH_SAMPLE (R356). -/
  | healthSample (die mon : Nat) (value : BitVec 32)
  /-- FAULT_RECORD_WRITE (R404). -/
  | faultRecordWrite (fault : Nat)
  /-- ERROR_RECORD_WRITE (R447). -/
  | errorRecordWrite (err : Nat)
  /-- HOST_APERTURE_ACCESS (R345). -/
  | hostApertureAccess (off : Nat) (acc : HostAcc)
  /-- HOST_SNOOP (R99). -/
  | hostSnoop (line : Nat) (bytes : List (Nat × Byte))
  /-- PEER_REQUEST (R354). -/
  | peerRequest (link pa : Nat) (acc : HostAcc)
  /-- FLIT_CRC_FAIL (R445). -/
  | flitCrcFail (unit : Wire)
  /-- LINK_DOWN (R445). -/
  | linkDown (link : Nat) (cause : Bool)
  /-- PORT_FAILURE (R445). -/
  | portFailure (port : Nat)
  /-- PCIE_LINK_DOWN (R446). -/
  | pcieLinkDown (link : Nat)
  /-- BOOT (R355). -/
  | boot (b : BootIn)
  /-- DOORBELL (R352). -/
  | doorbell (ctx : LinkCtx) (q : Nat) (ptr : BitVec 64)
  /-- CONTEXT_ENABLE (R351). -/
  | contextEnable (ctx : Nat)
  /-- CONTEXT_DISABLE (R351). -/
  | contextDisable (ctx : Nat)
  /-- PLIMIT_WRITE (R353). -/
  | plimitWrite (watts : BitVec 32)
  /-- MONITOR_CLEAR (R356). -/
  | monitorClear (die mon : Nat)
  /-- QUOTE (R355). -/
  | quote
  /-- QUOTE_DONE (R355). -/
  | quoteDone
  /-- KILL (R380). -/
  | kill (ctx : Nat)
  /-- KILL_COMPLETE (R380). -/
  | killComplete (ctx : Nat)
  /-- RESUME (R380). -/
  | resume (ctx : Nat)
  /-- HFRZ_WRITE (R451). -/
  | hfrzWrite (ctx : Nat)
  /-- FAULT_RETRY (R405). -/
  | faultRetry (id : BitVec 32)
  /-- FAULT_FAIL (R405). -/
  | faultFail (id : BitVec 32)
  /-- FAULT_RING_DISABLE (R403). -/
  | faultRingDisable
  /-- ERROR_RETRY (R447). -/
  | errorRetry (id : BitVec 32)
  /-- ERROR_FREEZE (R447). -/
  | errorFreeze (id : BitVec 32)
  /-- ERROR_RING_DISABLE (R447). -/
  | errorRingDisable
  /-- WATCH_WRITE (R422). -/
  | watchWrite (w off : Nat) (value : BitVec 64)
  /-- CBBASE_WRITE (R428). -/
  | cbbaseWrite (value : BitVec 64)
  /-- LCSTAT_CLEAR (R410). -/
  | lcstatClear (die : Nat)
  /-- ERRCNT_CLEAR (R448). -/
  | errcntClear (die : Nat)
  /-- REGISTER_WRITE (R452). -/
  | registerWrite (off width : Nat) (value : BitVec 128)
  /-- IDCODE (R449). -/
  | idcode
  /-- DEBUG_FREEZE (R449). -/
  | debugFreeze
  /-- DEBUG_RELEASE (R450). -/
  | debugRelease
  /-- CHAINSEL (R449). -/
  | chainsel (value : BitVec 32)
  /-- CHAINRD (R449). -/
  | chainrd (bits : Nat)
  /-- BYPASS (R449). -/
  | bypass (code : BitVec 8) (tdi : Bool)
  /-- HALT_MARK_CLEAR (R287). -/
  | haltMarkClear (ctx : Nat)
  /-- HOST_LINK_TRAINED (R446). -/
  | hostLinkTrained (link : Nat) (cxl : Bool)
  /-- SAMPLE_PRELOAD (R449). -/
  | samplePreload (tdi : BitVec 64)
  /-- EXTEST (R449). -/
  | extest (tdi : BitVec 64)
deriving DecidableEq, Repr

end Sys2Proof
end

