-- ==== Sys2Proof/WellFormed.lean ====
section
/-! DEFINITION. Which instructions have an encoding: the checks of R390 step 1 that depend on the word alone, as checks
on the instruction, and the pairing rules of R152. -/

namespace Sys2Proof

/-- The kinds of source B (R143). -/
inductive BKind where
  | v | w | s8 | sr | i24
deriving DecidableEq, Repr

/-- The kind of a source B. -/
def SrcB.kind : SrcB → BKind
  | .v _ => .v | .w _ => .w | .s8 _ => .s8 | .sr _ => .sr | .i24 _ => .i24

/-- An I24 immediate takes the place of SC, LA, QC and QE (R143). -/
def SrcB.isI24 (b : SrcB) : Bool := b.kind == .i24

/-- A V index is a multiple of `n` (R141). -/
def al (n : Nat) (r : BitVec 8) : Bool := r.toNat % n == 0

/-- The unguarded instructions carry PRED 63 and PNEG 0 (R142). -/
def Ctl.unguarded (c : Ctl) : Bool := c.pred == 63#6 && !c.pneg

/-- Source B is of a kind the opcode admits, and an I24 immediate leaves no lookahead or counter field (R143, R154). -/
def SrcB.ok (b : SrcB) (ks : List BKind) (c : Ctl) : Bool :=
  ks.contains b.kind && (!b.isI24 || (c.la == 0#4 && c.qc == 0#3 && !c.qe))

/-- A pair read as source B has an even index (R141, R160). -/
def SrcB.pairOk : SrcB → Bool
  | .v r => al 2 r
  | _ => true

/-- A combine uses SC, so it excludes I24 (R143, R162). -/
def Comb.ok (m : Comb) (b : SrcB) : Bool := m == .none || !b.isI24

/-- Bytes of a width (R202). -/
def Width.bytes : Width → Nat
  | .b8 => 1 | .b16 => 2 | .b32 => 4 | .b64 => 8 | .b128 => 16

/-- Alignment of DATA for a width (R200). -/
def Width.dataOk (w : Width) (d : VReg) : Bool :=
  match w with
  | .b64 => al 2 d
  | .b128 => al 4 d
  | _ => true

/-- SX goes with B8 and B16 only (R202). -/
def Width.narrow (w : Width) : Bool := w == .b8 || w == .b16

/-- An AM 0 address pair has an even index (R148). -/
def MAddr.ok : MAddr → Bool
  | .ptr a _ => al 2 a
  | .desc _ _ => true

/-- The B64 forms of FADD, FMIN and FMAX are reserved, and a B64 operand is a pair (R156, R200). -/
def atomOk (w64 : Bool) (op : AtomOp) (d : VReg) : Bool :=
  !w64 || (al 2 d && op != .fadd && op != .fmin && op != .fmax)

/-- Width of a format in bits (R109). -/
def Fmt.bits : Fmt → Nat
  | .fp32 => 32 | .fp16 => 16 | .bf16 => 16 | .e4m3 => 8 | .e5m2 => 8 | .e2m1 => 4
  | .i8 => 8 | .n8 => 8 | .i4 => 4 | .n4 => 4 | .e8m0 => 8

/-- Elements of a format in one register: the k of R177. -/
def Fmt.pack (f : Fmt) : Nat := 32 / f.bits

/-- The V registers a paired operation reads (R152). -/
def POp.reads (o : POp) : List VReg :=
  match o.op with
  | .mov => [o.pa]
  | .ffma => [o.pa, o.pb, o.pd]
  | _ => [o.pa, o.pb]

/-- The floating-point operations of a pair (R152). -/
def PairOp.fp : PairOp → Bool
  | .fadd => true | .fmul => true | .ffma => true | _ => false

/-- The pairing rules of R152: banks, source ports, opcode class, and PB of MOV. -/
def pairOk (x y : POp) : Bool :=
  x.pd.toNat % 4 != y.pd.toNat % 4
  && decide ((x.reads ++ y.reads).eraseDups.length ≤ 3)
  && (!(x.op.fp && y.op.fp) || (x.op == .ffma && y.op == .ffma))
  && (x.op != .mov || x.pb == 0#8) && (y.op != .mov || y.pb == 0#8)

/-- The instruction has an encoding (R141 to R156, R200, R390 step 1). Events of the device and the host have none and
are always well formed. -/
def Instr.wf (i : Instr) : Bool :=
  match i with
  | .clauseIssue _ _ => true
  | .fairnessOverride _ => true
  | .starvationFlag _ => true
  | .instructionComplete _ => true
  | .nop _ => true
  | .mov c _ b => b.ok [.v, .w, .s8, .sr, .i24] c
  | .movi _ _ _ => true
  | .movw c _ b => b.ok [.v, .s8, .sr, .i24] c
  | .iadd c _ _ _ _ b => b.ok [.v, .w, .s8, .sr, .i24] c
  | .isub c _ _ _ _ b => b.ok [.v, .w, .s8, .sr, .i24] c
  | .iaddc c _ _ _ b => b.ok [.v, .w, .s8, .sr, .i24] c
  | .imul c _ _ _ _ b => b.ok [.v, .w, .s8, .sr, .i24] c
  | .imulh c _ _ _ b => b.ok [.v, .w, .s8, .sr, .i24] c
  | .imad c _ _ _ _ b _ => b.ok [.v, .w, .s8, .sr] c
  | .imin c _ _ _ b => b.ok [.v, .w, .s8, .sr, .i24] c
  | .imax c _ _ _ b => b.ok [.v, .w, .s8, .sr, .i24] c
  | .iabs c _ b => b.ok [.v, .w, .s8, .sr, .i24] c
  | .iadd64 c _ _ d a b => al 2 d && al 2 a && b.ok [.v, .w, .s8, .sr, .i24] c && b.pairOk
  | .imad64 c _ _ d _ b x => al 2 d && b.ok [.v, .w, .s8, .sr] c && al 2 x
  | .lea c _ d a b => al 2 d && al 2 a && b.ok [.v, .w, .s8, .sr, .i24] c
  | .icmp c _ _ cmb _ _ b => b.ok [.v, .w, .s8, .sr, .i24] c && cmb.ok b
  | .isel c _ _ _ b => b.ok [.v, .w, .s8, .sr, .i24] c
  | .land c _ _ b => b.ok [.v, .w, .s8, .sr, .i24] c
  | .lor c _ _ b => b.ok [.v, .w, .s8, .sr, .i24] c
  | .lxor c _ _ b => b.ok [.v, .w, .s8, .sr, .i24] c
  | .landn c _ _ b => b.ok [.v, .w, .s8, .sr, .i24] c
  | .lnot c _ b => b.ok [.v, .w, .s8, .sr, .i24] c
  | .shl c _ _ b => b.ok [.v, .w, .s8, .sr, .i24] c
  | .shr c _ _ b => b.ok [.v, .w, .s8, .sr, .i24] c
  | .sar c _ _ b => b.ok [.v, .w, .s8, .sr, .i24] c
  | .rot c _ _ b => b.ok [.v, .w, .s8, .sr, .i24] c
  | .bfe c _ _ _ b _ => b.ok [.v, .w, .s8, .sr] c
  | .bfi c _ _ b _ => b.ok [.v, .w, .s8, .sr] c
  | .popc c _ b => b.ok [.v, .w, .s8, .sr, .i24] c
  | .clz c _ b => b.ok [.v, .w, .s8, .sr, .i24] c
  | .brev c _ b => b.ok [.v, .w, .s8, .sr, .i24] c
  | .perm c _ _ b _ => b.ok [.v, .w, .s8, .sr] c
  | .plop _ _ _ _ _ _ => true
  | .pmov _ _ => true
  | .fadd c _ _ _ b => b.ok [.v, .w, .s8, .sr, .i24] c
  | .fsub c _ _ _ b => b.ok [.v, .w, .s8, .sr, .i24] c
  | .fmul c _ _ _ b => b.ok [.v, .w, .s8, .sr, .i24] c
  | .ffma c _ _ _ _ b _ => b.ok [.v, .w, .s8, .sr] c
  | .fmin c _ _ b => b.ok [.v, .w, .s8, .sr, .i24] c
  | .fmax c _ _ b => b.ok [.v, .w, .s8, .sr, .i24] c
  | .fclamp c _ _ b _ => b.ok [.v, .w, .s8, .sr] c
  | .fcmp c _ cmb _ _ b => b.ok [.v, .w, .s8, .sr, .i24] c && cmb.ok b
  | .frnd c _ _ b => b.ok [.v, .w, .s8, .sr, .i24] c
  | .frcp c _ b => b.ok [.v, .w, .s8, .sr] c
  | .frsq c _ b => b.ok [.v, .w, .s8, .sr] c
  | .fsqrt c _ b => b.ok [.v, .w, .s8, .sr] c
  | .fex2 c _ b => b.ok [.v, .w, .s8, .sr] c
  | .flg2 c _ b => b.ok [.v, .w, .s8, .sr] c
  | .fsin c _ b => b.ok [.v, .w, .s8, .sr] c
  | .fcos c _ b => b.ok [.v, .w, .s8, .sr] c
  | .hadd2 c _ _ _ b => b.ok [.v, .w, .s8, .sr] c
  | .hmul2 c _ _ _ b => b.ok [.v, .w, .s8, .sr] c
  | .hfma2 c _ _ _ b _ => b.ok [.v, .w, .s8, .sr] c
  | .hminmax2 c _ _ _ _ b => b.ok [.v, .w, .s8, .sr] c
  | .hcmp2 c _ _ cmb d _ b => decide (d.toNat ≤ 62) && b.ok [.v, .w, .s8, .sr] c && cmb.ok b
  | .cvt _ _ _ _ _ => true
  | .cvtpk _ _ a df => df != .fp32 && al df.pack a
  | .cvtup _ d _ sf => sf != .fp32 && al sf.pack d
  | .scaleq _ _ a df _ => df != .fp32 && al df.pack a
  | .descale _ d _ sf _ => sf != .fp32 && al sf.pack d
  | .dp4 c _ _ _ _ _ b _ => b.ok [.v, .w, .sr] c
  | .dp8 c _ _ _ _ _ b _ => b.ok [.v, .w, .sr] c
  | .dp2h c _ _ _ b _ => b.ok [.v, .w, .sr] c
  | .shfl c _ _ _ b _ => c.unguarded && b.ok [.v, .s8] c
  | .vote c mode d _ _ => c.unguarded && (mode == .ballot || decide (d.toNat < 64))
  | .redl c _ _ _ _ _ => c.unguarded
  | .scanl c _ _ _ _ _ _ => c.unguarded
  | .matchl c w64 _ b _ => c.unguarded && (!w64 || al 2 b)
  | .elect c _ _ => c.unguarded
  | .actmask c _ _ => c.unguarded
  | .bra _ _ => true
  | .brp _ _ _ => true
  | .call _ d _ => al 2 d
  | .brx _ b => al 2 b
  | .calli _ d b => al 2 d && al 2 b
  | .ret _ b => al 2 b
  | .exit _ => true
  | .yield_ _ => true
  | .sleepn c b => b.ok [.v, .s8] c
  | .sleepnDeadline _ => true
  | .lnmark c b => b.ok [.v, .s8] c
  | .rbacq c _ b => b.ok [.v, .s8] c
  | .rbrel c b => b.ok [.v, .s8] c
  | .rbqry _ _ => true
  | .kdecl c _ _ b => c.unguarded && b.ok [.v, .w] c
  | .sign c _ _ => c.unguarded
  | .waitk c _ b => c.unguarded && b.ok [.v, .w] c
  | .ld _ w sx data addr _ _ => al 2 addr && w.dataOk data && (!sx || w.narrow)
  | .st _ w data addr _ _ => al 2 addr && w.dataOk data
  | .ldb _ w sx data _ _ _ => w.dataOk data && (!sx || w.narrow)
  | .stb _ w data _ _ _ => w.dataOk data
  | .lds _ w sx data _ _ scope => w.dataOk data && (!sx || w.narrow) && decide (scope.toNat ≤ 1)
  | .sts _ w data _ _ scope => w.dataOk data && decide (scope.toNat ≤ 1)
  | .ldc _ w sx data _ _ scope => w.dataOk data && (!sx || w.narrow) && decide (scope.toNat ≤ 2)
  | .stc _ w data _ _ scope => w.dataOk data && decide (scope.toNat ≤ 2)
  | .pref _ addr _ => al 2 addr
  | .tagst _ _ addr _ scope => al 2 addr && decide (scope.toNat ≤ 1)
  | .tagld _ _ addr _ scope => al 2 addr && decide (scope.toNat ≤ 1)
  | .dload _ _ addr _ _ => al 2 addr
  | .dqry c _ _ b => b.ok [.v, .w, .s8] c
  | .cpy c s2g gather esz a b _ => al 2 a && b.ok [.v, .w, .s8] c && (gather || esz == 0#3) && esz != 7#3 && (!gather || al 4 a) && !(gather && s2g)
  | .cpyg c gather esz a b x => al 2 a && b.ok [.v, .w, .s8] c && al 2 x && (gather || esz == 0#3) && esz != 7#3 && (!gather || al 4 a)
  | .cpyt c _ _ b x => b.ok [.v, .w, .s8] c && al 4 x
  | .copyRoom _ => true
  | .copyLineLands _ => true
  | .copyComplete _ => true
  | .disct c b => b.ok [.v, .w, .s8] c
  | .cacheopWb c a b => al 2 a && b.ok [.v, .w, .s8] c
  | .cacheopWbinv c a b => al 2 a && b.ok [.v, .w, .s8] c
  | .cacheopIcinv c a b => al 2 a && b.ok [.v, .w, .s8] c
  | .texs c d _ b _ => al 4 d && b.ok [.v, .w, .s8] c
  | .texl c d _ b _ => al 4 d && b.ok [.v, .w, .s8] c
  | .texf _ d _ _ => al 4 d
  | .surfst _ _ _ _ => true
  | .atom _ w64 op data ad _ => ad.ok && atomOk w64 op data
  | .atomc _ w64 data ad _ => ad.ok && al (if w64 then 4 else 2) data
  | .red _ w64 op data ad _ => ad.ok && atomOk w64 op data && op != .xchg
  | .couchedApply _ => true
  | .waitc _ _ _ _ data addr _ _ => al 2 addr && al 4 data
  | .monitorWake _ => true
  | .waitcTimeout _ => true
  | .monitorReevaluate _ => true
  | .fenceAcq _ _ => true
  | .fenceRel _ _ => true
  | .fenceAr _ _ => true
  | .fenceRef _ _ => true
  | .time _ d => al 2 d
  | .bar c _ b => c.unguarded && b.ok [.v, .w, .s8] c
  | .barc c => c.unguarded
  | .barg c => c.unguarded
  | .osenter c _ a b => c.unguarded && al 2 a && b.ok [.v, .w, .s8] c
  | .osleave c a => c.unguarded && al 2 a
  | .osabort c a => c.unguarded && al 2 a
  | .osstat _ _ d a => al 2 d && al 2 a
  | .launch c a b => al 2 a && b.ok [.v, .w] c
  | .amsend c _ b => b.ok [.v, .w] c
  | .amdone _ => true
  | .messageHandlerSpawn _ _ => true
  | .mma c _ _ x a b _ => c.unguarded && decide (x.toNat < 48) && al 16 a && al 4 b
  | .mmac c _ _ x a b _ => c.unguarded && decide (x.toNat < 48) && al 16 a && al 8 b
  | .matrixPass _ => true
  | .reservationRaise _ _ => true
  | .accz _ x => decide (x.toNat < 48)
  | .accld c _ x b => decide (x.toNat < 48) && b.ok [.v, .w, .s8] c
  | .accst c _ x b => decide (x.toNat < 48) && b.ok [.v, .w, .s8] c
  | .accrd c d x b => al 16 d && decide (x.toNat < 48) && b.ok [.v, .w, .s8] c
  | .accwr c x a b => decide (x.toNat < 48) && al 16 a && b.ok [.v, .w, .s8] c
  | .mperm c _ _ b => b.ok [.v, .w, .s8] c
  | .fmtq c _ x b => decide (x.toNat < 48) && b.ok [.v, .w, .s8] c
  | .eqopen _ _ a => al 2 a
  | .unite c _ _ b _ => b.ok [.v, .w, .s8] c
  | .find _ _ _ _ => true
  | .eqsize _ _ _ _ => true
  | .relabel _ _ _ a _ => al 2 a
  | .eqsnap c b _ => b.ok [.v, .w, .s8] c
  | .equndo _ _ => true
  | .eqclose _ _ => true
  | .eqvApply _ => true
  | .trace _ _ a b => al 8 a && al 4 b
  | .rayComplete _ => true
  | .shaderGroupSpawn _ _ _ => true
  | .trwait c d b => al 8 d && b.ok [.v, .w, .s8] c
  | .trhitGet _ d => al 16 d
  | .trhitRet c b => b.ok [.v, .w, .s8] c
  | .boxt _ _ a b => al 8 a && al 2 b
  | .trit _ _ _ _ a b => al 8 a && al 2 b
  | .xform _ d a b => al 8 d && al 8 a && al 2 b
  | .shadow _ _ a b _ => al 8 a && al 4 b
  | .shadowRayTest _ => true
  | .rng c _ _ _ _ b => b.ok [.v, .w, .s8] c
  | .coll _ _ a => al 2 a
  | .collectiveComplete _ _ => true
  | .collw c _ b => b.ok [.v, .w] c
  | .resid c a b _ => al 2 a && b.ok [.v, .w] c
  | .getsr c _ b => b.ok [.v, .w, .s8, .sr] c
  | .setsr c _ b => b.ok [.v, .w, .s8, .sr] c
  | .trap c b => b.ok [.v, .w, .s8, .sr] c
  | .bkpt _ => true
  | .rett _ b => al 2 b
  | .tlbinv c a b _ => al 2 a && b.ok [.v, .w, .s8, .sr] c
  | .lpsweep c b => b.ok [.v, .w, .s8, .sr] c
  | .digest _ d => al 8 d
  | .ctxsave c b => b.ok [.v, .w, .s8, .sr] c
  | .ctxload c b => b.ok [.v, .w, .s8, .sr] c
  | .halt _ => true
  | .pairFadd _ d a b y => pairOk ⟨.fadd, d, a, b⟩ y
  | .pairFmul _ d a b y => pairOk ⟨.fmul, d, a, b⟩ y
  | .pairFfma _ d a b y => pairOk ⟨.ffma, d, a, b⟩ y
  | .pairIadd _ d a b y => pairOk ⟨.iadd, d, a, b⟩ y
  | .pairAnd _ d a b y => pairOk ⟨.and, d, a, b⟩ y
  | .pairOr _ d a b y => pairOk ⟨.or, d, a, b⟩ y
  | .pairXor _ d a b y => pairOk ⟨.xor, d, a, b⟩ y
  | .pairShl _ d a b y => pairOk ⟨.shl, d, a, b⟩ y
  | .pairMov _ d a y => pairOk ⟨.mov, d, a, 0⟩ y
  | .pairIsel _ d a b y => pairOk ⟨.isel, d, a, b⟩ y
  | .handlerSpawn _ _ _ => true
  | .storeWritebackTimeout _ _ => true
  | .lineEviction _ _ => true
  | .leaseExpiry _ _ => true
  | .launchHeadCheck _ _ => true
  | .launchWaitsHold _ _ => true
  | .placeCluster _ _ => true
  | .tileJob _ => true
  | .placementReservation _ => true
  | .priorityPreempt _ => true
  | .swapOut _ => true
  | .timeSlicePreempt _ => true
  | .preemptTeam _ => true
  | .restoreTeam _ _ => true
  | .launchComplete _ => true
  | .orderedStall _ => true
  | .timeAgreementCheck _ => true
  | .guardExit _ => true
  | .dramScrub _ _ => true
  | .healthSample _ _ _ => true
  | .faultRecordWrite _ => true
  | .errorRecordWrite _ => true
  | .hostApertureAccess _ _ => true
  | .hostSnoop _ _ => true
  | .peerRequest _ _ _ => true
  | .flitCrcFail _ => true
  | .linkDown _ _ => true
  | .portFailure _ => true
  | .pcieLinkDown _ => true
  | .boot _ => true
  | .doorbell _ _ _ => true
  | .contextEnable _ => true
  | .contextDisable _ => true
  | .plimitWrite _ => true
  | .monitorClear _ _ => true
  | .quote => true
  | .quoteDone => true
  | .kill _ => true
  | .killComplete _ => true
  | .resume _ => true
  | .hfrzWrite _ => true
  | .faultRetry _ => true
  | .faultFail _ => true
  | .faultRingDisable => true
  | .errorRetry _ => true
  | .errorFreeze _ => true
  | .errorRingDisable => true
  | .watchWrite _ _ _ => true
  | .cbbaseWrite _ => true
  | .lcstatClear _ => true
  | .errcntClear _ => true
  | .registerWrite _ _ _ => true
  | .idcode => true
  | .debugFreeze => true
  | .debugRelease => true
  | .chainsel _ => true
  | .chainrd _ => true
  | .bypass _ _ => true
  | .haltMarkClear _ => true
  | .hostLinkTrained _ _ => true
  | .samplePreload _ => true
  | .extest _ => true

end Sys2Proof
end

