-- ==== Sys2Proof/Decode.lean ====
section
/-! DEFINITION. Decoding of instruction words (R139 to R156) and, after it, the encoder. -/

namespace Sys2Proof

/-! The forms as plain fields -/

/-- The standard form (R140). -/
structure StdW where
  op   : BitVec 8
  sub  : BitVec 6
  pred : PReg
  pneg : Bool
  dst  : BitVec 8
  sa   : BitVec 8
  sb   : BitVec 8
  sc   : BitVec 8
  la   : BitVec 4
  qc   : BitVec 3
  qe   : Bool
  kind : BitVec 3
deriving DecidableEq, Repr

/-- The memory form (R147). -/
structure MemW where
  op    : BitVec 8
  sub   : BitVec 6
  pred  : PReg
  pneg  : Bool
  data  : BitVec 8
  addr  : BitVec 8
  am    : BitVec 2
  off   : BitVec 14
  la    : BitVec 4
  qc    : BitVec 3
  qe    : Bool
  scope : BitVec 3
deriving DecidableEq, Repr

/-- The conversion form (R149). -/
structure ConvW where
  op      : BitVec 8
  slot    : BitVec 3
  rm      : BitVec 2
  useslot : Bool
  pred    : PReg
  pneg    : Bool
  dst     : BitVec 8
  sa      : BitVec 8
  sfmt    : BitVec 4
  dfmt    : BitVec 4
  ss      : BitVec 8
  ovf     : BitVec 2
  z2      : BitVec 2
  qc      : BitVec 3
  qe      : Bool
  z3      : BitVec 3
deriving DecidableEq, Repr

/-- The paired form (R150). -/
structure PairW where
  g    : PReg
  gneg : Bool
  z    : Bool
  xop  : BitVec 4
  xpd  : BitVec 8
  xpa  : BitVec 8
  xpb  : BitVec 8
  yop  : BitVec 4
  ypd  : BitVec 8
  ypa  : BitVec 8
  ypb  : BitVec 8
deriving DecidableEq, Repr

/-- Bits `lo` to `lo + n - 1` of a word. -/
abbrev bits (w : DWord) (lo n : Nat) : BitVec n := w.extractLsb' lo n

/-- The fields of a standard-form word (R140). -/
def StdW.ofWord (w : DWord) : StdW :=
  { op := bits w 56 8, sub := bits w 50 6, pred := bits w 44 6, pneg := w.getLsbD 43, dst := bits w 35 8,
    sa := bits w 27 8, sb := bits w 19 8, sc := bits w 11 8, la := bits w 7 4, qc := bits w 4 3, qe := w.getLsbD 3,
    kind := bits w 0 3 }

/-- The fields of a memory-form word (R147). -/
def MemW.ofWord (w : DWord) : MemW :=
  { op := bits w 56 8, sub := bits w 50 6, pred := bits w 44 6, pneg := w.getLsbD 43, data := bits w 35 8,
    addr := bits w 27 8, am := bits w 25 2, off := bits w 11 14, la := bits w 7 4, qc := bits w 4 3,
    qe := w.getLsbD 3, scope := bits w 0 3 }

/-- The fields of a conversion-form word (R149). -/
def ConvW.ofWord (w : DWord) : ConvW :=
  { op := bits w 56 8, slot := bits w 53 3, rm := bits w 51 2, useslot := w.getLsbD 50, pred := bits w 44 6,
    pneg := w.getLsbD 43, dst := bits w 35 8, sa := bits w 27 8, sfmt := bits w 23 4, dfmt := bits w 19 4,
    ss := bits w 11 8, ovf := bits w 9 2, z2 := bits w 7 2, qc := bits w 4 3, qe := w.getLsbD 3, z3 := bits w 0 3 }

/-- The fields of a paired word (R150). -/
def PairW.ofWord (w : DWord) : PairW :=
  { g := bits w 58 6, gneg := w.getLsbD 57, z := w.getLsbD 56, xop := bits w 52 4, xpd := bits w 44 8,
    xpa := bits w 36 8, xpb := bits w 28 8, yop := bits w 24 4, ypd := bits w 16 8, ypa := bits w 8 8,
    ypb := bits w 0 8 }

/-! Reading fields -/

/-- A check of the encoding. -/
def need (c : Bool) : Option Unit := if c then some () else none

/-- An index in the low `n` bits of a field whose other bits are zero (R141). -/
def lowBits (n : Nat) (f : BitVec 8) : Option (BitVec n) :=
  if f.toNat < 2 ^ n then some (f.setWidth n) else none

/-- Source B by KIND (R143), of a kind the opcode admits (R154). -/
def StdW.srcB (r : StdW) (ks : List BKind) : Option SrcB :=
  if r.kind == 0#3 then if ks.contains .v then some (.v r.sb) else none
  else if r.kind == 1#3 then if ks.contains .w then (lowBits 6 r.sb).map .w else none
  else if r.kind == 2#3 then if ks.contains .s8 then some (.s8 r.sb) else none
  else if r.kind == 3#3 then if ks.contains .sr then (SReg.ofCode r.sb).map .sr else none
  else if r.kind == 4#3 then
    if ks.contains .i24 then some (.i24 (r.sb ++ r.sc ++ r.la ++ r.qc ++ BitVec.ofBool r.qe)) else none
  else none

/-- Control fields of a standard-form word without an I24 immediate. -/
def StdW.ctl0 (r : StdW) : Ctl := ⟨r.pred, r.pneg, r.la, r.qc, r.qe⟩

/-- Control fields beside a source B: an I24 immediate leaves none but the guard (R143). -/
def StdW.ctl (r : StdW) (b : SrcB) : Ctl := if b.isI24 then ⟨r.pred, r.pneg, 0#4, 0#3, false⟩ else r.ctl0

/-- The combine of ICMP, FCMP and HCMP2 in SUB bits 1:0 with its predicate in SC (R156, R162). -/
def StdW.comb (r : StdW) (b : SrcB) : Option Comb :=
  let k := r.sub.extractLsb' 0 2
  if k == 0#2 then if b.isI24 || r.sc == 0#8 then some .none else none
  else if b.isI24 then none
  else (lowBits 6 r.sc).map fun q => if k == 1#2 then .and q else if k == 2#2 then .or q else .xor q

/-- Combine code (R156). -/
def Comb.code : Comb → BitVec 2
  | .none => 0#2 | .and _ => 1#2 | .or _ => 2#2 | .xor _ => 3#2

/-- SC of a combine (R162). -/
def Comb.field : Comb → BitVec 8
  | .none => 0#8 | .and q => q.setWidth 8 | .or q => q.setWidth 8 | .xor q => q.setWidth 8

/-- The I32 immediate, bits 34:3, of a word of KIND 0b101 (R143). -/
def StdW.imm32 (r : StdW) : Option Word :=
  if r.kind == 5#3 then some (r.sa ++ r.sb ++ r.sc ++ r.la ++ r.qc ++ BitVec.ofBool r.qe) else none

/-- Guard of a standard-form word. -/
def StdW.grd (r : StdW) : Grd := ⟨r.pred, r.pneg⟩

/-- Control fields of a memory-form word. -/
def MemW.ctl (r : MemW) : Ctl := ⟨r.pred, r.pneg, r.la, r.qc, r.qe⟩

/-- D index and the nine zero bits of OFF in AM 1 (R147). -/
def MemW.desc (r : MemW) : Option DReg :=
  if r.am == 1#2 && r.off.extractLsb' 0 9 == 0#9 then some (r.off.extractLsb' 9 5) else none

/-- Memory operand of ATOM, ATOMC and RED (R148). -/
def MemW.maddr (r : MemW) : Option MAddr :=
  if r.am == 0#2 then some (.ptr r.addr r.off) else r.desc.map fun d => .desc d r.addr

/-- Control fields of a conversion word (R149). That any OVF is admitted with USESLOT at 1, where the slot gives the policy, is a
DESIGN CHOICE (log 73): R149 frees SLOT with USESLOT at 0 and says nothing of OVF. -/
def ConvW.ctl (r : ConvW) : Option CvCtl := do
  need (r.z2 == 0#2 && r.z3 == 0#3)
  let rm ← Rm.ofCode r.rm
  some ⟨r.pred, r.pneg, r.slot, rm, r.useslot, r.ovf, r.qc, r.qe⟩

/-- A paired operation; none for a reserved code (R151). -/
def POp.ofFields (op : BitVec 4) (pd pa pb : VReg) : Option POp := (PairOp.ofCode op).map fun o => ⟨o, pd, pa, pb⟩

/-! One decoder for each instruction -/

/-- NOP ignores bits 55:0 (R153). -/
def Dec.nop (w : DWord) : Option Instr := some (.nop (bits w 0 56))

/-- The fields of MOVI (R158). -/
def Dec.movi (r : StdW) : Option Instr := do
  let i ← r.imm32
  need (r.sub == 0#6)
  some (.movi r.grd r.dst i)

/-- The fields of BRA (R189). -/
def Dec.bra (r : StdW) : Option Instr := do
  let i ← r.imm32
  need (r.sub == 0#6 && r.dst == 0#8)
  some (.bra r.grd i)

/-- The fields of BRP (R189). -/
def Dec.brp (r : StdW) : Option Instr := do
  let i ← r.imm32
  need (r.dst == 0#8)
  some (.brp r.grd r.sub i)

/-- The fields of CALL (R189). -/
def Dec.call (r : StdW) : Option Instr := do
  let i ← r.imm32
  need (r.sub == 0#6)
  some (.call r.grd r.dst i)

/-- The fields of PMOV (R169). -/
def Dec.pmov (r : StdW) : Option Instr := do
  need (r.kind == 0#3 && r.sub &&& 15#6 == 0#6 && r.sa == 0#8 && r.sc == 0#8)
  let hi := r.sub.getLsbD 4
  if r.sub.getLsbD 5 then do
    need (r.dst == 0#8)
    some (.pmov r.ctl0 (.load hi r.sb))
  else do
    need (r.sb == 0#8)
    some (.pmov r.ctl0 (.save hi r.dst))

/-- The fields of CVT (R149). -/
def Dec.cvt (r : ConvW) : Option Instr := do
  let c ← r.ctl
  let sf ← Fmt.ofCode r.sfmt
  let df ← Fmt.ofCode r.dfmt
  need (r.ss == 0#8)
  some (.cvt c r.dst r.sa sf df)

/-- The fields of CVTPK (R149). DESIGN CHOICE (log 83), here and in CVTUP, SCALEQ and DESCALE: E8M0 on the side that must be FP32 is
refused with ILLEGAL_OPERAND, as any other format there (R199), and not with FORMAT_SLOT. -/
def Dec.cvtpk (r : ConvW) : Option Instr := do
  let c ← r.ctl
  need (r.sfmt == 0#4 && r.ss == 0#8)
  let df ← Fmt.ofCode r.dfmt
  some (.cvtpk c r.dst r.sa df)

/-- The fields of CVTUP (R149). -/
def Dec.cvtup (r : ConvW) : Option Instr := do
  let c ← r.ctl
  need (r.dfmt == 0#4 && r.ss == 0#8)
  let sf ← Fmt.ofCode r.sfmt
  some (.cvtup c r.dst r.sa sf)

/-- The fields of SCALEQ (R149). -/
def Dec.scaleq (r : ConvW) : Option Instr := do
  let c ← r.ctl
  need (r.sfmt == 0#4)
  let df ← Fmt.ofCode r.dfmt
  some (.scaleq c r.dst r.sa df r.ss)

/-- The fields of DESCALE (R149). -/
def Dec.descale (r : ConvW) : Option Instr := do
  let c ← r.ctl
  need (r.dfmt == 0#4)
  let sf ← Fmt.ofCode r.sfmt
  some (.descale c r.dst r.sa sf r.ss)

/-- The fields of MOV (R158). -/
def Dec.mov (r : StdW) : Option Instr := do
  let b ← r.srcB [.v, .w, .s8, .sr, .i24]
  need (r.sub &&& 63#6 == 0#6)
  need (r.sa == 0#8)
  need (b.isI24 || r.sc == 0#8)
  some (.mov (r.ctl b) r.dst b)

/-- The fields of IABS (R161). -/
def Dec.iabs (r : StdW) : Option Instr := do
  let b ← r.srcB [.v, .w, .s8, .sr, .i24]
  need (r.sub &&& 63#6 == 0#6)
  need (r.sa == 0#8)
  need (b.isI24 || r.sc == 0#8)
  some (.iabs (r.ctl b) r.dst b)

/-- The fields of NOT (R163). -/
def Dec.lnot (r : StdW) : Option Instr := do
  let b ← r.srcB [.v, .w, .s8, .sr, .i24]
  need (r.sub &&& 63#6 == 0#6)
  need (r.sa == 0#8)
  need (b.isI24 || r.sc == 0#8)
  some (.lnot (r.ctl b) r.dst b)

/-- The fields of POPC (R166). -/
def Dec.popc (r : StdW) : Option Instr := do
  let b ← r.srcB [.v, .w, .s8, .sr, .i24]
  need (r.sub &&& 63#6 == 0#6)
  need (r.sa == 0#8)
  need (b.isI24 || r.sc == 0#8)
  some (.popc (r.ctl b) r.dst b)

/-- The fields of CLZ (R166). -/
def Dec.clz (r : StdW) : Option Instr := do
  let b ← r.srcB [.v, .w, .s8, .sr, .i24]
  need (r.sub &&& 63#6 == 0#6)
  need (r.sa == 0#8)
  need (b.isI24 || r.sc == 0#8)
  some (.clz (r.ctl b) r.dst b)

/-- The fields of BREV (R166). -/
def Dec.brev (r : StdW) : Option Instr := do
  let b ← r.srcB [.v, .w, .s8, .sr, .i24]
  need (r.sub &&& 63#6 == 0#6)
  need (r.sa == 0#8)
  need (b.isI24 || r.sc == 0#8)
  some (.brev (r.ctl b) r.dst b)

/-- The fields of MOVW (R158). -/
def Dec.movw (r : StdW) : Option Instr := do
  let b ← r.srcB [.v, .s8, .sr, .i24]
  need (r.sub &&& 63#6 == 0#6)
  let w ← lowBits 6 r.dst
  need (r.sa == 0#8)
  need (b.isI24 || r.sc == 0#8)
  some (.movw (r.ctl b) w b)

/-- The fields of IADD (R159). -/
def Dec.iadd (r : StdW) : Option Instr := do
  let b ← r.srcB [.v, .w, .s8, .sr, .i24]
  need (r.sub &&& 15#6 == 0#6)
  need (b.isI24 || r.sc == 0#8)
  some (.iadd (r.ctl b) (r.sub.getLsbD 5) (r.sub.getLsbD 4) r.dst r.sa b)

/-- The fields of ISUB (R159). -/
def Dec.isub (r : StdW) : Option Instr := do
  let b ← r.srcB [.v, .w, .s8, .sr, .i24]
  need (r.sub &&& 15#6 == 0#6)
  need (b.isI24 || r.sc == 0#8)
  some (.isub (r.ctl b) (r.sub.getLsbD 5) (r.sub.getLsbD 4) r.dst r.sa b)

/-- The fields of IMUL (R159). -/
def Dec.imul (r : StdW) : Option Instr := do
  let b ← r.srcB [.v, .w, .s8, .sr, .i24]
  need (r.sub &&& 15#6 == 0#6)
  need (b.isI24 || r.sc == 0#8)
  some (.imul (r.ctl b) (r.sub.getLsbD 5) (r.sub.getLsbD 4) r.dst r.sa b)

/-- The fields of IADDC (R159). -/
def Dec.iaddc (r : StdW) : Option Instr := do
  let b ← r.srcB [.v, .w, .s8, .sr, .i24]
  need (b.isI24 || r.sc == 0#8)
  some (.iaddc (r.ctl b) (r.sub.extractLsb' 0 6) r.dst r.sa b)

/-- The fields of IMULH (R159). -/
def Dec.imulh (r : StdW) : Option Instr := do
  let b ← r.srcB [.v, .w, .s8, .sr, .i24]
  need (r.sub &&& 31#6 == 0#6)
  need (b.isI24 || r.sc == 0#8)
  some (.imulh (r.ctl b) (r.sub.getLsbD 5) r.dst r.sa b)

/-- The fields of IMAD (R159). -/
def Dec.imad (r : StdW) : Option Instr := do
  let b ← r.srcB [.v, .w, .s8, .sr]
  need (r.sub &&& 15#6 == 0#6)
  some (.imad (r.ctl b) (r.sub.getLsbD 5) (r.sub.getLsbD 4) r.dst r.sa b r.sc)

/-- The fields of IMIN (R161). -/
def Dec.imin (r : StdW) : Option Instr := do
  let b ← r.srcB [.v, .w, .s8, .sr, .i24]
  need (r.sub &&& 31#6 == 0#6)
  need (b.isI24 || r.sc == 0#8)
  some (.imin (r.ctl b) (r.sub.getLsbD 5) r.dst r.sa b)

/-- The fields of IMAX (R161). -/
def Dec.imax (r : StdW) : Option Instr := do
  let b ← r.srcB [.v, .w, .s8, .sr, .i24]
  need (r.sub &&& 31#6 == 0#6)
  need (b.isI24 || r.sc == 0#8)
  some (.imax (r.ctl b) (r.sub.getLsbD 5) r.dst r.sa b)

/-- The fields of IADD64 (R160). -/
def Dec.iadd64 (r : StdW) : Option Instr := do
  let b ← r.srcB [.v, .w, .s8, .sr, .i24]
  need (r.sub &&& 15#6 == 0#6)
  need (b.isI24 || r.sc == 0#8)
  some (.iadd64 (r.ctl b) (r.sub.getLsbD 5) (r.sub.getLsbD 4) r.dst r.sa b)

/-- The fields of IMAD64 (R160). -/
def Dec.imad64 (r : StdW) : Option Instr := do
  let b ← r.srcB [.v, .w, .s8, .sr]
  need (r.sub &&& 15#6 == 0#6)
  some (.imad64 (r.ctl b) (r.sub.getLsbD 5) (r.sub.getLsbD 4) r.dst r.sa b r.sc)

/-- The fields of LEA (R160). -/
def Dec.lea (r : StdW) : Option Instr := do
  let b ← r.srcB [.v, .w, .s8, .sr, .i24]
  need (r.sub &&& 7#6 == 0#6)
  need (b.isI24 || r.sc == 0#8)
  some (.lea (r.ctl b) (r.sub.extractLsb' 3 3) r.dst r.sa b)

/-- The fields of ICMP (R162). -/
def Dec.icmp (r : StdW) : Option Instr := do
  let b ← r.srcB [.v, .w, .s8, .sr, .i24]
  let cond ← Cond.ofCode (r.sub.extractLsb' 3 3)
  let cmb ← r.comb b
  let d ← lowBits 6 r.dst
  some (.icmp (r.ctl b) cond (r.sub.getLsbD 2) cmb d r.sa b)

/-- The fields of ISEL (R162). -/
def Dec.isel (r : StdW) : Option Instr := do
  let b ← r.srcB [.v, .w, .s8, .sr, .i24]
  need (b.isI24 || r.sc == 0#8)
  some (.isel (r.ctl b) (r.sub.extractLsb' 0 6) r.dst r.sa b)

/-- The fields of AND (R163). -/
def Dec.land (r : StdW) : Option Instr := do
  let b ← r.srcB [.v, .w, .s8, .sr, .i24]
  need (r.sub &&& 63#6 == 0#6)
  need (b.isI24 || r.sc == 0#8)
  some (.land (r.ctl b) r.dst r.sa b)

/-- The fields of OR (R163). -/
def Dec.lor (r : StdW) : Option Instr := do
  let b ← r.srcB [.v, .w, .s8, .sr, .i24]
  need (r.sub &&& 63#6 == 0#6)
  need (b.isI24 || r.sc == 0#8)
  some (.lor (r.ctl b) r.dst r.sa b)

/-- The fields of XOR (R163). -/
def Dec.lxor (r : StdW) : Option Instr := do
  let b ← r.srcB [.v, .w, .s8, .sr, .i24]
  need (r.sub &&& 63#6 == 0#6)
  need (b.isI24 || r.sc == 0#8)
  some (.lxor (r.ctl b) r.dst r.sa b)

/-- The fields of ANDN (R163). -/
def Dec.landn (r : StdW) : Option Instr := do
  let b ← r.srcB [.v, .w, .s8, .sr, .i24]
  need (r.sub &&& 63#6 == 0#6)
  need (b.isI24 || r.sc == 0#8)
  some (.landn (r.ctl b) r.dst r.sa b)

/-- The fields of SHL (R164). -/
def Dec.shl (r : StdW) : Option Instr := do
  let b ← r.srcB [.v, .w, .s8, .sr, .i24]
  need (r.sub &&& 63#6 == 0#6)
  need (b.isI24 || r.sc == 0#8)
  some (.shl (r.ctl b) r.dst r.sa b)

/-- The fields of SHR (R164). -/
def Dec.shr (r : StdW) : Option Instr := do
  let b ← r.srcB [.v, .w, .s8, .sr, .i24]
  need (r.sub &&& 63#6 == 0#6)
  need (b.isI24 || r.sc == 0#8)
  some (.shr (r.ctl b) r.dst r.sa b)

/-- The fields of SAR (R164). -/
def Dec.sar (r : StdW) : Option Instr := do
  let b ← r.srcB [.v, .w, .s8, .sr, .i24]
  need (r.sub &&& 63#6 == 0#6)
  need (b.isI24 || r.sc == 0#8)
  some (.sar (r.ctl b) r.dst r.sa b)

/-- The fields of ROT (R164). -/
def Dec.rot (r : StdW) : Option Instr := do
  let b ← r.srcB [.v, .w, .s8, .sr, .i24]
  need (r.sub &&& 63#6 == 0#6)
  need (b.isI24 || r.sc == 0#8)
  some (.rot (r.ctl b) r.dst r.sa b)

/-- The fields of BFE (R165). -/
def Dec.bfe (r : StdW) : Option Instr := do
  let b ← r.srcB [.v, .w, .s8, .sr]
  need (r.sub &&& 31#6 == 0#6)
  some (.bfe (r.ctl b) (r.sub.getLsbD 5) r.dst r.sa b r.sc)

/-- The fields of BFI (R165). -/
def Dec.bfi (r : StdW) : Option Instr := do
  let b ← r.srcB [.v, .w, .s8, .sr]
  need (r.sub &&& 63#6 == 0#6)
  some (.bfi (r.ctl b) r.dst r.sa b r.sc)

/-- The fields of PERM (R167). -/
def Dec.perm (r : StdW) : Option Instr := do
  let b ← r.srcB [.v, .w, .s8, .sr]
  need (r.sub &&& 63#6 == 0#6)
  some (.perm (r.ctl b) r.dst r.sa b r.sc)

/-- The fields of PLOP (R168). -/
def Dec.plop (r : StdW) : Option Instr := do
  need (r.kind == 0#3)
  let d ← lowBits 6 r.dst
  let p1 ← lowBits 6 r.sa
  let p2 ← lowBits 6 r.sb
  some (.plop r.ctl0 (r.sub.extractLsb' 0 6) d p1 p2 r.sc)

/-- The fields of FADD (R170). -/
def Dec.fadd (r : StdW) : Option Instr := do
  let b ← r.srcB [.v, .w, .s8, .sr, .i24]
  need (r.sub &&& 31#6 == 0#6)
  need (b.isI24 || r.sc == 0#8)
  some (.fadd (r.ctl b) (r.sub.getLsbD 5) r.dst r.sa b)

/-- The fields of FSUB (R170). -/
def Dec.fsub (r : StdW) : Option Instr := do
  let b ← r.srcB [.v, .w, .s8, .sr, .i24]
  need (r.sub &&& 31#6 == 0#6)
  need (b.isI24 || r.sc == 0#8)
  some (.fsub (r.ctl b) (r.sub.getLsbD 5) r.dst r.sa b)

/-- The fields of FMUL (R170). -/
def Dec.fmul (r : StdW) : Option Instr := do
  let b ← r.srcB [.v, .w, .s8, .sr, .i24]
  need (r.sub &&& 31#6 == 0#6)
  need (b.isI24 || r.sc == 0#8)
  some (.fmul (r.ctl b) (r.sub.getLsbD 5) r.dst r.sa b)

/-- The fields of FFMA (R170). -/
def Dec.ffma (r : StdW) : Option Instr := do
  let b ← r.srcB [.v, .w, .s8, .sr]
  need (r.sub &&& 15#6 == 0#6)
  some (.ffma (r.ctl b) (r.sub.getLsbD 5) (r.sub.getLsbD 4) r.dst r.sa b r.sc)

/-- The fields of FMIN (R171). -/
def Dec.fmin (r : StdW) : Option Instr := do
  let b ← r.srcB [.v, .w, .s8, .sr, .i24]
  need (r.sub &&& 63#6 == 0#6)
  need (b.isI24 || r.sc == 0#8)
  some (.fmin (r.ctl b) r.dst r.sa b)

/-- The fields of FMAX (R171). -/
def Dec.fmax (r : StdW) : Option Instr := do
  let b ← r.srcB [.v, .w, .s8, .sr, .i24]
  need (r.sub &&& 63#6 == 0#6)
  need (b.isI24 || r.sc == 0#8)
  some (.fmax (r.ctl b) r.dst r.sa b)

/-- The fields of FCLAMP (R171). -/
def Dec.fclamp (r : StdW) : Option Instr := do
  let b ← r.srcB [.v, .w, .s8, .sr]
  need (r.sub &&& 63#6 == 0#6)
  some (.fclamp (r.ctl b) r.dst r.sa b r.sc)

/-- The fields of FCMP (R172). -/
def Dec.fcmp (r : StdW) : Option Instr := do
  let b ← r.srcB [.v, .w, .s8, .sr, .i24]
  need (r.sub &&& 4#6 == 0#6)
  let cond ← FCond.ofCode (r.sub.extractLsb' 3 3)
  let cmb ← r.comb b
  let d ← lowBits 6 r.dst
  some (.fcmp (r.ctl b) cond cmb d r.sa b)

/-- The fields of FRND (R173). -/
def Dec.frnd (r : StdW) : Option Instr := do
  let b ← r.srcB [.v, .w, .s8, .sr, .i24]
  need (r.sub &&& 15#6 == 0#6)
  let rm ← Rm.ofCode (r.sub.extractLsb' 4 2)
  need (r.sa == 0#8)
  need (b.isI24 || r.sc == 0#8)
  some (.frnd (r.ctl b) rm r.dst b)

/-- The fields of FRCP (R174). -/
def Dec.frcp (r : StdW) : Option Instr := do
  let b ← r.srcB [.v, .w, .s8, .sr]
  need (r.sub &&& 63#6 == 0#6)
  need (r.sa == 0#8)
  need (r.sc == 0#8)
  some (.frcp (r.ctl b) r.dst b)

/-- The fields of FRSQ (R174). -/
def Dec.frsq (r : StdW) : Option Instr := do
  let b ← r.srcB [.v, .w, .s8, .sr]
  need (r.sub &&& 63#6 == 0#6)
  need (r.sa == 0#8)
  need (r.sc == 0#8)
  some (.frsq (r.ctl b) r.dst b)

/-- The fields of FSQRT (R174). -/
def Dec.fsqrt (r : StdW) : Option Instr := do
  let b ← r.srcB [.v, .w, .s8, .sr]
  need (r.sub &&& 63#6 == 0#6)
  need (r.sa == 0#8)
  need (r.sc == 0#8)
  some (.fsqrt (r.ctl b) r.dst b)

/-- The fields of FEX2 (R174). -/
def Dec.fex2 (r : StdW) : Option Instr := do
  let b ← r.srcB [.v, .w, .s8, .sr]
  need (r.sub &&& 63#6 == 0#6)
  need (r.sa == 0#8)
  need (r.sc == 0#8)
  some (.fex2 (r.ctl b) r.dst b)

/-- The fields of FLG2 (R174). -/
def Dec.flg2 (r : StdW) : Option Instr := do
  let b ← r.srcB [.v, .w, .s8, .sr]
  need (r.sub &&& 63#6 == 0#6)
  need (r.sa == 0#8)
  need (r.sc == 0#8)
  some (.flg2 (r.ctl b) r.dst b)

/-- The fields of FSIN (R174). -/
def Dec.fsin (r : StdW) : Option Instr := do
  let b ← r.srcB [.v, .w, .s8, .sr]
  need (r.sub &&& 63#6 == 0#6)
  need (r.sa == 0#8)
  need (r.sc == 0#8)
  some (.fsin (r.ctl b) r.dst b)

/-- The fields of FCOS (R174). -/
def Dec.fcos (r : StdW) : Option Instr := do
  let b ← r.srcB [.v, .w, .s8, .sr]
  need (r.sub &&& 63#6 == 0#6)
  need (r.sa == 0#8)
  need (r.sc == 0#8)
  some (.fcos (r.ctl b) r.dst b)

/-- The fields of HADD2 (R175). -/
def Dec.hadd2 (r : StdW) : Option Instr := do
  let b ← r.srcB [.v, .w, .s8, .sr]
  need (r.sub &&& 31#6 == 0#6)
  need (r.sc == 0#8)
  some (.hadd2 (r.ctl b) (r.sub.getLsbD 5) r.dst r.sa b)

/-- The fields of HMUL2 (R175). -/
def Dec.hmul2 (r : StdW) : Option Instr := do
  let b ← r.srcB [.v, .w, .s8, .sr]
  need (r.sub &&& 31#6 == 0#6)
  need (r.sc == 0#8)
  some (.hmul2 (r.ctl b) (r.sub.getLsbD 5) r.dst r.sa b)

/-- The fields of HFMA2 (R175). -/
def Dec.hfma2 (r : StdW) : Option Instr := do
  let b ← r.srcB [.v, .w, .s8, .sr]
  need (r.sub &&& 31#6 == 0#6)
  some (.hfma2 (r.ctl b) (r.sub.getLsbD 5) r.dst r.sa b r.sc)

/-- The fields of HCMP2 (R176). -/
def Dec.hcmp2 (r : StdW) : Option Instr := do
  let b ← r.srcB [.v, .w, .s8, .sr]
  let cond ← Cond.ofCode (r.sub.extractLsb' 2 3)
  let cmb ← r.comb b
  let d ← lowBits 6 r.dst
  some (.hcmp2 (r.ctl b) (r.sub.getLsbD 5) cond cmb d r.sa b)

/-- The fields of HMINMAX2 (R175). -/
def Dec.hminmax2 (r : StdW) : Option Instr := do
  let b ← r.srcB [.v, .w, .s8, .sr]
  need (r.sub &&& 15#6 == 0#6)
  need (r.sc == 0#8)
  some (.hminmax2 (r.ctl b) (r.sub.getLsbD 5) (r.sub.getLsbD 4) r.dst r.sa b)

/-- The fields of DP4 (R181). -/
def Dec.dp4 (r : StdW) : Option Instr := do
  let b ← r.srcB [.v, .w, .sr]
  need (r.sub &&& 7#6 == 0#6)
  some (.dp4 (r.ctl b) (r.sub.getLsbD 5) (r.sub.getLsbD 4) (r.sub.getLsbD 3) r.dst r.sa b r.sc)

/-- The fields of DP8 (R181). -/
def Dec.dp8 (r : StdW) : Option Instr := do
  let b ← r.srcB [.v, .w, .sr]
  need (r.sub &&& 7#6 == 0#6)
  some (.dp8 (r.ctl b) (r.sub.getLsbD 5) (r.sub.getLsbD 4) (r.sub.getLsbD 3) r.dst r.sa b r.sc)

/-- The fields of DP2H (R181). -/
def Dec.dp2h (r : StdW) : Option Instr := do
  let b ← r.srcB [.v, .w, .sr]
  need (r.sub &&& 31#6 == 0#6)
  some (.dp2h (r.ctl b) (r.sub.getLsbD 5) r.dst r.sa b r.sc)

/-- The fields of SHFL (R183). -/
def Dec.shfl (r : StdW) : Option Instr := do
  let b ← r.srcB [.v, .s8]
  need (r.sub &&& 15#6 == 0#6)
  let mode ← ShflMode.ofCode (r.sub.extractLsb' 4 2)
  some (.shfl (r.ctl b) mode r.dst r.sa b r.sc)

/-- The fields of VOTE (R184). -/
def Dec.vote (r : StdW) : Option Instr := do
  need (r.kind == 0#3)
  need (r.sub &&& 15#6 == 0#6)
  let mode ← VoteMode.ofCode (r.sub.extractLsb' 4 2)
  let p ← lowBits 6 r.sa
  need (r.sb == 0#8)
  some (.vote r.ctl0 mode r.dst p r.sc)

/-- The fields of REDL (R185). -/
def Dec.redl (r : StdW) : Option Instr := do
  need (r.kind == 0#3)
  need (r.sub &&& 3#6 == 0#6)
  let op ← RedOp.ofCode (r.sub.extractLsb' 2 4)
  let p ← lowBits 6 r.sa
  some (.redl r.ctl0 op r.dst p r.sb r.sc)

/-- The fields of SCANL (R185). -/
def Dec.scanl (r : StdW) : Option Instr := do
  need (r.kind == 0#3)
  need (r.sub &&& 1#6 == 0#6)
  let op ← RedOp.ofCode (r.sub.extractLsb' 2 4)
  let p ← lowBits 6 r.sa
  some (.scanl r.ctl0 op (r.sub.getLsbD 1) r.dst p r.sb r.sc)

/-- The fields of MATCH (R186). -/
def Dec.matchl (r : StdW) : Option Instr := do
  need (r.kind == 0#3)
  need (r.sub &&& 31#6 == 0#6)
  need (r.sa == 0#8)
  some (.matchl r.ctl0 (r.sub.getLsbD 5) r.dst r.sb r.sc)

/-- The fields of ELECT (R187). -/
def Dec.elect (r : StdW) : Option Instr := do
  need (r.kind == 0#3)
  need (r.sub &&& 63#6 == 0#6)
  let d ← lowBits 6 r.dst
  need (r.sa == 0#8)
  need (r.sb == 0#8)
  some (.elect r.ctl0 d r.sc)

/-- The fields of ACTMASK (R188). -/
def Dec.actmask (r : StdW) : Option Instr := do
  need (r.kind == 0#3)
  need (r.sub &&& 63#6 == 0#6)
  need (r.sa == 0#8)
  need (r.sb == 0#8)
  some (.actmask r.ctl0 r.dst r.sc)

/-- The fields of BRX (R190). -/
def Dec.brx (r : StdW) : Option Instr := do
  need (r.kind == 0#3)
  need (r.sub &&& 63#6 == 0#6)
  need (r.dst == 0#8)
  need (r.sa == 0#8)
  need (r.sc == 0#8)
  some (.brx r.ctl0 r.sb)

/-- The fields of CALLI (R190). -/
def Dec.calli (r : StdW) : Option Instr := do
  need (r.kind == 0#3)
  need (r.sub &&& 63#6 == 0#6)
  need (r.sa == 0#8)
  need (r.sc == 0#8)
  some (.calli r.ctl0 r.dst r.sb)

/-- The fields of RET (R190). -/
def Dec.ret (r : StdW) : Option Instr := do
  need (r.kind == 0#3)
  need (r.sub &&& 63#6 == 0#6)
  need (r.dst == 0#8)
  need (r.sa == 0#8)
  need (r.sc == 0#8)
  some (.ret r.ctl0 r.sb)

/-- The fields of EXIT (R191). -/
def Dec.exit (r : StdW) : Option Instr := do
  need (r.kind == 0#3)
  need (r.sub &&& 63#6 == 0#6)
  need (r.dst == 0#8)
  need (r.sa == 0#8)
  need (r.sb == 0#8)
  need (r.sc == 0#8)
  some (.exit r.ctl0)

/-- The fields of YIELD (R192). -/
def Dec.yield_ (r : StdW) : Option Instr := do
  need (r.kind == 0#3)
  need (r.sub &&& 63#6 == 0#6)
  need (r.dst == 0#8)
  need (r.sa == 0#8)
  need (r.sb == 0#8)
  need (r.sc == 0#8)
  some (.yield_ r.ctl0)

/-- The fields of KDECL (R196). -/
def Dec.kdecl (r : StdW) : Option Instr := do
  let b ← r.srcB [.v, .w]
  need (r.sub &&& 63#6 == 0#6)
  let k ← lowBits 4 r.dst
  need (r.sc == 0#8)
  some (.kdecl (r.ctl b) k r.sa b)

/-- The fields of SIGN (R197). -/
def Dec.sign (r : StdW) : Option Instr := do
  need (r.kind == 0#3)
  need (r.sub &&& 63#6 == 0#6)
  let k ← lowBits 4 r.sa
  need (r.sb == 0#8)
  need (r.sc == 0#8)
  some (.sign r.ctl0 r.dst k)

/-- The fields of WAITK (R198). -/
def Dec.waitk (r : StdW) : Option Instr := do
  let b ← r.srcB [.v, .w]
  need (r.sub &&& 63#6 == 0#6)
  need (r.dst == 0#8)
  let k ← lowBits 4 r.sa
  need (r.sc == 0#8)
  some (.waitk (r.ctl b) k b)

/-- The fields of LNMARK (R194). -/
def Dec.lnmark (r : StdW) : Option Instr := do
  let b ← r.srcB [.v, .s8]
  need (r.sub &&& 63#6 == 0#6)
  need (r.dst == 0#8)
  need (r.sa == 0#8)
  need (r.sc == 0#8)
  some (.lnmark (r.ctl b) b)

/-- The fields of RBACQ (R195). -/
def Dec.rbacq (r : StdW) : Option Instr := do
  let b ← r.srcB [.v, .s8]
  need (r.sub &&& 63#6 == 0#6)
  let d ← lowBits 6 r.dst
  need (r.sa == 0#8)
  need (r.sc == 0#8)
  some (.rbacq (r.ctl b) d b)

/-- The fields of RBREL (R195). -/
def Dec.rbrel (r : StdW) : Option Instr := do
  let b ← r.srcB [.v, .s8]
  need (r.sub &&& 63#6 == 0#6)
  need (r.dst == 0#8)
  need (r.sa == 0#8)
  need (r.sc == 0#8)
  some (.rbrel (r.ctl b) b)

/-- The fields of RBQRY (R195). -/
def Dec.rbqry (r : StdW) : Option Instr := do
  need (r.kind == 0#3)
  need (r.sub &&& 63#6 == 0#6)
  need (r.sa == 0#8)
  need (r.sb == 0#8)
  need (r.sc == 0#8)
  some (.rbqry r.ctl0 r.dst)

/-- The fields of SLEEPN (R193). -/
def Dec.sleepn (r : StdW) : Option Instr := do
  let b ← r.srcB [.v, .s8]
  need (r.sub &&& 63#6 == 0#6)
  need (r.dst == 0#8)
  need (r.sa == 0#8)
  need (r.sc == 0#8)
  some (.sleepn (r.ctl b) b)

/-- The fields of CPYG (R211). -/
def Dec.cpyg (r : StdW) : Option Instr := do
  let b ← r.srcB [.v, .w, .s8]
  need (r.sub &&& 33#6 == 0#6)
  need (r.dst == 0#8)
  some (.cpyg (r.ctl b) (r.sub.getLsbD 4) (r.sub.extractLsb' 1 3) r.sa b r.sc)

/-- The fields of CPY (R211). -/
def Dec.cpy (r : StdW) : Option Instr := do
  let b ← r.srcB [.v, .w, .s8]
  need (r.sub &&& 1#6 == 0#6)
  need (r.dst == 0#8)
  some (.cpy (r.ctl b) (r.sub.getLsbD 5) (r.sub.getLsbD 4) (r.sub.extractLsb' 1 3) r.sa b r.sc)

/-- The fields of CPYT (R213). -/
def Dec.cpyt (r : StdW) : Option Instr := do
  let b ← r.srcB [.v, .w, .s8]
  need (r.sub &&& 31#6 == 0#6)
  need (r.dst == 0#8)
  let dn ← lowBits 5 r.sa
  some (.cpyt (r.ctl b) (r.sub.getLsbD 5) dn b r.sc)

/-- The fields of DISCT (R215). -/
def Dec.disct (r : StdW) : Option Instr := do
  let b ← r.srcB [.v, .w, .s8]
  need (r.sub &&& 63#6 == 0#6)
  need (r.dst == 0#8)
  need (r.sa == 0#8)
  need (r.sc == 0#8)
  some (.disct (r.ctl b) b)

/-- The fields of CACHEOP_WB (R216). -/
def Dec.cacheopWb (r : StdW) : Option Instr := do
  let b ← r.srcB [.v, .w, .s8]
  need (r.sub &&& 7#6 == 0#6)
  need (r.sub.extractLsb' 3 3 == 0#3)
  need (r.dst == 0#8)
  need (r.sc == 0#8)
  some (.cacheopWb (r.ctl b) r.sa b)

/-- The fields of CACHEOP_WBINV (R216). -/
def Dec.cacheopWbinv (r : StdW) : Option Instr := do
  let b ← r.srcB [.v, .w, .s8]
  need (r.sub &&& 7#6 == 0#6)
  need (r.sub.extractLsb' 3 3 == 1#3)
  need (r.dst == 0#8)
  need (r.sc == 0#8)
  some (.cacheopWbinv (r.ctl b) r.sa b)

/-- The fields of CACHEOP_ICINV (R216). -/
def Dec.cacheopIcinv (r : StdW) : Option Instr := do
  let b ← r.srcB [.v, .w, .s8]
  need (r.sub &&& 7#6 == 0#6)
  need (r.sub.extractLsb' 3 3 == 2#3)
  need (r.dst == 0#8)
  need (r.sc == 0#8)
  some (.cacheopIcinv (r.ctl b) r.sa b)

/-- The fields of TEXS (R220). -/
def Dec.texs (r : StdW) : Option Instr := do
  let b ← r.srcB [.v, .w, .s8]
  need (r.sub &&& 63#6 == 0#6)
  let dn ← lowBits 5 r.sc
  some (.texs (r.ctl b) r.dst r.sa b dn)

/-- The fields of TEXL (R220). -/
def Dec.texl (r : StdW) : Option Instr := do
  let b ← r.srcB [.v, .w, .s8]
  need (r.sub &&& 63#6 == 0#6)
  let dn ← lowBits 5 r.sc
  some (.texl (r.ctl b) r.dst r.sa b dn)

/-- The fields of TEXF (R222). -/
def Dec.texf (r : StdW) : Option Instr := do
  need (r.kind == 0#3)
  need (r.sub &&& 63#6 == 0#6)
  need (r.sb == 0#8)
  let dn ← lowBits 5 r.sc
  some (.texf r.ctl0 r.dst r.sa dn)

/-- The fields of SURFST (R222). -/
def Dec.surfst (r : StdW) : Option Instr := do
  need (r.kind == 0#3)
  need (r.sub &&& 63#6 == 0#6)
  need (r.dst == 0#8)
  let dn ← lowBits 5 r.sc
  some (.surfst r.ctl0 r.sa r.sb dn)

/-- The fields of TIME (R231). -/
def Dec.time (r : StdW) : Option Instr := do
  need (r.kind == 0#3)
  need (r.sub &&& 63#6 == 0#6)
  need (r.sa == 0#8)
  need (r.sb == 0#8)
  need (r.sc == 0#8)
  some (.time r.ctl0 r.dst)

/-- The fields of DQRY (R209). -/
def Dec.dqry (r : StdW) : Option Instr := do
  let b ← r.srcB [.v, .w, .s8]
  need (r.sub &&& 63#6 == 0#6)
  let dn ← lowBits 5 r.sa
  need (r.sc == 0#8)
  some (.dqry (r.ctl b) r.dst dn b)

/-- The fields of BAR (R232). -/
def Dec.bar (r : StdW) : Option Instr := do
  let b ← r.srcB [.v, .w, .s8]
  need (r.sub &&& 3#6 == 0#6)
  need (r.dst == 0#8)
  need (r.sa == 0#8)
  need (r.sc == 0#8)
  some (.bar (r.ctl b) (r.sub.extractLsb' 2 4) b)

/-- The fields of BARC (R233). -/
def Dec.barc (r : StdW) : Option Instr := do
  need (r.kind == 0#3)
  need (r.sub &&& 63#6 == 0#6)
  need (r.dst == 0#8)
  need (r.sa == 0#8)
  need (r.sb == 0#8)
  need (r.sc == 0#8)
  some (.barc r.ctl0)

/-- The fields of BARG (R233). -/
def Dec.barg (r : StdW) : Option Instr := do
  need (r.kind == 0#3)
  need (r.sub &&& 63#6 == 0#6)
  need (r.dst == 0#8)
  need (r.sa == 0#8)
  need (r.sb == 0#8)
  need (r.sc == 0#8)
  some (.barg r.ctl0)

/-- The fields of OSENTER (R236). -/
def Dec.osenter (r : StdW) : Option Instr := do
  let b ← r.srcB [.v, .w, .s8]
  need (r.sub &&& 63#6 == 0#6)
  let d ← lowBits 6 r.dst
  need (r.sc == 0#8)
  some (.osenter (r.ctl b) d r.sa b)

/-- The fields of OSLEAVE (R237). -/
def Dec.osleave (r : StdW) : Option Instr := do
  need (r.kind == 0#3)
  need (r.sub &&& 63#6 == 0#6)
  need (r.dst == 0#8)
  need (r.sb == 0#8)
  need (r.sc == 0#8)
  some (.osleave r.ctl0 r.sa)

/-- The fields of OSABORT (R237). -/
def Dec.osabort (r : StdW) : Option Instr := do
  need (r.kind == 0#3)
  need (r.sub &&& 63#6 == 0#6)
  need (r.dst == 0#8)
  need (r.sb == 0#8)
  need (r.sc == 0#8)
  some (.osabort r.ctl0 r.sa)

/-- The fields of OSSTAT (R238). -/
def Dec.osstat (r : StdW) : Option Instr := do
  need (r.kind == 0#3)
  need (r.sub &&& 31#6 == 0#6)
  need (r.sb == 0#8)
  need (r.sc == 0#8)
  some (.osstat r.ctl0 (r.sub.getLsbD 5) r.dst r.sa)

/-- The fields of LAUNCH (R239). -/
def Dec.launch (r : StdW) : Option Instr := do
  let b ← r.srcB [.v, .w]
  need (r.sub &&& 63#6 == 0#6)
  need (r.dst == 0#8)
  need (r.sc == 0#8)
  some (.launch (r.ctl b) r.sa b)

/-- The fields of AMSEND (R240). -/
def Dec.amsend (r : StdW) : Option Instr := do
  let b ← r.srcB [.v, .w]
  need (r.sub &&& 63#6 == 0#6)
  need (r.dst == 0#8)
  need (r.sc == 0#8)
  some (.amsend (r.ctl b) r.sa b)

/-- The fields of AMDONE (R242). -/
def Dec.amdone (r : StdW) : Option Instr := do
  need (r.kind == 0#3)
  need (r.sub &&& 63#6 == 0#6)
  need (r.dst == 0#8)
  need (r.sa == 0#8)
  need (r.sb == 0#8)
  need (r.sc == 0#8)
  some (.amdone r.ctl0)

/-- The fields of MMA (R247). -/
def Dec.mma (r : StdW) : Option Instr := do
  need (r.kind == 0#3)
  need (r.sub &&& 3#6 == 0#6)
  let x ← lowBits 6 r.dst
  let k ← lowBits 4 r.sc
  some (.mma r.ctl0 (r.sub.extractLsb' 3 3) (r.sub.getLsbD 2) x r.sa r.sb k)

/-- The fields of MMAC (R252). -/
def Dec.mmac (r : StdW) : Option Instr := do
  need (r.kind == 0#3)
  need (r.sub &&& 3#6 == 0#6)
  let x ← lowBits 6 r.dst
  let k ← lowBits 4 r.sc
  some (.mmac r.ctl0 (r.sub.extractLsb' 3 3) (r.sub.getLsbD 2) x r.sa r.sb k)

/-- The fields of ACCZ (R255). -/
def Dec.accz (r : StdW) : Option Instr := do
  need (r.kind == 0#3)
  need (r.sub &&& 63#6 == 0#6)
  let x ← lowBits 6 r.dst
  need (r.sa == 0#8)
  need (r.sb == 0#8)
  need (r.sc == 0#8)
  some (.accz r.ctl0 x)

/-- The fields of ACCLD (R255). -/
def Dec.accld (r : StdW) : Option Instr := do
  let b ← r.srcB [.v, .w, .s8]
  need (r.sub &&& 7#6 == 0#6)
  let x ← lowBits 6 r.dst
  need (r.sa == 0#8)
  need (r.sc == 0#8)
  some (.accld (r.ctl b) (r.sub.extractLsb' 3 3) x b)

/-- The fields of ACCST (R255). -/
def Dec.accst (r : StdW) : Option Instr := do
  let b ← r.srcB [.v, .w, .s8]
  need (r.sub &&& 7#6 == 0#6)
  need (r.dst == 0#8)
  let x ← lowBits 6 r.sa
  need (r.sc == 0#8)
  some (.accst (r.ctl b) (r.sub.extractLsb' 3 3) x b)

/-- The fields of ACCRD (R255). -/
def Dec.accrd (r : StdW) : Option Instr := do
  let b ← r.srcB [.v, .w, .s8]
  need (r.sub &&& 63#6 == 0#6)
  let x ← lowBits 6 r.sa
  need (r.sc == 0#8)
  some (.accrd (r.ctl b) r.dst x b)

/-- The fields of ACCWR (R255). -/
def Dec.accwr (r : StdW) : Option Instr := do
  let b ← r.srcB [.v, .w, .s8]
  need (r.sub &&& 63#6 == 0#6)
  let x ← lowBits 6 r.dst
  need (r.sc == 0#8)
  some (.accwr (r.ctl b) x r.sa b)

/-- The fields of MPERM (R256). -/
def Dec.mperm (r : StdW) : Option Instr := do
  let b ← r.srcB [.v, .w, .s8]
  need (r.sub &&& 7#6 == 0#6)
  need (r.sa == 0#8)
  need (r.sc == 0#8)
  some (.mperm (r.ctl b) (r.sub.extractLsb' 3 3) r.dst b)

/-- The fields of FMTQ (R257). -/
def Dec.fmtq (r : StdW) : Option Instr := do
  let b ← r.srcB [.v, .w, .s8]
  need (r.sub &&& 7#6 == 0#6)
  need (r.dst == 0#8)
  let x ← lowBits 6 r.sa
  need (r.sc == 0#8)
  some (.fmtq (r.ctl b) (r.sub.extractLsb' 3 3) x b)

/-- The fields of EQOPEN (R261). -/
def Dec.eqopen (r : StdW) : Option Instr := do
  need (r.kind == 0#3)
  need (r.sub &&& 63#6 == 0#6)
  need (r.sb == 0#8)
  need (r.sc == 0#8)
  some (.eqopen r.ctl0 r.dst r.sa)

/-- The fields of UNITE (R262). -/
def Dec.unite (r : StdW) : Option Instr := do
  let b ← r.srcB [.v, .w, .s8]
  need (r.sub &&& 63#6 == 0#6)
  some (.unite (r.ctl b) r.dst r.sa b r.sc)

/-- The fields of FIND (R261). -/
def Dec.find (r : StdW) : Option Instr := do
  need (r.kind == 0#3)
  need (r.sub &&& 63#6 == 0#6)
  need (r.sb == 0#8)
  some (.find r.ctl0 r.dst r.sa r.sc)

/-- The fields of EQSIZE (R261). -/
def Dec.eqsize (r : StdW) : Option Instr := do
  need (r.kind == 0#3)
  need (r.sub &&& 63#6 == 0#6)
  need (r.sb == 0#8)
  some (.eqsize r.ctl0 r.dst r.sa r.sc)

/-- The fields of RELABEL (R264). -/
def Dec.relabel (r : StdW) : Option Instr := do
  need (r.kind == 0#3)
  need (r.sub &&& 7#6 == 0#6)
  let op ← RelOp.ofCode (r.sub.extractLsb' 3 3)
  need (r.sb == 0#8)
  some (.relabel r.ctl0 op r.dst r.sa r.sc)

/-- The fields of EQSNAP (R263). -/
def Dec.eqsnap (r : StdW) : Option Instr := do
  let b ← r.srcB [.v, .w, .s8]
  need (r.sub &&& 63#6 == 0#6)
  need (r.dst == 0#8)
  need (r.sa == 0#8)
  some (.eqsnap (r.ctl b) b r.sc)

/-- The fields of EQUNDO (R263). -/
def Dec.equndo (r : StdW) : Option Instr := do
  need (r.kind == 0#3)
  need (r.sub &&& 63#6 == 0#6)
  need (r.dst == 0#8)
  need (r.sa == 0#8)
  need (r.sb == 0#8)
  some (.equndo r.ctl0 r.sc)

/-- The fields of EQCLOSE (R261). -/
def Dec.eqclose (r : StdW) : Option Instr := do
  need (r.kind == 0#3)
  need (r.sub &&& 63#6 == 0#6)
  need (r.dst == 0#8)
  need (r.sa == 0#8)
  need (r.sb == 0#8)
  some (.eqclose r.ctl0 r.sc)

/-- The fields of TRACE (R269). -/
def Dec.trace (r : StdW) : Option Instr := do
  need (r.kind == 0#3)
  need (r.sub &&& 63#6 == 0#6)
  need (r.sc == 0#8)
  some (.trace r.ctl0 r.dst r.sa r.sb)

/-- The fields of TRWAIT (R269). -/
def Dec.trwait (r : StdW) : Option Instr := do
  let b ← r.srcB [.v, .w, .s8]
  need (r.sub &&& 63#6 == 0#6)
  need (r.sa == 0#8)
  need (r.sc == 0#8)
  some (.trwait (r.ctl b) r.dst b)

/-- The fields of TRHIT_GET (R270). -/
def Dec.trhitGet (r : StdW) : Option Instr := do
  need (r.kind == 0#3)
  need (r.sub &&& 31#6 == 0#6)
  need (r.sub.extractLsb' 5 1 == 0#1)
  need (r.sa == 0#8)
  need (r.sb == 0#8)
  need (r.sc == 0#8)
  some (.trhitGet r.ctl0 r.dst)

/-- The fields of TRHIT_RET (R270). -/
def Dec.trhitRet (r : StdW) : Option Instr := do
  let b ← r.srcB [.v, .w, .s8]
  need (r.sub &&& 31#6 == 0#6)
  need (r.sub.extractLsb' 5 1 == 1#1)
  need (r.dst == 0#8)
  need (r.sa == 0#8)
  need (r.sc == 0#8)
  some (.trhitRet (r.ctl b) b)

/-- The fields of BOXT (R271). -/
def Dec.boxt (r : StdW) : Option Instr := do
  need (r.kind == 0#3)
  need (r.sub &&& 63#6 == 0#6)
  need (r.sc == 0#8)
  some (.boxt r.ctl0 r.dst r.sa r.sb)

/-- The fields of TRIT (R272). -/
def Dec.trit (r : StdW) : Option Instr := do
  need (r.kind == 0#3)
  need (r.sub &&& 15#6 == 0#6)
  need (r.sc == 0#8)
  some (.trit r.ctl0 (r.sub.getLsbD 5) (r.sub.getLsbD 4) r.dst r.sa r.sb)

/-- The fields of XFORM (R273). -/
def Dec.xform (r : StdW) : Option Instr := do
  need (r.kind == 0#3)
  need (r.sub &&& 63#6 == 0#6)
  need (r.sc == 0#8)
  some (.xform r.ctl0 r.dst r.sa r.sb)

/-- The fields of SHADOW (R274). -/
def Dec.shadow (r : StdW) : Option Instr := do
  need (r.kind == 0#3)
  need (r.sub &&& 15#6 == 0#6)
  need (r.dst == 0#8)
  some (.shadow r.ctl0 (r.sub.extractLsb' 4 2) r.sa r.sb r.sc)

/-- The fields of RNG (R275). -/
def Dec.rng (r : StdW) : Option Instr := do
  let b ← r.srcB [.v, .w, .s8]
  need (r.sub &&& 3#6 == 0#6)
  need (r.sc == 0#8)
  some (.rng (r.ctl b) (r.sub.extractLsb' 3 3) (r.sub.getLsbD 2) r.dst r.sa b)

/-- The fields of COLL (R279). -/
def Dec.coll (r : StdW) : Option Instr := do
  need (r.kind == 0#3)
  need (r.sub &&& 63#6 == 0#6)
  need (r.sb == 0#8)
  need (r.sc == 0#8)
  some (.coll r.ctl0 r.dst r.sa)

/-- The fields of COLLW (R280). -/
def Dec.collw (r : StdW) : Option Instr := do
  let b ← r.srcB [.v, .w]
  need (r.sub &&& 63#6 == 0#6)
  need (r.sa == 0#8)
  need (r.sc == 0#8)
  some (.collw (r.ctl b) r.dst b)

/-- The fields of RESID (R281). -/
def Dec.resid (r : StdW) : Option Instr := do
  let b ← r.srcB [.v, .w]
  need (r.sub &&& 63#6 == 0#6)
  need (r.dst == 0#8)
  some (.resid (r.ctl b) r.sa b r.sc)

/-- The fields of GETSR (R284). -/
def Dec.getsr (r : StdW) : Option Instr := do
  let b ← r.srcB [.v, .w, .s8, .sr]
  need (r.sub &&& 63#6 == 0#6)
  need (r.sa == 0#8)
  need (r.sc == 0#8)
  some (.getsr (r.ctl b) r.dst b)

/-- The fields of SETSR (R284). -/
def Dec.setsr (r : StdW) : Option Instr := do
  let b ← r.srcB [.v, .w, .s8, .sr]
  need (r.sub &&& 63#6 == 0#6)
  let n ← lowBits 1 r.dst
  need (r.sa == 0#8)
  need (r.sc == 0#8)
  some (.setsr (r.ctl b) (n.getLsbD 0) b)

/-- The fields of TRAP (R285). -/
def Dec.trap (r : StdW) : Option Instr := do
  let b ← r.srcB [.v, .w, .s8, .sr]
  need (r.sub &&& 63#6 == 0#6)
  need (r.dst == 0#8)
  need (r.sa == 0#8)
  need (r.sc == 0#8)
  some (.trap (r.ctl b) b)

/-- The fields of RETT (R285). -/
def Dec.rett (r : StdW) : Option Instr := do
  need (r.kind == 0#3)
  need (r.sub &&& 63#6 == 0#6)
  need (r.dst == 0#8)
  need (r.sa == 0#8)
  need (r.sc == 0#8)
  some (.rett r.ctl0 r.sb)

/-- The fields of BKPT (R285). -/
def Dec.bkpt (r : StdW) : Option Instr := do
  need (r.kind == 0#3)
  need (r.sub &&& 63#6 == 0#6)
  need (r.dst == 0#8)
  need (r.sa == 0#8)
  need (r.sb == 0#8)
  need (r.sc == 0#8)
  some (.bkpt r.ctl0)

/-- The fields of TLBINV (R286). -/
def Dec.tlbinv (r : StdW) : Option Instr := do
  let b ← r.srcB [.v, .w, .s8, .sr]
  need (r.sub &&& 63#6 == 0#6)
  need (r.dst == 0#8)
  some (.tlbinv (r.ctl b) r.sa b r.sc)

/-- The fields of LPSWEEP (R286). -/
def Dec.lpsweep (r : StdW) : Option Instr := do
  let b ← r.srcB [.v, .w, .s8, .sr]
  need (r.sub &&& 63#6 == 0#6)
  need (r.dst == 0#8)
  need (r.sa == 0#8)
  need (r.sc == 0#8)
  some (.lpsweep (r.ctl b) b)

/-- The fields of DIGEST (R288). -/
def Dec.digest (r : StdW) : Option Instr := do
  need (r.kind == 0#3)
  need (r.sub &&& 63#6 == 0#6)
  need (r.sa == 0#8)
  need (r.sb == 0#8)
  need (r.sc == 0#8)
  some (.digest r.ctl0 r.dst)

/-- The fields of CTXSAVE (R287). -/
def Dec.ctxsave (r : StdW) : Option Instr := do
  let b ← r.srcB [.v, .w, .s8, .sr]
  need (r.sub &&& 63#6 == 0#6)
  need (r.dst == 0#8)
  need (r.sa == 0#8)
  need (r.sc == 0#8)
  some (.ctxsave (r.ctl b) b)

/-- The fields of CTXLOAD (R287). -/
def Dec.ctxload (r : StdW) : Option Instr := do
  let b ← r.srcB [.v, .w, .s8, .sr]
  need (r.sub &&& 63#6 == 0#6)
  need (r.dst == 0#8)
  need (r.sa == 0#8)
  need (r.sc == 0#8)
  some (.ctxload (r.ctl b) b)

/-- The fields of HALT (R287). -/
def Dec.halt (r : StdW) : Option Instr := do
  need (r.kind == 0#3)
  need (r.sub &&& 63#6 == 0#6)
  need (r.dst == 0#8)
  need (r.sa == 0#8)
  need (r.sb == 0#8)
  need (r.sc == 0#8)
  some (.halt r.ctl0)

/-- The fields of LD (R202). -/
def Dec.ld (r : MemW) : Option Instr := do
  let wd ← Width.ofCode (r.sub.extractLsb' 3 3)
  need (r.sub &&& 3#6 == 0#6)
  need (r.am == 0#2)
  some (.ld r.ctl wd (r.sub.getLsbD 2) r.data r.addr r.off r.scope)

/-- The fields of ST (R202). -/
def Dec.st (r : MemW) : Option Instr := do
  let wd ← Width.ofCode (r.sub.extractLsb' 3 3)
  need (r.sub &&& 7#6 == 0#6)
  need (r.am == 0#2)
  some (.st r.ctl wd r.data r.addr r.off r.scope)

/-- The fields of LDB (R202). -/
def Dec.ldb (r : MemW) : Option Instr := do
  let wd ← Width.ofCode (r.sub.extractLsb' 3 3)
  need (r.sub &&& 3#6 == 0#6)
  let d ← r.desc
  some (.ldb r.ctl wd (r.sub.getLsbD 2) r.data d r.addr r.scope)

/-- The fields of STB (R202). -/
def Dec.stb (r : MemW) : Option Instr := do
  let wd ← Width.ofCode (r.sub.extractLsb' 3 3)
  need (r.sub &&& 7#6 == 0#6)
  let d ← r.desc
  some (.stb r.ctl wd r.data d r.addr r.scope)

/-- The fields of LDS (R202). -/
def Dec.lds (r : MemW) : Option Instr := do
  let wd ← Width.ofCode (r.sub.extractLsb' 3 3)
  need (r.sub &&& 3#6 == 0#6)
  need (r.am == 2#2)
  some (.lds r.ctl wd (r.sub.getLsbD 2) r.data r.addr r.off r.scope)

/-- The fields of STS (R202). -/
def Dec.sts (r : MemW) : Option Instr := do
  let wd ← Width.ofCode (r.sub.extractLsb' 3 3)
  need (r.sub &&& 7#6 == 0#6)
  need (r.am == 2#2)
  some (.sts r.ctl wd r.data r.addr r.off r.scope)

/-- The fields of LDC (R202). -/
def Dec.ldc (r : MemW) : Option Instr := do
  let wd ← Width.ofCode (r.sub.extractLsb' 3 3)
  need (r.sub &&& 3#6 == 0#6)
  need (r.am == 2#2)
  some (.ldc r.ctl wd (r.sub.getLsbD 2) r.data r.addr r.off r.scope)

/-- The fields of STC (R202). -/
def Dec.stc (r : MemW) : Option Instr := do
  let wd ← Width.ofCode (r.sub.extractLsb' 3 3)
  need (r.sub &&& 7#6 == 0#6)
  need (r.am == 2#2)
  some (.stc r.ctl wd r.data r.addr r.off r.scope)

/-- The fields of PREF (R206). -/
def Dec.pref (r : MemW) : Option Instr := do
  need (r.am == 0#2 && r.sub == 0#6 && r.data == 0#8 && r.scope == 1#3)
  some (.pref r.ctl r.addr r.off)

/-- The fields of TAGST (R207). -/
def Dec.tagst (r : MemW) : Option Instr := do
  need (r.am == 0#2 && r.sub == 0#6)
  some (.tagst r.ctl r.data r.addr r.off r.scope)

/-- The fields of TAGLD (R207). -/
def Dec.tagld (r : MemW) : Option Instr := do
  need (r.am == 0#2 && r.sub == 0#6)
  some (.tagld r.ctl r.data r.addr r.off r.scope)

/-- The fields of DLOAD (R208). -/
def Dec.dload (r : MemW) : Option Instr := do
  need (r.am == 0#2 && r.sub == 0#6)
  let dn ← lowBits 5 r.data
  some (.dload r.ctl dn r.addr r.off r.scope)

/-- The fields of ATOM (R224). -/
def Dec.atom (r : MemW) : Option Instr := do
  let op ← AtomOp.ofCode (r.sub.extractLsb' 0 5)
  let ad ← r.maddr
  some (.atom r.ctl (r.sub.getLsbD 5) op r.data ad r.scope)

/-- The fields of RED (R226). -/
def Dec.red (r : MemW) : Option Instr := do
  let op ← AtomOp.ofCode (r.sub.extractLsb' 0 5)
  let ad ← r.maddr
  some (.red r.ctl (r.sub.getLsbD 5) op r.data ad r.scope)

/-- The fields of ATOMC (R225). -/
def Dec.atomc (r : MemW) : Option Instr := do
  need (r.sub &&& 31#6 == 0#6)
  let ad ← r.maddr
  some (.atomc r.ctl (r.sub.getLsbD 5) r.data ad r.scope)

/-- The fields of WAITC (R229). -/
def Dec.waitc (r : MemW) : Option Instr := do
  need (r.am == 0#2 && !r.sub.getLsbD 0)
  let cond ← Cond.ofCode (r.sub.extractLsb' 2 3)
  some (.waitc r.ctl (r.sub.getLsbD 5) cond (r.sub.getLsbD 1) r.data r.addr r.off r.scope)

/-- The fields of FENCE_ACQ (R230). -/
def Dec.fenceAcq (r : MemW) : Option Instr := do
  need (r.sub == 0#6 && r.data == 0#8 && r.addr == 0#8 && r.am == 0#2 && r.off == 0#14)
  some (.fenceAcq r.ctl r.scope)

/-- The fields of FENCE_REL (R230). -/
def Dec.fenceRel (r : MemW) : Option Instr := do
  need (r.sub == 16#6 && r.data == 0#8 && r.addr == 0#8 && r.am == 0#2 && r.off == 0#14)
  some (.fenceRel r.ctl r.scope)

/-- The fields of FENCE_AR (R230). -/
def Dec.fenceAr (r : MemW) : Option Instr := do
  need (r.sub == 32#6 && r.data == 0#8 && r.addr == 0#8 && r.am == 0#2 && r.off == 0#14)
  some (.fenceAr r.ctl r.scope)

/-- The fields of FENCE_REF (R230). -/
def Dec.fenceRef (r : MemW) : Option Instr := do
  need (r.sub == 48#6 && r.data == 0#8 && r.addr == 0#8 && r.am == 0#2 && r.off == 0#14)
  some (.fenceRef r.ctl r.scope)

/-! The opcode map -/

/-- The assigned major opcodes (R154), whether each must be unguarded (R142), and its decoder. -/
structure OpRow where
  op  : Nat
  ung : Bool
  dec : DWord → Option Instr

/-- A part of the opcode map. -/
def opRows0 : List OpRow := [
  ⟨0x00, false, Dec.nop⟩,
  ⟨0x01, false, fun w => Dec.mov (.ofWord w)⟩,
  ⟨0x02, false, fun w => Dec.movi (.ofWord w)⟩,
  ⟨0x03, false, fun w => Dec.movw (.ofWord w)⟩,
  ⟨0x04, false, fun w => Dec.iadd (.ofWord w)⟩,
  ⟨0x05, false, fun w => Dec.isub (.ofWord w)⟩,
  ⟨0x06, false, fun w => Dec.iaddc (.ofWord w)⟩,
  ⟨0x07, false, fun w => Dec.imul (.ofWord w)⟩,
  ⟨0x08, false, fun w => Dec.imulh (.ofWord w)⟩,
  ⟨0x09, false, fun w => Dec.imad (.ofWord w)⟩,
  ⟨0x0A, false, fun w => Dec.imin (.ofWord w)⟩,
  ⟨0x0B, false, fun w => Dec.imax (.ofWord w)⟩,
  ⟨0x0C, false, fun w => Dec.iabs (.ofWord w)⟩,
  ⟨0x0D, false, fun w => Dec.icmp (.ofWord w)⟩,
  ⟨0x0E, false, fun w => Dec.isel (.ofWord w)⟩,
  ⟨0x0F, false, fun w => Dec.lea (.ofWord w)⟩,
  ⟨0x10, false, fun w => Dec.iadd64 (.ofWord w)⟩,
  ⟨0x11, false, fun w => Dec.land (.ofWord w)⟩,
  ⟨0x12, false, fun w => Dec.lor (.ofWord w)⟩,
  ⟨0x13, false, fun w => Dec.lxor (.ofWord w)⟩,
  ⟨0x14, false, fun w => Dec.landn (.ofWord w)⟩,
  ⟨0x15, false, fun w => Dec.lnot (.ofWord w)⟩,
  ⟨0x16, false, fun w => Dec.shl (.ofWord w)⟩,
  ⟨0x17, false, fun w => Dec.shr (.ofWord w)⟩]

/-- A part of the opcode map. -/
def opRows1 : List OpRow := [
  ⟨0x18, false, fun w => Dec.sar (.ofWord w)⟩,
  ⟨0x19, false, fun w => Dec.rot (.ofWord w)⟩,
  ⟨0x1A, false, fun w => Dec.bfe (.ofWord w)⟩,
  ⟨0x1B, false, fun w => Dec.bfi (.ofWord w)⟩,
  ⟨0x1C, false, fun w => Dec.popc (.ofWord w)⟩,
  ⟨0x1D, false, fun w => Dec.clz (.ofWord w)⟩,
  ⟨0x1E, false, fun w => Dec.brev (.ofWord w)⟩,
  ⟨0x1F, false, fun w => Dec.perm (.ofWord w)⟩,
  ⟨0x20, false, fun w => Dec.plop (.ofWord w)⟩,
  ⟨0x21, false, fun w => Dec.pmov (.ofWord w)⟩,
  ⟨0x22, false, fun w => Dec.imad64 (.ofWord w)⟩,
  ⟨0x30, false, fun w => Dec.fadd (.ofWord w)⟩,
  ⟨0x31, false, fun w => Dec.fsub (.ofWord w)⟩,
  ⟨0x32, false, fun w => Dec.fmul (.ofWord w)⟩,
  ⟨0x33, false, fun w => Dec.ffma (.ofWord w)⟩,
  ⟨0x34, false, fun w => Dec.fmin (.ofWord w)⟩,
  ⟨0x35, false, fun w => Dec.fmax (.ofWord w)⟩,
  ⟨0x36, false, fun w => Dec.fcmp (.ofWord w)⟩,
  ⟨0x37, false, fun w => Dec.frnd (.ofWord w)⟩,
  ⟨0x38, false, fun w => Dec.frcp (.ofWord w)⟩,
  ⟨0x39, false, fun w => Dec.frsq (.ofWord w)⟩,
  ⟨0x3A, false, fun w => Dec.fsqrt (.ofWord w)⟩,
  ⟨0x3B, false, fun w => Dec.fex2 (.ofWord w)⟩,
  ⟨0x3C, false, fun w => Dec.flg2 (.ofWord w)⟩]

/-- A part of the opcode map. -/
def opRows2 : List OpRow := [
  ⟨0x3D, false, fun w => Dec.fsin (.ofWord w)⟩,
  ⟨0x3E, false, fun w => Dec.fcos (.ofWord w)⟩,
  ⟨0x3F, false, fun w => Dec.fclamp (.ofWord w)⟩,
  ⟨0x40, false, fun w => Dec.hadd2 (.ofWord w)⟩,
  ⟨0x41, false, fun w => Dec.hmul2 (.ofWord w)⟩,
  ⟨0x42, false, fun w => Dec.hfma2 (.ofWord w)⟩,
  ⟨0x43, false, fun w => Dec.hcmp2 (.ofWord w)⟩,
  ⟨0x44, false, fun w => Dec.hminmax2 (.ofWord w)⟩,
  ⟨0x48, false, fun w => Dec.cvt (.ofWord w)⟩,
  ⟨0x49, false, fun w => Dec.cvtpk (.ofWord w)⟩,
  ⟨0x4A, false, fun w => Dec.cvtup (.ofWord w)⟩,
  ⟨0x4B, false, fun w => Dec.scaleq (.ofWord w)⟩,
  ⟨0x4C, false, fun w => Dec.descale (.ofWord w)⟩,
  ⟨0x50, false, fun w => Dec.dp4 (.ofWord w)⟩,
  ⟨0x51, false, fun w => Dec.dp8 (.ofWord w)⟩,
  ⟨0x52, false, fun w => Dec.dp2h (.ofWord w)⟩,
  ⟨0x58, true, fun w => Dec.shfl (.ofWord w)⟩,
  ⟨0x59, true, fun w => Dec.vote (.ofWord w)⟩,
  ⟨0x5A, true, fun w => Dec.redl (.ofWord w)⟩,
  ⟨0x5B, true, fun w => Dec.scanl (.ofWord w)⟩,
  ⟨0x5C, true, fun w => Dec.matchl (.ofWord w)⟩,
  ⟨0x5D, true, fun w => Dec.elect (.ofWord w)⟩,
  ⟨0x5E, true, fun w => Dec.actmask (.ofWord w)⟩,
  ⟨0x60, false, fun w => Dec.bra (.ofWord w)⟩]

/-- A part of the opcode map. -/
def opRows3 : List OpRow := [
  ⟨0x61, false, fun w => Dec.brp (.ofWord w)⟩,
  ⟨0x62, false, fun w => Dec.brx (.ofWord w)⟩,
  ⟨0x63, false, fun w => Dec.call (.ofWord w)⟩,
  ⟨0x64, false, fun w => Dec.calli (.ofWord w)⟩,
  ⟨0x65, false, fun w => Dec.ret (.ofWord w)⟩,
  ⟨0x66, false, fun w => Dec.exit (.ofWord w)⟩,
  ⟨0x67, false, fun w => Dec.yield_ (.ofWord w)⟩,
  ⟨0x68, true, fun w => Dec.kdecl (.ofWord w)⟩,
  ⟨0x69, true, fun w => Dec.sign (.ofWord w)⟩,
  ⟨0x6A, true, fun w => Dec.waitk (.ofWord w)⟩,
  ⟨0x6B, false, fun w => Dec.lnmark (.ofWord w)⟩,
  ⟨0x6C, false, fun w => Dec.rbacq (.ofWord w)⟩,
  ⟨0x6D, false, fun w => Dec.rbrel (.ofWord w)⟩,
  ⟨0x6E, false, fun w => Dec.rbqry (.ofWord w)⟩,
  ⟨0x6F, false, fun w => Dec.sleepn (.ofWord w)⟩,
  ⟨0x70, false, fun w => Dec.ld (.ofWord w)⟩,
  ⟨0x71, false, fun w => Dec.st (.ofWord w)⟩,
  ⟨0x72, false, fun w => Dec.ldb (.ofWord w)⟩,
  ⟨0x73, false, fun w => Dec.stb (.ofWord w)⟩,
  ⟨0x74, false, fun w => Dec.lds (.ofWord w)⟩,
  ⟨0x75, false, fun w => Dec.sts (.ofWord w)⟩,
  ⟨0x76, false, fun w => Dec.ldc (.ofWord w)⟩,
  ⟨0x77, false, fun w => Dec.stc (.ofWord w)⟩,
  ⟨0x78, false, fun w => Dec.pref (.ofWord w)⟩]

/-- A part of the opcode map. -/
def opRows4 : List OpRow := [
  ⟨0x79, false, fun w => Dec.cpy (.ofWord w)⟩,
  ⟨0x7A, false, fun w => Dec.cpyg (.ofWord w)⟩,
  ⟨0x7B, false, fun w => Dec.cpyt (.ofWord w)⟩,
  ⟨0x7C, false, fun w => Dec.disct (.ofWord w)⟩,
  ⟨0x7D, false, fun w => Dec.tagst (.ofWord w)⟩,
  ⟨0x7E, false, fun w => Dec.tagld (.ofWord w)⟩,
  ⟨0x7F, false, fun w => Dec.cacheopWb (.ofWord w) <|> Dec.cacheopWbinv (.ofWord w) <|> Dec.cacheopIcinv (.ofWord w)⟩,
  ⟨0x80, false, fun w => Dec.texs (.ofWord w)⟩,
  ⟨0x81, false, fun w => Dec.texl (.ofWord w)⟩,
  ⟨0x82, false, fun w => Dec.texf (.ofWord w)⟩,
  ⟨0x83, false, fun w => Dec.surfst (.ofWord w)⟩,
  ⟨0x88, false, fun w => Dec.atom (.ofWord w)⟩,
  ⟨0x89, false, fun w => Dec.atomc (.ofWord w)⟩,
  ⟨0x8A, false, fun w => Dec.red (.ofWord w)⟩,
  ⟨0x8B, false, fun w => Dec.waitc (.ofWord w)⟩,
  ⟨0x8C, false, fun w => Dec.fenceAcq (.ofWord w) <|> Dec.fenceRel (.ofWord w) <|> Dec.fenceAr (.ofWord w) <|> Dec.fenceRef (.ofWord w)⟩,
  ⟨0x8D, false, fun w => Dec.time (.ofWord w)⟩,
  ⟨0x8E, false, fun w => Dec.dload (.ofWord w)⟩,
  ⟨0x8F, false, fun w => Dec.dqry (.ofWord w)⟩,
  ⟨0x90, true, fun w => Dec.bar (.ofWord w)⟩,
  ⟨0x91, true, fun w => Dec.barc (.ofWord w)⟩,
  ⟨0x92, true, fun w => Dec.barg (.ofWord w)⟩,
  ⟨0x93, true, fun w => Dec.osenter (.ofWord w)⟩,
  ⟨0x94, true, fun w => Dec.osleave (.ofWord w)⟩]

/-- A part of the opcode map. -/
def opRows5 : List OpRow := [
  ⟨0x95, true, fun w => Dec.osabort (.ofWord w)⟩,
  ⟨0x96, false, fun w => Dec.osstat (.ofWord w)⟩,
  ⟨0x97, false, fun w => Dec.launch (.ofWord w)⟩,
  ⟨0x98, false, fun w => Dec.amsend (.ofWord w)⟩,
  ⟨0x99, false, fun w => Dec.amdone (.ofWord w)⟩,
  ⟨0xA0, true, fun w => Dec.mma (.ofWord w)⟩,
  ⟨0xA1, true, fun w => Dec.mmac (.ofWord w)⟩,
  ⟨0xA2, false, fun w => Dec.accz (.ofWord w)⟩,
  ⟨0xA3, false, fun w => Dec.accld (.ofWord w)⟩,
  ⟨0xA4, false, fun w => Dec.accst (.ofWord w)⟩,
  ⟨0xA5, false, fun w => Dec.accrd (.ofWord w)⟩,
  ⟨0xA6, false, fun w => Dec.accwr (.ofWord w)⟩,
  ⟨0xA7, false, fun w => Dec.mperm (.ofWord w)⟩,
  ⟨0xA8, false, fun w => Dec.fmtq (.ofWord w)⟩,
  ⟨0xB0, false, fun w => Dec.eqopen (.ofWord w)⟩,
  ⟨0xB1, false, fun w => Dec.unite (.ofWord w)⟩,
  ⟨0xB2, false, fun w => Dec.find (.ofWord w)⟩,
  ⟨0xB3, false, fun w => Dec.eqsize (.ofWord w)⟩,
  ⟨0xB4, false, fun w => Dec.relabel (.ofWord w)⟩,
  ⟨0xB5, false, fun w => Dec.eqsnap (.ofWord w)⟩,
  ⟨0xB6, false, fun w => Dec.equndo (.ofWord w)⟩,
  ⟨0xB7, false, fun w => Dec.eqclose (.ofWord w)⟩,
  ⟨0xB8, false, fun w => Dec.trace (.ofWord w)⟩,
  ⟨0xB9, false, fun w => Dec.trwait (.ofWord w)⟩]

/-- A part of the opcode map. -/
def opRows6 : List OpRow := [
  ⟨0xBA, false, fun w => Dec.trhitGet (.ofWord w) <|> Dec.trhitRet (.ofWord w)⟩,
  ⟨0xBB, false, fun w => Dec.boxt (.ofWord w)⟩,
  ⟨0xBC, false, fun w => Dec.trit (.ofWord w)⟩,
  ⟨0xBD, false, fun w => Dec.xform (.ofWord w)⟩,
  ⟨0xBE, false, fun w => Dec.shadow (.ofWord w)⟩,
  ⟨0xBF, false, fun w => Dec.rng (.ofWord w)⟩,
  ⟨0xC0, false, fun w => Dec.coll (.ofWord w)⟩,
  ⟨0xC1, false, fun w => Dec.collw (.ofWord w)⟩,
  ⟨0xC2, false, fun w => Dec.resid (.ofWord w)⟩,
  ⟨0xE0, false, fun w => Dec.getsr (.ofWord w)⟩,
  ⟨0xE1, false, fun w => Dec.setsr (.ofWord w)⟩,
  ⟨0xE2, false, fun w => Dec.trap (.ofWord w)⟩,
  ⟨0xE3, false, fun w => Dec.rett (.ofWord w)⟩,
  ⟨0xE4, false, fun w => Dec.bkpt (.ofWord w)⟩,
  ⟨0xE5, false, fun w => Dec.tlbinv (.ofWord w)⟩,
  ⟨0xE6, false, fun w => Dec.lpsweep (.ofWord w)⟩,
  ⟨0xE7, false, fun w => Dec.digest (.ofWord w)⟩,
  ⟨0xE8, false, fun w => Dec.ctxsave (.ofWord w)⟩,
  ⟨0xE9, false, fun w => Dec.ctxload (.ofWord w)⟩,
  ⟨0xEA, false, fun w => Dec.halt (.ofWord w)⟩]

/-- The opcode map (R154): 164 rows. Every other major opcode is reserved (R155, R397). -/
def opRows : List OpRow :=
  opRows0 ++ opRows1 ++ opRows2 ++ opRows3 ++ opRows4 ++ opRows5 ++ opRows6

/-- The row of a major opcode; none for a reserved one (R155). -/
def opRow (op : BitVec 8) : Option OpRow := opRows.find? fun r => r.op == op.toNat

/-- Engine class of an assigned major opcode (R136); none for a reserved one. -/
def opClass (op : BitVec 8) : Option Nat :=
  let n := op.toNat
  if (opRow op).isNone then none
  else if n ≤ 0x5E then some 0
  else if n ≤ 0x67 then some 6
  else if n ≤ 0x6A then some 5
  else if n ≤ 0x6F then some 6
  else if n ≤ 0x8F then some 1
  else if n ≤ 0x96 then some 5
  else if n ≤ 0x99 then some 8
  else if n ≤ 0xA8 then some 2
  else if n ≤ 0xB7 then some 4
  else if n ≤ 0xBF then some 3
  else if n ≤ 0xC2 then some 8
  else some 7

/-- The clause enders (R137): BRA, BRP, BRX, CALL, CALLI, RET, EXIT, YIELD, RETT and HALT. -/
def opEnder (op : BitVec 8) : Bool :=
  (decide (0x60 ≤ op.toNat) && decide (op.toNat ≤ 0x67)) || op == 0xE3#8 || op == 0xEA#8

/-- Long-latency opcodes (R36). -/
def opLong (op : BitVec 8) : Bool :=
  match opClass op with
  | none => false
  | some 0 => decide (0x38 ≤ op.toNat) && decide (op.toNat ≤ 0x3E)
  | some 6 => false
  | some _ => true

/-- Why a word is not an instruction: a reserved opcode (R155), a pair that breaks R152, or an encoding that R390
step 1 refuses; the last falls on every thread when the opcode must be unguarded, else on the threads whose guard is true. -/
inductive DecodeErr where
  | illegalOpcode
  | pairViolation
  | illegalOperand (onAll : Bool)
deriving DecidableEq, Repr

/-- An unpaired word (R139). -/
def decodeWord (w : DWord) : Except DecodeErr Instr :=
  match opRow (bits w 56 8) with
  | none => .error .illegalOpcode
  | some r =>
    match r.dec w with
    | some i => if i.wf then .ok i else .error (.illegalOperand r.ung)
    | none => .error (.illegalOperand r.ung)

/-- The instruction of a first operation X, a guard and a second operation Y. -/
def pairInstr (g : Grd) (x y : POp) : Instr :=
  match x.op with
  | .fadd => .pairFadd g x.pd x.pa x.pb y
  | .fmul => .pairFmul g x.pd x.pa x.pb y
  | .ffma => .pairFfma g x.pd x.pa x.pb y
  | .iadd => .pairIadd g x.pd x.pa x.pb y
  | .and => .pairAnd g x.pd x.pa x.pb y
  | .or => .pairOr g x.pd x.pa x.pb y
  | .xor => .pairXor g x.pd x.pa x.pb y
  | .shl => .pairShl g x.pd x.pa x.pb y
  | .mov => .pairMov g x.pd x.pa y
  | .isel => .pairIsel g x.pd x.pa x.pb y

/-- A paired word (R150 to R152). -/
def decodePair (w : DWord) : Except DecodeErr Instr :=
  let r := PairW.ofWord w
  match POp.ofFields r.xop r.xpd r.xpa r.xpb, POp.ofFields r.yop r.ypd r.ypa r.ypb with
  | some x, some y =>
    if !r.z && pairOk x y then .ok (pairInstr ⟨r.g, r.gneg⟩ x y) else .error .pairViolation
  | _, _ => .error .pairViolation

/-- Decoding of a word by its PAIR bit (R139). -/
def decode (paired : Bool) (w : DWord) : Except DecodeErr Instr := if paired then decodePair w else decodeWord w

/-- Guard fields of an unpaired word: bits 49:44 and 43 in every form (R140, R147, R149). -/
def wordGuard (w : DWord) : Grd := ⟨bits w 44 6, w.getLsbD 43⟩

/-- Lookahead field of an unpaired word (R140, R147). -/
def wordLa (w : DWord) : Nat := (bits w 7 4).toNat

/-- The word is a long-latency instruction (R36): a paired word never is. -/
def wordLong (paired : Bool) (w : DWord) : Bool := !paired && opLong (bits w 56 8)

/-- The unpaired word counts in the scoreboard counter it names while it is in flight: every form but I32, I24 and NOP
has QE at bit 3 and QC at bits 6:4 (R35, R140). -/
def wordQ (paired : Bool) (w : DWord) : Option Nat :=
  let op := bits w 56 8
  let std := !(decide (0x70 ≤ op.toNat) && decide (op.toNat ≤ 0x78)) && !(decide (0x88 ≤ op.toNat) && decide (op.toNat ≤ 0x8C))
    && !(op == 0x7D#8 || op == 0x7E#8 || op == 0x8E#8) && !(decide (0x48 ≤ op.toNat) && decide (op.toNat ≤ 0x4C))
  if paired || op == 0#8 || (opClass op).isNone || !w.getLsbD 3 || (std && (bits w 0 3 == 4#3 || bits w 0 3 == 5#3)) then none
  else some (bits w 4 3).toNat

/-! Clause headers (R134) -/

/-- Instructions of a clause. -/
def hdrCount (h : DWord) : Nat := (bits h 56 4).toNat + 1
/-- Engine class. -/
def hdrClass (h : DWord) : Nat := (bits h 52 4).toNat
/-- Wait mask: bit i for counter Qi. -/
def hdrWait (h : DWord) : BitVec 8 := bits h 44 8
/-- Lineage-mark enable. -/
def hdrLmark (h : DWord) : Bool := h.getLsbD 43
/-- PAIR bit of instruction `i`. -/
def hdrPair (h : DWord) (i : Nat) : Bool := h.getLsbD (16 + i)

/-- The header fields alone (R135, R393): MARK, CLASS, the Zero fields and the PAIR bits beyond the clause. -/
def headerOk (h : DWord) : Bool :=
  bits h 60 4 == 0xB#4 && decide (hdrClass h ≤ 8) && bits h 32 11 == 0#11 && bits h 0 16 == 0#16
  && decide ((bits h 16 16).toNat < 2 ^ hdrCount h)

/-- Word `i` of a clause is admitted where it stands (R135, R136, R137, R393). -/
def wordAdmitted (h : DWord) (i : Nat) (w : DWord) : Bool :=
  let op := bits w 56 8
  if hdrPair h i then true
  else
    match opClass op with
    | none => true
    | some c => if opEnder op then i + 1 == hdrCount h else c == 0 || c == hdrClass h

/-- Position of the first word that fails at decode (R392). -/
def firstBadWord (h : DWord) (ws : List DWord) : Option Nat :=
  (List.range ws.length).find? fun i => !wordAdmitted h i (ws.getD i 0#64)

/-! The host's view -/

/-- The instruction that the decoder reads from an instruction of `nbits` bits whose bits are `w`: an unpaired word, or,
where bit 64 is given and set, a word whose PAIR bit is set. A word of the machine is 64 bits, so a row given fewer bits
has zeros above them. -/
def decodeTableWord (nbits w : Nat) : Option Instr :=
  (decode (decide (64 < nbits) && w.testBit 64) (BitVec.ofNat 64 w)).toOption

/-! The encoder -/

/-- An instruction laid out in its form. -/
inductive RawW where
  | raw (w : DWord)
  | std (r : StdW)
  | mem (r : MemW)
  | conv (r : ConvW)
  | pair (r : PairW)
deriving DecidableEq, Repr

/-- The word of a standard form (R140). -/
def StdW.toWord (r : StdW) : DWord :=
  r.op ++ r.sub ++ r.pred ++ BitVec.ofBool r.pneg ++ r.dst ++ r.sa ++ r.sb ++ r.sc ++ r.la ++ r.qc
    ++ BitVec.ofBool r.qe ++ r.kind

/-- The word of a memory form (R147). -/
def MemW.toWord (r : MemW) : DWord :=
  r.op ++ r.sub ++ r.pred ++ BitVec.ofBool r.pneg ++ r.data ++ r.addr ++ r.am ++ r.off ++ r.la ++ r.qc
    ++ BitVec.ofBool r.qe ++ r.scope

/-- The word of a conversion form (R149). -/
def ConvW.toWord (r : ConvW) : DWord :=
  r.op ++ r.slot ++ r.rm ++ BitVec.ofBool r.useslot ++ r.pred ++ BitVec.ofBool r.pneg ++ r.dst ++ r.sa ++ r.sfmt
    ++ r.dfmt ++ r.ss ++ r.ovf ++ r.z2 ++ r.qc ++ BitVec.ofBool r.qe ++ r.z3

/-- The word of a paired form (R150). -/
def PairW.toWord (r : PairW) : DWord :=
  r.g ++ BitVec.ofBool r.gneg ++ BitVec.ofBool r.z ++ r.xop ++ r.xpd ++ r.xpa ++ r.xpb ++ r.yop ++ r.ypd ++ r.ypa
    ++ r.ypb

/-- The word of a form. -/
def RawW.toWord : RawW → DWord
  | .raw w => w
  | .std r => r.toWord
  | .mem r => r.toWord
  | .conv r => r.toWord
  | .pair r => r.toWord

/-- A standard form without an immediate in place of fields. -/
def std0 (op : BitVec 8) (sub : BitVec 6) (c : Ctl) (dst sa sb sc : BitVec 8) : StdW :=
  ⟨op, sub, c.pred, c.pneg, dst, sa, sb, sc, c.la, c.qc, c.qe, 0#3⟩

/-- A standard form with a source B (R143). -/
def stdB (op : BitVec 8) (sub : BitVec 6) (c : Ctl) (dst sa : BitVec 8) (b : SrcB) (sc : BitVec 8) : StdW :=
  match b with
  | .v r => ⟨op, sub, c.pred, c.pneg, dst, sa, r, sc, c.la, c.qc, c.qe, 0#3⟩
  | .w r => ⟨op, sub, c.pred, c.pneg, dst, sa, r.setWidth 8, sc, c.la, c.qc, c.qe, 1#3⟩
  | .s8 i => ⟨op, sub, c.pred, c.pneg, dst, sa, i, sc, c.la, c.qc, c.qe, 2#3⟩
  | .sr r => ⟨op, sub, c.pred, c.pneg, dst, sa, r.code, sc, c.la, c.qc, c.qe, 3#3⟩
  | .i24 i => ⟨op, sub, c.pred, c.pneg, dst, sa, i.extractLsb' 16 8, i.extractLsb' 8 8, i.extractLsb' 4 4,
      i.extractLsb' 1 3, i.getLsbD 0, 4#3⟩

/-- An I32 form (R143). -/
def i32E (op : BitVec 8) (sub : BitVec 6) (g : Grd) (dst : BitVec 8) (i : Word) : StdW :=
  ⟨op, sub, g.pred, g.pneg, dst, i.extractLsb' 24 8, i.extractLsb' 16 8, i.extractLsb' 8 8, i.extractLsb' 4 4,
    i.extractLsb' 1 3, i.getLsbD 0, 5#3⟩

/-- A memory form (R147). -/
def memE (op : BitVec 8) (sub : BitVec 6) (c : Ctl) (data addr : BitVec 8) (am : BitVec 2) (off : BitVec 14)
    (scope : BitVec 3) : MemW :=
  ⟨op, sub, c.pred, c.pneg, data, addr, am, off, c.la, c.qc, c.qe, scope⟩

/-- A conversion form (R149). -/
def convE (op : BitVec 8) (c : CvCtl) (dst sa : BitVec 8) (sf df : BitVec 4) (ss : BitVec 8) : ConvW :=
  ⟨op, c.slot, c.rm.code, c.useslot, c.pred, c.pneg, dst, sa, sf, df, ss, c.ovf, 0#2, c.qc, c.qe, 0#3⟩

/-- A paired form (R150). -/
def pairE (g : Grd) (x y : POp) : PairW :=
  ⟨g.pred, g.pneg, false, x.op.code, x.pd, x.pa, x.pb, y.op.code, y.pd, y.pa, y.pb⟩

/-- ADDR of a memory operand (R148). -/
def MAddr.addrField : MAddr → BitVec 8
  | .ptr a _ => a
  | .desc _ i => i
/-- AM of a memory operand. -/
def MAddr.am : MAddr → BitVec 2
  | .ptr _ _ => 0#2
  | .desc _ _ => 1#2
/-- OFF of a memory operand. -/
def MAddr.offField : MAddr → BitVec 14
  | .ptr _ o => o
  | .desc d _ => d ++ 0#9

/-- The form of an instruction with its fields (R140 to R156); none for an event, which has no word. -/
def Instr.layout (i : Instr) : Option RawW :=
  match i with
  | .clauseIssue _ _ => none
  | .fairnessOverride _ => none
  | .starvationFlag _ => none
  | .instructionComplete _ => none
  | .nop raw => some (.raw (0#8 ++ raw))
  | .mov c d b => some (.std (stdB 1#8 (0#6) c d 0#8 b 0#8))
  | .movi g d imm => some (.std (i32E 2#8 0#6 g d imm))
  | .movw c w b => some (.std (stdB 3#8 (0#6) c (w.setWidth 8) 0#8 b 0#8))
  | .iadd c u sat d a b => some (.std (stdB 4#8 (BitVec.ofBool u ++ BitVec.ofBool sat ++ 0#4) c d a b 0#8))
  | .isub c u sat d a b => some (.std (stdB 5#8 (BitVec.ofBool u ++ BitVec.ofBool sat ++ 0#4) c d a b 0#8))
  | .iaddc c p d a b => some (.std (stdB 6#8 (p) c d a b 0#8))
  | .imul c u sat d a b => some (.std (stdB 7#8 (BitVec.ofBool u ++ BitVec.ofBool sat ++ 0#4) c d a b 0#8))
  | .imulh c u d a b => some (.std (stdB 8#8 (BitVec.ofBool u ++ 0#5) c d a b 0#8))
  | .imad c u sat d a b x => some (.std (stdB 9#8 (BitVec.ofBool u ++ BitVec.ofBool sat ++ 0#4) c d a b x))
  | .imin c u d a b => some (.std (stdB 10#8 (BitVec.ofBool u ++ 0#5) c d a b 0#8))
  | .imax c u d a b => some (.std (stdB 11#8 (BitVec.ofBool u ++ 0#5) c d a b 0#8))
  | .iabs c d b => some (.std (stdB 12#8 (0#6) c d 0#8 b 0#8))
  | .iadd64 c u sat d a b => some (.std (stdB 16#8 (BitVec.ofBool u ++ BitVec.ofBool sat ++ 0#4) c d a b 0#8))
  | .imad64 c u sat d a b x => some (.std (stdB 34#8 (BitVec.ofBool u ++ BitVec.ofBool sat ++ 0#4) c d a b x))
  | .lea c sh d a b => some (.std (stdB 15#8 (sh ++ 0#3) c d a b 0#8))
  | .icmp c cond u cmb d a b => some (.std (stdB 13#8 (cond.code ++ BitVec.ofBool u ++ cmb.code) c (d.setWidth 8) a b cmb.field))
  | .isel c p d a b => some (.std (stdB 14#8 (p) c d a b 0#8))
  | .land c d a b => some (.std (stdB 17#8 (0#6) c d a b 0#8))
  | .lor c d a b => some (.std (stdB 18#8 (0#6) c d a b 0#8))
  | .lxor c d a b => some (.std (stdB 19#8 (0#6) c d a b 0#8))
  | .landn c d a b => some (.std (stdB 20#8 (0#6) c d a b 0#8))
  | .lnot c d b => some (.std (stdB 21#8 (0#6) c d 0#8 b 0#8))
  | .shl c d a b => some (.std (stdB 22#8 (0#6) c d a b 0#8))
  | .shr c d a b => some (.std (stdB 23#8 (0#6) c d a b 0#8))
  | .sar c d a b => some (.std (stdB 24#8 (0#6) c d a b 0#8))
  | .rot c d a b => some (.std (stdB 25#8 (0#6) c d a b 0#8))
  | .bfe c u d a b x => some (.std (stdB 26#8 (BitVec.ofBool u ++ 0#5) c d a b x))
  | .bfi c d a b x => some (.std (stdB 27#8 (0#6) c d a b x))
  | .popc c d b => some (.std (stdB 28#8 (0#6) c d 0#8 b 0#8))
  | .clz c d b => some (.std (stdB 29#8 (0#6) c d 0#8 b 0#8))
  | .brev c d b => some (.std (stdB 30#8 (0#6) c d 0#8 b 0#8))
  | .perm c d a b x => some (.std (stdB 31#8 (0#6) c d a b x))
  | .plop c p3 d p1 p2 table => some (.std (std0 32#8 (p3) c (d.setWidth 8) (p1.setWidth 8) (p2.setWidth 8) table))
  | .pmov c (.save hi d) => some (.std (std0 33#8 (0#1 ++ BitVec.ofBool hi ++ 0#4) c d 0#8 0#8 0#8))
  | .pmov c (.load hi b) => some (.std (std0 33#8 (1#1 ++ BitVec.ofBool hi ++ 0#4) c 0#8 0#8 b 0#8))
  | .fadd c na d a b => some (.std (stdB 48#8 (BitVec.ofBool na ++ 0#5) c d a b 0#8))
  | .fsub c na d a b => some (.std (stdB 49#8 (BitVec.ofBool na ++ 0#5) c d a b 0#8))
  | .fmul c na d a b => some (.std (stdB 50#8 (BitVec.ofBool na ++ 0#5) c d a b 0#8))
  | .ffma c na nc d a b x => some (.std (stdB 51#8 (BitVec.ofBool na ++ BitVec.ofBool nc ++ 0#4) c d a b x))
  | .fmin c d a b => some (.std (stdB 52#8 (0#6) c d a b 0#8))
  | .fmax c d a b => some (.std (stdB 53#8 (0#6) c d a b 0#8))
  | .fclamp c d a b x => some (.std (stdB 63#8 (0#6) c d a b x))
  | .fcmp c cond cmb d a b => some (.std (stdB 54#8 (cond.code ++ 0#1 ++ cmb.code) c (d.setWidth 8) a b cmb.field))
  | .frnd c rm d b => some (.std (stdB 55#8 (rm.code ++ 0#4) c d 0#8 b 0#8))
  | .frcp c d b => some (.std (stdB 56#8 (0#6) c d 0#8 b 0#8))
  | .frsq c d b => some (.std (stdB 57#8 (0#6) c d 0#8 b 0#8))
  | .fsqrt c d b => some (.std (stdB 58#8 (0#6) c d 0#8 b 0#8))
  | .fex2 c d b => some (.std (stdB 59#8 (0#6) c d 0#8 b 0#8))
  | .flg2 c d b => some (.std (stdB 60#8 (0#6) c d 0#8 b 0#8))
  | .fsin c d b => some (.std (stdB 61#8 (0#6) c d 0#8 b 0#8))
  | .fcos c d b => some (.std (stdB 62#8 (0#6) c d 0#8 b 0#8))
  | .hadd2 c bf d a b => some (.std (stdB 64#8 (BitVec.ofBool bf ++ 0#5) c d a b 0#8))
  | .hmul2 c bf d a b => some (.std (stdB 65#8 (BitVec.ofBool bf ++ 0#5) c d a b 0#8))
  | .hfma2 c bf d a b x => some (.std (stdB 66#8 (BitVec.ofBool bf ++ 0#5) c d a b x))
  | .hminmax2 c bf mx d a b => some (.std (stdB 68#8 (BitVec.ofBool bf ++ BitVec.ofBool mx ++ 0#4) c d a b 0#8))
  | .hcmp2 c bf cond cmb d a b => some (.std (stdB 67#8 (BitVec.ofBool bf ++ cond.code ++ cmb.code) c (d.setWidth 8) a b cmb.field))
  | .cvt c d a sf df => some (.conv (convE 72#8 c d a sf.code df.code 0#8))
  | .cvtpk c d a df => some (.conv (convE 73#8 c d a 0#4 df.code 0#8))
  | .cvtup c d a sf => some (.conv (convE 74#8 c d a sf.code 0#4 0#8))
  | .scaleq c d a df ss => some (.conv (convE 75#8 c d a 0#4 df.code ss))
  | .descale c d a sf ss => some (.conv (convE 76#8 c d a sf.code 0#4 ss))
  | .dp4 c sat ua ub d a b x => some (.std (stdB 80#8 (BitVec.ofBool sat ++ BitVec.ofBool ua ++ BitVec.ofBool ub ++ 0#3) c d a b x))
  | .dp8 c sat ua ub d a b x => some (.std (stdB 81#8 (BitVec.ofBool sat ++ BitVec.ofBool ua ++ BitVec.ofBool ub ++ 0#3) c d a b x))
  | .dp2h c bf d a b x => some (.std (stdB 82#8 (BitVec.ofBool bf ++ 0#5) c d a b x))
  | .shfl c mode d a b mm => some (.std (stdB 88#8 (mode.code ++ 0#4) c d a b mm))
  | .vote c mode d p mm => some (.std (std0 89#8 (mode.code ++ 0#4) c d (p.setWidth 8) 0#8 mm))
  | .redl c op d p b mm => some (.std (std0 90#8 (op.code ++ 0#2) c d (p.setWidth 8) b mm))
  | .scanl c op excl d p b mm => some (.std (std0 91#8 (op.code ++ BitVec.ofBool excl ++ 0#1) c d (p.setWidth 8) b mm))
  | .matchl c w64 d b mm => some (.std (std0 92#8 (BitVec.ofBool w64 ++ 0#5) c d 0#8 b mm))
  | .elect c d mm => some (.std (std0 93#8 (0#6) c (d.setWidth 8) 0#8 0#8 mm))
  | .actmask c d mm => some (.std (std0 94#8 (0#6) c d 0#8 0#8 mm))
  | .bra g imm => some (.std (i32E 96#8 0#6 g 0#8 imm))
  | .brp g p imm => some (.std (i32E 97#8 p g 0#8 imm))
  | .call g d imm => some (.std (i32E 99#8 0#6 g d imm))
  | .brx c b => some (.std (std0 98#8 (0#6) c 0#8 0#8 b 0#8))
  | .calli c d b => some (.std (std0 100#8 (0#6) c d 0#8 b 0#8))
  | .ret c b => some (.std (std0 101#8 (0#6) c 0#8 0#8 b 0#8))
  | .exit c => some (.std (std0 102#8 (0#6) c 0#8 0#8 0#8 0#8))
  | .yield_ c => some (.std (std0 103#8 (0#6) c 0#8 0#8 0#8 0#8))
  | .sleepn c b => some (.std (stdB 111#8 (0#6) c 0#8 0#8 b 0#8))
  | .sleepnDeadline _ => none
  | .lnmark c b => some (.std (stdB 107#8 (0#6) c 0#8 0#8 b 0#8))
  | .rbacq c d b => some (.std (stdB 108#8 (0#6) c (d.setWidth 8) 0#8 b 0#8))
  | .rbrel c b => some (.std (stdB 109#8 (0#6) c 0#8 0#8 b 0#8))
  | .rbqry c d => some (.std (std0 110#8 (0#6) c d 0#8 0#8 0#8))
  | .kdecl c k a b => some (.std (stdB 104#8 (0#6) c (k.setWidth 8) a b 0#8))
  | .sign c d k => some (.std (std0 105#8 (0#6) c d (k.setWidth 8) 0#8 0#8))
  | .waitk c k b => some (.std (stdB 106#8 (0#6) c 0#8 (k.setWidth 8) b 0#8))
  | .ld c w sx data addr off scope => some (.mem (memE 112#8 (w.code ++ BitVec.ofBool sx ++ 0#2) c data addr 0#2 off scope))
  | .st c w data addr off scope => some (.mem (memE 113#8 (w.code ++ 0#3) c data addr 0#2 off scope))
  | .ldb c w sx data dn i scope => some (.mem (memE 114#8 (w.code ++ BitVec.ofBool sx ++ 0#2) c data i 1#2 (dn ++ 0#9) scope))
  | .stb c w data dn i scope => some (.mem (memE 115#8 (w.code ++ 0#3) c data i 1#2 (dn ++ 0#9) scope))
  | .lds c w sx data addr off scope => some (.mem (memE 116#8 (w.code ++ BitVec.ofBool sx ++ 0#2) c data addr 2#2 off scope))
  | .sts c w data addr off scope => some (.mem (memE 117#8 (w.code ++ 0#3) c data addr 2#2 off scope))
  | .ldc c w sx data addr off scope => some (.mem (memE 118#8 (w.code ++ BitVec.ofBool sx ++ 0#2) c data addr 2#2 off scope))
  | .stc c w data addr off scope => some (.mem (memE 119#8 (w.code ++ 0#3) c data addr 2#2 off scope))
  | .pref c addr off => some (.mem (memE 120#8 0#6 c 0#8 addr 0#2 off 1#3))
  | .tagst c data addr off scope => some (.mem (memE 125#8 0#6 c data addr 0#2 off scope))
  | .tagld c data addr off scope => some (.mem (memE 126#8 0#6 c data addr 0#2 off scope))
  | .dload c dn addr off scope => some (.mem (memE 142#8 0#6 c (dn.setWidth 8) addr 0#2 off scope))
  | .dqry c d dn b => some (.std (stdB 143#8 (0#6) c d (dn.setWidth 8) b 0#8))
  | .cpy c s2g gather esz a b x => some (.std (stdB 121#8 (BitVec.ofBool s2g ++ BitVec.ofBool gather ++ esz ++ 0#1) c 0#8 a b x))
  | .cpyg c gather esz a b x => some (.std (stdB 122#8 (0#1 ++ BitVec.ofBool gather ++ esz ++ 0#1) c 0#8 a b x))
  | .cpyt c s2t dn b x => some (.std (stdB 123#8 (BitVec.ofBool s2t ++ 0#5) c 0#8 (dn.setWidth 8) b x))
  | .copyRoom _ => none
  | .copyLineLands _ => none
  | .copyComplete _ => none
  | .disct c b => some (.std (stdB 124#8 (0#6) c 0#8 0#8 b 0#8))
  | .cacheopWb c a b => some (.std (stdB 127#8 (0#3 ++ 0#3) c 0#8 a b 0#8))
  | .cacheopWbinv c a b => some (.std (stdB 127#8 (1#3 ++ 0#3) c 0#8 a b 0#8))
  | .cacheopIcinv c a b => some (.std (stdB 127#8 (2#3 ++ 0#3) c 0#8 a b 0#8))
  | .texs c d a b dn => some (.std (stdB 128#8 (0#6) c d a b (dn.setWidth 8)))
  | .texl c d a b dn => some (.std (stdB 129#8 (0#6) c d a b (dn.setWidth 8)))
  | .texf c d a dn => some (.std (std0 130#8 (0#6) c d a 0#8 (dn.setWidth 8)))
  | .surfst c a b dn => some (.std (std0 131#8 (0#6) c 0#8 a b (dn.setWidth 8)))
  | .atom c w64 op data ad scope => some (.mem (memE 136#8 (BitVec.ofBool w64 ++ op.code) c data ad.addrField ad.am ad.offField scope))
  | .atomc c w64 data ad scope => some (.mem (memE 137#8 (BitVec.ofBool w64 ++ 0#5) c data ad.addrField ad.am ad.offField scope))
  | .red c w64 op data ad scope => some (.mem (memE 138#8 (BitVec.ofBool w64 ++ op.code) c data ad.addrField ad.am ad.offField scope))
  | .couchedApply _ => none
  | .waitc c w64 cond u data addr off scope => some (.mem (memE 139#8 (BitVec.ofBool w64 ++ cond.code ++ BitVec.ofBool u ++ 0#1) c data addr 0#2 off scope))
  | .monitorWake _ => none
  | .waitcTimeout _ => none
  | .monitorReevaluate _ => none
  | .fenceAcq c scope => some (.mem (memE 140#8 0#6 c 0#8 0#8 0#2 0#14 scope))
  | .fenceRel c scope => some (.mem (memE 140#8 16#6 c 0#8 0#8 0#2 0#14 scope))
  | .fenceAr c scope => some (.mem (memE 140#8 32#6 c 0#8 0#8 0#2 0#14 scope))
  | .fenceRef c scope => some (.mem (memE 140#8 48#6 c 0#8 0#8 0#2 0#14 scope))
  | .time c d => some (.std (std0 141#8 (0#6) c d 0#8 0#8 0#8))
  | .bar c n b => some (.std (stdB 144#8 (n ++ 0#2) c 0#8 0#8 b 0#8))
  | .barc c => some (.std (std0 145#8 (0#6) c 0#8 0#8 0#8 0#8))
  | .barg c => some (.std (std0 146#8 (0#6) c 0#8 0#8 0#8 0#8))
  | .osenter c d a b => some (.std (stdB 147#8 (0#6) c (d.setWidth 8) a b 0#8))
  | .osleave c a => some (.std (std0 148#8 (0#6) c 0#8 a 0#8 0#8))
  | .osabort c a => some (.std (std0 149#8 (0#6) c 0#8 a 0#8 0#8))
  | .osstat c clrp d a => some (.std (std0 150#8 (BitVec.ofBool clrp ++ 0#5) c d a 0#8 0#8))
  | .launch c a b => some (.std (stdB 151#8 (0#6) c 0#8 a b 0#8))
  | .amsend c a b => some (.std (stdB 152#8 (0#6) c 0#8 a b 0#8))
  | .amdone c => some (.std (std0 153#8 (0#6) c 0#8 0#8 0#8 0#8))
  | .messageHandlerSpawn _ _ => none
  | .mma c f reuse x a b k => some (.std (std0 160#8 (f ++ BitVec.ofBool reuse ++ 0#2) c (x.setWidth 8) a b (k.setWidth 8)))
  | .mmac c f reuse x a b k => some (.std (std0 161#8 (f ++ BitVec.ofBool reuse ++ 0#2) c (x.setWidth 8) a b (k.setWidth 8)))
  | .matrixPass _ => none
  | .reservationRaise _ _ => none
  | .accz c x => some (.std (std0 162#8 (0#6) c (x.setWidth 8) 0#8 0#8 0#8))
  | .accld c f x b => some (.std (stdB 163#8 (f ++ 0#3) c (x.setWidth 8) 0#8 b 0#8))
  | .accst c f x b => some (.std (stdB 164#8 (f ++ 0#3) c 0#8 (x.setWidth 8) b 0#8))
  | .accrd c d x b => some (.std (stdB 165#8 (0#6) c d (x.setWidth 8) b 0#8))
  | .accwr c x a b => some (.std (stdB 166#8 (0#6) c (x.setWidth 8) a b 0#8))
  | .mperm c f d b => some (.std (stdB 167#8 (f ++ 0#3) c d 0#8 b 0#8))
  | .fmtq c f x b => some (.std (stdB 168#8 (f ++ 0#3) c 0#8 (x.setWidth 8) b 0#8))
  | .eqopen c d a => some (.std (std0 176#8 (0#6) c d a 0#8 0#8))
  | .unite c d a b x => some (.std (stdB 177#8 (0#6) c d a b x))
  | .find c d a x => some (.std (std0 178#8 (0#6) c d a 0#8 x))
  | .eqsize c d a x => some (.std (std0 179#8 (0#6) c d a 0#8 x))
  | .relabel c op d a x => some (.std (std0 180#8 (op.code ++ 0#3) c d a 0#8 x))
  | .eqsnap c b x => some (.std (stdB 181#8 (0#6) c 0#8 0#8 b x))
  | .equndo c x => some (.std (std0 182#8 (0#6) c 0#8 0#8 0#8 x))
  | .eqclose c x => some (.std (std0 183#8 (0#6) c 0#8 0#8 0#8 x))
  | .eqvApply _ => none
  | .trace c d a b => some (.std (std0 184#8 (0#6) c d a b 0#8))
  | .rayComplete _ => none
  | .shaderGroupSpawn _ _ _ => none
  | .trwait c d b => some (.std (stdB 185#8 (0#6) c d 0#8 b 0#8))
  | .trhitGet c d => some (.std (std0 186#8 (0#1 ++ 0#5) c d 0#8 0#8 0#8))
  | .trhitRet c b => some (.std (stdB 186#8 (1#1 ++ 0#5) c 0#8 0#8 b 0#8))
  | .boxt c d a b => some (.std (std0 187#8 (0#6) c d a b 0#8))
  | .trit c cb cf d a b => some (.std (std0 188#8 (BitVec.ofBool cb ++ BitVec.ofBool cf ++ 0#4) c d a b 0#8))
  | .xform c d a b => some (.std (std0 189#8 (0#6) c d a b 0#8))
  | .shadow c n a b x => some (.std (std0 190#8 (n ++ 0#4) c 0#8 a b x))
  | .shadowRayTest _ => none
  | .rng c n unit d a b => some (.std (stdB 191#8 (n ++ BitVec.ofBool unit ++ 0#2) c d a b 0#8))
  | .coll c d a => some (.std (std0 192#8 (0#6) c d a 0#8 0#8))
  | .collectiveComplete _ _ => none
  | .collw c d b => some (.std (stdB 193#8 (0#6) c d 0#8 b 0#8))
  | .resid c a b x => some (.std (stdB 194#8 (0#6) c 0#8 a b x))
  | .getsr c d b => some (.std (stdB 224#8 (0#6) c d 0#8 b 0#8))
  | .setsr c n b => some (.std (stdB 225#8 (0#6) c ((BitVec.ofBool n).setWidth 8) 0#8 b 0#8))
  | .trap c b => some (.std (stdB 226#8 (0#6) c 0#8 0#8 b 0#8))
  | .bkpt c => some (.std (std0 228#8 (0#6) c 0#8 0#8 0#8 0#8))
  | .rett c b => some (.std (std0 227#8 (0#6) c 0#8 0#8 b 0#8))
  | .tlbinv c a b x => some (.std (stdB 229#8 (0#6) c 0#8 a b x))
  | .lpsweep c b => some (.std (stdB 230#8 (0#6) c 0#8 0#8 b 0#8))
  | .digest c d => some (.std (std0 231#8 (0#6) c d 0#8 0#8 0#8))
  | .ctxsave c b => some (.std (stdB 232#8 (0#6) c 0#8 0#8 b 0#8))
  | .ctxload c b => some (.std (stdB 233#8 (0#6) c 0#8 0#8 b 0#8))
  | .halt c => some (.std (std0 234#8 (0#6) c 0#8 0#8 0#8 0#8))
  | .pairFadd g d a b y => some (.pair (pairE g ⟨.fadd, d, a, b⟩ y))
  | .pairFmul g d a b y => some (.pair (pairE g ⟨.fmul, d, a, b⟩ y))
  | .pairFfma g d a b y => some (.pair (pairE g ⟨.ffma, d, a, b⟩ y))
  | .pairIadd g d a b y => some (.pair (pairE g ⟨.iadd, d, a, b⟩ y))
  | .pairAnd g d a b y => some (.pair (pairE g ⟨.and, d, a, b⟩ y))
  | .pairOr g d a b y => some (.pair (pairE g ⟨.or, d, a, b⟩ y))
  | .pairXor g d a b y => some (.pair (pairE g ⟨.xor, d, a, b⟩ y))
  | .pairShl g d a b y => some (.pair (pairE g ⟨.shl, d, a, b⟩ y))
  | .pairMov g d a y => some (.pair (pairE g ⟨.mov, d, a, 0#8⟩ y))
  | .pairIsel g d a b y => some (.pair (pairE g ⟨.isel, d, a, b⟩ y))
  | .handlerSpawn _ _ _ => none
  | .storeWritebackTimeout _ _ => none
  | .lineEviction _ _ => none
  | .leaseExpiry _ _ => none
  | .launchHeadCheck _ _ => none
  | .launchWaitsHold _ _ => none
  | .placeCluster _ _ => none
  | .tileJob _ => none
  | .placementReservation _ => none
  | .priorityPreempt _ => none
  | .swapOut _ => none
  | .timeSlicePreempt _ => none
  | .preemptTeam _ => none
  | .restoreTeam _ _ => none
  | .launchComplete _ => none
  | .orderedStall _ => none
  | .timeAgreementCheck _ => none
  | .guardExit _ => none
  | .dramScrub _ _ => none
  | .healthSample _ _ _ => none
  | .faultRecordWrite _ => none
  | .errorRecordWrite _ => none
  | .hostApertureAccess _ _ => none
  | .hostSnoop _ _ => none
  | .peerRequest _ _ _ => none
  | .flitCrcFail _ => none
  | .linkDown _ _ => none
  | .portFailure _ => none
  | .pcieLinkDown _ => none
  | .boot _ => none
  | .doorbell _ _ _ => none
  | .contextEnable _ => none
  | .contextDisable _ => none
  | .plimitWrite _ => none
  | .monitorClear _ _ => none
  | .quote => none
  | .quoteDone => none
  | .kill _ => none
  | .killComplete _ => none
  | .resume _ => none
  | .hfrzWrite _ => none
  | .faultRetry _ => none
  | .faultFail _ => none
  | .faultRingDisable => none
  | .errorRetry _ => none
  | .errorFreeze _ => none
  | .errorRingDisable => none
  | .watchWrite _ _ _ => none
  | .cbbaseWrite _ => none
  | .lcstatClear _ => none
  | .errcntClear _ => none
  | .registerWrite _ _ _ => none
  | .idcode => none
  | .debugFreeze => none
  | .debugRelease => none
  | .chainsel _ => none
  | .chainrd _ => none
  | .bypass _ _ => none
  | .haltMarkClear _ => none
  | .hostLinkTrained _ _ => none
  | .samplePreload _ => none
  | .extest _ => none

/-- The word of an instruction; none for an event. -/
def encode (i : Instr) : Option DWord := i.layout.map RawW.toWord

/-- The instruction is a paired word: its header's PAIR bit is set (R134). -/
def Instr.paired (i : Instr) : Bool :=
  match i.layout with
  | some (.pair _) => true
  | _ => false

end Sys2Proof
end

