-- ==== Sys2Proof/Machine/Num.lean ====
section
/-! DEFINITION. Number formats, exact arithmetic and rounding (R109 to R132). -/

namespace Sys2Proof

/-- A decoded value: NaN, an infinity, or a finite value, given by its sign and magnitude so that zero keeps its sign
(R110, R113, R131). -/
inductive Num where
  | nan
  | inf (neg : Bool)
  | fin (neg : Bool) (mag : Rat)
deriving DecidableEq, Repr

/-- +0. -/
def Num.zero : Num := .fin false 0
/-- 1. -/
def Num.one : Num := .fin false 1

/-- Two to an integer power, exactly. -/
def pow2 (e : Int) : Rat := if 0 ≤ e then (2 ^ e.toNat : Nat) else 1 / ((2 ^ (-e).toNat : Nat) : Rat)

/-- Floor(Log2(q)) of a positive rational. -/
def floorLog2 (q : Rat) : Int :=
  let k : Int := (Nat.log2 q.num.natAbs : Int) - (Nat.log2 q.den : Int)
  if pow2 k ≤ q then k else k - 1

/-- The finite value of a rational; a zero result is +0 (R113). -/
def Num.ofRat (q : Rat) : Num := if q < 0 then .fin true (-q) else .fin false q

/-- An integer as a value. -/
def Num.ofInt (i : Int) : Num := Num.ofRat i

/-- The signed rational of a finite value. -/
def Num.toRat : Num → Rat
  | .fin n m => if n then -m else m
  | _ => 0

/-- The value is NaN. -/
def Num.isNan : Num → Bool
  | .nan => true | _ => false
/-- The value is infinite. -/
def Num.isInf : Num → Bool
  | .inf _ => true | _ => false
/-- The value is a zero of either sign. -/
def Num.isZero : Num → Bool
  | .fin _ m => m == 0 | _ => false
/-- Sign of a value; NaN has none. -/
def Num.neg? : Num → Bool
  | .nan => false | .inf n => n | .fin n _ => n

/-- Sign flip, on zeros and infinities too (R170). -/
def Num.negate : Num → Num
  | .nan => .nan | .inf n => .inf (!n) | .fin n m => .fin (!n) m

/-- Magnitude. -/
def Num.abs : Num → Num
  | .nan => .nan | .inf _ => .inf false | .fin _ m => .fin false m

/-- Exact product; 0·∞ is NaN (R170). -/
def Num.mul (x y : Num) : Num :=
  match x, y with
  | .nan, _ => .nan
  | _, .nan => .nan
  | .inf a, .inf b => .inf (a != b)
  | .inf a, .fin b m => if m == 0 then .nan else .inf (a != b)
  | .fin a m, .inf b => if m == 0 then .nan else .inf (a != b)
  | .fin a m, .fin b n => .fin (a != b) (m * n)

/-- Exact quotient; x/0 and ∞/x as the limits give, 0/0 and ∞/∞ NaN. -/
def Num.div (x y : Num) : Num :=
  match x, y with
  | .nan, _ => .nan
  | _, .nan => .nan
  | .inf _, .inf _ => .nan
  | .inf a, .fin b _ => .inf (a != b)
  | .fin a _, .inf b => .fin (a != b) 0
  | .fin a m, .fin b n =>
    if n == 0 then (if m == 0 then .nan else .inf (a != b)) else .fin (a != b) (m / n)

/-- Exact sum of several terms with the special values of R127: NaN, infinities of one sign or of both; −0 only where
every term is −0 (R126, R185). -/
def Num.sum (ts : List Num) : Num :=
  if ts.any Num.isNan then .nan
  else
    let p := ts.any fun t => t.isInf && !t.neg?
    let n := ts.any fun t => t.isInf && t.neg?
    if p && n then .nan else if p then .inf false else if n then .inf true
    else
      let s := ts.foldl (fun a t => a + t.toRat) (0 : Rat)
      if s == 0 then .fin (!ts.isEmpty && ts.all fun t => t.isZero && t.neg?) 0 else Num.ofRat s

/-- Exact sum of two terms: x + (−x) is +0 under RN (R113). -/
def Num.add (x y : Num) : Num := Num.sum [x, y]

/-- Order of two values that are not NaN, −0 below +0 (R171). -/
def Num.below (x y : Num) : Bool :=
  match x, y with
  | .nan, _ => false
  | _, .nan => false
  | .inf a, .inf b => a && !b
  | .inf a, .fin _ _ => a
  | .fin _ _, .inf b => !b
  | .fin a _, .fin b _ => if x.toRat == y.toRat then a && !b else decide (x.toRat < y.toRat)

/-- The lesser operand (R171). -/
def Num.min (x y : Num) : Num := if x.isNan then y else if y.isNan then x else if x.below y then x else y
/-- The greater operand (R171). -/
def Num.max (x y : Num) : Num := if x.isNan then y else if y.isNan then x else if x.below y then y else x

/-- x < y with −0 equal to +0; false when either is NaN (R172). -/
def Num.lt (x y : Num) : Bool := x.below y && !(x.isZero && y.isZero)
/-- x = y with −0 equal to +0; false when either is NaN (R172). -/
def Num.eq (x y : Num) : Bool := !x.isNan && !y.isNan && !x.lt y && !y.lt x

/-! Formats -/

/-- Exponent bits, fraction bits and bias of a floating-point format (R110). -/
structure FpShape where
  eb   : Nat
  fb   : Nat
  bias : Int
deriving DecidableEq, Repr

/-- Shape of a floating-point format (R110); none for the integer formats and E8M0. -/
def Fmt.shape : Fmt → Option FpShape
  | .fp32 => some ⟨8, 23, 127⟩ | .fp16 => some ⟨5, 10, 15⟩ | .bf16 => some ⟨8, 7, 127⟩
  | .e4m3 => some ⟨4, 3, 7⟩ | .e5m2 => some ⟨5, 2, 15⟩ | .e2m1 => some ⟨2, 1, 1⟩
  | _ => none

/-- The format has infinities (R110). -/
def Fmt.hasInf : Fmt → Bool
  | .fp32 => true | .fp16 => true | .bf16 => true | .e5m2 => true | _ => false

/-- The format has NaNs (R110, R111). -/
def Fmt.hasNan : Fmt → Bool
  | .fp32 => true | .fp16 => true | .bf16 => true | .e5m2 => true | .e4m3 => true | .e8m0 => true | _ => false

/-- Canonical NaN (R110, R111); zero where the format has none. -/
def canonNan : Fmt → Nat
  | .fp32 => 0x7FC00000 | .fp16 => 0x7E00 | .bf16 => 0x7FC0 | .e4m3 => 0x7F | .e5m2 => 0x7E | .e8m0 => 0xFF | _ => 0

/-- Encoding of the largest finite value (R110). -/
def maxFiniteBits : Fmt → Nat
  | .fp32 => 0x7F7FFFFF | .fp16 => 0x7BFF | .bf16 => 0x7F7F | .e4m3 => 0x7E | .e5m2 => 0x7B | .e2m1 => 0x7
  | .i8 => 127 | .n8 => 255 | .i4 => 7 | .n4 => 15 | .e8m0 => 0xFE

/-- Encoding of +∞, where the format has one. -/
def infBits : Fmt → Nat
  | .fp32 => 0x7F800000 | .fp16 => 0x7C00 | .bf16 => 0x7F80 | .e5m2 => 0x7C | _ => 0

/-- Range of an integer format (R111). -/
def Fmt.intRange : Fmt → Option (Int × Int)
  | .i8 => some (-128, 127) | .n8 => some (0, 255) | .i4 => some (-8, 7) | .n4 => some (0, 15) | _ => none

/-- Value of a floating-point encoding (R110). -/
def decodeFp (f : Fmt) (s : FpShape) (b : Nat) : Num :=
  let frac := b % 2 ^ s.fb
  let e := b / 2 ^ s.fb % 2 ^ s.eb
  let neg := b.testBit (s.eb + s.fb)
  let top := 2 ^ s.eb - 1
  if f == .e4m3 && e == top && frac == 7 then .nan
  else if f.hasInf && e == top then (if frac == 0 then .inf neg else .nan)
  else if e == 0 then .fin neg (pow2 (1 - s.bias) * (frac : Rat) / (2 ^ s.fb : Nat))
  else .fin neg (pow2 ((e : Int) - s.bias) * (1 + (frac : Rat) / (2 ^ s.fb : Nat)))

/-- Decode(bits, fmt) of R131 (R110, R111). -/
def decodeNum (f : Fmt) (b : Nat) : Num :=
  match f.shape with
  | some s => decodeFp f s b
  | none =>
    match f with
    | .i8 => .ofInt (BitVec.ofNat 8 b).toInt
    | .n8 => .ofInt (b % 256 : Nat)
    | .i4 => .ofInt (BitVec.ofNat 4 b).toInt
    | .n4 => .ofInt (b % 16 : Nat)
    | _ => if b % 256 == 255 then .nan else .fin false (pow2 ((b % 256 : Nat) - 127))

/-- Decode of an FP32 register. -/
def fp32 (w : Word) : Num := decodeNum .fp32 w.toNat

/-- Rounding of a magnitude given as a count of quanta, for a result of that sign (R115). -/
def roundQuanta (rm : Rm) (neg : Bool) (n : Rat) : Nat :=
  let lo := n.floor.toNat
  let r := n - lo
  if r == 0 then lo
  else
    let up := match rm with
      | .rn => if r == 1 / 2 then lo % 2 == 1 else decide (1 / 2 < r)
      | .rz => false
      | .ru => !neg
      | .rd => neg
    if up then lo + 1 else lo

/-- Encoding of a sign and a magnitude that the format holds exactly. -/
def encodeFp (s : FpShape) (neg : Bool) (mag : Rat) : Nat :=
  let sgn := if neg then 2 ^ (s.eb + s.fb) else 0
  if mag == 0 then sgn
  else
    let e := floorLog2 mag
    if e < 1 - s.bias then sgn + (mag / pow2 (1 - s.bias) * (2 ^ s.fb : Nat)).floor.toNat
    else sgn + (e + s.bias).toNat * 2 ^ s.fb + ((mag / pow2 e - 1) * (2 ^ s.fb : Nat)).floor.toNat

/-- Sign bit of an encoding. -/
def withSign (f : Fmt) (neg : Bool) (b : Nat) : Nat := if neg then b + 2 ^ (f.bits - 1) else b

/-- Round(x, fmt, rm, ovf) of R131 for a floating-point format (R115 to R117); none is CONVERT_TRAP. -/
def roundFp (f : Fmt) (s : FpShape) (rm : Rm) (ovf : Nat) (x : Num) : Option Nat :=
  match x with
  | .nan => if f.hasNan then some (canonNan f) else if ovf == 3 then none else some 0
  | .inf neg =>
    if f.hasInf then some (withSign f neg (infBits f))
    else if ovf == 3 then none
    else if ovf == 0 || !f.hasNan then some (withSign f neg (maxFiniteBits f))
    else some (canonNan f)
  | .fin neg m =>
    if m == 0 then some (withSign f neg 0)
    else
      let q := pow2 (max (floorLog2 m) (1 - s.bias) - s.fb)
      let r : Rat := (roundQuanta rm neg (m / q) : Rat) * q
      if r ≤ (decodeFp f s (maxFiniteBits f)).toRat then some (encodeFp s neg r)
      else
        let big := withSign f neg (maxFiniteBits f)
        let toward := rm == .rz || (rm == .rd && !neg) || (rm == .ru && neg)
        match ovf with
        | 0 => some big
        | 1 => if f.hasInf then some (if toward then big else withSign f neg (infBits f))
               else if f.hasNan then some (canonNan f) else some big
        | 2 => if f.hasNan then some (canonNan f) else some big
        | _ => none

/-- Rounding to an integer with a mode. -/
def roundInt (rm : Rm) (neg : Bool) (m : Rat) : Int :=
  let n : Int := roundQuanta rm neg m
  if neg then -n else n

/-- Round(x, fmt, rm, ovf) for an integer format (R118); none is CONVERT_TRAP. -/
def roundToInt (w : Nat) (lo hi : Int) (rm : Rm) (ovf : Nat) (x : Num) : Option Nat :=
  let enc (i : Int) : Nat := (BitVec.ofInt w i).toNat
  match x with
  | .nan => if ovf == 3 then none else some 0
  | .inf neg => if ovf == 3 then none else some (enc (if neg then lo else hi))
  | .fin neg m =>
    let i := roundInt rm neg m
    if i < lo then (if ovf == 3 then none else some (enc lo))
    else if hi < i then (if ovf == 3 then none else some (enc hi))
    else some (enc i)

/-- Round(x, fmt, rm, ovf) of R131; none is CONVERT_TRAP. E8M0 is no destination of a conversion (R122). -/
def roundNum (f : Fmt) (rm : Rm) (ovf : Nat) (x : Num) : Option Nat :=
  match f.shape with
  | some s => roundFp f s rm ovf x
  | none =>
    match f.intRange with
    | some (lo, hi) => roundToInt f.bits lo hi rm ovf x
    | none => some (canonNan f)

/-- RoundNE(x, fmt) of R131. -/
def roundNE (f : Fmt) (x : Num) : Nat := (roundNum f .rn 1 x).getD 0

/-- RoundNE(x, FP32) as a register. -/
def toFp32 (x : Num) : Word := BitVec.ofNat 32 (roundNE .fp32 x)

/-- MaxFinite(fmt) of R131. -/
def maxFinite (f : Fmt) : Num := decodeNum f (maxFiniteBits f)

/-! Block scaling (R119, R124) -/

/-- Value of a scale: E8M0, or E4M3 with a set sign bit read as NaN (R119). -/
def decodeScale (e4m3 : Bool) (b : Nat) : Num :=
  if e4m3 then (if b.testBit 7 then .nan else decodeNum .e4m3 (b % 256)) else decodeNum .e8m0 b

/-- An element under a scale (R119): a NaN scale makes it NaN, a zero scale a zero of the element's sign. -/
def scaled (x sc : Num) : Num :=
  if sc.isNan || x.isNan then .nan
  else if sc.isZero then .fin x.neg? 0
  else x.mul sc

/-- Emax of R124, which gives it for five formats. A COLL with WIRE can quantise under an E8M0 scale to N8, N4, FP32, FP16 or
BF16 too, whose Emax is a free value (log 70). -/
def emaxOf : Fmt → Int
  | .e4m3 => 8 | .e5m2 => 15 | .e2m1 => 2 | .i8 => 6 | .i4 => 2
  | f => Config.emax f.code.toNat

/-- Block quantisation (R124): the scale encoding and the elements; none is CONVERT_TRAP. -/
def quantBlock (f : Fmt) (e4m3 : Bool) (rm : Rm) (ovf : Nat) (xs : List Num) : Option (Nat × List Nat) :=
  if xs.any fun x => x.isNan || x.isInf then
    some (if e4m3 then 0x7F else 0xFF, xs.map fun _ => 0)
  else
    let amax := xs.foldl (fun a x => if a < x.abs.toRat then x.abs.toRat else a) (0 : Rat)
    if amax == 0 then some (if e4m3 then 0x38 else 0x7F, xs.map fun _ => 0)
    else
      let sc : Nat :=
        if e4m3 then (roundNum .e4m3 .ru 0 (Num.div (.fin false amax) (maxFinite f))).getD 0
        else (max (-127) (min 127 (floorLog2 amax - emaxOf f)) + 127).toNat
      let sv := decodeScale e4m3 sc
      let es := xs.map fun x => roundNum f rm ovf (x.div sv)
      if es.any Option.isNone then none else some (sc, es.map fun e => e.getD 0)

/-! Summation (R125, R126, R129) -/

/-- A term truncated toward zero to a multiple of a quantum. -/
def truncTo (q : Rat) (t : Num) : Num :=
  match t with
  | .fin n m => .fin n (((m / q).floor : Int) * q)
  | x => x

/-- One output element of a pass: exact for narrow formats (R125), aligned to 2^(emax − 48) for FP16 and BF16 (R126). -/
def passSum (wide : Bool) (terms : List Num) (acc : Num) : Word :=
  let ts := terms ++ [acc]
  if !wide then toFp32 (Num.sum ts)
  else
    let es := (ts.filter fun t => !t.isZero && !t.isNan && !t.isInf).map fun t => floorLog2 t.abs.toRat
    match es.max? with
    | none => toFp32 (Num.sum ts)
    | some e => toFp32 (Num.sum (ts.map (truncTo (pow2 (e - 48)))))

/-- Deterministic sum of one element of a collective, aligned to the block's E (R129). -/
def collSum (e : Int) (xs : List Num) : Num := Num.sum (xs.map (truncTo (pow2 (e - 96))))

end Sys2Proof
end

