-- ==== Sys2Proof/Machine/State.lean ====
section
/-! DEFINITION. The state of the machine: plain data, holding every piece of state that the spec gives it, and the
machine right after reset. -/

namespace Sys2Proof.Machine

/-- Reasons a step stops. -/
inductive Fault where
  /-- Raised by no step: every event and every instruction of the spec has an effect, and a code that a thread raises is
  taken as the trap of R370. Safe. -/
  | stuck
deriving DecidableEq, Repr

/-- Reasons an instruction has no meaning. -/
inductive Refusal where
  /-- Raised by the arm of an instruction that is not modelled yet. Safe. -/
  | notModelled (mnemonic : String)
deriving DecidableEq, Repr

/-- A list of key and value pairs, keys strictly rising, no value equal to what an unlisted key reads as. -/
abbrev Sparse (α : Type) := List (Nat × α)

/-! Codes (R370) -/

/-- The trap and status codes (R370). `hostFreeze` stands for the CODE 0 of HFRZ (R451). -/
inductive Code where
  | illegalOpcode | illegalOperand | badClause | pairViolation | lookaheadHazard | missingMember | registerBlock
  | privileged | convertTrap | formatSlot | pageFault | permission | tagMismatch | bounds | rangeLock | align
  | scratchRange | execNever | orderedStall | osCapacity | osNotHeld | osPoisoned | couchSpillFull | gridNotResident
  | energyClass | barrierMismatch | eqRange | eqNotOpen | eqLogFull | detMismatch | softErrorCorrected | uncorrectable
  | linkError | leaseClock | trap | hostFreeze
deriving DecidableEq, Repr

/-- What a report says beside the thread it names (R372). -/
structure Cause where
  code   : Code
  arg    : BitVec 8
  addr   : DWord
  engine : Bool
  bkpt   : Bool
deriving DecidableEq, Repr

/-- Why a page walk has no result (R372, R404): an invalid entry, a read of a page with no replica on this die, or a
modifying access to a page with replicas. -/
inductive PfCause where
  | invalid | dupRead | dupWrite
deriving DecidableEq, Repr

/-! Memory -/

/-- Leaf attributes and frame of a translation (R62, R65). `base` is the virtual address of the page and `size` its
bytes; `frame` is the physical address of the page; with DUP, `frames` holds the replica of each die that has one. -/
structure Xlat where
  base   : Nat
  size   : Nat
  frame  : Nat
  ro     : Bool
  xn     : Bool
  tagged : Bool
  mt     : BitVec 2
  dup    : Bool
  frames : List (Option Nat)
deriving DecidableEq, Repr

/-- A translation held by a TLB, with the context it belongs to (R65). -/
structure TlbEntry where
  ctx : Nat
  x   : Xlat
deriving DecidableEq, Repr

/-- A line held at its home slice (R76, R77, R91, R95): masked bytes not yet written to DRAM, the latest lease expiry
granted into each distance class, and the core that owns the line for atomics. -/
structure HomeLine where
  ctx    : Option Nat
  tensor : BitVec 12
  bytes  : Sparse Byte
  expDie : Nat
  expDev : Nat
  expPeer : Nat
  owner  : Option Nat
deriving DecidableEq, Repr

/-- One 64-B sector of a copy: its bytes, tag and poison bit (R64, R73, R444). -/
structure SectorData where
  bytes  : List Byte
  tag    : BitVec 4
  poison : Bool
deriving DecidableEq, Repr

/-- A line held at an L1, a local copy or a Selvedge cache (R73, R74, R76, R90, R95). `mask` holds the bytes that carry a
mask bit; `since` is the clock of the first of them; `own` is the write completion time of an ownership grant. -/
structure Copy where
  place   : Place
  line    : Nat
  ctx     : Nat
  tensor  : BitVec 12
  expiry  : Nat
  sectors : Sparse SectorData
  mask    : Sparse Byte
  since   : Nat
  own     : Option Nat
deriving DecidableEq, Repr

/-- A range of the range-lock table (R103). -/
structure Lock where
  owner : Nat
  ctx   : Nat
  lo    : Nat
  hi    : Nat
  dest  : Bool
deriving DecidableEq, Repr

/-- Clause words held for instruction fetch by a core (R74, R216). -/
structure Fetched where
  core : Nat
  ctx  : Nat
  addr : Nat
  word : DWord
deriving DecidableEq, Repr

/-- Memory and the caches. -/
structure MemState where
  /-- Bytes of stacked DRAM, LPDDR and host memory, by physical address. -/
  dram      : Sparse Byte
  /-- Memory tag of a 64-B sector, by physical address divided by 64 (R64). -/
  tags      : Sparse (BitVec 4)
  /-- Poisoned 64-B sectors (R444). -/
  poison    : Sparse Unit
  home      : Sparse HomeLine
  copies    : List Copy
  fetched   : List Fetched
  /-- Last-page registers, by core, slice and lane (R65): key ((core·8 + slice)·32 + lane). -/
  lastPage  : Sparse TlbEntry
  /-- Core TLBs, by core, each newest first (R65). -/
  coreTlb   : Sparse (List TlbEntry)
  /-- Sector TLBs, by device-wide sector, each newest first (R65). -/
  sectorTlb : Sparse (List TlbEntry)
  locks     : List Lock
  /-- Lines of host memory held in the host-coherent state, with the host's exclusive grant (R99). -/
  hostLines : Sparse Bool
deriving DecidableEq, Repr

/-! Execution -/

/-- What a thread is (R26, R241, R342, R374): a thread of a team, a trap handler for a thread or for a launch,
a shader thread for a ray, a message handler for a message, or a re-created thread of a replay (R433). -/
inductive ThreadKind where
  | team
  | handler (of : Nat)
  /-- A launch-trap handler; one started by ORDERED_STALL is marked (R414). -/
  | launchTrap (stall : Bool)
  | shader (ray : Nat)
  | message (msg : Nat)
  | replay (member : Nat) (named : Bool)
deriving DecidableEq, Repr

/-- What a Held thread waits at (R45, R47, R198, R232, R233). Joins keep the values the thread brought (R182). -/
inductive Hold where
  | join (ins : Instr) (m : Word) (a b : DWord) (p : Bool)
  | matrix (k : Nat) (ins : Instr)
  | waitk (k : Nat) (g : BitVec 8)
  | bar (n : Nat) (c : Nat)
  | barc
  | barg
deriving DecidableEq, Repr

/-- Why a thread is Parked on memory (R48, R395, R444): a page-fault record, a scratchpad line of a team, an error
record, or a fetch. -/
inductive ParkWhy where
  | page (fault : Nat)
  | line (team : Nat) (line : Nat)
  | poison (err : Nat)
deriving DecidableEq, Repr

/-- Where a thread stands (R50). `boundary` covers Ready and Waiting at a boundary or at a word inside a clause, which
R35 and R37 tell apart; `copyWait` is Waiting at a copy word (R214), for room for its ranges and for its scratchpad lines; Swapped is a mark of the thread's team, which
keeps the state remembered here. -/
inductive Status where
  | boundary
  | issued
  | copyWait (locks : Nat) (lines : List Nat)
  | held (h : Hold)
  | parkedMem (w : ParkWhy)
  | parkedMon
  | parkedSec
  | exited
deriving DecidableEq, Repr

/-- A trap that a thread has raised (R374): its report, the pair that V16:V17 of the handler receive, the handler
thread once it is spawned, and whether the trap was suppressed or froze the context (R373, R379, R380). -/
structure TrapRec where
  report     : BitVec 512
  fall       : DWord
  handler    : Option Nat
  freezing   : Bool
  suppressed : Bool
  /-- Raised by the word that is executing and not yet delivered (R379). -/
  fresh      : Bool
  /-- Its place among the traps that wait for handlers: these are gathered by arrival (R374). -/
  arrival    : Nat
deriving DecidableEq, Repr

/-- A held section (R235, R413): key, sequence, whether the grant was poisoned, and the retained loads of a watched
holder, each an address, a width and its bytes. -/
structure HeldSec where
  key  : DWord
  seq  : Word
  poisoned : Bool
  pre  : List (DWord × List Byte)
deriving DecidableEq, Repr

/-- Where an instruction stands (R372, R392): its address, its clause's header, its position, and the number of
instructions of the clause. -/
structure Site where
  pc    : DWord
  hdr   : DWord
  word  : Nat
  count : Nat
deriving DecidableEq, Repr

/-- A thread (R26, R27). -/
structure Thread where
  uid    : Nat
  core   : Nat
  slice  : Nat
  lane   : Nat
  slot   : Nat
  /-- Uid of its group. -/
  group  : Nat
  /-- Uid of its team; none for a trap-handler, shader or message-handler thread (R29). -/
  team   : Option Nat
  /-- Thread index within the team (R28). -/
  tix    : Nat
  /-- Uid of its launch. -/
  launch : Nat
  ctx    : Nat
  kind   : ThreadKind
  /-- V registers, 16 for each block held (R43). -/
  v      : List Word
  /-- Predicates P0 to P63; P63 reads true whatever bit 63 holds (R157). -/
  p      : DWord
  /-- Scoreboard counters Q0 to Q7 (R35). -/
  q      : List Nat
  pc     : DWord
  /-- Header of the clause that the thread stands in or last issued from. -/
  hdr    : DWord
  /-- Instructions of that clause: COUNT + 1 (R134). -/
  count  : Nat
  /-- The program counter points at an instruction inside the clause of `hdr` (R33, R48). -/
  mid    : Bool
  name   : BitVec 128
  status : Status
  /-- Starvation count and fairness override (R41). -/
  starve : Nat
  fair   : Bool
  /-- W writes not yet made visible to the team (R32). -/
  wown   : Sparse Word
  trap   : Option TrapRec
  secs   : List HeldSec
  /-- Trace tickets and collective tickets in flight (R269, R279). -/
  tickets  : List (Nat × Nat)
  ctickets : List (Nat × Nat)
  /-- Couched entries numbered so far (R227). -/
  couch  : Nat
  /-- Largest write completion times at the homes of each die that its releases wait past (R91, R94). -/
  wct    : Sparse Nat
  /-- AMDONE issued (R242). -/
  amdone : Bool
  /-- Helper thread of a quad (R338). -/
  helper : Bool
  /-- Contributor records that wait behind one still to be formed, in program order: each with the flight or ray that forms
  it, and once they are formed the records (R429). -/
  recs   : List (Nat × Option (List (BitVec 512)))
  /-- A FAIL that came while its team was Swapped, for its restore (R407): of a fetch, the address, and the cause. -/
  fail   : Option (Bool × DWord × PfCause)
deriving DecidableEq, Repr

/-- A group: the threads of one slot index of one slice (R26, R28). -/
structure Group where
  uid     : Nat
  core    : Nat
  slice   : Nat
  slot    : Nat
  ordinal : Nat
  team    : Option Nat
  launch  : Nat
  /-- Energy weight (R315). -/
  weight  : Nat
  /-- Starvation count and flag (R42). -/
  starve  : Nat
  flag    : Bool
  /-- Stamp of the last bundle it contributed to; 0 for none (R40). -/
  last    : Nat
  /-- A thread of it has yielded since the last boundary (R192). -/
  yielded : Bool
deriving DecidableEq, Repr

/-- A convergence register (R47, R197). -/
structure ConvReg where
  gmask  : Word
  mmask  : Word
  /-- Signers of the current generation, each with whether it signed with SIGN. Their number is the count. -/
  signed : List (Nat × Bool)
  gen    : BitVec 8
deriving DecidableEq, Repr

/-- A Couching-buffer entry (R227): target, operation and operand, and its sort key. -/
structure CouchEntry where
  launch  : Nat
  pa      : Nat
  ctx     : Nat
  op      : AtomOp
  w64     : Bool
  operand : DWord
  /-- The tensor identifier of its access (R77). -/
  tensor  : BitVec 12
  team    : Nat
  group   : Nat
  lane    : Nat
  count   : Nat
  /-- Its operand comes from poisoned input (R444). -/
  poison  : Bool
deriving DecidableEq, Repr

/-- A store-stream record (R319). -/
structure StreamRec where
  tix   : Nat
  /-- Program order within the thread. -/
  ord   : Nat
  va    : DWord
  width : Nat
  data  : BitVec 128
deriving DecidableEq, Repr

/-- A team (R26, R32). -/
structure Team where
  uid     : Nat
  launch  : Nat
  ctx     : Nat
  core    : Nat
  /-- Logical team index, cluster index and rank (R307). -/
  logical : Nat
  cluster : Nat
  rank    : Nat
  /-- Threads the team holds at its start (R232). -/
  size    : Nat
  w       : List Word
  k       : List ConvReg
  d       : List (BitVec 256)
  /-- Accumulator tiles: element 64·m + n, unlisted elements +0 (R245). -/
  tiles   : List (Sparse Word)
  /-- Poisoned tiles (R444). -/
  tpoison : List Nat
  /-- Scratchpad bytes, unlisted bytes zero, and the allocation's size (R71). -/
  spad    : Sparse Byte
  ssize   : Nat
  /-- Poisoned 64-B sectors of the scratchpad (R443, R444). -/
  spoison : Sparse Unit
  /-- Pending counts of scratchpad lines (R72). -/
  pend    : Sparse Nat
  /-- Store-stream digest, and the records of the current interval (R319). -/
  digest  : BitVec 256
  stream  : List StreamRec
  /-- Spilled Couching-buffer entries (R227). -/
  spilled : List CouchEntry
  /-- Swapped out: the state is in the save area (R50, R322); the stamp orders restores (R324). -/
  swapped : Option Nat
  /-- Device time on its die when it was swapped out (R24). -/
  left    : Nat
  /-- The A latch saved with the team: its rows and K register (R253). -/
  latch   : Option (Nat × List Byte)
  /-- COUCH_SPILL_FULL has been raised for the team (R415). -/
  spillTrap : Bool
  /-- This team is the shadow of a sampled team (R318). -/
  shadowOf : Option Nat
  /-- Stores of a shadow or a replay team, kept from memory (R318, R435), by virtual address. -/
  isolated : Sparse Byte
  /-- Clock at which the team became resident, or was swapped out (R351). -/
  since   : Nat
  /-- A pre-emption of the team has been asked for. -/
  stopping : Bool
deriving DecidableEq, Repr

/-- One global access after translation (R65, R77). -/
structure Acc where
  va     : DWord
  pa     : Nat
  mt     : BitVec 2
  /-- The tag to check, on a TAGGED page (R63). -/
  tag    : Option (BitVec 4)
  tensor : BitVec 12
  scope  : Nat
deriving DecidableEq, Repr

/-- One part of what an instruction reads (R219, R239, R267): its length and the pieces read so far, by offset (R85). A part
with no access needs no read: a texel out of bounds (R218), or bytes of a supplied record (R435). -/
structure ReadPart where
  acc : Option Acc
  len : Nat
  got : List (Nat × Nat)
deriving DecidableEq, Repr

/-- What an instruction makes of the parts that it has read, beside the operands of its issue: BOXT, TRIT and XFORM of a node
(R271 to R273), a filtered sample of weighted texels (R221), or one texel (R222). -/
inductive Gathered where
  | box (ray : List Word)
  | tri (cb cf : Bool) (ray : List Word)
  | xform (ray : List Word)
  | blend (fmt : Nat) (ws : List Rat)
  | texel (fmt : Nat)
deriving DecidableEq, Repr

/-- What an instruction in flight still has to do. Values are those read at issue (R157). -/
inductive FlightOp where
  | write (regs : List (Nat × Word)) (preds : List (Nat × Bool))
  /-- A load or a texture instruction that has nothing left to read: the results, and the sectors that were asked for (R75,
  R80, R219). -/
  | sampled (regs : List (Nat × Word)) (sectors : List Nat)
  /-- A node or texels that are read part by part; `sectors` are those asked for beside them (R75). -/
  | gather (what : Gathered) (d : Nat) (parts : List ReadPart) (sectors : List Nat)
  | load (a : Acc) (w : Width) (sx : Bool) (d : Nat) (pieces : List (Nat × Nat))
  | store (a : Acc) (bytes : List Byte)
  | loadS (team : Nat) (off : Nat) (ea : DWord) (w : Width) (sx : Bool) (d : Nat) (pieces : List (Nat × Nat))
  | storeS (team : Nat) (off : Nat) (bytes : List Byte) (scope : Nat)
  | pref (a : Option Acc)
  | tagst (a : Acc) (tag : BitVec 4)
  | tagld (a : Acc) (d : Nat)
  | dload (a : Acc) (dn : Nat) (pieces : List (Nat × Nat))
  | atom (a : Acc) (w64 : Bool) (op : AtomOp) (x : DWord) (d : Nat)
  | atomc (a : Acc) (w64 : Bool) (e n : DWord) (d : Nat)
  | red (a : Acc) (w64 : Bool) (op : AtomOp) (x : DWord)
  | waitc (a : Acc) (w64 : Bool) (cond : Cond) (u : Bool) (k : DWord) (d : Nat) (p : Nat)
  | fence (kind : BitVec 2) (scope : Nat) (begun : Bool)
  | time (d : Nat)
  | cacheop (op : Nat) (va : DWord) (len : Nat) (begun : Bool)
  | disct (t : BitVec 12)
  | dqry (d : Nat) (w : Word)
  | copyEnd (copy : Nat)
  | osenter (key : DWord) (seq : Word) (p : Nat) (granted : Bool)
  | osend (key : DWord) (abort : Bool) (begun : Bool)
  | osstat (key : DWord) (clrp : Bool) (d : Nat)
  | launch (parts : List ReadPart) (q : Nat) (begun : Bool)
  | amsend (msg : Nat) (begun : Bool)
  | amdone (begun : Bool)
  | accz (c : Nat)
  | accld (c : Nat) (slot : Nat) (off : Nat) (pieces : List (Nat × Nat))
  | accst (c : Nat) (slot : Nat) (off : Nat) (quant : Bool) (left : Option (List (Nat × Nat)))
  | accrd (c : Nat) (d : Nat) (m q : Nat)
  | accwr (c : Nat) (m q : Nat) (vals : List Word)
  | matrix (pass : Nat)
  | kdecl (k : Nat) (gm mm : Word)
  | sign (k : Nat) (d : Nat)
  | waitk (k : Nat) (g : BitVec 8) (moved : Bool)
  | bar (h : Hold) (begun : Bool)
  | eqv (req : Nat)
  | trace (ray : Nat) (d : Nat) (ticket : Nat)
  | trwait (ticket : Nat) (d : Nat)
  | trret (v : Word)
  | shaderEnd (ray : Nat)
  | shadow (ray : Nat)
  | coll (coll : Nat) (d : Nat) (ticket : Nat) (begun : Bool)
  | collw (ticket : Nat) (d : Nat) (begun : Bool)
  | resid (id : Nat) (parts : List (Nat × Nat)) (va : DWord) (len : Nat) (wct : Option (Sparse Nat))
  | sleep (deadline : Nat)
  | setsr (n : Bool) (v : Word)
  | tlbinv (va : Nat) (pages : Nat) (ctx : Nat)
  | lpsweep (ctx : Nat)
  | ctxsave (ctx : Nat) (begun : Bool)
  | ctxload (ctx : Nat)
  | exit (halt : Bool)
  | rett (target : DWord)
deriving DecidableEq, Repr

/-- An instruction in flight (R36): the thread that issued it, the word it stands at, the counter it raised, the words
still allowed by its lookahead window (R37), and what it has to do. `stamp` is the issue order, and the lanes of one
word share it. `posted` marks a store or reduction whose word has completed and whose effect is still to reach its
target (R205, R226). `wait` holds write completion times at the homes of each die that completion must pass; `stalled` names the error record it waits on. -/
structure Flight where
  uid    : Nat
  stamp  : Nat
  thread : Nat
  site   : Site
  qc     : Option Nat
  window : Nat
  op     : FlightOp
  posted : Bool
  wait   : Sparse Nat
  stalled : Option Nat
deriving DecidableEq, Repr

/-- The open clause of a slice (R34): its header, its words, the position of the next word to issue, and the stamp of
the word that issues. -/
structure Issue where
  core   : Nat
  slice  : Nat
  hdr    : DWord
  header : DWord
  words  : List DWord
  pos    : Nat
  stamp  : Nat
deriving DecidableEq, Repr

/-- Execution state. -/
structure ExecState where
  /-- Fabric clocks since reset; two make a core clock (R23). -/
  clk     : Nat
  /-- Device-time counters of the four dies (R8, R24). -/
  devTime : List Nat
  nextUid : Nat
  /-- The slice whose word is being executed. -/
  cur     : Nat × Nat
  issues  : List Issue
  threads : List Thread
  groups  : List Group
  teams   : List Team
  flights : List Flight
  /-- Threads that have ended while a ray, a copy or a matrix pass of theirs goes on: what a report of it names (R269, R380). -/
  ghosts  : List Thread
deriving DecidableEq, Repr

/-! Ordered sections, monitors, couching -/

/-- An entry of a key table (R105, R235). -/
structure KeyEntry where
  launch  : Nat
  ctx     : Nat
  key     : DWord
  next    : Word
  held    : Bool
  poison  : Bool
  holder  : Option Nat
  /-- Waiters: flight, sequence, device time of registration. -/
  waiters : List (Nat × Word × Nat)
  /-- Of an entry in a backing table: its number there, and the index of the bytes that it was written as (R411). -/
  image   : Option (Nat × Nat)
deriving DecidableEq, Repr

/-- A WAITC that waits (R96, R229): its flight, home slice, deadline, and whether the home holds a monitor for it;
`woken` records that the condition held, with the value. -/
structure Monitor where
  flight   : Nat
  slice    : Nat
  deadline : Option Nat
  monitor  : Bool
  woken    : Option (DWord × Bool)
  /-- Its first evaluation is still to come: an earlier access of its thread or of its word comes before it (R83, R88). -/
  fresh    : Bool
  /-- Fabric clock of its last evaluation (R96). -/
  last     : Nat
deriving DecidableEq, Repr

/-- Entries sent by a team at its flush points and not yet applied (R107), in the order sent. -/
structure CouchSend where
  launch  : Nat
  team    : Nat
  entries : List CouchEntry
deriving DecidableEq, Repr

/-- Synchronisation state outside the cores. -/
structure SyncState where
  keys     : List KeyEntry
  /-- Entries moved to a launch's backing table (R235). -/
  backing  : List KeyEntry
  monitors : List Monitor
  /-- Couching buffers, by core (R227). -/
  couch    : Sparse (List CouchEntry)
  sent     : List CouchSend
deriving DecidableEq, Repr

/-! Engines -/

/-- What an asynchronous copy moves (R210 to R213): pieces, each from a place to a place; a place is a global address,
the rest, from an offset, of an element that an index in memory names (R212), a scratchpad offset, or padding. -/
inductive CopyEnd where
  | glob (va : DWord)
  | elem (base list : DWord) (size off : Nat)
  | spad (off : Nat)
  | fill (bytes : List Byte)
deriving DecidableEq, Repr

/-- One run of bytes of a copy. -/
structure CopyPiece where
  src : CopyEnd
  dst : CopyEnd
  len : Nat
deriving DecidableEq, Repr

/-- An asynchronous copy in flight (R102, R210). -/
structure CopyJob where
  uid    : Nat
  thread : Nat
  team   : Option Nat
  ctx    : Nat
  core   : Nat
  flight : Nat
  tensor : BitVec 12
  ro     : Bool
  pieces : List CopyPiece
  /-- Global ranges that it reads, written back by the core before it starts (R102). -/
  src    : List (DWord × Nat)
  begun  : Bool
  /-- Write completion times of that write-back at the homes of each die: it reads past them (R102). -/
  wait   : Sparse Nat
  /-- Bytes landed in each 64-B sector of its destination, and the sectors to which poisoned input has gone (R444). -/
  landed : Sparse Nat
  bad    : List Nat
  /-- Scratchpad lines it still counts in (R72). -/
  lines  : List Nat
  /-- Largest write completion time of its bytes at the homes of each die (R91). -/
  wct    : Sparse Nat
  stalled : Option Nat
  /-- The code that ended it early (R210, R405). -/
  failed : Option Cause
deriving DecidableEq, Repr

/-- An entry of a matrix reservation table (R254). The operands are those of the signers at issue. -/
structure Pass where
  uid     : Nat
  engine  : Nat
  team    : Nat
  core    : Nat
  rank0   : Nat
  signers : List Nat
  slot    : Nat
  tile    : Nat
  rows    : List Byte
  b       : List Word
  /-- Tensor shape record of an MMAC. -/
  desc    : BitVec 256
  conv    : Bool
  /-- Scratchpad lines held pending until the pass has read them (R254). -/
  lines   : List Nat
  prio    : Nat
  stamp   : Nat
  since   : Nat
  site    : Site
  stalled : Option Nat
  /-- The code that ends it without effect (R254, R405). -/
  failed  : Option Cause
deriving DecidableEq, Repr

/-- An equivalence binding (R259 to R263). -/
structure Binding where
  engine : Nat
  slot   : Nat
  launch : Nat
  ctx    : Nat
  parent : DWord
  size   : DWord
  log    : DWord
  n      : Nat
  cap    : Nat
  opens  : Nat
  logging : Bool
  logN   : Nat
deriving DecidableEq, Repr

/-- A request at an equivalence engine (R259): the instruction, its thread and flight, and its operand values. -/
structure EqReq where
  uid    : Nat
  engine : Nat
  thread : Nat
  flight : Nat
  ins    : Instr
  a      : DWord
  b      : Word
  handle : Word
  d      : Nat
  done   : Option (List (Nat × Word))
  code   : Option Cause
  /-- Largest write completion time of its writes at the homes of each die (R91). -/
  wct    : Sparse Nat
  stalled : Option Nat
  /-- It has arrived, and a page fault holds it where it stands in its forest's order (R259, R416). -/
  arrived : Bool
deriving DecidableEq, Repr

/-- What stage a ray is in (R269, R342). -/
inductive RayStage where
  | flying | shader (miss : Bool) | running (thread : Nat) | done
deriving DecidableEq, Repr

/-- A ray of TRACE or SHADOW (R268, R269, R274). `hit` is the hit record of R269 without its return word. -/
structure Ray where
  uid     : Nat
  thread  : Nat
  launch  : Nat
  ctx     : Nat
  core    : Nat
  site    : Site
  name    : BitVec 128
  ray     : List Word
  root    : DWord
  flags   : Word
  user    : Word
  ticket  : Option Nat
  stage   : RayStage
  hit     : List Word
  ret     : Word
  ran     : Bool
  restart : Bool
  code    : Option Cause
  /-- Largest write completion times of its shader's stores at the homes of each die (R101). -/
  wct     : Sparse Nat
  /-- SHADOW: target, channel values, first couch count, and whether it adds nothing. -/
  target  : DWord
  chans   : List Word
  couch   : Nat
  none    : Bool
  stalled : Option Nat
  /-- When its invocation came: the order in which a shader group takes its lanes (R342). -/
  came    : Nat
  /-- What its traversal has read so far, in order: bytes, and whether they were poisoned (R337). -/
  log     : List (List Byte × Bool)
deriving DecidableEq, Repr

/-- A tile job of a KIND 1 launch (R332). -/
structure Tile where
  uid    : Nat
  launch : Nat
  core   : Nat
  index  : Nat
  /-- Clock at which it started (R351). -/
  since  : Nat
  stalled : Option Nat
  /-- Name of the ray at which it stalled (R332, R405). -/
  name   : BitVec 128
  /-- What its traversals have read so far, in order: bytes, and whether they were poisoned (R337). -/
  log    : List (List Byte × Bool)
deriving DecidableEq, Repr

/-- A collective in flight (R279, R280). -/
structure CollJob where
  uid    : Nat
  thread : Nat
  ctx    : Nat
  core   : Nat
  site   : Site
  record : BitVec 512
  slot   : Option (BitVec 256)
  /-- Pointer of its residual buffer, with WIRE. -/
  resid  : DWord
  status : Option Nat
  /-- Its release work is done and its ranges are locked (R279). -/
  entered : Bool
  stalled : Option Nat
  wct    : Sparse Nat
deriving DecidableEq, Repr

/-- An active message (R240, R241): its target, payload and the threads of its handler group that have not done
AMDONE. -/
structure Msg where
  uid     : Nat
  thread  : Nat
  launch  : Nat
  ctx     : Nat
  target  : Nat
  handler : Nat
  len     : Nat
  payload : List Byte
  sender  : Nat
  senderTeam : Word
  name    : BitVec 128
  queued  : Bool
  group   : Option Nat
  pending : Nat
deriving DecidableEq, Repr

/-- Engine state. -/
structure EngineState where
  copies   : List CopyJob
  /-- The A latch of each core (R253): owner team, K register, rows. -/
  latches  : Sparse (Nat × Nat × List Byte)
  passes   : List Pass
  bindings : List Binding
  eqReqs   : List EqReq
  rays     : List Ray
  tiles    : List Tile
  colls    : List CollJob
  /-- Collectives already issued by this device: GROUP and SEQ (R280). -/
  collSeen : List (Nat × Nat)
  /-- Residual buffers: context·16 + id, pointer and length (R281). -/
  resid    : Sparse (DWord × Nat)
  msgs     : List Msg
deriving DecidableEq, Repr

/-! Dispatch -/

/-- A format slot after the launch's checks (R120, R121): the record, its A and B scale descriptors, its permutation
table, and whether it is valid. -/
structure Slot where
  record : BitVec 256
  scaleA : BitVec 256
  scaleB : BitVec 256
  ptab   : List (BitVec 16)
  valid  : Bool
deriving DecidableEq, Repr

/-- A record in a queue (R311), with its uid; a doorbell record whose read has faulted is not yet entered. -/
structure QRec where
  uid   : Nat
  ptr   : DWord
  record : BitVec 4096
deriving DecidableEq, Repr

/-- A trace entry that is not yet in memory (R438): the word that a re-created thread issued, where its results and its
data stand, the flights that may still change them (those from `flight` on), and the entry once it is complete. -/
structure TraceEnt where
  thread : Nat
  named  : Bool
  member : Nat
  pc     : DWord
  word   : DWord
  event  : BitVec 8
  code   : BitVec 8
  /-- First result register and number of them, and the register of Y's result of a pair. -/
  first  : Nat
  count  : Nat
  second : Option Nat
  /-- The data of a store, and its number of words. -/
  data   : Option (BitVec 128 × Nat)
  addr   : DWord
  given  : Bool
  flight : Nat
  /-- The thread has parked at the word, or waits there, and will issue it again. -/
  parked : Bool
  done   : Option (BitVec 512)
deriving DecidableEq, Repr

/-- The trace a replay writes (R432, R437 to R439). -/
structure Replay where
  request : BitVec 512
  records : List (BitVec 512)
  ppb     : BitVec 2048
  entries : Nat
  used    : BitVec 8
  missing : BitVec 8
  finalPc : DWord
  full    : Bool
  dead    : Bool
  /-- Masks each neighbour has gathered since its last value reached the named thread (R436). -/
  pendUsed : List (Nat × BitVec 8)
  pendMiss : List (Nat × BitVec 8)
  /-- Loads in sections so far, by name bits 127:11, key, sequence, address and width, with their count (R435). -/
  supplied : List ((BitVec 117 × DWord × Word × DWord × Nat) × Nat)
  /-- The word that is executing took a supplied record (R438). -/
  given    : Bool
  /-- Team registers that re-created threads have written (R432). -/
  wset     : List Nat
  /-- Entries still to be written, in issue order. -/
  pend     : List TraceEnt
  /-- The header is written, or will not be (R439). -/
  headerDone : Bool
deriving DecidableEq, Repr

/-- Where a launch stands (R311, R312). -/
inductive LaunchState where
  | waiting | placing | running | done
deriving DecidableEq, Repr

/-- A launch that the dispatcher has taken up (R306 to R320). -/
structure Launch where
  uid     : Nat
  ctx     : Nat
  queue   : Nat
  record  : BitVec 4096
  ptr     : DWord
  state   : LaunchState
  checked : Bool
  hitTab  : List (BitVec 256)
  msgTab  : List (BitVec 256)
  slots   : List Slot
  ppb     : BitVec 2048
  /-- Clusters or tiles placed so far, and those that have ended, by curve position. -/
  placed  : Nat
  ended   : List Nat
  /-- Clock since which the next cluster has not fitted (R313, R321, R323). -/
  starve  : Nat
  /-- A KIND 1 launch is pre-empted, since this clock: it places no further tile (R332). -/
  held    : Option Nat
  /-- Reserved rectangle: its cores (R453). -/
  resv    : List Nat
  /-- Largest write completion times of its teams' stores at the homes of each die (R312), and whether its release work is
  done. -/
  wct     : Sparse Nat
  released : Bool
  /-- DET samples: sampled, matched, mismatched, skipped (R318). -/
  det     : List Nat
  /-- ORDERED_STALL: the clock since which the condition has held; an episode in which the detector has fired, and the clock at
  which its handler ended; and the threads watched in it, each with whether it waits, and how many sections it has been granted (R414). -/
  stallSince : Option Nat
  stallFired : Bool
  stallEnd   : Option Nat
  watched    : List (Nat × Bool × Nat)
  /-- Launch traps whose handler is not yet spawned (R376). -/
  traps   : List (BitVec 512)
  replay  : Option Replay
  /-- Digest of a sampled team that waits for its shadow, or of a shadow: logical team, which, digest (R318). -/
  digests : List (Nat × Bool × BitVec 256)
deriving DecidableEq, Repr

/-- A context (R351, R377, R382). -/
structure Ctx where
  enabled : Bool
  root    : Nat
  lease   : Nat
  tslice  : Nat
  priv    : Bool
  halted  : Bool
  saved   : Bool
  frozen  : Bool
  lost    : Bool
  report  : BitVec 512
  killing : Bool
  rejptr  : DWord
  rejstat : BitVec 18
deriving DecidableEq, Repr

/-- A doorbell write (R352): context, queue and pointer, and the page fault that its read waits on. -/
structure Bell where
  uid   : Nat
  ctx   : Nat
  queue : Nat
  ptr   : DWord
  fault : Option Nat
deriving DecidableEq, Repr

/-- The dispatcher. -/
structure DispState where
  ctxs     : List Ctx
  /-- Queues: context·16 + queue, records in arrival order (R311). -/
  queues   : Sparse (List QRec)
  launches : List Launch
  /-- Scratchpad division of each core, in KiB (R70). -/
  division : Sparse Nat
  /-- Rotation among contexts and queues (R313): last context served at each priority, and last queue of a context at
  4 + 64·priority + context. -/
  rot      : Sparse Nat
  /-- Doorbell writes whose record is still to be read, in order of arrival (R352). -/
  bells    : List Bell
  /-- Dispatcher reads and writes whose page fault was answered FAIL: launch, address and cause (R308, R312, R430). -/
  dfails   : List (Nat × DWord × PfCause)
deriving DecidableEq, Repr

/-! Host registers -/

/-- Who waits on a page-fault record (R404, R405). -/
inductive Waiter where
  | thread (t : Nat)
  | fetch (t : Nat)
  | copy (c : Nat)
  | pass (p : Nat)
  | ray (r : Nat)
  | eqv (r : Nat)
  | tile (t : Nat)
  | coll (c : Nat)
  | launch (l : Nat)
  | bell (b : Nat)
deriving DecidableEq, Repr

/-- A page fault (R404): its record ID once the record is written, its page, and its waiters. `own` is set for a
dispatcher's fault whose failure freezes or rejects. -/
structure PFault where
  uid     : Nat
  id      : Option (BitVec 32)
  ctx     : Nat
  va      : DWord
  time    : Nat
  cause   : PfCause
  access  : Nat
  sector  : Nat
  /-- Its page: base and bytes (R404). -/
  page    : Nat × Nat
  /-- Waiters, each with the address it had reached. -/
  waiters : List (Waiter × DWord)
deriving DecidableEq, Repr

/-- An error record (R447). -/
structure ErrRec where
  uid     : Nat
  id      : Option (BitVec 32)
  pa      : Nat
  time    : Nat
  code    : Code
  unit    : Nat
  index   : Nat
  ctx     : Nat
  parked  : Bool
  fatal   : Bool
  dropped : Bool
  cause   : Nat
  /-- Effective address of the access that the lanes it holds have parked on (R372). -/
  addr    : DWord
deriving DecidableEq, Repr

/-- A health monitor (R356). -/
structure Health where
  ctl   : DWord
  min   : Word
  max   : Word
  count : Word
  bins  : List Word
  /-- Samples seen, for the one-in-256 and one-in-65,536 modes. -/
  seen  : Nat
deriving DecidableEq, Repr

/-- A watch (R423). -/
structure Watch where
  ctl   : DWord
  name  : BitVec 128
  mask  : BitVec 128
  rect  : DWord
  surf  : DWord
  pitch : DWord
deriving DecidableEq, Repr

/-- A ring of records (R403, R428, R447). `sent` holds the records written at their homes that HEAD does not count yet
(R349): die of the home, and the device time there at which HEAD counts it. -/
structure Ring where
  base : DWord
  ctl  : Word
  head : Word
  tail : Word
  drop : Word
  sent : List (Nat × Nat)
deriving DecidableEq, Repr

/-- Lease-clock state of a die (R409, R410). -/
structure LeaseClock where
  skew  : Word
  link  : BitVec 3
  die   : BitVec 4
  event : Bool
  guard : Bool
  /-- Device time since which the differences have stayed within the bounds. -/
  calm  : Nat
deriving DecidableEq, Repr

/-- Host-visible registers (R345 to R356, R403, R410, R423, R428, R447, R448). -/
structure HostState where
  ctxbase : DWord
  apbase  : DWord
  qovf    : DWord
  grpbase : DWord
  plimit  : BitVec 12
  cbudget : List (BitVec 10)
  lp      : BitVec 4
  health  : List Health
  linkwin : List (BitVec 128)
  meas    : List (BitVec 256)
  nonce   : BitVec 256
  quoting : Bool
  sigKey  : Option (BitVec 256 × List (BitVec 256))
  /-- Digest of the image that the identity key pair is derived from (R355). -/
  identity : BitVec 256
  /-- What the last host read through BAR2 has returned: its bytes, and the poisoned-data indication (R345, R444). -/
  hostRead : Option (List Byte × Bool)
  fq      : Ring
  faults  : List PFault
  nextId  : Nat
  er      : Ring
  errors  : List ErrRec
  watches : List Watch
  cb      : Ring
  lc      : List LeaseClock
  corr    : List Word
  linkerr : List (BitVec 16)
  /-- MSI-X messages sent: vector and link, newest first. -/
  msix    : List (Nat × Nat)
deriving DecidableEq, Repr

/-- Boot, links and the debug port (R354, R355, R445, R446, R449). -/
structure BoardState where
  booted   : Bool
  failed   : Bool
  fatal    : Bool
  links    : BitVec 12
  resends  : List Nat
  presends : List Nat
  /-- What the hubs know of the peer of each device link: its device time less this device's (R409, R410). -/
  peers    : List Int
  ports    : BitVec 12
  pcie     : BitVec 2
  cxl      : BitVec 2
  frozen   : Bool
  ir       : BitVec 8
  dr       : List Bool
  chainsel : BitVec 32
  bypass   : Bool
  bsr      : BitVec 64
  pins     : BitVec 64
deriving DecidableEq, Repr

/-- An element of a storage array in which a check code finds an error (R443). An entry is named by its place in the
list that holds it, and the place in a cached copy by its byte; `idle` is an element that no context owns, by its die, unit and index (R447). -/
inductive Storage where
  | regs (thread : Nat)
  | teamRegs (team : Nat)
  | tiles (team : Nat)
  | couch (core entry : Nat)
  | key (entry : Nat)
  | monitor (entry : Nat)
  | lastPage (entry : Nat)
  | coreTlb (core entry : Nat)
  | sectorTlb (sector entry : Nat)
  | decoded (entry : Nat)
  | copy (entry byte : Nat)
  | home (sector : Nat)
  | spad (team sector : Nat)
  | idle (die unit index : Nat)
deriving DecidableEq, Repr

/-- What moves next: an event, the next word of a slice's open clause, the passing of fabric clocks and of device time on
each die, an error, corrected or not, in a storage array, a failure of a die's time, one more node read of a ray's or a tile
job's traversal, or a flit that passes its check (R445). DESIGN CHOICE (log 2, log 48). -/
inductive Choice where
  | act (i : Instr)
  | word (core slice : Nat)
  | advance (clocks : Nat) (ns : List Nat)
  | upset (x : Storage) (corrected : Bool)
  | slip (die ns : Nat)
  | node (job : Nat)
  | carried (unit : Wire)
deriving DecidableEq, Repr

/-- The machine. -/
structure State where
  /-- The schedule: which agent moves next; empty leaves the choice to the default order. DESIGN CHOICE (log 2). -/
  agenda  : List Choice
  /-- Index of the next free value (log 9). -/
  freeCtr : Nat
  x : ExecState
  m : MemState
  y : SyncState
  e : EngineState
  d : DispState
  h : HostState
  b : BoardState
deriving DecidableEq, Repr

/-! Reset -/

/-- A context at reset: disabled (R348), with its freeze block and rejection registers zero (R377, R382). -/
def Ctx.reset : Ctx :=
  { enabled := false, root := 0, lease := 512, tslice := 0, priv := false, halted := false, saved := false,
    frozen := false, lost := false, report := 0#512, killing := false, rejptr := 0#64, rejstat := 0#18 }

/-- A health monitor at reset (R356): control zero. The read-outs have no reset value given: DESIGN CHOICE (log 6), as a
write of CLR leaves them. -/
def Health.reset : Health :=
  { ctl := 0#64, min := 0xFFFFFFFF#32, max := 0#32, count := 0#32, bins := List.replicate 32 0#32, seen := 0 }

/-- A watch at reset (R423). -/
def Watch.reset : Watch := { ctl := 0#64, name := 0#128, mask := 0#128, rect := 0#64, surf := 0#64, pitch := 0#64 }

/-- A ring at reset (R403, R428, R447). -/
def Ring.reset : Ring := { base := 0#64, ctl := 0#32, head := 0#32, tail := 0#32, drop := 0#32, sent := [] }

/-- Lease-clock state at reset (R410). -/
def LeaseClock.reset : LeaseClock :=
  { skew := 0#32, link := 0#3, die := 0#4, event := false, guard := false, calm := 0 }

/-- No thread, team, launch or instruction exists at reset. -/
def ExecState.reset : ExecState :=
  { clk := 0, devTime := [0, 0, 0, 0], nextUid := 1, cur := (0, 0), issues := [], threads := [], groups := [],
    teams := [], flights := [], ghosts := [] }

/-- Memory at reset: nothing listed; an unlisted byte reads zero (log 1), and every tag is zero (R64). -/
def MemState.reset : MemState :=
  { dram := [], tags := [], poison := [], home := [], copies := [], fetched := [], lastPage := [], coreTlb := [],
    sectorTlb := [], locks := [], hostLines := [] }

/-- No section, monitor or couched entry exists at reset. -/
def SyncState.reset : SyncState := { keys := [], backing := [], monitors := [], couch := [], sent := [] }

/-- The engines are idle at reset. -/
def EngineState.reset : EngineState :=
  { copies := [], latches := [], passes := [], bindings := [], eqReqs := [], rays := [], tiles := [], colls := [],
    collSeen := [], resid := [], msgs := [] }

/-- The dispatcher at reset: 64 disabled contexts, empty queues. -/
def DispState.reset : DispState :=
  { ctxs := List.replicate 64 Ctx.reset, queues := [], launches := [], division := [], rot := [], bells := [], dfails := [] }

/-- Registers at reset (R348, R353, R356, R403, R410, R423, R428, R447, R448): PLIMIT 2800 W, every CBUDGET 1023, the
rest zero. GRPBASE and the measurement block have no reset value given: DESIGN CHOICE 0 (log 6). -/
def HostState.reset : HostState :=
  { ctxbase := 0#64, apbase := 0#64, qovf := 0#64, grpbase := 0#64, plimit := 2800#12,
    cbudget := List.replicate 144 1023#10, lp := 0#4, health := List.replicate 64 Health.reset,
    linkwin := List.replicate 12 0#128, meas := List.replicate 4 0#256, nonce := 0#256, quoting := false,
    sigKey := none, identity := 0#256, hostRead := none, fq := Ring.reset, faults := [], nextId := 1, er := Ring.reset, errors := [],
    watches := List.replicate 8 Watch.reset, cb := Ring.reset, lc := List.replicate 4 LeaseClock.reset,
    corr := List.replicate 4 0#32, linkerr := List.replicate 4 0#16, msix := [] }

/-- Boot has not run (R355). Links are down before training; the debug port's registers are as IEEE 1149.1 leaves them
after its own reset: PRESUMED (log 12). -/
def BoardState.reset : BoardState :=
  { booted := false, failed := false, fatal := false, links := 0#12, resends := List.replicate 12 0,
    presends := List.replicate 12 0, peers := List.replicate 12 0, ports := 0xFFF#12, pcie := 0#2, cxl := 0#2, frozen := false, ir := 0x01#8,
    dr := [], chainsel := 0#32, bypass := false, bsr := 0#64, pins := 0#64 }

/-- The machine right after reset. -/
def State.reset : State :=
  { agenda := [], freeCtr := 0, x := ExecState.reset, m := MemState.reset, y := SyncState.reset,
    e := EngineState.reset, d := DispState.reset, h := HostState.reset, b := BoardState.reset }

end Sys2Proof.Machine
end

