-- ==== Sys2Proof/Machine/Ops.lean ====
section
/-! DEFINITION. Named operations over the state: sparse maps, threads and their registers, taking a trap, freezing a
context, and the return from a handler. -/

namespace Sys2Proof.Machine

/-! Sparse maps -/

/-- What a key maps to. -/
def sget {α : Type} (m : Sparse α) (k : Nat) : Option α :=
  match m with
  | [] => none
  | (j, v) :: r => if j == k then some v else sget r k

/-- Sets a key, keeping keys rising. -/
def sput {α : Type} (m : Sparse α) (k : Nat) (v : α) : Sparse α :=
  match m with
  | [] => [(k, v)]
  | (j, u) :: r => if k < j then (k, v) :: (j, u) :: r else if k == j then (k, v) :: r else (j, u) :: sput r k v

/-- Removes a key. -/
def sdel {α : Type} (m : Sparse α) (k : Nat) : Sparse α :=
  match m with
  | [] => []
  | (j, u) :: r => if j == k then r else (j, u) :: sdel r k

/-- Sets a key to an optional value. -/
def sset {α : Type} (m : Sparse α) (k : Nat) (v : Option α) : Sparse α :=
  match v with
  | some v => sput m k v
  | none => sdel m k

/-- Sets a key, dropping it where the value is what an unlisted key reads as. -/
def sputD {α : Type} [DecidableEq α] (d : α) (m : Sparse α) (k : Nat) (v : α) : Sparse α :=
  if v = d then sdel m k else sput m k v

/-- Keys strictly rising. -/
def srising {α : Type} (m : Sparse α) : Bool :=
  match m with
  | [] => true
  | (k, _) :: r => (match r with | [] => true | (j, _) :: _ => decide (k < j)) && srising r

/-- Keys strictly rising, and no value equal to what an unlisted key reads as. -/
def swf {α : Type} [DecidableEq α] (d : α) (m : Sparse α) : Bool := srising m && m.all fun p => decide (p.2 ≠ d)

/-! Positions (R16) -/

/-- Die of a core. -/
def coreDie (c : Nat) : Nat := c / 36
/-- Row of a core on its die. -/
def coreRow (c : Nat) : Nat := c % 36 / 6
/-- Column of a core on its die. -/
def coreCol (c : Nat) : Nat := c % 6
/-- Device-wide sector of a core. -/
def coreSector (c : Nat) : Nat := 3 * coreDie c + coreRow c / 2
/-- Matrix engine of a core's quad. -/
def coreEngine (c : Nat) : Nat := 9 * coreDie c + 3 * (coreRow c / 2) + coreCol c / 2

/-! Reading the state -/

/-- The thread of a uid. -/
def State.thread? (s : State) (u : Nat) : Option Thread := s.x.threads.find? fun t => t.uid == u
/-- The team of a uid. -/
def State.team? (s : State) (u : Nat) : Option Team := s.x.teams.find? fun t => t.uid == u
/-- The group of a uid. -/
def State.group? (s : State) (u : Nat) : Option Group := s.x.groups.find? fun g => g.uid == u
/-- The launch of a uid. -/
def State.launch? (s : State) (u : Nat) : Option Launch := s.d.launches.find? fun l => l.uid == u
/-- The flight of a uid. -/
def State.flight? (s : State) (u : Nat) : Option Flight := s.x.flights.find? fun f => f.uid == u
/-- A context. -/
def State.ctx (s : State) (c : Nat) : Ctx := s.d.ctxs.getD c Ctx.reset
/-- A thread's team; none for a thread of no team. -/
def State.teamOf (s : State) (t : Thread) : Option Team := t.team.bind s.team?
/-- Device time of a die (R24). -/
def State.now (s : State) (die : Nat) : Nat := s.x.devTime.getD die 0
/-- Device time where a thread stands. -/
def State.timeOf (s : State) (t : Thread) : Nat := s.now (coreDie t.core)
/-- Core clocks since reset (R23). -/
def State.coreClk (s : State) : Nat := s.x.clk / 2

/-! Writing the state -/

/-- Changes the threads. -/
def State.mapThreads (s : State) (f : Thread → Thread) : State :=
  { s with x := { s.x with threads := s.x.threads.map f } }
/-- Changes one thread. -/
def State.updThread (s : State) (u : Nat) (f : Thread → Thread) : State :=
  s.mapThreads fun t => if t.uid == u then f t else t
/-- Changes one team. -/
def State.updTeam (s : State) (u : Nat) (f : Team → Team) : State :=
  { s with x := { s.x with teams := s.x.teams.map fun t => if t.uid == u then f t else t } }
/-- Changes one group. -/
def State.updGroup (s : State) (u : Nat) (f : Group → Group) : State :=
  { s with x := { s.x with groups := s.x.groups.map fun g => if g.uid == u then f g else g } }
/-- Changes one launch. -/
def State.updLaunch (s : State) (u : Nat) (f : Launch → Launch) : State :=
  { s with d := { s.d with launches := s.d.launches.map fun l => if l.uid == u then f l else l } }
/-- Changes one flight. -/
def State.updFlight (s : State) (u : Nat) (f : Flight → Flight) : State :=
  { s with x := { s.x with flights := s.x.flights.map fun g => if g.uid == u then f g else g } }
/-- Removes one flight. -/
def State.dropFlight (s : State) (u : Nat) : State :=
  { s with x := { s.x with flights := s.x.flights.filter fun g => g.uid != u } }
/-- Changes one context. -/
def State.updCtx (s : State) (c : Nat) (f : Ctx → Ctx) : State :=
  { s with d := { s.d with ctxs := s.d.ctxs.modify c f } }
/-- A fresh uid. -/
def State.fresh (s : State) : Nat × State := (s.x.nextUid, { s with x := { s.x with nextUid := s.x.nextUid + 1 } })

/-! Registers of a thread -/

/-- Register blocks held (R43). -/
def Thread.blocks (t : Thread) : Nat := t.v.length / 16
/-- Reads V[n]. -/
def Thread.vget (t : Thread) (n : Nat) : Word := t.v.getD n 0#32
/-- Reads the pair V[n]:V[n+1] (R157). -/
def Thread.pair (t : Thread) (n : Nat) : DWord := t.vget (n + 1) ++ t.vget n
/-- Reads a run of registers. -/
def Thread.run (t : Thread) (n len : Nat) : List Word := (List.range len).map fun i => t.vget (n + i)
/-- Writes V[n]. -/
def Thread.vset (t : Thread) (n : Nat) (w : Word) : Thread := { t with v := t.v.set n w }
/-- Writes a pair, low word first. -/
def Thread.setPair (t : Thread) (n : Nat) (w : DWord) : Thread :=
  (t.vset n (w.extractLsb' 0 32)).vset (n + 1) (w.extractLsb' 32 32)
/-- Writes a run of registers. -/
def Thread.setRun (t : Thread) (n : Nat) (ws : List Word) : Thread :=
  (ws.zipIdx).foldl (fun t p => t.vset (n + p.2) p.1) t
/-- Reads a predicate; P63 reads true (R157). -/
def Thread.pget (t : Thread) (i : Nat) : Bool := i == 63 || t.p.getLsbD i
/-- Writes a predicate; a write of P63 is ignored (R157). -/
def Thread.pset (t : Thread) (i : Nat) (b : Bool) : Thread :=
  if i == 63 then t else { t with p := if b then t.p ||| (1#64 <<< i) else t.p &&& ~~~(1#64 <<< i) }
/-- The guard holds (R142). -/
def Thread.guard (t : Thread) (g : Grd) : Bool := t.pget g.pred.toNat != g.pneg
/-- Every register of every run lies below the block limit (R43). -/
def Thread.inBlocks (t : Thread) (runs : List (VReg × Nat)) : Bool :=
  runs.all fun r => decide (r.1.toNat + r.2 ≤ t.v.length)
/-- Adds to a scoreboard counter (R35). -/
def Thread.qadd (t : Thread) (q : Nat) : Thread := { t with q := t.q.modify q (· + 1) }
/-- Takes from a scoreboard counter (R35). -/
def Thread.qsub (t : Thread) (q : Nat) : Thread := { t with q := t.q.modify q (· - 1) }
/-- Where the thread's current word stands (R392). -/
def Thread.site (t : Thread) : Site := ⟨t.pc, t.hdr, (t.pc - t.hdr).toNat / 8 - 1, t.count⟩
/-- Fall-through address of a clause: HDR + 8·(COUNT + 2) (R133, R374). -/
def Site.fall (p : Site) : DWord := p.hdr + BitVec.ofNat 64 (8 * (p.count + 1))

/-! Launch records (R306) -/

/-- A field of a launch record. -/
abbrev lrf (r : BitVec 4096) (lo n : Nat) : BitVec n := r.extractLsb' lo n
/-- ENTRY. -/
def lrEntry (r : BitVec 4096) : DWord := lrf r 0 64
/-- SCRATCH. -/
def lrScratch (r : BitVec 4096) : Nat := (lrf r 68 23).toNat
/-- REGM. -/
def lrRegm (r : BitVec 4096) : Nat := (lrf r 91 5).toNat
/-- REGB. -/
def lrRegb (r : BitVec 4096) : Nat := (lrf r 96 5).toNat
/-- CCOLS. -/
def lrCcols (r : BitVec 4096) : Nat := (lrf r 101 4).toNat
/-- CROWS. -/
def lrCrows (r : BitVec 4096) : Nat := (lrf r 105 4).toNat
/-- TEAM. -/
def lrTeam (r : BitVec 4096) : Nat := (lrf r 109 11).toNat
/-- ECLASS. -/
def lrEclass (r : BitVec 4096) : Nat := (lrf r 120 3).toNat
/-- COOP. -/
def lrCoop (r : BitVec 4096) : Bool := r.getLsbD 123
/-- DET. -/
def lrDet (r : BitVec 4096) : Bool := r.getLsbD 124
/-- KIND. -/
def lrKind (r : BitVec 4096) : Nat := (lrf r 125 3).toNat
/-- GX. -/
def lrGx (r : BitVec 4096) : Nat := (lrf r 128 32).toNat
/-- GY. -/
def lrGy (r : BitVec 4096) : Nat := (lrf r 160 32).toNat
/-- ACC. -/
def lrAcc (r : BitVec 4096) : Nat := (lrf r 192 6).toNat
/-- ARGS. -/
def lrArgs (r : BitVec 4096) : DWord := lrf r 256 64
/-- FMTTAB. -/
def lrFmttab (r : BitVec 4096) : DWord := lrf r 320 64
/-- SEED. -/
def lrSeed (r : BitVec 4096) : DWord := lrf r 384 64
/-- TRAPH. -/
def lrTraph (r : BitVec 4096) : DWord := lrf r 448 64
/-- HANDLERS. -/
def lrHandlers (r : BitVec 4096) : DWord := lrf r 512 64
/-- HITTAB. -/
def lrHittab (r : BitVec 4096) : DWord := lrf r 576 64
/-- AUX. -/
def lrAux (r : BitVec 4096) : DWord := lrf r 640 64
/-- SAVE. -/
def lrSave (r : BitVec 4096) : DWord := lrf r 704 64
/-- SAVESZ. -/
def lrSavesz (r : BitVec 4096) : Nat := (lrf r 768 32).toNat
/-- SPILLN. -/
def lrSpilln (r : BitVec 4096) : Nat := (lrf r 800 32).toNat
/-- SPILL. -/
def lrSpill (r : BitVec 4096) : DWord := lrf r 832 64
/-- OSBACK. -/
def lrOsback (r : BitVec 4096) : DWord := lrf r 896 64
/-- OSBACKN. -/
def lrOsbackn (r : BitVec 4096) : Nat := (lrf r 960 32).toNat
/-- Counter pointer of wait pair `i`. -/
def lrWaitPtr (r : BitVec 4096) (i : Nat) : DWord := lrf r (1024 + 128 * i) 64
/-- Value of wait pair `i`. -/
def lrWaitVal (r : BitVec 4096) (i : Nat) : DWord := lrf r (1088 + 128 * i) 64
/-- SIGNAL. -/
def lrSignal (r : BitVec 4096) : DWord := lrf r 1536 64
/-- SIGVAL. -/
def lrSigval (r : BitVec 4096) : DWord := lrf r 1600 64
/-- DETLOG. -/
def lrDetlog (r : BitVec 4096) : DWord := lrf r 1664 64

/-- Weight of a group of an energy class (R315). -/
def eclassWeight (c : Nat) : Nat := [1, 2, 3, 4, 6, 8, 12, 16].getD c 16

/-! Codes and reports -/

/-- Value of a code (R370). -/
def Code.val : Code → BitVec 8
  | .illegalOpcode => 0x01 | .illegalOperand => 0x02 | .badClause => 0x03 | .pairViolation => 0x04
  | .lookaheadHazard => 0x05 | .missingMember => 0x06 | .registerBlock => 0x07 | .privileged => 0x08
  | .convertTrap => 0x09 | .formatSlot => 0x0A | .pageFault => 0x10 | .permission => 0x11 | .tagMismatch => 0x12
  | .bounds => 0x13 | .rangeLock => 0x14 | .align => 0x15 | .scratchRange => 0x16 | .execNever => 0x17
  | .orderedStall => 0x20 | .osCapacity => 0x21 | .osNotHeld => 0x22 | .osPoisoned => 0x23 | .couchSpillFull => 0x24
  | .gridNotResident => 0x25 | .energyClass => 0x26 | .barrierMismatch => 0x27 | .eqRange => 0x28
  | .eqNotOpen => 0x29 | .eqLogFull => 0x2A | .detMismatch => 0x30 | .softErrorCorrected => 0x31
  | .uncorrectable => 0x32 | .linkError => 0x33 | .leaseClock => 0x34 | .trap => 0x3F | .hostFreeze => 0x00

/-- Codes whose handling is Freeze (R370). UNCORRECTABLE freezes the owning context (R443). -/
def Code.freezing : Code → Bool
  | .permission => true | .tagMismatch => true | .bounds => true | .execNever => true | .uncorrectable => true
  | .hostFreeze => true | _ => false

/-- %team of a thread (R29). -/
def State.srTeam (s : State) (t : Thread) : Word :=
  match s.teamOf t with
  | some tm => BitVec.ofNat 32 tm.logical
  | none => 0xFFFFFFFF#32
/-- %cluster of a thread (R29). -/
def State.srCluster (s : State) (t : Thread) : Word :=
  match s.teamOf t with
  | some tm => BitVec.ofNat 32 tm.cluster
  | none => 0xFFFFFFFF#32
/-- %tid of a thread (R29). -/
def Thread.srTid (t : Thread) : Nat := if t.team.isSome then t.tix else t.lane

/-- A cause with a code alone. -/
def Cause.of (c : Code) : Cause := ⟨c, 0#8, 0#64, false, false⟩
/-- A cause with an address. -/
def Cause.at (c : Code) (a : DWord) : Cause := ⟨c, 0#8, a, false, false⟩

/-- A trap report (R372) from its parts. -/
def mkReport (ln : BitVec 128) (pc addr hdr : DWord) (time : Nat) (c : Cause) (core slice lane slot ctx word : Nat)
    (freeze : Bool) (team : Word) (tid : Nat) : BitVec 512 :=
  ln ++ pc ++ addr ++ hdr ++ BitVec.ofNat 64 time ++ c.code.val ++ c.arg ++ BitVec.ofNat 8 core ++ BitVec.ofNat 3 slice
    ++ BitVec.ofNat 5 lane ++ BitVec.ofNat 3 slot ++ BitVec.ofNat 6 ctx ++ BitVec.ofNat 4 word ++ BitVec.ofBool freeze
    ++ BitVec.ofBool c.engine ++ BitVec.ofBool c.bkpt ++ 0#16 ++ team ++ BitVec.ofNat 10 tid ++ 0#22

/-- The report of a code that a thread is charged with, at a site (R372, R392). -/
def State.reportOf (s : State) (t : Thread) (p : Site) (c : Cause) : BitVec 512 :=
  mkReport t.name p.pc c.addr p.hdr (s.timeOf t) c t.core t.slice t.lane t.slot t.ctx p.word c.code.freezing (s.srTeam t)
    t.srTid

/-- CODE of a report. -/
def reportCode (r : BitVec 512) : BitVec 8 := r.extractLsb' 120 8
/-- A report with FREEZE set. -/
def withFreeze (r : BitVec 512) : BitVec 512 := r ||| (1#512 <<< 82)

/-! Freezing (R377, R378) -/

/-- Sends an MSI-X vector on every trained host link (R378, R446). -/
def State.msix (s : State) (v : Nat) : State :=
  { s with h := { s.h with
    msix := ((List.range 2).filter fun l => s.b.pcie.getLsbD l).map (fun l => (v, l)) ++ s.h.msix } }

/-- Freezes a context with a report; a further code of a frozen context sets LOST (R378, R379). -/
def State.freeze (s : State) (c : Nat) (r : BitVec 512) (msg : Bool) : State :=
  if (s.ctx c).frozen then s.updCtx c fun k => { k with lost := true }
  else
    let s := s.updCtx c fun k => { k with frozen := true, report := withFreeze r }
    if msg then s.msix c else s

/-- A code of a frozen context is dropped and sets LOST (R379). -/
def State.lose (s : State) (c : Nat) : State := s.updCtx c fun k => { k with lost := true }

/-! Taking a trap (R373, R374, R379) -/

/-- Marks a thread as trapped by the word it stands at; delivery follows in `settle`. -/
def Thread.trapAt (t : Thread) (report : BitVec 512) (fall : DWord) (freezing : Bool) : Thread :=
  if t.trap.isSome then t else { t with trap := some ⟨report, fall, none, freezing, false, true, 0⟩ }

/-- A thread with a trap of its current word (R374, R391). -/
def State.trapped (s : State) (t : Thread) (c : Cause) : Thread :=
  t.trapAt (s.reportOf t t.site c) t.site.fall c.code.freezing

/-- The trap handler of a thread's launch; zero when there is none (R373). -/
def State.traph (s : State) (t : Thread) : DWord :=
  match s.launch? t.launch with
  | some l => lrTraph l.record
  | none => 0#64

/-- A thread that runs a trap handler (R374). -/
def Thread.isHandler (t : Thread) : Bool :=
  match t.kind with
  | .handler _ => true
  | .launchTrap _ => true
  | _ => false
/-- A re-created thread of a replay (R433). -/
def Thread.isReplay (t : Thread) : Bool :=
  match t.kind with
  | .replay _ _ => true
  | _ => false
/-- The thread's global stores are kept from memory: it belongs to a shadow or to a replay. -/
def State.isolates (s : State) (t : Thread) : Bool :=
  t.isReplay || (match s.teamOf t with | some tm => tm.shadowOf.isSome | none => false)

/-- The trap of a thread is still to be delivered. -/
def Thread.freshTrap (t : Thread) : Bool :=
  match t.trap with
  | some r => r.fresh
  | none => false
/-- The trap of a thread carries a freezing code. -/
def Thread.freezingTrap (t : Thread) : Bool :=
  match t.trap with
  | some r => r.freezing
  | none => false
/-- Position order of R379: core, slice, lane. -/
def Thread.posKey (t : Thread) : Nat := (t.core * 8 + t.slice) * 256 + t.lane * 8 + t.slot

/-- The thread with the least position. -/
def lowest (ts : List Thread) : Option Thread :=
  ts.foldl (fun a t => match a with
    | none => some t
    | some b => if t.posKey < b.posKey then some t else some b) none

/-- Inserts a thread by position. -/
def insertPos (t : Thread) (ts : List Thread) : List Thread :=
  match ts with
  | [] => [t]
  | u :: r => if t.posKey < u.posKey then t :: u :: r else u :: insertPos t r
/-- Threads by position. -/
def sortPos (ts : List Thread) : List Thread := ts.foldr insertPos []

/-- Marks a fresh trap delivered: the thread stands inhibited. -/
def Thread.delivered (t : Thread) (suppressed : Bool) : Thread :=
  { t with
    status := if t.status == .issued then .boundary else t.status
    trap := t.trap.map fun r => { r with fresh := false, suppressed := suppressed } }

/-- Gives a thread's trap its place among those that wait for handlers (R374). -/
def Thread.arrived (t : Thread) (n : Nat) : Thread := { t with trap := t.trap.map fun r => { r with arrival := n } }

/-- Completes a flight: its counter falls and it leaves (R36). -/
def State.finish (s : State) (f : Flight) : State :=
  let s := s.dropFlight f.uid
  match f.qc with
  | some i => if f.posted then s else s.updThread f.thread fun t => t.qsub i
  | none => s

/-- An EXIT or a RETT of a thread that has not taken effect is void: its thread has raised a code first (R191, R374,
log 40). -/
def State.voidExit (s : State) (u : Nat) : State :=
  (s.x.flights.filter fun f => f.thread == u && (match f.op with | .exit _ | .rett _ => true | _ => false)).foldl State.finish s

/-- Delivers one trap: a freezing code freezes the context; a handler-class code waits for its handler, or freezes the
context where TRAPH is zero or the thread is itself a handler (R373 to R375). In a frozen context, or beside a freezing
code of the same issue, it is suppressed and sets LOST (R379). A trap of a replay is the trace's (R435). -/
def State.deliver (s : State) (beside : List Nat) (t : Thread) : State :=
  match t.trap with
  | none => s
  | some r =>
    let s := s.voidExit t.uid
    if t.isReplay then s.updThread t.uid fun u => u.delivered false
    else if (s.ctx t.ctx).frozen || (!r.freezing && beside.contains t.ctx) then
      (s.lose t.ctx).updThread t.uid fun u => u.delivered true
    else if r.freezing || s.traph t == 0#64 || t.isHandler then
      (s.freeze t.ctx r.report true).updThread t.uid fun u => u.delivered true
    else
      ({ s with x := { s.x with nextUid := s.x.nextUid + 1 } } : State).updThread t.uid fun u =>
        (u.delivered false).arrived s.x.nextUid

/-- Delivers the traps that the executing word has raised: freezing codes first, lowest position first, then the
handler-class codes (R379). -/
def State.settle (s : State) : State :=
  let fr := s.x.threads.filter Thread.freshTrap
  if fr.isEmpty then s
  else
    let fz := sortPos (fr.filter fun t => t.freezingTrap && !t.isReplay)
    let hc := sortPos (fr.filter fun t => !(t.freezingTrap && !t.isReplay))
    let ctxs := fz.map Thread.ctx
    (fz ++ hc).foldl (fun s t => s.deliver ctxs t) s

/-- A code of work in flight whose thread is trapped already, or has ended: a freezing code still freezes the context at once
(R276, R378), and so does a handler-class code where TRAPH is zero or the thread ran a handler (R373, R378). Any other has no
thread to handle it (R374). That of a replay is the trace's (R435). -/
def State.raiseLate (s : State) (t : Thread) (p : Site) (c : Cause) : State :=
  if t.isReplay then s
  else if c.code.freezing then
    (s.freeze t.ctx (s.reportOf t p c) true).updThread t.uid fun u =>
      { u with trap := u.trap.map fun r => { r with freezing := true } }
  else if (s.ctx t.ctx).frozen then s.lose t.ctx
  else if s.traph t == 0#64 || t.isHandler then s.freeze t.ctx (s.reportOf t p c) true
  else s

/-- What is kept of a thread that has ended while work of it goes on (R269). -/
def State.ghost? (s : State) (u : Nat) : Option Thread := s.x.ghosts.find? fun t => t.uid == u

/-- Raises a code on a thread at a site, outside an issue: joins, engines, the fault service (R374, R392). -/
def State.raiseAt (s : State) (u : Nat) (p : Site) (c : Cause) : State :=
  match s.thread? u with
  | none =>
    match s.ghost? u with
    | some t => s.raiseLate t p c
    | none => s
  | some t =>
    if t.trap.isSome || t.status == .exited then s.raiseLate t p c
    else (s.updThread u fun t => t.trapAt (s.reportOf t p c) p.fall c.code.freezing).settle

/-- Raises a code on a thread at the word it stands at. -/
def State.raise (s : State) (u : Nat) (c : Cause) : State :=
  match s.thread? u with
  | none => s
  | some t => s.raiseAt u t.site c

/-! Masks of a replay (R432, R436) -/

/-- Adds bits to the mask of a member. -/
def orMask (l : List (Nat × BitVec 8)) (k : Nat) (m : BitVec 8) : List (Nat × BitVec 8) :=
  match l with
  | [] => [(k, m)]
  | (j, v) :: r => if j == k then (j, v ||| m) :: r else (j, v) :: orMask r k m

/-- The mask of a member. -/
def maskOf (l : List (Nat × BitVec 8)) (k : Nat) : BitVec 8 := ((l.find? fun p => p.1 == k).map Prod.snd).getD 0#8

/-- Changes the replay of a launch. -/
def State.updReplay (s : State) (lid : Nat) (f : Replay → Replay) : State :=
  s.updLaunch lid fun l => { l with replay := l.replay.map f }

/-- A word of a re-created thread sets USED or MISSING bits (R435): the named thread's count at once, a neighbour's when a
value of it enters the named thread's result (R436). -/
def State.note (s : State) (t : Thread) (used missing : BitVec 8) : State :=
  match t.kind with
  | .replay m named =>
    s.updReplay t.launch fun r =>
      if named then { r with used := r.used ||| used, missing := r.missing ||| missing }
      else { r with pendUsed := orMask r.pendUsed m used, pendMiss := orMask r.pendMiss m missing }
  | _ => s

/-- Values of neighbours have entered a result of the named thread (R436). -/
def State.noteEnter (s : State) (lid : Nat) (ms : List Nat) : State :=
  s.updReplay lid fun r => ms.foldl (fun r m =>
    { r with
      used := r.used ||| maskOf r.pendUsed m
      missing := r.missing ||| maskOf r.pendMiss m
      pendUsed := r.pendUsed.filter fun p => p.1 != m
      pendMiss := r.pendMiss.filter fun p => p.1 != m }) r

/-- Quad member that a re-created thread stands for. -/
def Thread.replayMember (t : Thread) : Option Nat :=
  match t.kind with
  | .replay m _ => some m
  | _ => none
/-- The thread is the one that its replay names. -/
def Thread.isNamed (t : Thread) : Bool :=
  match t.kind with
  | .replay _ n => n
  | _ => false

/-! Return from a handler (R375, R381) -/

/-- Releases a trapped thread at a clause boundary: its registers, predicates and counters are unchanged (R375). -/
def Thread.release (t : Thread) (pc : DWord) : Thread :=
  { t with pc := pc, hdr := pc, mid := false, status := .boundary, trap := none }

/-- A target of a computed branch or of RETT must be 8-byte aligned (R146, R375). -/
def targetOk (a : DWord) : Bool := a.extractLsb' 0 3 == 0#3

/-! Flights (R36) -/

/-- Puts an instruction of a thread in flight: the counter rises, and the window opens (R35, R37). -/
def State.launchFlight (s : State) (t : Thread) (c : Ctl) (op : FlightOp) : State :=
  let stamp := ((s.x.issues.find? fun i => i.core == t.core && i.slice == t.slice).map Issue.stamp).getD 0
  let q := if c.qe then some c.qc.toNat else none
  let f : Flight := ⟨s.x.nextUid, stamp, t.uid, t.site, q, c.la.toNat, op, false, [], none⟩
  let s := { s with x := { s.x with nextUid := s.x.nextUid + 1, flights := s.x.flights ++ [f] } }
  match q with
  | some i => s.updThread t.uid fun t => t.qadd i
  | none => s

/-- A flight still counts as its thread's work: it is neither completed nor posted. -/
def Flight.busy (f : Flight) : Bool := !f.posted

/-- The thread has an instruction in flight (R36). -/
def State.busyThread (s : State) (u : Nat) : Bool := s.x.flights.any fun f => f.thread == u && f.busy

/-- Completes the word of a flight whose effect is still to reach its target (R205, R226). -/
def State.post (s : State) (f : Flight) : State :=
  let s := s.updFlight f.uid fun g => { g with posted := true }
  match f.qc with
  | some i => s.updThread f.thread fun t => t.qsub i
  | none => s

/-! Members of the bundle (R34, R142) -/

/-- The thread is in the bundle that the current slice is issuing. -/
def State.member (s : State) (t : Thread) : Bool :=
  t.status == .issued && t.core == s.x.cur.1 && t.slice == s.x.cur.2 && t.trap.isNone

/-- The members of the bundle, in ascending lane order. -/
def State.members (s : State) : List Nat :=
  let ms := s.x.threads.filter s.member
  (List.range 32).filterMap fun l => (ms.find? fun t => t.lane == l).map Thread.uid

/-- A thread's result at issue: the thread with its registers written, or a code. -/
abbrev Res (α : Type) := Except Cause α

/-- ILLEGAL_OPERAND. -/
def illop {α : Type} : Res α := .error (Cause.of .illegalOperand)

/-- One thread of a fixed-latency word: the register-block check, then the effect; a code leaves the registers unchanged
(R390, R391). -/
def State.aluThread (s : State) (g : Grd) (runs : List (VReg × Nat)) (f : Thread → Res Thread) (t : Thread) : Thread :=
  if !(s.member t && t.guard g) then t
  else if !t.inBlocks runs then s.trapped t (Cause.of .registerBlock)
  else
    match f t with
    | .ok t' => t'
    | .error c => s.trapped t c

/-- A fixed-latency word over the bundle: every thread reads and writes its own registers (R36, R157). -/
def State.alu (s : State) (g : Grd) (runs : List (VReg × Nat)) (f : Thread → Res Thread) : State :=
  (s.mapThreads (s.aluThread g runs f)).settle

/-- A word whose effect reaches past its thread, over the bundle in ascending lane order (R88, R142, R390). -/
def State.lanes (s : State) (g : Grd) (runs : List (VReg × Nat)) (f : State → Thread → Res State) : State :=
  (s.members.foldl (fun s u =>
    match s.thread? u with
    | none => s
    | some t =>
      if !t.guard g then s
      else if !t.inBlocks runs then s.updThread u fun t => s.trapped t (Cause.of .registerBlock)
      else
        match f s t with
        | .ok s' => s'
        | .error c => s.updThread u fun t => s.trapped t c) s).settle

/-- The next free value's index. -/
def State.takeFree (s : State) : Nat × State := (s.freeCtr, { s with freeCtr := s.freeCtr + 1 })

end Sys2Proof.Machine
end

