-- ==== Sys2Proof/Machine/Operands.lean ====
section
/-! DEFINITION. Operand forms: W registers, special registers, and source B with its widening (R29, R32, R143 to
R145). -/

namespace Sys2Proof.Machine

/-- Reads W[n] as the thread sees it: its own write, else the value its team sees (R32). A thread of no team has none
(R241). -/
def State.wval (s : State) (t : Thread) (n : Nat) : Res Word :=
  match s.teamOf t with
  | none => illop
  | some tm => .ok ((sget t.wown n).getD (tm.w.getD n 0#32))

/-- Writes W[n]: the write waits for the thread's next team barrier (R32). -/
def State.setW (s : State) (t : Thread) (n : Nat) (v : Word) : Res Thread :=
  match s.teamOf t with
  | none => illop
  | some _ => .ok { t with wown := sput t.wown n v }

/-- %group of a thread (R29). -/
def Thread.srGroup (t : Thread) : Nat := if t.team.isSome then t.tix / 32 else 0

/-- Reads a special register (R29, R30, R145). -/
def State.srval (s : State) (t : Thread) (r : SReg) : Word :=
  match r with
  | .tid => BitVec.ofNat 32 t.srTid
  | .lane => BitVec.ofNat 32 t.lane
  | .slot => BitVec.ofNat 32 t.slot
  | .group => BitVec.ofNat 32 t.srGroup
  | .team => s.srTeam t
  | .cluster => s.srCluster t
  | .core => BitVec.ofNat 32 t.core
  | .die => BitVec.ofNat 32 (coreDie t.core)
  | .ln0 => t.name.extractLsb' 0 32
  | .ln1 => t.name.extractLsb' 32 32
  | .ln2 => t.name.extractLsb' 64 32
  | .ln3 => t.name.extractLsb' 96 32
  | .time => BitVec.ofNat 32 (s.timeOf t)
  | .timehi => BitVec.ofNat 32 (s.timeOf t / 2 ^ 32)
  | .ctx => BitVec.ofNat 32 t.ctx

/-- The S8 value of an FP32 instruction: E4M3, exact in FP32 (R144). -/
def s8Fp (i : BitVec 8) : Word := toFp32 (decodeNum .e4m3 i.toNat)

/-- The S8 value of a packed-half instruction, in both halves (R144). -/
def s8Half (f : Fmt) (i : BitVec 8) : Word :=
  let h : BitVec 16 := BitVec.ofNat 16 (roundNE f (decodeNum .e4m3 i.toNat))
  h ++ h

/-- Source B of an integer instruction, 32 bits (R143, R144). -/
def State.srcI (s : State) (t : Thread) (b : SrcB) : Res Word :=
  match b with
  | .v r => .ok (t.vget r.toNat)
  | .w r => s.wval t r.toNat
  | .s8 i => .ok (i.signExtend 32)
  | .sr r => .ok (s.srval t r)
  | .i24 i => .ok (i.signExtend 32)

/-- Source B of an FP32 instruction (R144). -/
def State.srcF (s : State) (t : Thread) (b : SrcB) : Res Word :=
  match b with
  | .v r => .ok (t.vget r.toNat)
  | .w r => s.wval t r.toNat
  | .s8 i => .ok (s8Fp i)
  | .sr r => .ok (s.srval t r)
  | .i24 i => .ok (i ++ 0#8)

/-- Source B of a packed-half instruction (R144, R175). -/
def State.srcH (s : State) (f : Fmt) (t : Thread) (b : SrcB) : Res Word :=
  match b with
  | .v r => .ok (t.vget r.toNat)
  | .w r => s.wval t r.toNat
  | .s8 i => .ok (s8Half f i)
  | .sr r => .ok (s.srval t r)
  | .i24 i => .ok (i.signExtend 32)

/-- Widening of a 32-bit value to 64 bits (R159, R160). -/
def ext64 (u : Bool) (w : Word) : DWord := if u then w.zeroExtend 64 else w.signExtend 64

/-- 64-bit source B of IADD64 (R160): a pair, a 32-bit value widened by U, or an immediate sign-extended. -/
def State.src64 (s : State) (u : Bool) (t : Thread) (b : SrcB) : Res DWord :=
  match b with
  | .v r => .ok (t.pair r.toNat)
  | .w r => (s.wval t r.toNat).map (ext64 u)
  | .s8 i => .ok (i.signExtend 64)
  | .sr r => .ok (ext64 u (s.srval t r))
  | .i24 i => .ok (i.signExtend 64)

/-- Source B where a 64-bit value is read as unsigned bytes or an address pair: a pair in V, else the 32-bit value
zero-extended for W, sign-extended for S8 (R144). -/
def State.srcPair (s : State) (t : Thread) (b : SrcB) : Res DWord := s.src64 true t b

/-- The V registers that a source B names, as a run of one. -/
def bRuns (b : SrcB) (len : Nat) : List (VReg × Nat) :=
  match b with
  | .v r => [(r, len)]
  | _ => []

end Sys2Proof.Machine
end

