-- ==== Sys2Proof/Machine/Flags.lean ====
section
/-! DEFINITION. Predicate results, carries and saturation: the flag computations of the spec (R114, R159, R162, R168,
R172). -/

namespace Sys2Proof.Machine

/-- A compare's result combined with a predicate (R162). -/
def combine (m : Comb) (t : Thread) (r : Bool) : Bool :=
  match m with
  | .none => r
  | .and q => r && t.pget q.toNat
  | .or q => r || t.pget q.toNat
  | .xor q => r != t.pget q.toNat

/-- An FP compare of two values (R172). -/
def fcmp (c : FCond) (x y : Num) : Bool :=
  let n := x.isNan || y.isNan
  match c with
  | .eq => !n && x.eq y
  | .ne => n || !x.eq y
  | .lt => !n && x.lt y
  | .le => !n && !y.lt x
  | .gt => !n && y.lt x
  | .ge => !n && !x.lt y
  | .num => !n
  | .nan => n

/-- The conditions EQ to GE as FP conditions (R176). -/
def condF : Cond → FCond
  | .eq => .eq | .ne => .ne | .lt => .lt | .le => .le | .gt => .gt | .ge => .ge

/-- Integer comparison of 32-bit values (R162). -/
def icmp (c : Cond) (u : Bool) (a b : Word) : Bool :=
  let lt := if u then a.ult b else a.slt b
  match c with
  | .eq => a == b
  | .ne => a != b
  | .lt => lt
  | .le => lt || a == b
  | .gt => !(lt || a == b)
  | .ge => !lt

/-- Value of `w` bits as an integer, by signedness. -/
def ival {n : Nat} (u : Bool) (a : BitVec n) : Int := if u then (a.toNat : Int) else a.toInt

/-- Sat(v) or v mod 2^w (R114, R159, R160). -/
def satWrap (w : Nat) (u sat : Bool) (v : Int) : BitVec w :=
  if sat then
    if u then BitVec.ofInt w (max 0 (min v ((2 : Int) ^ w - 1)))
    else BitVec.ofInt w (max (-((2 : Int) ^ (w - 1))) (min v ((2 : Int) ^ (w - 1) - 1)))
  else BitVec.ofInt w v

/-- A 32-bit sum with carry in: the result and the carry out (R159). -/
def addCarry (a b : Word) (c : Bool) : Word × Bool :=
  let v := a.toNat + b.toNat + c.toNat
  (BitVec.ofNat 32 v, decide (2 ^ 32 ≤ v))

/-- Truth table of PLOP (R168). -/
def plop (table : BitVec 8) (x y z : Bool) : Bool := table.getLsbD (4 * x.toNat + 2 * y.toNat + z.toNat)

/-- 32 predicates as a word, P63 reading true (R169). -/
def predWord (t : Thread) (hi : Bool) : Word :=
  if hi then t.p.extractLsb' 32 32 ||| 0x80000000#32 else t.p.extractLsb' 0 32

/-- Loads 32 predicates; the write of P63 is ignored (R169). -/
def setPredWord (t : Thread) (hi : Bool) (b : Word) : Thread :=
  { t with p := if hi then (t.p.extractLsb' 63 1 ++ b.extractLsb' 0 31) ++ t.p.extractLsb' 0 32
                else t.p.extractLsb' 32 32 ++ b }

end Sys2Proof.Machine
end

