-- ==== Sys2Proof/Machine/Alu.lean ====
section
/-! DEFINITION. Moves, integer arithmetic, logic, shifts, bit fields and predicates (R158 to R169). -/

namespace Sys2Proof.Machine

/-- The outcome type of a meaning. -/
abbrev Out := Host.Outcome State Fault Refusal

/-- Runs named by a 32-bit three-operand word. -/
def runs3 (d a : VReg) (b : SrcB) : List (VReg × Nat) := (d, 1) :: (a, 1) :: bRuns b 1

/-- V[d] := f(b), an integer word with its single source in B. -/
def State.intOp1 (s : State) (c : Ctl) (d : VReg) (b : SrcB) (f : Word → Word) : State :=
  s.alu c.grd ((d, 1) :: bRuns b 1) fun t => do
    let y ← s.srcI t b
    .ok (t.vset d.toNat (f y))

/-- V[d] := f(a, b), an integer word. -/
def State.intOp2 (s : State) (c : Ctl) (d a : VReg) (b : SrcB) (f : Word → Word → Word) : State :=
  s.alu c.grd (runs3 d a b) fun t => do
    let y ← s.srcI t b
    .ok (t.vset d.toNat (f (t.vget a.toNat) y))

/-- V[d] := f(a, b, c), an integer word with source C. -/
def State.intOp3 (s : State) (c : Ctl) (d a : VReg) (b : SrcB) (x : VReg) (f : Word → Word → Word → Word) : State :=
  s.alu c.grd ((x, 1) :: runs3 d a b) fun t => do
    let y ← s.srcI t b
    .ok (t.vset d.toNat (f (t.vget a.toNat) y (t.vget x.toNat)))

/-- NOP (R158). -/
def execNop (s : State) : Out := .next s

/-- MOV (R158). -/
def execMov (c : Ctl) (d : VReg) (b : SrcB) (s : State) : Out := .next (s.intOp1 c d b id)

/-- MOVI (R158). -/
def execMovi (g : Grd) (d : VReg) (imm : Word) (s : State) : Out :=
  .next (s.alu g [(d, 1)] fun t => .ok (t.vset d.toNat imm))

/-- MOVW (R158): the write reaches the team under R32. -/
def execMovw (c : Ctl) (w : WReg) (b : SrcB) (s : State) : Out :=
  .next (s.alu c.grd (bRuns b 1) fun t => do
    let y ← s.srcI t b
    s.setW t w.toNat y)

/-- IADD (R159). -/
def execIadd (c : Ctl) (u sat : Bool) (d a : VReg) (b : SrcB) (s : State) : Out :=
  .next (s.intOp2 c d a b fun x y => satWrap 32 u sat (ival u x + ival u y))

/-- ISUB (R159). -/
def execIsub (c : Ctl) (u sat : Bool) (d a : VReg) (b : SrcB) (s : State) : Out :=
  .next (s.intOp2 c d a b fun x y => satWrap 32 u sat (ival u x - ival u y))

/-- IADDC (R159): the carry predicate is read before it is written. -/
def execIaddc (c : Ctl) (p : PReg) (d a : VReg) (b : SrcB) (s : State) : Out :=
  .next (s.alu c.grd (runs3 d a b) fun t => do
    let y ← s.srcI t b
    let r := addCarry (t.vget a.toNat) y (t.pget p.toNat)
    .ok ((t.vset d.toNat r.1).pset p.toNat r.2))

/-- IMUL (R159). -/
def execImul (c : Ctl) (u sat : Bool) (d a : VReg) (b : SrcB) (s : State) : Out :=
  .next (s.intOp2 c d a b fun x y => satWrap 32 u sat (ival u x * ival u y))

/-- IMULH (R159): bits 63:32 of the product. -/
def execImulh (c : Ctl) (u : Bool) (d a : VReg) (b : SrcB) (s : State) : Out :=
  .next (s.intOp2 c d a b fun x y => (BitVec.ofInt 64 (ival u x * ival u y)).extractLsb' 32 32)

/-- IMAD (R159). -/
def execImad (c : Ctl) (u sat : Bool) (d a : VReg) (b : SrcB) (x : VReg) (s : State) : Out :=
  .next (s.intOp3 c d a b x fun p y z => satWrap 32 u sat (ival u p * ival u y + ival u z))

/-- IMIN (R161). -/
def execImin (c : Ctl) (u : Bool) (d a : VReg) (b : SrcB) (s : State) : Out :=
  .next (s.intOp2 c d a b fun x y => if icmp .le u x y then x else y)

/-- IMAX (R161). -/
def execImax (c : Ctl) (u : Bool) (d a : VReg) (b : SrcB) (s : State) : Out :=
  .next (s.intOp2 c d a b fun x y => if icmp .ge u x y then x else y)

/-- IABS (R161). -/
def execIabs (c : Ctl) (d : VReg) (b : SrcB) (s : State) : Out :=
  .next (s.intOp1 c d b fun y => BitVec.ofNat 32 y.toInt.natAbs)

/-- IADD64 (R160). -/
def execIadd64 (c : Ctl) (u sat : Bool) (d a : VReg) (b : SrcB) (s : State) : Out :=
  .next (s.alu c.grd ((d, 2) :: (a, 2) :: bRuns b 2) fun t => do
    let y ← s.src64 u t b
    .ok (t.setPair d.toNat (satWrap 64 u sat (ival u (t.pair a.toNat) + ival u y))))

/-- IMAD64 (R160). -/
def execImad64 (c : Ctl) (u sat : Bool) (d a : VReg) (b : SrcB) (x : VReg) (s : State) : Out :=
  .next (s.alu c.grd ((d, 2) :: (a, 1) :: (x, 2) :: bRuns b 1) fun t => do
    let y ← s.srcI t b
    .ok (t.setPair d.toNat (satWrap 64 u sat (ival u (t.vget a.toNat) * ival u y + ival u (t.pair x.toNat)))))

/-- LEA (R160). -/
def execLea (c : Ctl) (sh : BitVec 3) (d a : VReg) (b : SrcB) (s : State) : Out :=
  .next (s.alu c.grd ((d, 2) :: (a, 2) :: bRuns b 1) fun t => do
    let y ← s.srcI t b
    .ok (t.setPair d.toNat (t.pair a.toNat + (y.signExtend 64 <<< sh.toNat))))

/-- ICMP (R162). -/
def execIcmp (c : Ctl) (cond : Cond) (u : Bool) (cmb : Comb) (d : PReg) (a : VReg) (b : SrcB) (s : State) : Out :=
  .next (s.alu c.grd ((a, 1) :: bRuns b 1) fun t => do
    let y ← s.srcI t b
    .ok (t.pset d.toNat (combine cmb t (icmp cond u (t.vget a.toNat) y))))

/-- ISEL (R162). -/
def execIsel (c : Ctl) (p : PReg) (d a : VReg) (b : SrcB) (s : State) : Out :=
  .next (s.alu c.grd (runs3 d a b) fun t => do
    let y ← s.srcI t b
    .ok (t.vset d.toNat (if t.pget p.toNat then t.vget a.toNat else y)))

/-- AND (R163). -/
def execLand (c : Ctl) (d a : VReg) (b : SrcB) (s : State) : Out := .next (s.intOp2 c d a b fun x y => x &&& y)

/-- OR (R163). -/
def execLor (c : Ctl) (d a : VReg) (b : SrcB) (s : State) : Out := .next (s.intOp2 c d a b fun x y => x ||| y)

/-- XOR (R163). -/
def execLxor (c : Ctl) (d a : VReg) (b : SrcB) (s : State) : Out := .next (s.intOp2 c d a b fun x y => x ^^^ y)

/-- ANDN (R163). -/
def execLandn (c : Ctl) (d a : VReg) (b : SrcB) (s : State) : Out := .next (s.intOp2 c d a b fun x y => x &&& ~~~y)

/-- NOT (R163). -/
def execLnot (c : Ctl) (d : VReg) (b : SrcB) (s : State) : Out := .next (s.intOp1 c d b fun y => ~~~y)

/-- Shift amount b[4:0] (R164). -/
def shAmt (b : Word) : Nat := b.toNat % 32

/-- SHL (R164). -/
def execShl (c : Ctl) (d a : VReg) (b : SrcB) (s : State) : Out := .next (s.intOp2 c d a b fun x y => x <<< shAmt y)

/-- SHR (R164). -/
def execShr (c : Ctl) (d a : VReg) (b : SrcB) (s : State) : Out := .next (s.intOp2 c d a b fun x y => x >>> shAmt y)

/-- SAR (R164). -/
def execSar (c : Ctl) (d a : VReg) (b : SrcB) (s : State) : Out :=
  .next (s.intOp2 c d a b fun x y => x.sshiftRight (shAmt y))

/-- ROT (R164): a left rotation. -/
def execRot (c : Ctl) (d a : VReg) (b : SrcB) (s : State) : Out :=
  .next (s.intOp2 c d a b fun x y => x.rotateLeft (shAmt y))

/-- Field extraction (R165). -/
def bfe (u : Bool) (a b c : Word) : Word :=
  let pos := b.toNat % 32
  let len := min (c.toNat % 64) (32 - pos)
  let f := a.toNat / 2 ^ pos % 2 ^ len
  if len == 0 then 0#32
  else if u || !f.testBit (len - 1) then BitVec.ofNat 32 f
  else BitVec.ofInt 32 ((f : Int) - 2 ^ len)

/-- Field insertion (R165). -/
def bfi (a b c : Word) : Word :=
  let pos := c.toNat % 32
  let len := min (c.toNat / 256 % 64) (32 - pos)
  let mask : Word := BitVec.ofNat 32 (2 ^ len - 1) <<< pos
  (a &&& ~~~mask) ||| ((b <<< pos) &&& mask)

/-- BFE (R165). -/
def execBfe (c : Ctl) (u : Bool) (d a : VReg) (b : SrcB) (x : VReg) (s : State) : Out :=
  .next (s.intOp3 c d a b x (bfe u))

/-- BFI (R165). -/
def execBfi (c : Ctl) (d a : VReg) (b : SrcB) (x : VReg) (s : State) : Out := .next (s.intOp3 c d a b x bfi)

/-- Set bits of a word (R166). -/
def popCount (b : Word) : Nat := ((List.range 32).filter fun i => b.getLsbD i).length

/-- POPC (R166). -/
def execPopc (c : Ctl) (d : VReg) (b : SrcB) (s : State) : Out :=
  .next (s.intOp1 c d b fun y => BitVec.ofNat 32 (popCount y))

/-- CLZ (R166): of 0 it is 32. -/
def execClz (c : Ctl) (d : VReg) (b : SrcB) (s : State) : Out :=
  .next (s.intOp1 c d b fun y => BitVec.ofNat 32 (if y == 0#32 then 32 else 31 - Nat.log2 y.toNat))

/-- BREV (R166). -/
def execBrev (c : Ctl) (d : VReg) (b : SrcB) (s : State) : Out := .next (s.intOp1 c d b fun y => y.reverse)

/-- Byte selection (R167). -/
def perm (a b c : Word) : Word :=
  let e : DWord := b ++ a
  let pick (i : Nat) : Byte :=
    let s := c.extractLsb' (4 * i) 4
    let x : Byte := e.extractLsb' (8 * (s.toNat % 8)) 8
    if s.getLsbD 3 then (if x.getLsbD 7 then 0xFF#8 else 0x00#8) else x
  pick 3 ++ pick 2 ++ pick 1 ++ pick 0

/-- PERM (R167). -/
def execPerm (c : Ctl) (d a : VReg) (b : SrcB) (x : VReg) (s : State) : Out := .next (s.intOp3 c d a b x perm)

/-- PLOP (R168). -/
def execPlop (c : Ctl) (p3 d p1 p2 : PReg) (table : BitVec 8) (s : State) : Out :=
  .next (s.alu c.grd [] fun t =>
    .ok (t.pset d.toNat (plop table (t.pget p1.toNat) (t.pget p2.toNat) (t.pget p3.toNat))))

/-- PMOV (R169). -/
def execPmov (c : Ctl) (op : PmovOp) (s : State) : Out :=
  match op with
  | .save hi d => .next (s.alu c.grd [(d, 1)] fun t => .ok (t.vset d.toNat (predWord t hi)))
  | .load hi b => .next (s.alu c.grd [(b, 1)] fun t => .ok (setPredWord t hi (t.vget b.toNat)))

/-- DP4 and DP8 (R181): n elements of w bits. -/
def dotInt (n w : Nat) (sat ua ub : Bool) (a b c : Word) : Word :=
  let el (u : Bool) (x : Word) (i : Nat) : Int := ival u (x.extractLsb' (w * i) w)
  satWrap 32 false sat ((List.range n).foldl (fun v i => v + el ua a i * el ub b i) c.toInt)

/-- DP4 (R181). -/
def execDp4 (c : Ctl) (sat ua ub : Bool) (d a : VReg) (b : SrcB) (x : VReg) (s : State) : Out :=
  .next (s.intOp3 c d a b x (dotInt 4 8 sat ua ub))

/-- DP8 (R181). -/
def execDp8 (c : Ctl) (sat ua ub : Bool) (d a : VReg) (b : SrcB) (x : VReg) (s : State) : Out :=
  .next (s.intOp3 c d a b x (dotInt 8 4 sat ua ub))

end Sys2Proof.Machine
end

