-- ==== Sys2Proof/Machine/Grid.lean ====
section
/-! DEFINITION. The grid of a launch: counts, curve order and the order of its teams (R307, R316, R317, R325,
R327). -/

namespace Sys2Proof.Machine

/-- A field of a projection parameter block (R325). -/
abbrev pf (p : BitVec 2048) (lo n : Nat) : BitVec n := p.extractLsb' lo n
/-- Screen width W. -/
def ppbW (p : BitVec 2048) : Nat := (pf p 160 13).toNat + 1
/-- Screen height H. -/
def ppbH (p : BitVec 2048) : Nat := (pf p 176 13).toNat + 1
/-- Tiles across, TX (R327). -/
def ppbTx (p : BitVec 2048) : Nat := (ppbW p + 15) / 16
/-- Tiles down, TY (R327). -/
def ppbTy (p : BitVec 2048) : Nat := (ppbH p + 15) / 16

/-- The launch is a KIND 1 or KIND 2 launch, whose grid is one of tiles (R327). -/
def Launch.tiled (l : Launch) : Bool := lrKind l.record == 1 || lrKind l.record == 2
/-- The launch is a replay of a launch of tiles, whose pixels lie as the original's did (R433). -/
def Launch.replayTiles (l : Launch) : Bool :=
  lrKind l.record == 3 && l.replay.any fun r => r.request.extractLsb' 4 2 == 2#2
/-- Clusters or tiles across (R307, R327). -/
def Launch.gx (l : Launch) : Nat := if l.tiled || l.replayTiles then ppbTx l.ppb else lrGx l.record
/-- Clusters or tiles down (R307, R327). -/
def Launch.gy (l : Launch) : Nat := if l.tiled || l.replayTiles then ppbTy l.ppb else lrGy l.record
/-- Teams of a cluster (R307). -/
def Launch.cs (l : Launch) : Nat := lrCcols l.record * lrCrows l.record

/-- HilbertXY of R316, with the loop's remaining rounds as fuel. -/
def hilbertGo : Nat → Nat → Nat → Nat → Nat → Nat × Nat
  | 0, x, y, _, _ => (x, y)
  | k + 1, x, y, t, sz =>
    let rx := t / 2 % 2
    let ry := (t ^^^ rx) % 2
    let p : Nat × Nat :=
      if ry == 0 then (if rx == 1 then (sz - 1 - y, sz - 1 - x) else (y, x)) else (x, y)
    hilbertGo k (p.1 + sz * rx) (p.2 + sz * ry) (t / 4) (2 * sz)

/-- Rounds of the loop of R316: the least k with 2^k at least `m`. -/
def curveLog (m : Nat) : Nat := if m ≤ 1 then 0 else Nat.log2 (m - 1) + 1

/-- Cluster coordinates in curve order (R316). -/
def curveOrder (gx gy : Nat) : List (Nat × Nat) :=
  let k := curveLog (max gx gy)
  ((List.range (2 ^ k * 2 ^ k)).map fun d => hilbertGo k 0 0 d 1).filter fun p => decide (p.1 < gx) && decide (p.2 < gy)

/-- The launch takes its clusters along the curve: deterministic launches and launches of tiles (R317, R327). Others take
them in index order. -/
def Launch.curved (l : Launch) : Bool := lrDet l.record || l.tiled

/-- Cluster indices in the order they are placed. -/
def Launch.clusterOrder (l : Launch) : List Nat :=
  if l.curved then (curveOrder l.gx l.gy).map fun p => p.2 * l.gx + p.1 else List.range (l.gx * l.gy)

/-- Logical team indices in curve order (R316): by cluster, then by rank. -/
def Launch.teamOrder (l : Launch) : List Nat :=
  l.clusterOrder.flatMap fun c => (List.range l.cs).map fun k => l.cs * c + k

/-- Clusters of the grid (R307). -/
def Launch.clusters (l : Launch) : Nat := l.gx * l.gy

/-- Groups of a team (R28). -/
def Launch.groups (l : Launch) : Nat := (lrTeam l.record + 31) / 32

end Sys2Proof.Machine
end

