-- ==== Sys2Proof/Machine/Sha3.lean ====
section
/-! DEFINITION. SHA3-256 (FIPS 202), which R275, R318, R319 and R355 name. PRESUMED in its parts: the spec names the
function and does not print it (log 11). -/

namespace Sys2Proof

/-- Round constants of Keccak-f[1600]. -/
def keccakRc : List (BitVec 64) := [
  0x0000000000000001#64, 0x0000000000008082#64, 0x800000000000808A#64, 0x8000000080008000#64, 0x000000000000808B#64,
  0x0000000080000001#64, 0x8000000080008081#64, 0x8000000000008009#64, 0x000000000000008A#64, 0x0000000000000088#64,
  0x0000000080008009#64, 0x000000008000000A#64, 0x000000008000808B#64, 0x800000000000008B#64, 0x8000000000008089#64,
  0x8000000000008003#64, 0x8000000000008002#64, 0x8000000000000080#64, 0x000000000000800A#64, 0x800000008000000A#64,
  0x8000000080008081#64, 0x8000000000008080#64, 0x0000000080000001#64, 0x8000000080008008#64]

/-- Rotation of lane x + 5y. -/
def keccakRot : List Nat :=
  [0, 1, 62, 28, 27, 36, 44, 6, 55, 20, 3, 10, 43, 25, 39, 41, 45, 15, 21, 8, 18, 2, 61, 56, 14]

/-- Lane x + 5y of a Keccak state. -/
def kLane (a : List (BitVec 64)) (x y : Nat) : BitVec 64 := a.getD (x % 5 + 5 * (y % 5)) 0#64

/-- One round. -/
def keccakRound (a : List (BitVec 64)) (rc : BitVec 64) : List (BitVec 64) :=
  let c := (List.range 5).map fun x => kLane a x 0 ^^^ kLane a x 1 ^^^ kLane a x 2 ^^^ kLane a x 3 ^^^ kLane a x 4
  let d := (List.range 5).map fun x => c.getD ((x + 4) % 5) 0#64 ^^^ (c.getD ((x + 1) % 5) 0#64).rotateLeft 1
  let t := (List.range 25).map fun i => a.getD i 0#64 ^^^ d.getD (i % 5) 0#64
  let b := (List.range 25).map fun i =>
    let x := i % 5
    let y := i / 5
    let sx := (x + 3 * y) % 5
    (kLane t sx x).rotateLeft (keccakRot.getD (sx + 5 * x) 0)
  let r := (List.range 25).map fun i =>
    let x := i % 5
    let y := i / 5
    kLane b x y ^^^ (~~~(kLane b (x + 1) y) &&& kLane b (x + 2) y)
  match r with
  | h :: tl => (h ^^^ rc) :: tl
  | [] => []

/-- Keccak-f[1600]. -/
def keccakF (a : List (BitVec 64)) : List (BitVec 64) := keccakRc.foldl keccakRound a

/-- Little-endian number of bytes, lowest address first. -/
def leNat (bs : List Byte) : Nat := bs.foldr (fun b n => b.toNat + 256 * n) 0

/-- The bytes of a number, lowest first. -/
def natBytes : Nat → Nat → List Byte
  | 0, _ => []
  | n + 1, v => BitVec.ofNat 8 v :: natBytes n (v / 256)

/-- Absorbs blocks of 136 bytes. -/
def absorb : Nat → List (BitVec 64) → List Byte → List (BitVec 64)
  | 0, a, _ => a
  | n + 1, a, bs =>
    let blk := bs.take 136
    let a' := (List.range 25).map fun i =>
      if i < 17 then a.getD i 0#64 ^^^ BitVec.ofNat 64 (leNat ((blk.drop (8 * i)).take 8)) else a.getD i 0#64
    absorb n (keccakF a') (bs.drop 136)

/-- SHA3-256 of a byte string, as 32 bytes read as one little-endian number: byte 0 in the low byte. -/
def sha3 (msg : List Byte) : BitVec 256 :=
  let r := msg.length % 136
  let pad : List Byte := if r == 135 then [0x86#8] else 0x06#8 :: List.replicate (134 - r) 0#8 ++ [0x80#8]
  let m := msg ++ pad
  let a := absorb (m.length / 136) (List.replicate 25 0#64) m
  BitVec.ofNat 256 ((a.take 4).foldr (fun w n => w.toNat + 2 ^ 64 * n) 0)

end Sys2Proof
end

