-- ==== Sys2Proof/Machine/Phys.lean ====
section
/-! DEFINITION. Physical memory, homes, copies, leases and write completion (R59, R60, R73 to R78, R90 to R99, R443,
R444). -/

namespace Sys2Proof.Machine

/-! The physical map (R59, R60) -/

/-- Stacked DRAM. -/
def isStacked (pa : Nat) : Bool := decide (pa < 0x3000000000)
/-- The LPDDR tier. -/
def isLpddr (pa : Nat) : Bool := decide (0x10000000000 ≤ pa) && decide (pa < 0x20000000000)
/-- The management and doorbell windows. -/
def isWindow (pa : Nat) : Bool := decide (0x40000000000 ≤ pa) && decide (pa < 0x40100000000)
/-- Host memory over CXL. -/
def isHostMem (pa : Nat) : Bool := decide (0x800000000000 ≤ pa) && decide (pa < 0x1000000000000)

/-- Home die of an address. -/
def homeDie (pa : Nat) : Nat :=
  if isStacked pa then pa / 0xC00000000
  else if isLpddr pa then pa / 2 ^ 38 % 4
  else if isHostMem pa then 2 * (pa / 2 ^ 46 % 2)
  else pa / 0x40000000 % 4

/-- Die offset of an address. -/
def dieOffset (pa : Nat) : Nat :=
  if isStacked pa then pa % 0xC00000000 else if isLpddr pa then pa % 2 ^ 38 else pa % 2 ^ 47

/-- Home slice within its die (R60). -/
def homeJ (pa : Nat) : Nat :=
  let n := dieOffset pa / 4096
  (n + n / 24) % 24
/-- Device-wide home slice (R60). -/
def homeSlice (pa : Nat) : Nat := 24 * homeDie pa + homeJ pa

/-- The address exists now: a row of R59, with its LPDDR attached (R350) or its link trained for CXL (R346), whether or not that is up. -/
def State.exists_ (s : State) (pa : Nat) : Bool :=
  isStacked pa || (isLpddr pa && s.h.lp.getLsbD (pa / 2 ^ 38 % 4)) || isWindow pa
    || (isHostMem pa && s.b.cxl.getLsbD (pa / 2 ^ 46 % 2))

/-- Host memory whose link is down: an access is treated as one to poison (R446). -/
def State.hostDown (s : State) (pa : Nat) : Bool := isHostMem pa && !s.b.pcie.getLsbD (pa / 2 ^ 46 % 2)

/-- Stacked DRAM, or the LPDDR tier of a die that has it: where tags, tables and rings may lie. -/
def State.isDram (s : State) (pa : Nat) : Bool := isStacked pa || (isLpddr pa && s.h.lp.getLsbD (pa / 2 ^ 38 % 4))

/-! DRAM and the home slice -/

/-- A byte below the caches; one that nothing has written reads zero (log 1). -/
def State.dramByte (s : State) (pa : Nat) : Byte := (sget s.m.dram pa).getD 0#8
/-- Writes a byte below the caches. -/
def State.setDram (s : State) (pa : Nat) (b : Byte) : State :=
  { s with m := { s.m with dram := sputD 0#8 s.m.dram pa b } }

/-- A line at home before anything has touched it. -/
def HomeLine.empty : HomeLine := ⟨none, 0#12, [], 0, 0, 0, none⟩
/-- A line at its home slice. -/
def State.homeLine (s : State) (l : Nat) : HomeLine := (sget s.m.home l).getD HomeLine.empty
/-- Changes a line at its home slice. -/
def State.updHome (s : State) (l : Nat) (f : HomeLine → HomeLine) : State :=
  { s with m := { s.m with home := sputD HomeLine.empty s.m.home l (f (s.homeLine l)) } }

/-- The value of a byte at its home slice. -/
def State.homeByte (s : State) (pa : Nat) : Byte :=
  (sget (s.homeLine (pa / 256)).bytes (pa % 256)).getD (s.dramByte pa)
/-- Bytes at home. -/
def State.homeBytes (s : State) (pa n : Nat) : List Byte := (List.range n).map fun i => s.homeByte (pa + i)

/-- Masked bytes of a line go from its home slice to DRAM (R76). -/
def State.flushHome (s : State) (l : Nat) : State :=
  let hl := s.homeLine l
  let s := hl.bytes.foldl (fun s p => s.setDram (256 * l + p.1) p.2) s
  s.updHome l fun h => { h with bytes := [] }

/-- The line stands in its home slice; the expiries and the owner that the home keeps for it outlast it there (R91, R95). -/
def HomeLine.held (h : HomeLine) : Bool := h.ctx.isSome || !h.bytes.isEmpty

/-- Eviction of a line from its home slice (R76): masked bytes go to DRAM. -/
def State.evictHome (s : State) (l : Nat) : State :=
  (s.flushHome l).updHome l fun h => { h with ctx := none, tensor := 0#12 }

/-- Lines that an L2 slice of 4 MiB holds, and lines of a Selvedge cache of 16 MiB (R6). -/
def sliceLines : Nat := 16384
/-- Lines of a Selvedge cache. -/
def selvedgeLines : Nat := 65536

/-- Home lines that stand in an L2 slice. -/
def State.heldIn (s : State) (j : Nat) : List Nat :=
  (s.m.home.filter fun h => h.2.held && homeSlice (256 * h.1) == j).map Prod.fst

/-- Local copies that stand in an L2 slice. -/
def State.localIn (s : State) (j : Nat) : List Copy := s.m.copies.filter fun c => c.place == .localSlice j

/-- An L2 slice makes room for one more line (R6, R18, R76): with the slice full, its oldest local copy leaves, or a home
line does, one that no core owns first. Which one is not stated (log 62). -/
def State.sliceRoom (s : State) (j : Nat) : State :=
  let hs := s.heldIn j
  let cs := s.localIn j
  if hs.length + cs.length < sliceLines then s
  else
    match cs.getLast? with
    | some c => { s with m := { s.m with copies := s.m.copies.erase c } }
    | none =>
      match (hs.find? fun l => (s.homeLine l).owner.isNone).or hs.head? with
      | some l => s.evictHome l
      | none => s

/-- An access of a context reaches a line at home: the line of another context leaves for DRAM first (R25), and a
non-zero tensor identifier tags it (R77). -/
def State.touchHome (s : State) (l : Nat) (ctx : Option Nat) (tensor : BitVec 12) : State :=
  let s := if (s.homeLine l).held then s else s.sliceRoom (homeSlice (256 * l))
  let hl := s.homeLine l
  if hl.ctx == ctx then (if tensor == 0#12 then s else s.updHome l fun h => { h with tensor := tensor })
  else (s.flushHome l).updHome l fun h => { h with ctx := ctx, tensor := tensor }

/-- Memory tag of the sector of an address (R64). -/
def State.tagOf (s : State) (pa : Nat) : BitVec 4 := (sget s.m.tags (pa / 64)).getD 0#4
/-- The sector of an address is poisoned (R444). -/
def State.poisoned (s : State) (pa : Nat) : Bool := (sget s.m.poison (pa / 64)).isSome
/-- Sets or clears the poison of a sector. -/
def State.setPoison (s : State) (pa : Nat) (p : Bool) : State :=
  { s with m := { s.m with poison := sset s.m.poison (pa / 64) (if p then some () else none) } }

/-! Copies -/

/-- The copy of a line that a place holds for a context (R25, R73, R76). -/
def State.copy? (s : State) (p : Place) (l ctx : Nat) : Option Copy :=
  s.m.copies.find? fun c => c.place == p && c.line == l && c.ctx == ctx
/-- Replaces the copies of a place, line and context; an empty copy is dropped. -/
def State.putCopy (s : State) (c : Copy) : State :=
  let rest := s.m.copies.filter fun k => !(k.place == c.place && k.line == c.line && k.ctx == c.ctx)
  { s with m := { s.m with
    copies := if c.sectors.isEmpty && c.mask.isEmpty && c.own.isNone then rest else c :: rest } }
/-- A place's copy, or an empty one. -/
def State.copyOr (s : State) (p : Place) (l ctx : Nat) (tensor : BitVec 12) : Copy :=
  (s.copy? p l ctx).getD ⟨p, l, ctx, tensor, 0, [], [], 0, none⟩

/-- Skew of R91 between a home die and an agent's die; a guarded home counts 40 ns (R98). -/
def State.skew (s : State) (home die : Nat) : Nat :=
  if ((s.h.lc.getD home LeaseClock.reset).guard) then 40 else if home == die then 0 else 2

/-- The die's home slices grant no leases: its device time is not agreed on (R98, R409), or the device is fatal (R445). -/
def State.guarded (s : State) (die : Nat) : Bool := s.b.fatal || (s.h.lc.getD die LeaseClock.reset).guard

/-! Write completion times, the latest at the homes of each die (R91) -/

/-- Adds a write completion time at a home on a die. -/
def wctAdd (m : Sparse Nat) (die w : Nat) : Sparse Nat := if w == 0 then m else sput m die (max ((sget m die).getD 0) w)
/-- The later of two. -/
def wctJoin (m n : Sparse Nat) : Sparse Nat := n.foldl (fun m e => wctAdd m e.1 e.2) m
/-- The latest of all. -/
def wctMax (m : Sparse Nat) : Nat := m.foldl (fun w e => max w e.2) 0

/-- An agent on a die has waited past write completion times: its device time is greater than each, with the skew between the
home and the agent (R91). -/
def State.passedAt (s : State) (die : Nat) (m : Sparse Nat) : Bool := m.all fun e => decide (e.2 + s.skew e.1 die < s.now die)

/-- The write completion time of a write that merges now at a line's home (R91). -/
def State.wctOf (s : State) (pa : Nat) : Nat :=
  let h := homeDie pa
  let hl := s.homeLine (pa / 256)
  let g (e k : Nat) : Nat := if e == 0 then 0 else e + (if s.guarded h then 40 else k)
  max (s.now h) (max (g hl.expDie 0) (max (g hl.expDev 2) (g hl.expPeer 40)))

/-- Compare of WAITC and ICMP on values of one width (R162, R229). -/
def cmpBits {n : Nat} (c : Cond) (u : Bool) (a b : BitVec n) : Bool :=
  let lt := if u then a.ult b else a.slt b
  match c with
  | .eq => a == b
  | .ne => a != b
  | .lt => lt
  | .le => lt || a == b
  | .gt => !(lt || a == b)
  | .ge => !lt

/-- Value at home of a word that WAITC waits on. -/
def State.homeWord (s : State) (pa : Nat) (w64 : Bool) : DWord :=
  BitVec.ofNat 64 (leNat (s.homeBytes pa (if w64 then 8 else 4)))

/-- The condition of a WAITC on a value (R229). -/
def waitHolds (w64 : Bool) (c : Cond) (u : Bool) (v k : DWord) : Bool :=
  if w64 then cmpBits c u v k else cmpBits c u (v.extractLsb' 0 32) (k.extractLsb' 0 32)

/-- A monitor is of a context: that of the thread that waits (R25). -/
def State.monitorCtx (s : State) (m : Monitor) : Option Nat :=
  ((s.flight? m.flight).bind fun f => s.thread? f.thread).map Thread.ctx

/-- A write that performs at home wakes the monitors of its line and context whose condition it makes true (R25, R96). A
write made in no context reaches those of every context (log 63). One that meets poison there is evaluated anew, and parks
(R444). -/
def State.wakeLine (s : State) (l : Nat) (ctx : Option Nat) : State :=
  let wake (m : Monitor) : Monitor :=
    if m.woken.isSome || !m.monitor || m.fresh || !(ctx.isNone || s.monitorCtx m == ctx) then m
    else
      match s.flight? m.flight with
      | some f =>
        match f.op with
        | .waitc a w64 c u k _ _ =>
          if a.pa / 256 == l && waitHolds w64 c u (s.homeWord a.pa w64) k then
            if s.poisoned a.pa then { m with monitor := false, fresh := true }
            else { m with woken := some (s.homeWord a.pa w64, true) }
          else m
        | _ => m
      | none => m
  { s with y := { s.y with monitors := s.y.monitors.map wake } }

/-- A monitor of a context is registered on a line (R25, R96). -/
def State.monitored (s : State) (l ctx : Nat) : Bool :=
  s.y.monitors.any fun m => m.monitor && !m.fresh && m.woken.isNone && s.monitorCtx m == some ctx &&
    match s.flight? m.flight with
    | some f => match f.op with
      | .waitc a _ _ _ _ _ _ => a.pa / 256 == l
      | _ => false
    | none => false

/-- Bytes of a line reach a sector of it. -/
def reaches (bs : Sparse Byte) (k : Nat) : Bool := bs.any fun p => p.1 / 64 == k

/-- Merges bytes into a line at home (R76): a whole sector clears its poison, and bytes that are themselves `bad` poison every
sector that they reach (R444). -/
def State.mergeHome (s : State) (l : Nat) (ctx : Option Nat) (tensor : BitVec 12) (bs : Sparse Byte) (bad : Bool) : State :=
  let s := s.touchHome l ctx tensor
  let s := s.updHome l fun h => { h with bytes := bs.foldl (fun m p => sput m p.1 p.2) h.bytes }
  (List.range 4).foldl (fun s k =>
    if bad && reaches bs k then s.setPoison (256 * l + 64 * k) true
    else if (bs.filter fun p => p.1 / 64 == k).length == 64 then s.setPoison (256 * l + 64 * k) false else s) s

/-- Bytes of a context have left a core for home: every thread of that context on the core, and every launch of it, waits
past their write completion time at its next release of level 2 or wider (R91, R94, R312). -/
def State.collectCore (s : State) (core ctx l w : Nat) : State :=
  if w == 0 then s
  else
    { s with
      x := { s.x with threads := s.x.threads.map fun t =>
        if t.core == core && t.ctx == ctx then { t with wct := wctAdd t.wct (homeDie (256 * l)) w } else t }
      d := { s.d with launches := s.d.launches.map fun n =>
        if n.ctx == ctx then { n with wct := wctAdd n.wct (homeDie (256 * l)) w } else n } }

/-- Bytes put over a sector: one that they cover whole is no longer poisoned, and bad ones poison it (R444). -/
def SectorData.merge (d : SectorData) (k : Nat) (bs : Sparse Byte) (bad : Bool) : SectorData :=
  { d with
    bytes := d.bytes.zipIdx.map fun b => (sget bs (64 * k + b.2)).getD b.1
    poison := (bad && reaches bs k) || (d.poison && !((List.range 64).all fun i => (sget bs (64 * k + i)).isSome)) }

/-- The place between a core and a line's home that may hold a copy (R15, R76). -/
def pathPlace (core pa : Nat) : Option Place :=
  if coreDie core != homeDie pa then some (.selvedge (3 * coreDie core + (homeDie pa + 4 - coreDie core - 1) % 4))
  else if coreSector core != 3 * homeDie pa + homeJ pa / 8 then some (.localSlice (8 * coreSector core + homeJ pa % 8))
  else none

/-- A line takes the identifier of an access, where that is not zero (R77). -/
def Copy.tagged (c : Copy) (tensor : BitVec 12) : Copy := if tensor == 0#12 then c else { c with tensor := tensor }

/-- A later access with a non-zero identifier retags a copy (R77). -/
def State.retag (s : State) (p : Place) (l ctx : Nat) (tensor : BitVec 12) : State :=
  match s.copy? p l ctx with
  | none => s
  | some c => if tensor == 0#12 then s else s.putCopy (c.tagged tensor)

/-- A copy that a write passes on its way from a core to the home has its present bytes updated (R76, R77). -/
def State.updatePath (s : State) (core : Option Nat) (l ctx : Nat) (tensor : BitVec 12) (bs : Sparse Byte) (bad : Bool) :
    State :=
  match (core.bind fun c => pathPlace c (256 * l)).bind fun p => s.copy? p l ctx with
  | none => s
  | some k =>
    let secs : Sparse SectorData := k.sectors.map fun d => (d.1, d.2.merge d.1 bs bad)
    s.putCopy (Copy.tagged { k with sectors := secs } tensor)

/-- A core owns a line for a context (R25, R95). -/
def State.ownedBy (s : State) (core : Option Nat) (l ctx : Nat) : Bool :=
  core.any fun c => (s.homeLine l).owner == some c && ((s.copy? (.l1 c) l ctx).bind Copy.own).isSome

/-- Ends the ownership of a line: the owner's bytes go home (R76, R95). -/
def State.recall (s : State) (l : Nat) : State :=
  match (s.homeLine l).owner with
  | none => s
  | some core =>
    let s := s.updHome l fun h => { h with owner := none }
    let cs := s.m.copies.filter fun c => c.place == .l1 core && c.line == l && c.own.isSome
    cs.foldl (fun s c =>
      let s := (s.mergeHome l (some c.ctx) c.tensor c.mask false).updatePath (some core) l c.ctx c.tensor c.mask false
      let s := if c.mask.isEmpty then s else s.collectCore core c.ctx l (s.wctOf (256 * l))
      (s.putCopy { c with own := none, mask := [], sectors := [] }).wakeLine l (some c.ctx)) s

/-- A write performs at home: an owner other than the core that writes, for its context, is recalled first, monitors see it, and
its write completion time is that of R91. `bad` bytes come from poisoned input (R444). -/
def State.performHome (s : State) (core : Option Nat) (l : Nat) (ctx : Nat) (tensor : BitVec 12) (bs : Sparse Byte)
    (bad : Bool) : State × Nat :=
  if bs.isEmpty then (s, 0)
  else
    let s := if s.ownedBy core l ctx then s else s.recall l
    let s := s.mergeHome l (some ctx) tensor bs bad
    let s := s.updatePath core l ctx tensor bs bad
    let s := if isHostMem (256 * l) then { s with m := { s.m with hostLines := sput s.m.hostLines l true } } else s
    (s.wakeLine l (some ctx), s.wctOf (256 * l))

/-- Cuts bytes at an address into lines. -/
def lineParts (pa : Nat) (bs : List Byte) : List (Nat × Sparse Byte) :=
  (bs.zipIdx.map fun b => (pa + b.2, b.1)).foldl (fun acc p =>
    match acc.reverse with
    | (l, m) :: r => if l == p.1 / 256 then (r.reverse ++ [(l, m ++ [(p.1 % 256, p.2)])]) else acc ++ [(p.1 / 256, [(p.1 % 256, p.2)])]
    | [] => [(p.1 / 256, [(p.1 % 256, p.2)])]) []

/-- Bytes performed at home with no core on the way: engines, the hub, the host. -/
def State.writeHome (s : State) (ctx : Nat) (tensor : BitVec 12) (pa : Nat) (bs : List Byte) (bad : Bool) : State × Nat :=
  (lineParts pa bs).foldl (fun a p =>
    let r := a.1.performHome none p.1 ctx tensor p.2 bad
    (r.1, max a.2 r.2)) (s, 0)

/-- Bytes read at home, any owner recalled first (R95). -/
def State.readHome (s : State) (pa n : Nat) : State × List Byte :=
  let ls := (List.range ((pa % 256 + n + 255) / 256)).map fun i => pa / 256 + i
  let s := ls.foldl (fun s l => s.recall l) s
  (s, s.homeBytes pa n)

/-- A physical address read without translation, by the hub or a walker (R349): as all ones where it is absent. -/
def State.physRead (s : State) (pa n : Nat) : State × List Byte :=
  if s.isDram pa then s.readHome pa n else (s, List.replicate n 0xFF#8)

/-- A physical write without translation (R349), with the device time from which it is globally performed (R91); lost where
the address is absent. -/
def State.physStore (s : State) (pa : Nat) (bs : List Byte) : State × Nat :=
  if s.isDram pa then
    (lineParts pa bs).foldl (fun a p =>
      let s := ((a.1.recall p.1).mergeHome p.1 (a.1.homeLine p.1).ctx 0#12 p.2 false).wakeLine p.1 none
      (s, max a.2 (s.wctOf (256 * p.1) + 1))) (s, 0)
  else (s, 0)

/-- A physical write without translation (R349). -/
def State.physWrite (s : State) (pa : Nat) (bs : List Byte) : State := (s.physStore pa bs).1

/-! L1 (R73, R74, R92) -/

/-- Masked bytes chosen by offset, `bad` ones or not, leave a core's L1 for home; the copy's own sectors keep them (R83), and a
line that the core owns stays its own (R95). -/
def State.writeBackOf (s : State) (c : Copy) (sel : Nat → Bool) (bad : Bool) : State × Nat :=
  let out := c.mask.filter fun p => sel p.1
  match c.place with
  | .l1 core =>
    if out.isEmpty then (s, 0)
    else
      let s := s.putCopy { c with
        mask := c.mask.filter fun p => !sel p.1
        sectors := c.sectors.map fun d => (d.1, d.2.merge d.1 out bad) }
      let r := s.performHome (some core) c.line c.ctx c.tensor out bad
      (r.1.collectCore core c.ctx c.line r.2, r.2)
  | _ => (s, 0)

/-- Good masked bytes chosen by offset leave a core's L1 for home. -/
def State.writeBack (s : State) (c : Copy) (sel : Nat → Bool) : State × Nat := s.writeBackOf c sel false

/-- A copy leaves its place: from L1 its masked bytes go home, and an owned line returns to its home (R74, R95). -/
def State.evict (s : State) (c : Copy) : State :=
  let s := (s.writeBack c fun _ => true).1
  let s := if c.own.isSome then s.updHome c.line fun h => { h with owner := none } else s
  { s with m := { s.m with copies := s.m.copies.filter fun k => !(k.place == c.place && k.line == c.line && k.ctx == c.ctx) } }

/-! Room in L1 and in the Selvedge caches (R6, R70, R73) -/

/-- Sets of a core's L1: 16 ways of 256 B in what the scratchpad leaves of 5120 KiB (R70, R73). -/
def State.l1Sets (s : State) (core : Nat) : Nat := (5120 - (sget s.d.division core).getD 0) / 4

/-- Lines that a core's L1 holds. -/
def State.l1Lines (s : State) (core : Nat) : Nat := 16 * s.l1Sets core

/-- Copies that stand in the set of a line in a core's L1. The set of a line is its number modulo the sets (log 62). -/
def State.l1Set (s : State) (core l : Nat) : List Copy :=
  s.m.copies.filter fun c => c.place == .l1 core && c.line % s.l1Sets core == l % s.l1Sets core

/-- A place makes room for one more line: with its set, its slice or its port full, the oldest line there leaves (log 62). -/
def State.roomAt (s : State) (p : Place) (l ctx : Nat) : State :=
  if (s.copy? p l ctx).isSome then s
  else
    match p with
    | .l1 core =>
      let cs := s.l1Set core l
      if cs.length < 16 then s
      else
        match cs.getLast? with
        | some c => s.evict c
        | none => s
    | .localSlice j => s.sliceRoom j
    | .selvedge q =>
      let cs := s.m.copies.filter fun c => c.place == .selvedge q
      if cs.length < selvedgeLines then s
      else
        match cs.getLast? with
        | some c => s.evict c
        | none => s
    | .home => s

/-- Lines for which the sets of a core's L1 have no way left are written back and dropped (R70, R73): of each set the oldest
(log 62). -/
def State.shrinkL1 (s : State) (core : Nat) : State :=
  let n := s.l1Sets core
  let cs := s.m.copies.filter fun c => c.place == .l1 core
  let extra := (cs.foldl (fun (a : List Copy × List Copy) c =>
    if (a.1.filter fun k => k.line % n == c.line % n).length < 16 then (a.1 ++ [c], a.2) else (a.1, a.2 ++ [c])) ([], [])).2
  extra.foldl State.evict s

/-- Every masked byte of a context that a core's L1 holds goes home; the result is the write completion times (R92, R94). -/
def State.releaseCore (s : State) (core ctx : Nat) : State × Sparse Nat :=
  (s.m.copies.filter fun c => c.place == .l1 core && c.ctx == ctx && !c.mask.isEmpty).foldl (fun a c =>
    let r := a.1.writeBack c fun _ => true
    (r.1, wctAdd a.2 (homeDie (256 * c.line)) r.2)) (s, [])

/-- Lease length of a context in nanoseconds (R90). -/
def State.leaseOf (s : State) (ctx : Nat) : Nat := (s.ctx ctx).lease

/-- Home grants a lease on a line to a holder on a die (R90); none while its die is guarded (R98). -/
def State.grant (s : State) (l ctx die : Nat) : State × Option Nat :=
  let h := homeDie (256 * l)
  if s.guarded h then (s, none)
  else
    let e := s.now h + s.leaseOf ctx
    (s.updHome l fun k => if die == h then { k with expDie := max k.expDie e } else { k with expDev := max k.expDev e },
     some e)

/-- The sector of an address as home holds it. -/
def State.homeSector (s : State) (l k : Nat) : SectorData :=
  ⟨s.homeBytes (256 * l + 64 * k) 64, s.tagOf (256 * l + 64 * k), s.poisoned (256 * l + 64 * k)⟩

/-- A valid leased sector of a copy (R90). -/
def State.validSector (s : State) (p : Place) (die l ctx k : Nat) : Option (SectorData × Nat) :=
  match s.copy? p l ctx with
  | none => none
  | some c =>
    if decide (s.now die < c.expiry) || c.own.isSome then (sget c.sectors k).map fun d => (d, c.expiry) else none

/-- The tag of the sector of an address where an access of a core performs: the leased copy, or home (R408). -/
def State.tagSeen (s : State) (core ctx pa : Nat) (atHome : Bool) : BitVec 4 :=
  let l := pa / 256
  let k := pa % 256 / 64
  let die := coreDie core
  if atHome then s.tagOf pa
  else
    match s.validSector (.l1 core) die l ctx k with
    | some (d, _) => d.tag
    | none =>
      match (pathPlace core (256 * l)).bind fun p => s.validSector p die l ctx k with
      | some (d, _) => d.tag
      | none => s.tagOf pa

/-- Fills a sector into a place with an expiry (R73, R90): a line has one expiry, so an expired line's sectors leave; a line
that the core owns keeps them (R95). -/
def State.fillSector (s : State) (p : Place) (die l ctx : Nat) (tensor : BitVec 12) (k : Nat) (d : SectorData)
    (e : Nat) : State :=
  let s := s.roomAt p l ctx
  let c := s.copyOr p l ctx tensor
  let live := (decide (s.now die < c.expiry) && !c.sectors.isEmpty) || c.own.isSome
  s.putCopy (Copy.tagged { c with
    sectors := sput (if live then c.sectors else []) k d
    expiry := if live then min c.expiry e else e } tensor)

/-- Expiry of the copy that a place holds of a line, at most `e`. -/
def State.expiryAt (s : State) (p : Option Place) (l ctx e : Nat) : Nat :=
  match p.bind fun p => s.copy? p l ctx with
  | some c => min e c.expiry
  | none => e

/-- A sector read through L1, the copy on the path and home, filling each (R15, R74, R76, R77, R90). -/
def State.fetchSector (s : State) (core ctx : Nat) (tensor : BitVec 12) (l k : Nat) : State × SectorData :=
  let die := coreDie core
  match s.validSector (.l1 core) die l ctx k with
  | some (d, _) => (s.retag (.l1 core) l ctx tensor, d)
  | none =>
    let path := pathPlace core (256 * l)
    match path.bind fun p => (s.validSector p die l ctx k).map fun d => (p, d) with
    | some (p, d, e) => ((s.retag p l ctx tensor).fillSector (.l1 core) die l ctx tensor k d e, d)
    | none =>
      if s.ownedBy (some core) l ctx then
        let d := s.homeSector l k
        (s.fillSector (.l1 core) die l ctx tensor k d 0, d)
      else
        let s := (s.recall l).touchHome l (some ctx) tensor
        let s := if isHostMem (256 * l) && (sget s.m.hostLines l).isNone then
          { s with m := { s.m with hostLines := sput s.m.hostLines l false } } else s
        let d := s.homeSector l k
        let g := s.grant l ctx die
        match g.2 with
        | none => (g.1, d)
        | some e =>
          let s := match path with
            | some p => g.1.fillSector p die l ctx tensor k d e
            | none => g.1
          (s.fillSector (.l1 core) die l ctx tensor k d (s.expiryAt path l ctx e), d)

/-- Drops the clean sector of an address from a core's L1 and from the copy on its path, so that the next read goes
home. -/
def State.dropClean (s : State) (core ctx l k : Nat) : State :=
  let drop (s : State) (p : Place) : State :=
    match s.copy? p l ctx with
    | none => s
    | some c => if c.own.isSome then s else s.putCopy { c with sectors := sdel c.sectors k }
  let s := drop s (.l1 core)
  match pathPlace core (256 * l) with
  | some p => drop s p
  | none => s

/-- Masked bytes that a core holds of a line, chosen by offset, go home: their write completion time is the threads' to wait
for (R91). -/
def State.homeBytesOf (s : State) (core ctx l : Nat) (sel : Nat → Bool) : State :=
  match s.copy? (.l1 core) l ctx with
  | none => s
  | some c => (s.writeBack c sel).1

/-- Masked bytes that a core holds in a sector go home (R92). -/
def State.homeSectorBytes (s : State) (core ctx l k : Nat) : State := s.homeBytesOf core ctx l fun o => o / 64 == k

/-- Masked bytes that a core holds in a range of one line go home (R83, R92). -/
def State.homeRange (s : State) (core ctx pa n : Nat) : State :=
  s.homeBytesOf core ctx (pa / 256) fun o => decide (pa % 256 ≤ o) && decide (o < pa % 256 + n)

/-- What a load returns with the tag and the poison of where it performs. -/
structure Got where
  bytes  : List Byte
  tag    : BitVec 4
  poison : Bool
deriving DecidableEq, Repr

/-- A load of bytes within one sector by a core (R74, R92): scope 2 or wider, and MEMTYPE 1 and 2, read at home. -/
def State.loadCore (s : State) (core ctx : Nat) (tensor : BitVec 12) (atHome : Bool) (pa n : Nat) : State × Got :=
  let l := pa / 256
  let k := pa % 256 / 64
  if atHome then
    let s := ((s.homeSectorBytes core ctx l k).recall l).touchHome l (some ctx) tensor
    let s := s.dropClean core ctx l k
    (s, ⟨s.homeBytes pa n, s.tagOf pa, s.poisoned pa⟩)
  else
    let m := ((s.copy? (.l1 core) l ctx).map Copy.mask).getD []
    let laid (d : List Byte) : List Byte := (List.range n).map fun i => (sget m (pa % 256 + i)).getD (d.getD (pa % 64 + i) 0#8)
    if (List.range n).all fun i => (sget m (pa % 256 + i)).isSome then
      (s.retag (.l1 core) l ctx tensor, ⟨laid [], s.tagSeen core ctx pa false, false⟩)
    else
      let r := s.fetchSector core ctx tensor l k
      (r.1, ⟨laid r.2.bytes, r.2.tag, r.2.poison⟩)

/-- A store of bytes within one sector performs locally (R74, R81): masked bytes in L1, no fetch. -/
def State.storeLocal (s : State) (core ctx : Nat) (tensor : BitVec 12) (pa : Nat) (bs : List Byte) : State :=
  let s := s.roomAt (.l1 core) (pa / 256) ctx
  let c := s.copyOr (.l1 core) (pa / 256) ctx tensor
  s.putCopy (Copy.tagged { c with
    mask := bs.zipIdx.foldl (fun m b => sput m (pa % 256 + b.2) b.1) c.mask
    since := if c.mask.isEmpty then s.x.clk else c.since } tensor)

/-- The bytes of a grant pass the copy on their path, and stand in it too: what a core has read of its line it never reads older
there (R83). DEDUCED (log 75). -/
def State.renewPath (s : State) (core l ctx : Nat) : State :=
  match (pathPlace core (256 * l)).bind fun p => s.copy? p l ctx with
  | none => s
  | some k =>
    let secs : Sparse SectorData := k.sectors.map fun d => (d.1, s.homeSector l d.1)
    s.putCopy { k with sectors := secs }

/-- A core obtains exclusive ownership of a line (R95): the result is the grant's write completion time. -/
def State.ownLine (s : State) (core ctx : Nat) (tensor : BitVec 12) (l : Nat) : State × Nat :=
  match (s.copy? (.l1 core) l ctx).bind Copy.own with
  | some w => (s.retag (.l1 core) l ctx tensor, w)
  | none =>
    let s := (((s.recall l).touchHome l (some ctx) tensor).roomAt (.l1 core) l ctx).renewPath core l ctx
    let w := s.wctOf (256 * l)
    let secs : Sparse SectorData := (List.range 4).map fun k => (k, s.homeSector l k)
    let c := s.copyOr (.l1 core) l ctx tensor
    let s := s.putCopy (Copy.tagged { c with sectors := secs, own := some w } tensor)
    (s.updHome l fun h => { h with owner := some core }, w)

/-- FENCE.REF: the clean bytes of every leased L1 line of a context leave the core, and the copies on its paths with
them (R93). -/
def State.refresh (s : State) (core ctx : Nat) : State :=
  let keep (c : Copy) : Option Copy :=
    if c.ctx != ctx || c.own.isSome then some c
    else
      let mine := match c.place with
        | .l1 k => k == core
        | .localSlice n => n / 8 == coreSector core
        | .selvedge p => p / 3 == coreDie core
        | .home => false
      if !mine then some c
      else if c.mask.isEmpty then none
      else some { c with sectors := [] }
  { s with m := { s.m with copies := s.m.copies.filterMap keep } }

end Sys2Proof.Machine
end

