-- ==== Sys2Proof/Machine/Couch.lean ====
section
/-! DEFINITION. Atomic arithmetic, reductions at home, the Couching buffer, and the store-stream digest (R106, R107,
R224 to R227, R318, R319, R415). -/

namespace Sys2Proof.Machine

/-- An atomic operation on a word of either width (R224). FADD, FMIN and FMAX exist for 32 bits only. -/
def atomNew {n : Nat} (op : AtomOp) (old x : BitVec n) : BitVec n :=
  let f (g : Num → Num → Num) : BitVec n :=
    (toFp32 (g (fp32 (old.setWidth 32)) (fp32 (x.setWidth 32)))).setWidth n
  match op with
  | .iadd => old + x
  | .fadd => f Num.add
  | .smin => if old.sle x then old else x
  | .smax => if x.sle old then old else x
  | .umin => if old.ule x then old else x
  | .umax => if x.ule old then old else x
  | .fmin => f Num.min
  | .fmax => f Num.max
  | .and => old &&& x
  | .or => old ||| x
  | .xor => old ^^^ x
  | .xchg => x
  | .inc => if x.ule old then 0#n else old + 1#n
  | .dec => if old == 0#n || x.ult old then x else old - 1#n

/-- An atomic on the bytes of a word: 4 or 8 of them, zero-extended to 64 bits. -/
def atomBytes (w64 : Bool) (op : AtomOp) (old x : DWord) : DWord :=
  if w64 then atomNew op old x else (atomNew op (old.setWidth 32) (x.setWidth 32)).zeroExtend 64

/-- Bytes of an operand width. -/
def opWidth (w64 : Bool) : Nat := if w64 then 8 else 4

/-- Low bytes of a value, lowest address first (R11). -/
def loBytes (n : Nat) (v : DWord) : List Byte := natBytes n v.toNat

/-- A little-endian value of up to 8 bytes (R11). -/
def leWord (bs : List Byte) : DWord := BitVec.ofNat 64 (leNat bs)

/-- A read-modify-write at the home slice (R95, R106): the new state, the old value, and the write completion time. The access
tags its line, whether or not it writes (R77); a `bad` operand comes from poisoned input (R444). -/
def State.rmwHome (s : State) (core : Option Nat) (ctx : Nat) (tensor : BitVec 12) (pa n : Nat)
    (f : DWord → Option DWord) (bad : Bool) : State × DWord × Nat :=
  let r := ((s.recall (pa / 256)).touchHome (pa / 256) (some ctx) tensor).readHome pa n
  let old := leWord r.2
  match f old with
  | none => (r.1, old, 0)
  | some v =>
    let bs := (loBytes n v).zipIdx.map fun b => (pa % 256 + b.2, b.1)
    let p := r.1.performHome core (pa / 256) ctx tensor bs bad
    (p.1, old, p.2)

/-! The Couching buffer (R227) -/

/-- Buffer of a core. -/
def State.couchBuf (s : State) (core : Nat) : List CouchEntry := (sget s.y.couch core).getD []
/-- Replaces the buffer of a core. -/
def State.setCouch (s : State) (core : Nat) (es : List CouchEntry) : State :=
  { s with y := { s.y with couch := sputD [] s.y.couch core es } }

/-- Sort key order of two entries: logical team, group, lane, count (R227). -/
def couchBefore (a b : CouchEntry) : Bool :=
  if a.team != b.team then decide (a.team < b.team)
  else if a.group != b.group then decide (a.group < b.group)
  else if a.lane != b.lane then decide (a.lane < b.lane)
  else decide (a.count < b.count)

/-- Inserts by sort key. -/
def couchInsert (e : CouchEntry) (es : List CouchEntry) : List CouchEntry :=
  match es with
  | [] => [e]
  | x :: r => if couchBefore e x then e :: x :: r else x :: couchInsert e r
/-- Entries in sort-key order. -/
def couchSort (es : List CouchEntry) : List CouchEntry := es.foldr couchInsert []

/-- The entry belongs to a team: its launch and logical index. -/
def CouchEntry.ofTeam (e : CouchEntry) (t : Team) : Bool := e.launch == t.launch && e.team == t.logical

/-- A flush point of a team (R107, R227): its spilled and buffered entries leave in sort-key order. -/
def State.flushTeam (s : State) (t : Team) : State :=
  let buf := s.couchBuf t.core
  let es := couchSort (t.spilled ++ buf.filter fun e => e.ofTeam t)
  if es.isEmpty then s
  else
    let s := s.setCouch t.core (buf.filter fun e => !e.ofTeam t)
    let s := s.updTeam t.uid fun t => { t with spilled := [] }
    { s with y := { s.y with sent := s.y.sent ++ [⟨t.launch, t.logical, es⟩] } }

/-- Queues a launch trap (R376). -/
def State.launchTrap (s : State) (lid : Nat) (r : BitVec 512) : State :=
  match s.launch? lid with
  | none => s
  | some l =>
    if (s.ctx l.ctx).frozen then s.lose l.ctx
    else if lrTraph l.record == 0#64 then s.freeze l.ctx r true
    else s.updLaunch lid fun l => { l with traps := l.traps ++ [r] }

/-- COUCH_SPILL_FULL of a team, once (R376, R415): the report names lane 0, slot 0 of its group 0. -/
def State.couchTrap (s : State) (t : Team) : State :=
  if t.spillTrap then s
  else
    match s.launch? t.launch with
    | none => s
    | some l =>
      let s := s.updTeam t.uid fun t => { t with spillTrap := true }
      let ln := ((s.x.threads.find? fun u => u.team == some t.uid && u.tix == 0).map Thread.name).getD 0#128
      let area := lrSpill l.record + BitVec.ofNat 64 (t.logical * 32 * lrSpilln l.record)
      s.launchTrap t.launch (mkReport ln 0#64 area 0#64 (s.now (coreDie t.core)) (Cause.of .couchSpillFull) t.core 0 0 0
        t.ctx 0 false (BitVec.ofNat 32 t.logical) 0)

/-- Teams of a launch that come before a logical team in curve order. -/
def Launch.before (l : Launch) (team : Nat) : List Nat := l.teamOrder.takeWhile fun t => t != team

/-- The first run of sent entries of a launch that its home slices may apply now (R107): every earlier team has ended
and had all its entries applied, and the team's own runs apply in the order sent. -/
def State.couchReady (s : State) (lid : Nat) : Option CouchSend :=
  match s.launch? lid with
  | none => none
  | some l =>
    s.y.sent.find? fun c => c.launch == lid &&
      (l.before c.team).all fun t => l.ended.contains t && !(s.y.sent.any fun d => d.launch == lid && d.team == t)

/-- One couched entry of a launch is applied at its home slice (R107). -/
def State.applyEntry (s : State) (lid : Nat) (e : CouchEntry) : State :=
  let q := s.rmwHome none e.ctx e.tensor e.pa (opWidth e.w64) (fun old => some (atomBytes e.w64 e.op old e.operand)) e.poison
  q.1.updLaunch lid fun l => { l with wct := wctAdd l.wct (homeDie e.pa) q.2.2 }

/-- The entries that the teams of a launch have sent are all applied, in curve order: its context is killed, and with it every
team of the launch has ended (R107, R378, R380). DESIGN CHOICE (log 79). -/
def State.applySent (s : State) (l : Launch) : State :=
  let mine := s.y.sent.filter fun c => c.launch == l.uid
  let es := l.teamOrder.flatMap fun t => (mine.filter fun c => c.team == t).flatMap CouchSend.entries
  let s := es.foldl (fun s e => s.applyEntry l.uid e) s
  { s with y := { s.y with sent := s.y.sent.filter fun c => c.launch != l.uid } }

/-- COUCHED_APPLY (R107): one couched entry is applied at its home slice. -/
def execCouchedApply (lid : Nat) (s : State) : Out :=
  .next (match s.couchReady lid with
    | none => s
    | some c =>
      match c.entries with
      | [] => { s with y := { s.y with sent := s.y.sent.erase c } }
      | e :: r =>
        let s := s.applyEntry lid e
        let sent := if r.isEmpty then s.y.sent.erase c else s.y.sent.replace c { c with entries := r }
        { s with y := { s.y with sent := sent } })

/-! Samples (R318) -/

/-- Counts a sample: 0 sampled, 1 matched, 2 mismatched, 3 skipped (R318). -/
def Launch.detAdd (l : Launch) (i : Nat) : Launch := { l with det := l.det.modify i (· + 1) }

/-- The thread belongs to a shadow team (R318). -/
def State.inShadow (s : State) (t : Thread) : Option Team :=
  (s.teamOf t).bind fun tm => if tm.shadowOf.isSome then some tm else none

/-- A sample is skipped: its shadow goes with all that the engines do for it, and nothing is compared (R318). -/
def State.skipShadow (s : State) (tm : Team) : State :=
  let mine (u : Nat) : Bool := s.x.threads.any fun t => t.uid == u && t.team == some tm.uid
  let copied (o : Nat) : Bool := s.e.copies.any fun k => k.uid == o && mine k.thread
  let s1 : State := { s with
    x := { s.x with
      flights := s.x.flights.filter fun f => !mine f.thread
      threads := s.x.threads.filter fun t => t.team != some tm.uid
      groups := s.x.groups.filter fun g => g.team != some tm.uid
      teams := s.x.teams.filter fun t => t.uid != tm.uid }
    m := { s.m with locks := s.m.locks.filter fun l => !copied l.owner }
    e := { s.e with
      copies := s.e.copies.filter fun k => !mine k.thread
      passes := s.e.passes.filter fun p => p.team != tm.uid
      eqReqs := s.e.eqReqs.filter fun r => !mine r.thread
      rays := s.e.rays.filter fun r => !mine r.thread } }
  s1.updLaunch tm.launch fun l =>
    ({ l with digests := l.digests.filter fun d => d.1 != tm.logical }).detAdd 3

/-! Store-stream digests (R318, R319) -/

/-- A record of the store stream, for threads of a team in a deterministic launch (R319): the virtual address is bits 47:0 of
the pointer (R56). -/
def State.streamAdd (s : State) (t : Thread) (ord : Nat) (va : DWord) (w : Nat) (bs : List Byte) : State :=
  match s.launch? t.launch, t.team with
  | some l, some tm =>
    if lrDet l.record then
      s.updTeam tm fun k => { k with stream := k.stream ++ [⟨t.tix, ord, (va.extractLsb' 0 48).zeroExtend 64, w, BitVec.ofNat 128 (leNat bs)⟩] }
    else s
  | _, _ => s

/-- The 32 bytes of a record (R319). -/
def StreamRec.bytes (r : StreamRec) : List Byte :=
  natBytes 8 r.va.toNat ++ natBytes 2 r.tix ++ natBytes 1 r.width ++ List.replicate 5 0#8 ++ natBytes 16 r.data.toNat

/-- Inserts a record by thread index, then by program order. -/
def streamInsert (r : StreamRec) (rs : List StreamRec) : List StreamRec :=
  match rs with
  | [] => [r]
  | x :: q => if decide (r.tix < x.tix) || (r.tix == x.tix && decide (r.ord ≤ x.ord)) then r :: x :: q else x :: streamInsert r q

/-- The digest of a team after an interval (R319): its records by thread index, then in program order. -/
def digestStep (d : BitVec 256) (rs : List StreamRec) : BitVec 256 :=
  sha3 (natBytes 32 d.toNat ++ (rs.foldr streamInsert []).flatMap StreamRec.bytes)

/-- Ends the interval of a team: at a completed team barrier and at team end (R319). -/
def State.digestTeam (s : State) (tm : Nat) : State :=
  s.updTeam tm fun t =>
    if ((s.launch? t.launch).map fun l => lrDet l.record).getD false then
      { t with digest := digestStep t.digest t.stream, stream := [] }
    else t

end Sys2Proof.Machine
end

