-- ==== Sys2Proof/Machine/Spad.lean ====
section
/-! DEFINITION. The scratchpad, its pending counts, parked threads and error records (R48, R70 to R72, R444, R447). -/

namespace Sys2Proof.Machine

/-- The thread parks at its current word (R48): its partial clause begins there. -/
def Thread.park (t : Thread) (why : ParkWhy) : Thread := { t with status := .parkedMem why, mid := true }

/-- A parked thread becomes Ready at its word (R48). -/
def State.unpark (s : State) (why : ParkWhy) : State :=
  s.mapThreads fun t => if t.status == .parkedMem why then { t with status := .boundary } else t

/-- Lines of a scratchpad range (R72). -/
def spadLines (off n : Nat) : List Nat :=
  if n == 0 then [] else (List.range ((off % 256 + n + 255) / 256)).map fun i => off / 256 + i

/-- Pending count of a line. -/
def Team.pendOf (t : Team) (l : Nat) : Nat := (sget t.pend l).getD 0

/-- A line of a team is held for a matrix pass that has not read it (R254). -/
def State.passHolds (s : State) (team line : Nat) : Bool := s.e.passes.any fun p => p.team == team && p.lines.contains line

/-- First line of a range that is not present (R72, R254). -/
def State.absentLine (s : State) (t : Team) (off n : Nat) : Option Nat :=
  (spadLines off n).find? fun l => (sget t.pend l).isSome || s.passHolds t.uid l

/-- A line that a scratchpad access in flight touches is not present for it: a copy or a matrix pass issued before it still
has the line. What was issued after it comes after it (R72, R83, R104, R254). -/
def State.absentFor (s : State) (f : Flight) (tm : Team) (off n : Nat) : Bool :=
  (spadLines off n).any fun l =>
    (s.e.copies.any fun k => k.team == some tm.uid && decide (k.flight < f.uid) && k.lines.contains l) ||
      s.e.passes.any fun p => p.team == tm.uid && decide (p.uid < f.uid) && p.lines.contains l

/-- Raises the pending counts of lines (R72). -/
def State.pendAdd (s : State) (team : Nat) (ls : List Nat) : State :=
  s.updTeam team fun t => { t with pend := ls.foldl (fun p l => sput p l ((sget p l).getD 0 + 1)) t.pend }

/-- Lowers the pending count of a line; at zero the threads parked on it become Ready (R48, R72). -/
def State.pendSub (s : State) (team line : Nat) : State :=
  match s.team? team with
  | none => s
  | some t =>
    let n := t.pendOf line - 1
    let s := s.updTeam team fun t => { t with pend := sputD 0 t.pend line n }
    if n == 0 && !s.passHolds team line then s.unpark (.line team line) else s

/-- Bytes of a team's scratchpad; unlisted bytes are zero (R71). -/
def Team.spadRead (t : Team) (off n : Nat) : List Byte := (List.range n).map fun i => (sget t.spad (off + i)).getD 0#8

/-- Writes bytes of a team's scratchpad. -/
def Team.spadWrite (t : Team) (off : Nat) (bs : List Byte) : Team :=
  { t with spad := (bs.zipIdx).foldl (fun m b => sputD 0#8 m (off + b.2) b.1) t.spad }

/-- Sectors of 64 bytes that a range touches. -/
def sectorsOf (a n : Nat) : List Nat :=
  if n == 0 then [] else (List.range ((a % 64 + n + 63) / 64)).map fun i => a / 64 + i

/-- A range of the scratchpad touches a poisoned sector (R444). -/
def Team.spadPoison (t : Team) (off n : Nat) : Bool := (sectorsOf off n).any fun k => (sget t.spoison k).isSome

/-- Sectors that a range covers whole: a write of them clears poison (R444). -/
def wholeSectors (a n : Nat) : List Nat := (sectorsOf a n).filter fun k => decide (a ≤ 64 * k) && decide (64 * k + 64 ≤ a + n)

/-- A write of the scratchpad by an agent whose input may be poisoned (R444). -/
def State.spadStore (s : State) (team off : Nat) (bs : List Byte) (poison : Bool) : State :=
  s.updTeam team fun t =>
    let t := t.spadWrite off bs
    let sp := (wholeSectors off bs.length).foldl sdel t.spoison
    let sp := if poison then (sectorsOf off bs.length).foldl (fun m k => sput m k ()) sp else sp
    { t with spoison := sp }

/-- A new error record, still to be written (R447); `addr` is the effective address of the access that parks on it. -/
def State.addError (s : State) (pa : Nat) (code : Code) (unit index ctx : Nat) (parked fatal dropped : Bool)
    (cause die : Nat) (addr : DWord := 0#64) : State × Nat :=
  let u := s.x.nextUid
  ({ s with
     x := { s.x with nextUid := u + 1 }
     h := { s.h with errors := s.h.errors ++
       [⟨u, none, pa, s.now die, code, unit, index, ctx, parked, fatal, dropped, cause, addr⟩] } }, u)

/-- Unit and index of the storage that holds a physical address at home (R447): stacked DRAM, LPDDR, or a CXL link. -/
def paUnit (pa : Nat) : Nat × Nat :=
  if isHostMem pa then (13, pa / 2 ^ 46 % 2) else if isLpddr pa then (10, homeSlice pa) else (9, homeSlice pa)

/-- A thread parks on poisoned data (R444): an error record with PARKED set names it and the 64-B sector (R447). `ea` is the
effective address of its access (R372). -/
def State.parkPoison (s : State) (t : Thread) (ea : DWord) (pa : Nat) (unit index : Nat) : State :=
  let r := s.addError (pa / 64 * 64) .uncorrectable unit index t.ctx true false false 0 (coreDie t.core) ea
  r.1.updThread t.uid fun t => t.park (.poison r.2)

/-- A flight stalls on poisoned data met when it performs (R444). -/
def State.stallPoison (s : State) (f : Flight) (ea : DWord) (pa : Nat) (unit index : Nat) : State :=
  match s.thread? f.thread with
  | none => s.finish f
  | some t =>
    let r := s.addError (pa / 64 * 64) .uncorrectable unit index t.ctx true false false 0 (coreDie t.core) ea
    r.1.updFlight f.uid fun g => { g with stalled := some r.2 }

/-- A thread of a team that has a scratchpad: its team, for an access of the whole range [off, off + n). SCRATCH_RANGE
where the range leaves the allocation; a thread of no team has an allocation of size zero (R71, R241). -/
def State.spadTeam (s : State) (t : Thread) (off n : Nat) : Res Team :=
  match s.teamOf t with
  | some tm => if off + n ≤ tm.ssize then .ok tm else .error (Cause.at .scratchRange (BitVec.ofNat 64 off))
  | none => .error (Cause.at .scratchRange (BitVec.ofNat 64 off))

end Sys2Proof.Machine
end

