-- ==== Sys2Proof/Machine/Prick.lean ====
section
/-! DEFINITION. The Pricking unit: names, watches, and contributor records (R30, R138, R344, R422 to R429). -/

namespace Sys2Proof.Machine

/-! Lineage names (R30, R343) -/

/-- A lineage name from its fields. -/
def mkName (frame : BitVec 12) (pass : BitVec 6) (draw : BitVec 14) (inst : BitVec 20) (prim : BitVec 25)
    (x y : BitVec 13) (sample : BitVec 3) (bounce : BitVec 5) (child : BitVec 6) (kind : BitVec 3)
    (flags : BitVec 8) : BitVec 128 :=
  frame ++ pass ++ draw ++ inst ++ prim ++ x ++ y ++ sample ++ bounce ++ child ++ kind ++ flags

/-- KIND of a name. -/
def lnKind (n : BitVec 128) : Nat := (n.extractLsb' 8 3).toNat
/-- X of a name. -/
def lnX (n : BitVec 128) : Nat := (n.extractLsb' 38 13).toNat
/-- Y of a name. -/
def lnY (n : BitVec 128) : Nat := (n.extractLsb' 25 13).toNat
/-- BOUNCE of a name. -/
def lnBounce (n : BitVec 128) : Nat := (n.extractLsb' 17 5).toNat
/-- The watched flag of a name. -/
def lnWatched (n : BitVec 128) : Bool := n.getLsbD 0
/-- A name with its BOUNCE set (R284). -/
def setBounce (n : BitVec 128) (b : BitVec 5) : BitVec 128 := n.extractLsb' 22 106 ++ b ++ n.extractLsb' 0 17
/-- A name with its CHILD set (R284). -/
def setChild (n : BitVec 128) (c : BitVec 6) : BitVec 128 := n.extractLsb' 17 111 ++ c ++ n.extractLsb' 0 11
/-- A name with KIND and FLAGS set. -/
def setKind (n : BitVec 128) (k : BitVec 3) (f : BitVec 8) : BitVec 128 := n.extractLsb' 11 117 ++ k ++ f

/-! Watches (R423, R424) -/

/-- EN of a watch. -/
def Watch.en (w : Watch) : Bool := w.ctl.getLsbD 0
/-- CTX of a watch. -/
def Watch.ctxOf (w : Watch) : Nat := (w.ctl.extractLsb' 6 6).toNat
/-- MODE of a watch: a pixel watch. -/
def Watch.pixel (w : Watch) : Bool := w.ctl.getLsbD 1
/-- Log2 of the bytes of a surface element. -/
def Watch.elog (w : Watch) : Nat := min (w.ctl.extractLsb' 4 2).toNat 2 + 2
/-- X0, Y0, X1, Y1 of a watch. -/
def Watch.box (w : Watch) : Nat × Nat × Nat × Nat :=
  ((w.rect.extractLsb' 0 13).toNat, (w.rect.extractLsb' 16 13).toNat, (w.rect.extractLsb' 32 13).toNat,
   (w.rect.extractLsb' 48 13).toNat)

/-- A name of a context matches a watch (R424). -/
def Watch.matchName (w : Watch) (ctx : Nat) (n : BitVec 128) : Bool :=
  w.en && w.ctxOf == ctx && lnKind n != 6 && ((n ^^^ w.name) &&& w.mask) == 0#128 &&
    (!w.pixel ||
      (decide (1 ≤ lnKind n) && decide (lnKind n ≤ 4) && decide (w.box.1 ≤ lnX n) && decide (lnX n ≤ w.box.2.2.1)
        && decide (w.box.2.1 ≤ lnY n) && decide (lnY n ≤ w.box.2.2.2)))

/-- Bytes of an access lie on a watched address (R424): some element of the rectangle overlaps them. -/
def Watch.matchAddr (w : Watch) (ctx : Nat) (va : DWord) (n : Nat) : Bool :=
  if !(w.en && w.pixel && w.ctxOf == ctx && w.surf != 0#64) then false
  else
    let base := w.surf.toNat % 2 ^ 48
    let a := va.toNat % 2 ^ 48
    let e := 2 ^ w.elog
    let pitch := (w.pitch.extractLsb' 0 32).toNat
    let row (y : Nat) : Bool :=
      let lo := base + y * pitch + w.box.1 * e
      let hi := base + y * pitch + (w.box.2.2.1 + 1) * e
      decide (a < hi) && decide (lo < a + n)
    decide (w.box.1 ≤ w.box.2.2.1) && decide (w.box.2.1 ≤ w.box.2.2.2) &&
      ((List.range (w.box.2.2.2 + 1 - w.box.2.1)).any fun i => row (w.box.2.1 + i))

/-- Watches that a name or an access matches, as a mask (R427). -/
def State.watchMask (s : State) (ctx : Nat) (n : BitVec 128) (acc : Option (DWord × Nat)) : BitVec 8 :=
  (s.h.watches.zipIdx).foldl (fun m p =>
    let hit := p.1.matchName ctx n || (match acc with | some (a, k) => p.1.matchAddr ctx a k | none => false)
    if hit then m ||| (1#8 <<< p.2) else m) 0#8

/-- A name as it is formed, or after SETSR: a match sets the watched flag (R344). -/
def State.formName (s : State) (ctx : Nat) (n : BitVec 128) : BitVec 128 :=
  if s.watchMask ctx n none != 0#8 then n ||| 1#128 else n

/-! The contributor ring (R428, R429) -/

/-- Records that a ring holds: 2^(SIZE+6), SIZE 11 to 15 acting as 10. -/
def Ring.cap (r : Ring) : Nat := 2 ^ (min (r.ctl.extractLsb' 16 4).toNat 10 + 6)
/-- EN of a ring. -/
def Ring.en (r : Ring) : Bool := r.ctl.getLsbD 31
/-- The ring has room for a record, those sent and not yet counted taken in. -/
def Ring.room (r : Ring) : Bool := decide ((r.head - r.tail).toNat + r.sent.length < r.cap)
/-- Physical address of the next record of a ring. -/
def Ring.slot (r : Ring) (size : Nat) : Nat := r.base.toNat % 2 ^ 48 + size * ((r.head.toNat + r.sent.length) % r.cap)
/-- A record is written at its home; HEAD counts it once it is globally performed (R349). -/
def Ring.send (r : Ring) (s : State) (size : Nat) (bs : List Byte) : State × Ring :=
  let w := s.physStore (r.slot size) bs
  (w.1, { r with sent := r.sent ++ [(homeDie (r.slot size), w.2)] })
/-- HEAD counts the records that are globally performed, oldest first; the result says whether one entered an empty ring. -/
def Ring.count (r : Ring) (now : Nat → Nat) : List (Nat × Nat) → Ring × Bool
  | [] => ({ r with sent := [] }, false)
  | p :: ps =>
    if p.2 ≤ now p.1 then
      let c := Ring.count { r with head := r.head + 1#32 } now ps
      (c.1, c.2 || r.head == r.tail)
    else ({ r with sent := p :: ps }, false)

/-- Adds one, saturating at all ones. -/
def satInc (w : Word) : Word := if w == 0xFFFFFFFF#32 then w else w + 1#32

/-- A contributor record enters the ring, or is dropped (R428, R429). -/
def State.pushRecord (s : State) (r : BitVec 512) : State :=
  let c := s.h.cb
  if !c.en || !c.room then { s with h := { s.h with cb := { c with drop := satInc c.drop } } }
  else
    let w := c.send s 64 (natBytes 64 r.toNat)
    { w.1 with h := { w.1.h with cb := w.2 } }

/-- The rings count their records that are globally performed (R349); one that enters an empty ring sends its message (R403,
R428, R447). -/
def State.ringsCount (s : State) : State :=
  let fq := s.h.fq.count s.now s.h.fq.sent
  let cb := s.h.cb.count s.now s.h.cb.sent
  let er := s.h.er.count s.now s.h.er.sent
  let s1 : State := { s with h := { s.h with fq := fq.1, cb := cb.1, er := er.1 } }
  let s2 := if fq.2 then s1.msix 128 else s1
  let s3 := if cb.2 then s2.msix 129 else s2
  if er.2 then s3.msix 130 else s3

/-- A contributor record (R427). -/
def mkRecord (ln : BitVec 128) (data : BitVec 128) (key : DWord) (time : Nat) (seq : Word) (addr : DWord)
    (core ctx : Nat) (wm : BitVec 8) (insect : Bool) (width slice lane slot : Nat) (poison : Bool) (event : Nat) :
    BitVec 512 :=
  ln ++ data ++ key ++ BitVec.ofNat 64 time ++ seq ++ addr.extractLsb' 0 48 ++ BitVec.ofNat 8 core
    ++ BitVec.ofNat 6 ctx ++ wm ++ BitVec.ofBool insect ++ BitVec.ofNat 5 width ++ BitVec.ofNat 3 slice
    ++ BitVec.ofNat 5 lane ++ BitVec.ofNat 3 slot ++ BitVec.ofBool poison ++ BitVec.ofNat 8 event

/-- The section granted to a thread most recently. -/
def Thread.lastSec (t : Thread) : Option HeldSec := t.secs.getLast?

/-- Records of a thread's event enter the ring, or stand behind those of an earlier cause that are still to be formed
(R429). -/
def State.emit (s : State) (u : Nat) (rs : List (BitVec 512)) : State :=
  if (s.thread? u).any fun t => !t.recs.isEmpty then s.updThread u fun t => { t with recs := t.recs ++ [(0, some rs)] }
  else rs.foldl State.pushRecord s

/-- The place of records that a flight or a ray of a thread will form. -/
def State.emitLater (s : State) (u src : Nat) : State := s.updThread u fun t => { t with recs := t.recs ++ [(src, none)] }

/-- A flight or a ray has formed its records: those that nothing precedes any more enter the ring, in order (R429). -/
def State.emitNow (s : State) (u src : Nat) (rs : List (BitVec 512)) : State :=
  match s.thread? u with
  | none => s
  | some t =>
    if !t.recs.any fun p => p.1 == src && p.2.isNone then s.emit u rs
    else
      let ps := t.recs.map fun p => if p.1 == src && p.2.isNone then (src, some rs) else p
      let out := (ps.takeWhile fun p => p.2.isSome).flatMap fun p => p.2.getD []
      out.foldl State.pushRecord (s.updThread u fun t => { t with recs := ps.dropWhile fun p => p.2.isSome })

/-- The record of an event of a thread (R426, R427). -/
def State.eventRec (s : State) (t : Thread) (event : Nat) (va : DWord) (data : List Byte) (match_ : Bool) : BitVec 512 :=
  let k := t.lastSec
  let acc := if match_ then some (va, data.length) else none
  mkRecord t.name (BitVec.ofNat 128 (leNat data)) ((k.map HeldSec.key).getD 0#64) (s.timeOf t)
    ((k.map HeldSec.seq).getD 0#32) va t.core t.ctx (s.watchMask t.ctx t.name acc) k.isSome data.length t.slice
    t.lane t.slot false event

/-- Records an event of a thread (R426, R427). -/
def State.recordEvent (s : State) (t : Thread) (event : Nat) (va : DWord) (data : List Byte) (match_ : Bool) : State :=
  if t.isReplay then s else s.emit t.uid [s.eventRec t event va data match_]

/-- A write of a thread is watched (R426): the thread carries the flag, or the address is watched. -/
def State.watchedWrite (s : State) (t : Thread) (va : DWord) (n : Nat) : Bool :=
  !t.isReplay && (lnWatched t.name || s.h.watches.any fun w => w.matchAddr t.ctx va n)

/-- Records a watched write of a thread (R426). -/
def State.recordWrite (s : State) (t : Thread) (event : Nat) (va : DWord) (data : List Byte) : State :=
  if s.watchedWrite t va data.length then s.recordEvent t event va data true else s

/-- A held section of a thread has pre-images, whose records its OSLEAVE or OSABORT forms (R426). -/
def Thread.hasPre (t : Thread) (key : DWord) : Bool := t.secs.any fun h => h.key == key && !h.pre.isEmpty

/-- The records of a held section's pre-images, formed by the flight of its OSLEAVE or OSABORT (R426). -/
def State.recordPre (s : State) (u fl : Nat) (key : DWord) : State :=
  match s.thread? u with
  | none => s
  | some t =>
    match t.secs.find? fun h => h.key == key with
    | none => s
    | some h =>
      let rs := h.pre.map fun p =>
        mkRecord t.name (BitVec.ofNat 128 (leNat p.2)) h.key (s.timeOf t) h.seq p.1 t.core t.ctx
          (s.watchMask t.ctx t.name (some (p.1, p.2.length))) true p.2.length t.slice t.lane t.slot h.poisoned 4
      (s.emitNow u fl rs).updThread u fun t =>
        { t with secs := t.secs.map fun k => if k.key == key then { k with pre := [] } else k }

/-- A watched holder keeps the bytes of its first four global loads inside the section (R235). -/
def State.retain (s : State) (u : Nat) (va : DWord) (bs : List Byte) : State :=
  s.updThread u fun t =>
    if !lnWatched t.name then t
    else
      match t.secs.reverse with
      | [] => t
      | h :: r =>
        if 4 ≤ h.pre.length then t else { t with secs := ({ h with pre := h.pre ++ [(va, bs)] } :: r).reverse }

/-- LNMARK (R194). -/
def execLnmark (c : Ctl) (b : SrcB) (s : State) : Out :=
  .next (s.lanes c.grd (bRuns b 1) fun s t => do
    let y ← s.srcI t b
    .ok (if lnWatched t.name then s.recordEvent t 5 t.pc (loBytes 4 (y.zeroExtend 64)) false else s))

end Sys2Proof.Machine
end

