-- ==== Sys2Proof/Machine/Xlat.lean ====
section
/-! DEFINITION. Translation, page checks, range locks and the page-fault records (R56, R57, R62 to R69, R103, R403 to
R405). -/

namespace Sys2Proof.Machine

/-! Page tables (R62, R68) -/

/-- Low bit of the index of a level. -/
def levelShift : Nat → Nat
  | 0 => 16
  | 1 => 21
  | 2 => 30
  | _ => 39
/-- Entries of a table of a level. -/
def levelCount : Nat → Nat
  | 0 => 32
  | _ => 512
/-- Bytes of a table of a level. -/
def levelBytes (level : Nat) : Nat := 8 * levelCount level

/-- The Zero fields of an entry are zero. -/
def entryZero (e : DWord) : Bool := (e &&& 0xF0FC0000000000FC#64) == 0#64
/-- ADDR of an entry: bits 47:8 of an address. -/
def entryAddr (e : DWord) : Nat := (e.extractLsb' 8 40).toNat * 256

/-- A replica record (R68): HOME and the frame of each die that has one. R68 names upper bits that are zero for FRAME3 to
FRAME1 alone; those of FRAME0 are held to zero with them: DESIGN CHOICE (log 64). -/
def replicaRecord (s : State) (size : Nat) (bs : List Byte) : Option (Nat × List (Option Nat)) :=
  let r : BitVec 512 := BitVec.ofNat 512 (leNat bs)
  let home : DWord := r.extractLsb' 0 64
  let fr (d : Nat) : DWord := r.extractLsb' (192 + 64 * d) 64
  let ok (a : DWord) : Bool := decide (a.toNat < 2 ^ 48) && a.toNat % size == 0 && s.exists_ a.toNat
  let zero := r.extractLsb' 484 28 == 0#28 && r.extractLsb' 448 32 == 0#32 && r.extractLsb' 64 128 == 0#128 &&
    (List.range 4).all fun d => (fr d).extractLsb' 48 16 == 0#16
  let valid (d : Nat) : Bool := r.getLsbD (480 + d)
  if zero && ok home && (List.range 4).all fun d => !valid d || ok (fr d) then
    some (home.toNat, (List.range 4).map fun d => if valid d then some (fr d).toNat else none)
  else none

/-- A leaf entry of a level (R62, R68). -/
def State.leaf (s : State) (level va : Nat) (e : DWord) : State × Option Xlat :=
  let size := 2 ^ levelShift level
  let a := entryAddr e
  let dup := e.getLsbD 59
  let mt := e.extractLsb' 48 2
  let x : Xlat := ⟨va / size * size, size, a, e.getLsbD 56, e.getLsbD 57, e.getLsbD 58, mt, dup, []⟩
  if decide (3 ≤ level) || mt == 3#2 || (e.getLsbD 58 && mt == 2#2) then (s, none)
  else if !dup then (s, if a % size == 0 && s.exists_ a then some x else none)
  else if !isStacked a then (s, none)
  else
    let r := s.physRead a 64
    (r.1, (replicaRecord s size r.2).map fun f => { x with frame := f.1, frames := f.2 })

/-- The walk of a level's table (R65, R66): a translation, or an invalid entry. -/
def State.walk (s : State) (va : Nat) : Nat → Nat → State × Option Xlat
  | 0, table =>
    let r := s.physRead (table + 8 * (va / 2 ^ 16 % 32)) 8
    let e := leWord r.2
    if !entryZero e || e.extractLsb' 0 2 != 2#2 then (r.1, none) else r.1.leaf 0 va e
  | k + 1, table =>
    let r := s.physRead (table + 8 * (va / 2 ^ levelShift (k + 1) % 512)) 8
    let e := leWord r.2
    if !entryZero e then (r.1, none)
    else if e.extractLsb' 0 2 == 2#2 then r.1.leaf (k + 1) va e
    else if e.extractLsb' 0 2 == 1#2 then
      let a := entryAddr e
      if a % levelBytes k == 0 && s.isDram a then r.1.walk va k a else (r.1, none)
    else (r.1, none)

/-! Translation caches (R65). Which entry a full set gives up, which set holds a page larger than 64 KiB, and what indexes
the sector TLB, are not stated: the oldest entry, the set of the page's first 64 KiB, and the same index there (log 7). -/

/-- An address lies in the page of a translation. -/
def Xlat.has (x : Xlat) (va : Nat) : Bool := decide (x.base ≤ va) && decide (va < x.base + x.size)
/-- A held translation serves an address of a context. -/
def TlbEntry.serves (e : TlbEntry) (ctx va : Nat) : Bool := e.ctx == ctx && e.x.has va
/-- Adds an entry to a set-associative list, newest first; the set is that of the page's base: DESIGN CHOICE (log 7). -/
def tlbAdd (sets ways : Nat) (es : List TlbEntry) (e : TlbEntry) : List TlbEntry :=
  let es := es.filter fun k => !(k.ctx == e.ctx && k.x.base == e.x.base && k.x.size == e.x.size)
  let mine := es.filter fun k => k.x.base / 65536 % sets == e.x.base / 65536 % sets
  match mine.getLast? with
  | some old => if mine.length < ways then e :: es else e :: es.erase old
  | none => e :: es

/-- Key of a lane's last-page register. -/
def laneKey (core slice lane : Nat) : Nat := (core * 8 + slice) * 32 + lane
/-- Cores of the sector of a core. -/
def sectorCores (core : Nat) : List Nat := (List.range 144).filter fun c => coreSector c == coreSector core

/-- A step of R65 that supplies a translation. -/
inductive XlatStep where
  | lastPage | coreTlb | ring | sectorTlb | walk
deriving DecidableEq, Repr

/-- A translation that a cache of R65 supplies, in the order of its steps, and the step. -/
def State.cached (s : State) (core : Nat) (lane : Option (Nat × Nat)) (ctx va : Nat) : Option (Xlat × XlatStep) :=
  let inList (k : XlatStep) (es : List TlbEntry) : Option (Xlat × XlatStep) :=
    (es.find? fun e => e.serves ctx va).map fun e => (e.x, k)
  let last := lane.bind fun l => (sget s.m.lastPage (laneKey core l.1 l.2)).bind fun e =>
    if e.serves ctx va then some (e.x, XlatStep.lastPage) else none
  let mine := inList .coreTlb ((sget s.m.coreTlb core).getD [])
  let ring := (sectorCores core).findSome? fun c => inList .ring ((sget s.m.coreTlb c).getD [])
  let sec := inList .sectorTlb ((sget s.m.sectorTlb (coreSector core)).getD [])
  last.or (mine.or (ring.or sec))

/-- What the step that supplies a translation loads (R65): the lane's last-page register; beyond the core TLB, the core TLB;
after a walk, the sector TLB. That a hit in the sector TLB (step 4) loads the core TLB too is a DESIGN CHOICE (log 7): the rule
says so of steps 3 and 5. -/
def State.fillXlat (s : State) (core : Nat) (lane : Option (Nat × Nat)) (ctx : Nat) (x : Xlat) (step : XlatStep) : State :=
  let e : TlbEntry := ⟨ctx, x⟩
  let lp := match lane with
    | some l => sput s.m.lastPage (laneKey core l.1 l.2) e
    | none => s.m.lastPage
  let ct := if step == .lastPage || step == .coreTlb then s.m.coreTlb
    else sput s.m.coreTlb core (tlbAdd 64 4 ((sget s.m.coreTlb core).getD []) e)
  let k := coreSector core
  let st := if step == .walk then sput s.m.sectorTlb k (tlbAdd 1024 8 ((sget s.m.sectorTlb k).getD []) e) else s.m.sectorTlb
  { s with m := { s.m with lastPage := lp, coreTlb := ct, sectorTlb := st } }

/-- The frame that a translation gives an access from a die (R69). -/
def Xlat.pick (x : Xlat) (die : Nat) (modifies : Bool) : Except PfCause Nat :=
  if !x.dup then .ok x.frame
  else if modifies then (if !x.ro && x.frames.any Option.isSome then .error .dupWrite else .ok x.frame)
  else
    match x.frames.getD die none with
    | some f => .ok f
    | none => .error .dupRead

/-- Translation of an address (R65, R66, R69): the physical address and the page, or why there is none. A cached record
that gives no frame is walked again, as the service leaves a new one behind it; a frame in host memory whose link is not
trained for CXL, or in LPDDR that is absent, is an invalid entry (R62, R346). -/
def State.translate (s : State) (core : Nat) (lane : Option (Nat × Nat)) (ctx va : Nat) (modifies : Bool) :
    State × Except PfCause (Nat × Xlat) :=
  let die := coreDie core
  let hit := (s.cached core lane ctx va).bind fun x =>
    match x.1.pick die modifies with
    | .ok f => if s.exists_ f then some (f, x) else none
    | .error _ => none
  match hit with
  | some (f, x) => (s.fillXlat core lane ctx x.1 x.2, .ok (f + (va - x.1.base), x.1))
  | none =>
    let r := s.walk va 3 (s.ctx ctx).root
    match r.2 with
    | none => (r.1, .error .invalid)
    | some x =>
      match x.pick die modifies with
      | .error c => (r.1, .error c)
      | .ok f => (r.1.fillXlat core lane ctx x .walk, .ok (f + (va - x.base), x))

/-! Checks (R57, R63, R103, R347) -/

/-- What the checks of an access answer: the access, a code, or a page fault. -/
inductive Chk where
  | go (a : Acc)
  | code (c : Code)
  | fault (c : PfCause)
deriving DecidableEq, Repr

/-- Bits 59:48 of a pointer are zero (R57). -/
def ptrOk (p : DWord) : Bool := p.extractLsb' 48 12 == 0#12
/-- VA of a pointer (R56). -/
def ptrVa (p : DWord) : Nat := (p.extractLsb' 0 48).toNat
/-- TAG of a pointer (R56). -/
def ptrTag (p : DWord) : BitVec 4 := p.extractLsb' 60 4

/-- A range of the table refuses an access to bytes of a context (R103). -/
def Lock.refuses (l : Lock) (ctx va n : Nat) (modifies : Bool) : Bool :=
  l.ctx == ctx && (l.dest || modifies) && decide (va < l.hi) && decide (l.lo < va + n)

/-- Bytes of a context lie in a locked range that refuses the access (R103). -/
def State.locked (s : State) (ctx va n : Nat) (modifies : Bool) : Bool := s.m.locks.any fun l => l.refuses ctx va n modifies

/-- Steps 4 and 5 of R201 for bytes that lie in one page: translation and the page checks. With `tags` clear, no tag is
checked (R207). -/
def State.pageCheck (s : State) (core : Nat) (lane : Option (Nat × Nat)) (ctx : Nat) (p : DWord) (n : Nat)
    (modifies exec tags : Bool) (tensor : BitVec 12) (scope : Nat) : State × Chk :=
  if !ptrOk p then (s, .code .permission)
  else
    match s.translate core lane ctx (ptrVa p) modifies with
    | (s, .error c) => (s, .fault c)
    | (s, .ok (pa, x)) =>
      let atHome := decide (2 ≤ scope) || x.mt != 0#2
      let bad := (sectorsOf pa (max n 1)).any fun k => s.tagSeen core ctx (64 * k) atHome != ptrTag p
      if x.ro && modifies then (s, .code .permission)
      else if x.xn && exec then (s, .code .execNever)
      else if isWindow pa && !(s.ctx ctx).priv then (s, .code .permission)
      else if x.tagged && tags && bad then (s, .code .tagMismatch)
      else (s, .go ⟨p, pa, x.mt, if x.tagged && tags then some (ptrTag p) else none, tensor, scope⟩)

/-- Steps 4 to 6 of R201 for a thread's access. -/
def State.threadCheck (s : State) (t : Thread) (p : DWord) (n : Nat) (modifies tags : Bool) (tensor : BitVec 12)
    (scope : Nat) : State × Chk :=
  match s.pageCheck t.core (some (t.slice, t.lane)) t.ctx p n modifies false tags tensor scope with
  | (s, .go a) => if s.locked t.ctx (ptrVa p) n modifies then (s, .code .rangeLock) else (s, .go a)
  | r => r

/-! Page-fault records (R403 to R405) -/

/-- The number of a cause (R372). -/
def PfCause.val : PfCause → BitVec 8
  | .invalid => 0 | .dupRead => 1 | .dupWrite => 2

/-- The cause of a page fault that the service could not resolve. -/
def faultCause (c : PfCause) (addr : DWord) (engine : Bool) : Cause := ⟨.pageFault, c.val, addr, engine, false⟩

/-- Raises a code on a thread at a site with a fall-through of its own. -/
def State.raiseFall (s : State) (u : Nat) (p : Site) (fall : DWord) (c : Cause) : State :=
  match s.thread? u with
  | none => s
  | some t =>
    if t.trap.isSome || t.status == .exited then s.raiseLate t p c
    else (s.updThread u fun t =>
      ({ t with status := .boundary }).trapAt (s.reportOf t p c) fall c.code.freezing).settle

/-- A report that names no thread. -/
def bareReport (time ctx : Nat) (c : Cause) : BitVec 512 := mkReport 0#128 0#64 c.addr 0#64 time c 0 0 0 0 ctx 0 true 0#32 0

/-- Rejection of a record (R382). -/
def State.reject (s : State) (ctx q : Nat) (ptr : DWord) (c : Code) : State :=
  (s.updCtx ctx fun k =>
    if k.rejstat.getLsbD 16 then { k with rejstat := k.rejstat ||| (1#18 <<< 17) }
    else { k with rejptr := ptr, rejstat := k.rejstat.extractLsb' 17 1 ++ 1#1 ++ 0#4 ++ BitVec.ofNat 4 q ++ c.val }).msix
    (64 + ctx)

/-- Freezes a context for a tile job (R332, R405): the report carries the ray's name, and the tile ends. -/
def State.tileFreeze (s : State) (k : Tile) (ctx : Nat) (name : BitVec 128) (c : Cause) : State :=
  let r := mkReport name 0#64 c.addr 0#64 (s.now (coreDie k.core)) c k.core 0 0 0 ctx 0 true 0#32 0
  let s := { s with e := { s.e with tiles := s.e.tiles.filter fun t => t.uid != k.uid } }
  (s.updLaunch k.launch fun l => { l with ended := k.index :: l.ended }).freeze ctx r true

/-- A thread's access or fetch is answered FAIL (R395, R405): PAGE_FAULT, with PC equal to HDR for a fetch. -/
def State.failThread (s : State) (t : Thread) (fetch : Bool) (va : DWord) (c : PfCause) : State :=
  if fetch then
    s.raiseFall t.uid ⟨t.hdr, t.hdr, 0, t.count⟩ (if ptrVa va == ptrVa t.hdr then t.hdr else t.site.fall) (faultCause c va false)
  else s.raiseFall t.uid t.site t.site.fall (faultCause c va false)

/-- A FAIL for a thread: one whose team is Swapped takes it at its restore (R407). -/
def State.failOrKeep (s : State) (u : Nat) (fetch : Bool) (va : DWord) (c : PfCause) : State :=
  match s.thread? u with
  | none => s
  | some t =>
    if (s.teamOf t).any fun tm => tm.swapped.isSome then s.updThread u fun t => { t with fail := some (fetch, va, c) }
    else s.failThread t fetch va c

/-- The FAILs that came while a team was Swapped act (R407). -/
def State.failKept (s : State) (team : Nat) : State :=
  (s.x.threads.filter fun t => t.team == some team && t.fail.isSome).foldl (fun s t =>
    match t.fail with
    | none => s
    | some f => (s.updThread t.uid fun t => { t with fail := none }).failThread t f.1 f.2.1 f.2.2) s

/-- A waiter whose fault is answered FAIL (R405). -/
def State.failWaiter (s : State) (w : Waiter × DWord) (c : PfCause) : State :=
  let fc := faultCause c w.2 true
  match w.1 with
  | .thread u => s.failOrKeep u false w.2 c
  | .fetch u => s.failOrKeep u true w.2 c
  | .copy u => { s with e := { s.e with copies := s.e.copies.map fun k =>
      if k.uid == u then { k with failed := some fc, stalled := none } else k } }
  | .pass u => { s with e := { s.e with passes := s.e.passes.map fun k =>
      if k.uid == u then { k with failed := some fc, stalled := none } else k } }
  | .ray u => { s with e := { s.e with rays := s.e.rays.map fun k =>
      if k.uid == u then { k with code := some fc, stalled := none } else k } }
  | .eqv u => { s with e := { s.e with eqReqs := s.e.eqReqs.map fun k =>
      if k.uid == u then { k with code := some fc, stalled := none } else k } }
  | .tile u =>
    match s.e.tiles.find? fun k => k.uid == u with
    | none => s
    | some k =>
      match s.launch? k.launch with
      | none => s
      | some l => s.tileFreeze k l.ctx k.name fc
  | .coll u => { s with e := { s.e with colls := s.e.colls.map fun k =>
      if k.uid == u then { k with status := some 3, stalled := none } else k } }
  | .launch l => { s with d := { s.d with dfails := s.d.dfails ++ [(l, w.2, c)] } }
  | .bell u =>
    match s.d.bells.find? fun b => b.uid == u with
    | none => s
    | some b =>
      ({ s with d := { s.d with bells := s.d.bells.filter fun k => k.uid != u } } : State).reject b.ctx b.queue b.ptr
        .illegalOperand

/-- A waiter whose fault is answered RETRY walks again (R405). -/
def State.retryWaiter (s : State) (fault : Nat) (w : Waiter × DWord) : State :=
  match w.1 with
  | .thread _ => s.unpark (.page fault)
  | .fetch _ => s.unpark (.page fault)
  | .copy u => { s with e := { s.e with copies := s.e.copies.map fun k => if k.uid == u then { k with stalled := none } else k } }
  | .pass u => { s with e := { s.e with passes := s.e.passes.map fun k => if k.uid == u then { k with stalled := none } else k } }
  | .ray u => { s with e := { s.e with rays := s.e.rays.map fun k => if k.uid == u then { k with stalled := none } else k } }
  | .eqv u => { s with e := { s.e with eqReqs := s.e.eqReqs.map fun k => if k.uid == u then { k with stalled := none } else k } }
  | .tile u => { s with e := { s.e with tiles := s.e.tiles.map fun k => if k.uid == u then { k with stalled := none } else k } }
  | .coll u => { s with e := { s.e with colls := s.e.colls.map fun k => if k.uid == u then { k with stalled := none } else k } }
  | .launch _ => s
  | .bell u => { s with d := { s.d with bells := s.d.bells.map fun b => if b.uid == u then { b with fault := none } else b } }

/-- The page of an address (R404): that of its leaf where the walk meets one, else 64 KiB. -/
def State.pageAt (s : State) (ctx va : Nat) : Nat × Nat :=
  match (s.walk va 3 (s.ctx ctx).root).2 with
  | some x => (x.base, x.size)
  | none => (va / 65536 * 65536, 65536)

/-- The record of a sector for an address of a context that is still outstanding (R404). -/
def State.faultOn (s : State) (ctx : Nat) (va : DWord) (sector : Nat) : Option PFault :=
  s.h.faults.find? fun f => f.ctx == ctx && f.sector == sector && decide (f.page.1 ≤ ptrVa va) &&
    decide (ptrVa va < f.page.1 + f.page.2)

/-- A fault can wait for an answer (R403): the ring is enabled, or the record of its page has been written. -/
def State.faultWaits (s : State) (ctx : Nat) (va : DWord) (sector : Nat) : Bool :=
  s.h.fq.en || (s.faultOn ctx va sector).any fun f => f.id.isSome

/-- A page fault of a waiter at an address (R404): it joins the record of its sector, context and page, or begins one, which
shows `shown`; with EN clear, and no record written, it is answered FAIL at once (R403), and so is what an engine meets after
its context has been killed: FROZEN waits for no record (R380). The result names the record. -/
def State.addFaultAs (s : State) (ctx : Nat) (shown va : DWord) (c : PfCause) (access sector : Nat) (w : Waiter) : State × Nat :=
  if (s.ctx ctx).killing || !s.faultWaits ctx va sector then (s.failWaiter (w, va) c, 0)
  else
    match s.faultOn ctx va sector with
    | some f =>
      ({ s with h := { s.h with faults := s.h.faults.map fun g =>
        if g.uid == f.uid && !g.waiters.any (fun k => k.1 == w && k.2 == va) then
          { g with waiters := g.waiters ++ [(w, va)] } else g } }, f.uid)
    | none =>
      let u := s.x.nextUid
      let f : PFault := ⟨u, none, ctx, shown, s.now (sector / 3), c, access, sector, s.pageAt ctx (ptrVa va), [(w, va)]⟩
      ({ s with x := { s.x with nextUid := u + 1 }, h := { s.h with faults := s.h.faults ++ [f] } }, u)

/-- A page fault of a waiter, whose record shows the address that faulted (R404). -/
def State.addFault (s : State) (ctx : Nat) (va : DWord) (c : PfCause) (access sector : Nat) (w : Waiter) : State × Nat :=
  s.addFaultAs ctx va va c access sector w

/-- A lane's page fault (R48, R391): it parks, or with the ring disabled raises PAGE_FAULT. -/
def State.parkPage (s : State) (t : Thread) (va : DWord) (c : PfCause) (access : Nat) : Res State :=
  if !s.faultWaits t.ctx va (coreSector t.core) then .error (faultCause c va false)
  else
    let r := s.addFault t.ctx va c access (coreSector t.core) (.thread t.uid)
    .ok (r.1.updThread t.uid fun t => t.park (.page r.2))

end Sys2Proof.Machine
end

