-- ==== Sys2Proof/Machine/Area.lean ====
section
/-! DEFINITION. Areas of memory whose layouts are not architectural (R309, R411), the spilling of Couching buffers, and the
entries of a full buffer (R227, R387, R415). -/

namespace Sys2Proof.Machine

/-- Where a byte of an area lies, as the launch's context maps it. -/
def State.areaPa (s : State) (core ctx : Nat) (p : DWord) (modifies : Bool) : State × Option Nat :=
  match s.pageCheck core none ctx p 1 modifies false true 0#12 5 with
  | (s, .go a) => (s, if isWindow a.pa then none else some a.pa)
  | (s, _) => (s, none)

/-- What the device writes into an area: free bytes at free places of it, named by the index of the result. A byte that the
context's pages do not take is not written (log 47). -/
def State.areaWrite (s : State) (core ctx : Nat) (p : DWord) (len : Nat) : State × Nat :=
  let r := s.takeFree
  (((Config.areaBytes r.1).filter fun b => decide (b.1 < len)).foldl (fun s b =>
    match s.areaPa core ctx (p + BitVec.ofNat 64 b.1) true with
    | (s, some pa) => (s.writeHome ctx 0#12 pa [b.2] false).1
    | (s, none) => s) r.2, r.1)

/-- The area still holds what the device has written there under an index. -/
def State.areaSame (s : State) (core ctx : Nat) (p : DWord) (len i : Nat) : State × Bool :=
  ((Config.areaBytes i).filter fun b => decide (b.1 < len)).foldl (fun a b =>
    match a.1.areaPa core ctx (p + BitVec.ofNat 64 b.1) false with
    | (s, some pa) =>
      let r := s.readHome pa 1
      (r.1, a.2 && r.2 == [b.2])
    | (s, none) => (s, a.2)) (s, true)

/-- Spills a team's buffered entries to its spill area; false where they do not fit (R227, R387). -/
def State.spillTeam (s : State) (t : Team) : State × Bool :=
  let buf := s.couchBuf t.core
  let es := couchSort (buf.filter fun e => e.ofTeam t)
  let cap := match s.launch? t.launch with
    | some l => if lrSpill l.record == 0#64 then 0 else lrSpilln l.record
    | none => 0
  if t.spilled.length + es.length ≤ cap then
    let s := (s.setCouch t.core (buf.filter fun e => !e.ofTeam t)).updTeam t.uid fun t =>
      { t with spilled := couchSort (t.spilled ++ es) }
    match s.launch? t.launch with
    | some l =>
      if es.isEmpty then (s, true)
      else ((s.areaWrite t.core t.ctx (lrSpill l.record + BitVec.ofNat 64 (t.logical * 32 * cap))
        (32 * (t.spilled.length + es.length))).1, true)
    | none => (s, true)
  else (s, false)

/-- The team of a buffer that holds the most entries, ties to the lowest logical index (R227). -/
def State.fullest (s : State) (core : Nat) : Option Team :=
  let buf := s.couchBuf core
  (s.x.teams.filter fun t => t.core == core).foldl (fun best t =>
    let n (t : Team) : Nat := (buf.filter fun e => e.ofTeam t).length
    match best with
    | none => if n t == 0 then none else some t
    | some b => if n b < n t || (n b == n t && n t != 0 && decide (t.logical < b.logical)) then some t else some b) none

/-- An entry arrives at a core's Couching buffer (R227, R415). -/
def State.couchAdd (s : State) (core : Nat) (e : CouchEntry) : State :=
  let s :=
    if (s.couchBuf core).length < 4096 then s
    else
      match s.fullest core with
      | none => s
      | some t =>
        let r := s.spillTeam t
        if r.2 then r.1 else (s.flushTeam t).couchTrap t
  s.setCouch core (s.couchBuf core ++ [e])

end Sys2Proof.Machine
end

