-- ==== Sys2Proof/Machine/Trans.lean ====
section
/-! DEFINITION. The functions of R174, correctly rounded. Square roots are exact to a sticky bit; the others are
evaluated in fixed point with 320 fraction bits and rounded once: DEDUCED (log 10). -/

namespace Sys2Proof

/-- Fraction bits of the fixed-point evaluations. -/
def fxBits : Nat := 320
/-- One in fixed point. -/
def fxOne : Int := (2 : Int) ^ fxBits

/-- Digit-by-digit integer square root: `r` is the root of the bits of `n` above `2·k`. -/
def isqrtGo (n : Nat) : Nat → Nat → Nat
  | 0, r => r
  | k + 1, r =>
    let c := 2 * r + 1
    isqrtGo n k (if c * c ≤ n >>> (2 * k) then c else 2 * r)

/-- Floor of the square root. -/
def isqrt (n : Nat) : Nat := isqrtGo n (Nat.log2 n / 2 + 1) 0

/-- A rational between the square root's neighbours at a precision far beyond FP32, equal to the root where it is
exact: rounding it gives the rounding of the root. -/
def sqrtSticky (q : Rat) : Rat :=
  if q ≤ 0 then 0
  else
    let sh : Int := 400 - floorLog2 q
    let s : Int := if sh % 2 == 0 then sh else sh + 1
    let v := q * pow2 s
    let n := v.floor.toNat
    let r := isqrt n
    let b : Rat := if r * r == n && v == n then (r : Rat) else (r : Rat) + 1 / 2
    b / pow2 (s / 2)

/-- Fixed-point sum of `t/(2j+1)` with alternating signs, `t` shrinking by `d` each time: arctangent terms. -/
def atanGo (d : Int) : Nat → Int → Int → Int → Int → Int
  | 0, _, _, _, acc => acc
  | n + 1, t, j, sg, acc => atanGo d n (t / d) (j + 2) (-sg) (acc + sg * (t / j))

/-- π in fixed point with 480 fraction bits, by Machin's formula. -/
def piFx : Int :=
  let one : Int := (2 : Int) ^ (500 : Nat)
  let a5 := atanGo 25 130 (one / 5) 1 1 0
  let a239 := atanGo 57121 40 (one / 239) 1 1 0
  (16 * a5 - 4 * a239) / (2 : Int) ^ (20 : Nat)

/-- Fixed-point exponential series. -/
def expGo (x : Int) : Nat → Int → Int → Int → Int
  | 0, _, _, acc => acc
  | n + 1, t, j, acc => expGo x n (t * x / fxOne / j) (j + 1) (acc + t)

/-- Inverse hyperbolic tangent series: the sum of z^(2j+1)/(2j+1). -/
def atanhGo (z2 : Int) : Nat → Int → Int → Int → Int
  | 0, _, _, acc => acc
  | n + 1, t, j, acc => atanhGo z2 n (t * z2 / fxOne) (j + 2) (acc + t / j)

/-- Natural logarithm of a fixed-point value from 1 to 2: 2·artanh((m − 1)/(m + 1)). -/
def lnFx (m : Int) : Int :=
  let z := (m - fxOne) * fxOne / (m + fxOne)
  2 * atanhGo (z * z / fxOne) 110 z 1 0

/-- Natural logarithm of 2 in fixed point. -/
def ln2Fx : Int := lnFx (2 * fxOne)

/-- A rational in fixed point. -/
def toFx (q : Rat) : Int := (q * (fxOne : Rat)).floor
/-- A fixed-point value as a rational. -/
def ofFx (i : Int) : Rat := (i : Rat) / (fxOne : Rat)

/-- 2^x (R174). Arguments past the format's range give a value that rounds to the same result. -/
def exp2Num (x : Num) : Num :=
  match x with
  | .nan => .nan
  | .inf n => if n then .zero else .inf false
  | .fin _ _ =>
    let q := x.toRat
    let n := q.floor
    if 200 < n then .fin false (pow2 200)
    else if n < -200 then .fin false (pow2 (-200))
    else
      let f := q - n
      if f == 0 then .fin false (pow2 n)
      else .fin false (ofFx (expGo (toFx f * ln2Fx / fxOne) 80 fxOne 1 0) * pow2 n)

/-- log2 x (R174). -/
def log2Num (x : Num) : Num :=
  match x with
  | .nan => .nan
  | .inf n => if n then .nan else .inf false
  | .fin n m =>
    if m == 0 then .inf true
    else if n then .nan
    else
      let e := floorLog2 m
      let f := m / pow2 e
      if f == 1 then .ofInt e
      else .ofRat ((e : Rat) + ofFx (lnFx (toFx f) * fxOne / ln2Fx))

/-- Fixed-point alternating series of sine and cosine: terms `t·x²/(j(j+1))`. -/
def trigGo (x2 : Int) : Nat → Int → Int → Int → Int
  | 0, _, _, acc => acc
  | n + 1, t, j, acc => trigGo x2 n (-(t * x2 / fxOne / (j * (j + 1)))) (j + 2) (acc + t)

/-- Sine of a finite magnitude plus a number of quarter turns. -/
def sinQuarter (m : Rat) (add : Int) : Rat :=
  let half : Rat := (piFx : Rat) / ((2 : Int) ^ (481 : Nat) : Int)
  let n := (m / half + 1 / 2).floor
  let r := toFx (m - n * half)
  let x2 := r * r / fxOne
  let k := (n + add) % 4
  if k == 0 then ofFx (trigGo x2 60 r 2 0)
  else if k == 1 then ofFx (trigGo x2 60 fxOne 1 0)
  else if k == 2 then -ofFx (trigGo x2 60 r 2 0)
  else -ofFx (trigGo x2 60 fxOne 1 0)

/-- sin x in radians (R174). -/
def sinNum (x : Num) : Num :=
  match x with
  | .fin n m => if m == 0 then x else (Num.ofRat (sinQuarter m 0)).mul (.fin n 1)
  | _ => .nan

/-- cos x in radians (R174). -/
def cosNum (x : Num) : Num :=
  match x with
  | .fin _ m => if m == 0 then .one else .ofRat (sinQuarter m 1)
  | _ => .nan

/-- 1/x (R174). -/
def rcpNum (x : Num) : Num := Num.one.div x

/-- √x (R174). -/
def sqrtNum (x : Num) : Num :=
  match x with
  | .nan => .nan
  | .inf n => if n then .nan else x
  | .fin n m => if m == 0 then x else if n then .nan else .fin false (sqrtSticky m)

/-- 1/√x (R174). -/
def rsqNum (x : Num) : Num :=
  match x with
  | .nan => .nan
  | .inf n => if n then .nan else .zero
  | .fin n m => if m == 0 then .inf n else if n then .nan else .fin false (sqrtSticky (1 / m))

end Sys2Proof
end

