-- ==== Sys2Proof/Machine/Fp.lean ====
section
/-! DEFINITION. Floating point, packed halves, and DP2H (R170 to R176, R181). -/

namespace Sys2Proof.Machine

/-- V[d] := f(a, b) on FP32 values, rounded to nearest even once (R170). -/
def State.fpOp2 (s : State) (c : Ctl) (d a : VReg) (b : SrcB) (f : Num → Num → Num) : State :=
  s.alu c.grd (runs3 d a b) fun t => do
    let y ← s.srcF t b
    .ok (t.vset d.toNat (toFp32 (f (fp32 (t.vget a.toNat)) (fp32 y))))

/-- V[d] := f(a, b, c) on FP32 values. -/
def State.fpOp3 (s : State) (c : Ctl) (d a : VReg) (b : SrcB) (x : VReg) (f : Num → Num → Num → Num) : State :=
  s.alu c.grd ((x, 1) :: runs3 d a b) fun t => do
    let y ← s.srcF t b
    .ok (t.vset d.toNat (toFp32 (f (fp32 (t.vget a.toNat)) (fp32 y) (fp32 (t.vget x.toNat)))))

/-- A sign flip under a modifier (R170). -/
def numFlip (n : Bool) (x : Num) : Num := if n then x.negate else x

/-- FADD (R170). -/
def execFadd (c : Ctl) (na : Bool) (d a : VReg) (b : SrcB) (s : State) : Out :=
  .next (s.fpOp2 c d a b fun x y => (numFlip na x).add y)

/-- FSUB (R170). -/
def execFsub (c : Ctl) (na : Bool) (d a : VReg) (b : SrcB) (s : State) : Out :=
  .next (s.fpOp2 c d a b fun x y => (numFlip na x).add y.negate)

/-- FMUL (R170). -/
def execFmul (c : Ctl) (na : Bool) (d a : VReg) (b : SrcB) (s : State) : Out :=
  .next (s.fpOp2 c d a b fun x y => (numFlip na x).mul y)

/-- FFMA (R170). -/
def execFfma (c : Ctl) (na nc : Bool) (d a : VReg) (b : SrcB) (x : VReg) (s : State) : Out :=
  .next (s.fpOp3 c d a b x fun p y z => ((numFlip na p).mul y).add (numFlip nc z))

/-- FMIN (R171). -/
def execFmin (c : Ctl) (d a : VReg) (b : SrcB) (s : State) : Out := .next (s.fpOp2 c d a b Num.min)

/-- FMAX (R171). -/
def execFmax (c : Ctl) (d a : VReg) (b : SrcB) (s : State) : Out := .next (s.fpOp2 c d a b Num.max)

/-- FCLAMP (R171). -/
def execFclamp (c : Ctl) (d a : VReg) (b : SrcB) (x : VReg) (s : State) : Out :=
  .next (s.fpOp3 c d a b x fun p y z => (p.max y).min z)

/-- FCMP (R172). -/
def execFcmp (c : Ctl) (cond : FCond) (cmb : Comb) (d : PReg) (a : VReg) (b : SrcB) (s : State) : Out :=
  .next (s.alu c.grd ((a, 1) :: bRuns b 1) fun t => do
    let y ← s.srcF t b
    .ok (t.pset d.toNat (combine cmb t (fcmp cond (fp32 (t.vget a.toNat)) (fp32 y)))))

/-- Rounding to an integral value (R173). -/
def frnd (rm : Rm) (b : Word) : Word :=
  match fp32 b with
  | .nan => BitVec.ofNat 32 (canonNan .fp32)
  | .inf _ => b
  | .fin n m => if pow2 23 ≤ m then b else toFp32 (.fin n (roundInt rm n m).natAbs)

/-- FRND (R173). -/
def execFrnd (c : Ctl) (rm : Rm) (d : VReg) (b : SrcB) (s : State) : Out :=
  .next (s.alu c.grd ((d, 1) :: bRuns b 1) fun t => do
    let y ← s.srcF t b
    .ok (t.vset d.toNat (frnd rm y)))

/-- A long-latency function of R174: the result is written when the instruction completes. -/
def State.fpLong (s : State) (c : Ctl) (d : VReg) (b : SrcB) (f : Num → Num) : State :=
  s.lanes c.grd ((d, 1) :: bRuns b 1) fun s t => do
    let y ← s.srcF t b
    .ok (s.launchFlight t c (.write [(d.toNat, toFp32 (f (fp32 y)))] []))

/-- FRCP (R174). -/
def execFrcp (c : Ctl) (d : VReg) (b : SrcB) (s : State) : Out := .next (s.fpLong c d b rcpNum)

/-- FRSQ (R174). -/
def execFrsq (c : Ctl) (d : VReg) (b : SrcB) (s : State) : Out := .next (s.fpLong c d b rsqNum)

/-- FSQRT (R174). -/
def execFsqrt (c : Ctl) (d : VReg) (b : SrcB) (s : State) : Out := .next (s.fpLong c d b sqrtNum)

/-- FEX2 (R174). -/
def execFex2 (c : Ctl) (d : VReg) (b : SrcB) (s : State) : Out := .next (s.fpLong c d b exp2Num)

/-- FLG2 (R174). -/
def execFlg2 (c : Ctl) (d : VReg) (b : SrcB) (s : State) : Out := .next (s.fpLong c d b log2Num)

/-- FSIN (R174). -/
def execFsin (c : Ctl) (d : VReg) (b : SrcB) (s : State) : Out := .next (s.fpLong c d b sinNum)

/-- FCOS (R174). -/
def execFcos (c : Ctl) (d : VReg) (b : SrcB) (s : State) : Out := .next (s.fpLong c d b cosNum)

/-! Packed halves -/

/-- FP16 or BF16 by the BF bit. -/
def halfFmt (bf : Bool) : Fmt := if bf then .bf16 else .fp16
/-- The value of a half of a word. -/
def halfOf (f : Fmt) (w : Word) (h : Nat) : Num := decodeNum f (w.extractLsb' (16 * h) 16).toNat
/-- Two halves computed apart and packed (R175). -/
def pack2 (f : Fmt) (g : Nat → Num) : Word :=
  let e (h : Nat) : BitVec 16 := BitVec.ofNat 16 (roundNE f (g h))
  e 1 ++ e 0

/-- V[d] := f(a, b) on each half (R175). -/
def State.halfOp2 (s : State) (c : Ctl) (bf : Bool) (d a : VReg) (b : SrcB) (f : Num → Num → Num) : State :=
  let m := halfFmt bf
  s.alu c.grd (runs3 d a b) fun t => do
    let y ← s.srcH m t b
    .ok (t.vset d.toNat (pack2 m fun h => f (halfOf m (t.vget a.toNat) h) (halfOf m y h)))

/-- HADD2 (R175). -/
def execHadd2 (c : Ctl) (bf : Bool) (d a : VReg) (b : SrcB) (s : State) : Out := .next (s.halfOp2 c bf d a b Num.add)

/-- HMUL2 (R175). -/
def execHmul2 (c : Ctl) (bf : Bool) (d a : VReg) (b : SrcB) (s : State) : Out := .next (s.halfOp2 c bf d a b Num.mul)

/-- HFMA2 (R175). -/
def execHfma2 (c : Ctl) (bf : Bool) (d a : VReg) (b : SrcB) (x : VReg) (s : State) : Out :=
  let m := halfFmt bf
  .next (s.alu c.grd ((x, 1) :: runs3 d a b) fun t => do
    let y ← s.srcH m t b
    .ok (t.vset d.toNat (pack2 m fun h =>
      ((halfOf m (t.vget a.toNat) h).mul (halfOf m y h)).add (halfOf m (t.vget x.toNat) h))))

/-- HMINMAX2 (R175). -/
def execHminmax2 (c : Ctl) (bf mx : Bool) (d a : VReg) (b : SrcB) (s : State) : Out :=
  .next (s.halfOp2 c bf d a b (if mx then Num.max else Num.min))

/-- HCMP2 (R176): half 0 to P[d] and half 1 to P[d+1], each combined with P[q] as read. -/
def execHcmp2 (c : Ctl) (bf : Bool) (cond : Cond) (cmb : Comb) (d : PReg) (a : VReg) (b : SrcB) (s : State) : Out :=
  let m := halfFmt bf
  .next (s.alu c.grd ((a, 1) :: bRuns b 1) fun t => do
    let y ← s.srcH m t b
    let r (h : Nat) : Bool := combine cmb t (fcmp (condF cond) (halfOf m (t.vget a.toNat) h) (halfOf m y h))
    .ok ((t.pset d.toNat (r 0)).pset (d.toNat + 1) (r 1)))

/-- DP2H (R181): an exact sum, rounded once. -/
def execDp2h (c : Ctl) (bf : Bool) (d a : VReg) (b : SrcB) (x : VReg) (s : State) : Out :=
  let m := halfFmt bf
  .next (s.alu c.grd ((x, 1) :: runs3 d a b) fun t => do
    let y ← s.srcI t b
    let p (h : Nat) : Num := (halfOf m (t.vget a.toNat) h).mul (halfOf m y h)
    .ok (t.vset d.toNat (toFp32 (Num.sum [fp32 (t.vget x.toNat), p 0, p 1]))))

end Sys2Proof.Machine
end

