-- ==== Sys2Proof/Machine/Cross.lean ====
section
/-! DEFINITION. Cross-lane instructions (R45, R46, R182 to R188). -/

namespace Sys2Proof.Machine

/-- The thread stands past the instruction it was held at: the next word of its clause, or the next clause (R48,
R182). -/
def Thread.past (t : Thread) : Thread :=
  if t.site.word + 1 == t.count then { t with pc := t.site.fall, hdr := t.site.fall, mid := false, status := .boundary }
  else { t with pc := t.pc + 8#64, mid := true, status := .boundary }

/-- A thread released from a hold at the word that is issuing stays in its bundle; one held before stands past it. -/
def Thread.goOn (t : Thread) (bundle : List Nat) : Thread :=
  if bundle.contains t.uid then { t with status := .issued } else t.past

/-- What a thread brings to a join: its lane, mask, values and predicate (R182). -/
structure Arrival where
  uid  : Nat
  lane : Nat
  m    : Word
  a    : DWord
  b    : DWord
  p    : Bool
deriving DecidableEq, Repr

/-- What a thread held at a join brought; none when it is not held there. -/
def Thread.arrival? (t : Thread) : Option Arrival :=
  match t.status with
  | .held (.join _ m a b p) => if t.trap.isNone then some ⟨t.uid, t.lane, m, a, b, p⟩ else none
  | _ => none

/-- The threads of a group held at a join at an address (R45). -/
def State.joinAt (s : State) (g : Nat) (pc : DWord) : List Arrival :=
  (s.x.threads.filter fun t => t.group == g && t.pc == pc).filterMap Thread.arrival?

/-- Identity of a reduction (R132). -/
def redIdentity (op : RedOp) : Word :=
  match op with
  | .iadd => 0#32 | .fadd => 0#32 | .or => 0#32 | .xor => 0#32 | .and => 0xFFFFFFFF#32
  | .fmin => 0x7F800000#32 | .fmax => 0xFF800000#32 | .smin => 0x7FFFFFFF#32 | .smax => 0x80000000#32
  | .umin => 0xFFFFFFFF#32 | .umax => 0#32

/-- Reduction of a non-empty list (R185). -/
def redList (op : RedOp) (x : Word) (xs : List Word) : Word :=
  match op with
  | .iadd => xs.foldl (· + ·) x
  | .fadd => toFp32 (Num.sum ((x :: xs).map fp32))
  | .smin => xs.foldl (fun a b => if icmp .le false a b then a else b) x
  | .smax => xs.foldl (fun a b => if icmp .ge false a b then a else b) x
  | .umin => xs.foldl (fun a b => if icmp .le true a b then a else b) x
  | .umax => xs.foldl (fun a b => if icmp .ge true a b then a else b) x
  | .fmin => toFp32 ((xs.map fp32).foldl Num.min (fp32 x))
  | .fmax => toFp32 ((xs.map fp32).foldl Num.max (fp32 x))
  | .and => xs.foldl (· &&& ·) x
  | .or => xs.foldl (· ||| ·) x
  | .xor => xs.foldl (· ^^^ ·) x

/-- Value and non-emptiness of a reduction over a set (R132, R185). -/
def reduce (op : RedOp) (xs : List Word) : Word × Bool :=
  match xs with
  | [] => (redIdentity op, false)
  | x :: r => (redList op x r, true)

/-- A word with the bits of some lanes set. -/
def laneMask (ls : List Nat) : Word := ls.foldl (fun w l => w ||| (1#32 <<< l)) 0#32

/-- Lane that SHFL reads (R183). -/
def shflLane (mode : ShflMode) (l b : Nat) : Option Nat :=
  match mode with
  | .idx => some b
  | .up => if b ≤ l then some (l - b) else none
  | .down => if l + b ≤ 31 then some (l + b) else none
  | .xor => some (l ^^^ b)

/-- The result of a cross-lane instruction for one held thread (R183 to R188): `mem` are the members, `held` the lanes
of every thread of the group held at it. -/
def joinResult (i : Instr) (mem : List Arrival) (held : List Nat) (me : Arrival) (t : Thread) : Thread :=
  match i with
  | .shfl _ mode d _ _ _ =>
    let src := (shflLane mode me.lane (me.b.toNat % 32)).bind fun j => mem.find? fun x => x.lane == j
    t.vset d.toNat ((src.getD me).a.extractLsb' 0 32)
  | .vote _ mode d _ _ =>
    match mode with
    | .any => t.pset d.toNat (mem.any Arrival.p)
    | .all => t.pset d.toNat (!mem.isEmpty && mem.all Arrival.p)
    | .ballot => t.vset d.toNat (laneMask ((mem.filter Arrival.p).map Arrival.lane))
  | .redl _ op d p _ _ =>
    let r := reduce op (mem.map fun x => x.b.extractLsb' 0 32)
    (t.vset d.toNat r.1).pset p.toNat r.2
  | .scanl _ op excl d p _ _ =>
    let sub := mem.filter fun x => decide (x.lane < me.lane) || (x.lane == me.lane && !excl)
    let r := reduce op (sub.map fun x => x.b.extractLsb' 0 32)
    (t.vset d.toNat r.1).pset p.toNat r.2
  | .matchl _ _ d _ _ => t.vset d.toNat (laneMask ((mem.filter fun x => x.b == me.b).map Arrival.lane))
  | .elect _ d _ => t.pset d.toNat (mem.any (fun x => x.lane == me.lane) && mem.all fun x => decide (me.lane ≤ x.lane))
  | .actmask _ d _ => t.vset d.toNat (laneMask held)
  | _ => t

/-- Where a named lane stands for a join (R45, R182): arrived, exited or empty, or still to come. -/
inductive MemberAt where
  | here (a : Arrival)
  | gone
  | away
deriving DecidableEq, Repr

/-- The thread of a group in a lane, if it has not exited. A replay's threads stand for absent ones (R436). -/
def State.laneThread (s : State) (g l : Nat) : Option Thread :=
  s.x.threads.find? fun t => t.group == g && t.lane == l && t.status != .exited

/-- The state of lane `l` of a group toward the join at an address. -/
def State.memberAt (s : State) (g : Nat) (pc : DWord) (l : Nat) : MemberAt :=
  match s.laneThread g l with
  | none => .gone
  | some t => if t.pc == pc then (match t.arrival? with | some a => .here a | none => .away) else .away

/-- Lanes named by a mask. -/
def maskLanes (m : Word) : List Nat := (List.range 32).filter fun l => m.getLsbD l

/-- Instruction a thread is held at. -/
def Thread.heldIns (t : Thread) : Option Instr :=
  match t.status with
  | .held (.join i _ _ _ _) => some i
  | _ => none

/-- Lanes whose values enter the result of a held thread (R436). -/
def joinLanes (i : Instr) (mem : List Arrival) (held : List Nat) (me : Arrival) : List Nat :=
  match i with
  | .shfl _ mode _ _ _ _ =>
    ((shflLane mode me.lane (me.b.toNat % 32)).bind fun j => mem.find? fun x => x.lane == j).toList.map Arrival.lane
  | .vote .. => mem.map Arrival.lane
  | .redl .. => mem.map Arrival.lane
  | .scanl _ _ excl _ _ _ _ =>
    (mem.filter fun x => decide (x.lane < me.lane) || (x.lane == me.lane && !excl)).map Arrival.lane
  | .matchl .. => mem.map Arrival.lane
  | .actmask .. => held
  | _ => []

/-- Values of the neighbours in some lanes have entered a result of a replay's thread (R436). -/
def State.enterNotes (s : State) (t : Thread) (ls : List Nat) : State :=
  if !t.isNamed then s
  else
    s.noteEnter t.launch ((s.x.threads.filter fun u => u.group == t.group && u.uid != t.uid && ls.contains u.lane).filterMap
      Thread.replayMember)

/-- What a join of a replay's threads adds to the masks (R435, R436). -/
def State.joinNotes (s : State) (g : Nat) (mem held : List Arrival) : State :=
  let made (l : Nat) : Bool := s.x.threads.any fun t => t.group == g && t.lane == l
  held.foldl (fun s a =>
    match s.thread? a.uid with
    | none => s
    | some t =>
      let s := if (maskLanes a.m).all made then s else s.note t 0#8 0x40#8
      s.enterNotes t ((t.heldIns.map fun i => joinLanes i mem (held.map Arrival.lane) a).getD [])) s

/-- The join of a group at an address, when it can end (R45): it executes once, or every thread held at it raises
MISSING_MEMBER. The group of a replay takes absent members as none (R436). -/
def State.joinTry (s : State) (g : Nat) (pc : DWord) (bundle : List Nat) : State :=
  let held := s.joinAt g pc
  match held with
  | [] => s
  | h :: _ =>
    let ms := (maskLanes h.m).map fun l => s.memberAt g pc l
    if ms.any fun x => x == .away then s
    else
      let repl := s.x.threads.any fun t => t.group == g && t.isReplay
      let made (l : Nat) : Bool := s.x.threads.any fun t => t.group == g && t.lane == l
      if (maskLanes h.m).any fun l => (!repl || made l) && s.memberAt g pc l == .gone then
        held.foldl (fun s a =>
          (s.updThread a.uid fun t => s.trapped { t with status := .boundary } (Cause.of .missingMember))) s
      else
        let mem := ms.filterMap fun x => match x with | .here a => some a | _ => none
        let lanes := held.map Arrival.lane
        let s := if repl then s.joinNotes g mem held else s
        held.foldl (fun s a => s.updThread a.uid fun t =>
          match t.heldIns with
          | some i => (joinResult i mem lanes a t).goOn bundle
          | none => t) s

/-- R46: every thread of a group that has not exited is held at joins and none of them can execute: the lowest held
lane raises MISSING_MEMBER. -/
def State.joinDead (s : State) (g : Nat) : State :=
  let live := s.x.threads.filter fun t => t.group == g && t.status != .exited
  if live.isEmpty || live.any fun t => t.arrival?.isNone then s
  else
    match lowest live with
    | none => s
    | some t => s.updThread t.uid fun t => s.trapped { t with status := .boundary } (Cause.of .missingMember)

/-- Ends every join of a group that can end, then R46: after an exit, a release or an arrival. -/
def State.joinCheck (s : State) (g : Nat) (bundle : List Nat) : State :=
  let pcs := ((s.x.threads.filter fun t => t.group == g && t.arrival?.isSome).map Thread.pc).eraseDups
  (pcs.foldl (fun s pc => s.joinTry g pc bundle) s).joinDead g

/-- The threads of a word that name no member execute it at once (R45, R188): each with the lanes of its group that issue it in
the bundle, those that it holds among them. -/
def State.joinAlone (s : State) (ins : Instr) (mm : VReg) (bundle : List Nat) (vals : Thread → DWord × DWord × Bool) : State :=
  let is := (bundle.filterMap s.thread?).filter fun t => t.trap.isNone
  (is.filter fun t => t.vget mm.toNat == 0#32).foldl (fun s t =>
    let v := vals t
    let ls := (is.filter fun u => u.group == t.group).map Thread.lane
    let me : Arrival := ⟨t.uid, t.lane, 0#32, v.1, v.2.1, v.2.2⟩
    (s.updThread t.uid (joinResult ins [] ls me)).enterNotes t (joinLanes ins [] ls me)) s

/-- A cross-lane word over its bundle (R45, R182): arrivals in ascending lane order, then the joins of each group. With
no member named it executes at once; `vals` gives what a thread brings. -/
def State.crossLane (s : State) (ins : Instr) (mm : VReg) (runs : List (VReg × Nat))
    (vals : Thread → DWord × DWord × Bool) : State :=
  let bundle := s.members
  let arrive (s : State) (t : Thread) : Res State :=
    let m := t.vget mm.toNat
    let v := vals t
    if (s.joinAt t.group t.pc).any fun a => a.m != m then illop
    else if m == 0#32 then .ok s
    else .ok (s.updThread t.uid fun u => { u with status := .held (.join ins m v.1 v.2.1 v.2.2) })
  let s := (s.lanes ⟨63#6, false⟩ ((mm, 1) :: runs) arrive).joinAlone ins mm bundle vals
  let gs := ((s.x.threads.filter fun t => bundle.contains t.uid).map Thread.group).eraseDups
  (gs.foldl (fun s g => s.joinCheck g bundle) s).settle

/-- SHFL (R183). -/
def execShfl (c : Ctl) (mode : ShflMode) (d a : VReg) (b : SrcB) (mm : VReg) (s : State) : Out :=
  let bv (t : Thread) : Word :=
    match b with
    | .v r => t.vget r.toNat
    | .s8 i => i.signExtend 32
    | _ => 0#32
  .next (s.crossLane (.shfl c mode d a b mm) mm (runs3 d a b) fun t =>
    ((t.vget a.toNat).zeroExtend 64, (bv t).zeroExtend 64, false))

/-- VOTE (R184). -/
def execVote (c : Ctl) (mode : VoteMode) (d : BitVec 8) (p : PReg) (mm : VReg) (s : State) : Out :=
  .next (s.crossLane (.vote c mode d p mm) mm (if mode == .ballot then [(d, 1)] else []) fun t =>
    (0#64, 0#64, t.pget p.toNat))

/-- REDL (R185). -/
def execRedl (c : Ctl) (op : RedOp) (d : VReg) (p : PReg) (b mm : VReg) (s : State) : Out :=
  .next (s.crossLane (.redl c op d p b mm) mm [(d, 1), (b, 1)] fun t => (0#64, (t.vget b.toNat).zeroExtend 64, false))

/-- SCANL (R185). -/
def execScanl (c : Ctl) (op : RedOp) (excl : Bool) (d : VReg) (p : PReg) (b mm : VReg) (s : State) : Out :=
  .next (s.crossLane (.scanl c op excl d p b mm) mm [(d, 1), (b, 1)] fun t =>
    (0#64, (t.vget b.toNat).zeroExtend 64, false))

/-- MATCH (R186). -/
def execMatchl (c : Ctl) (w64 : Bool) (d b mm : VReg) (s : State) : Out :=
  .next (s.crossLane (.matchl c w64 d b mm) mm [(d, 1), (b, if w64 then 2 else 1)] fun t =>
    (0#64, if w64 then t.pair b.toNat else (t.vget b.toNat).zeroExtend 64, false))

/-- ELECT (R187). -/
def execElect (c : Ctl) (d : PReg) (mm : VReg) (s : State) : Out :=
  .next (s.crossLane (.elect c d mm) mm [] fun _ => (0#64, 0#64, false))

/-- ACTMASK (R188). -/
def execActmask (c : Ctl) (d mm : VReg) (s : State) : Out :=
  .next (s.crossLane (.actmask c d mm) mm [(d, 1)] fun _ => (0#64, 0#64, false))

end Sys2Proof.Machine
end

