-- ==== Sys2Proof/Machine/Section.lean ====
section
/-! DEFINITION. Release work, ordered sections and their key tables (R94, R105, R235 to R238, R411 to R413). -/

namespace Sys2Proof.Machine

/-! Release work (R93, R94) -/

/-- Pieces of a part: of 8 bytes, or the whole of a lesser one (R85). -/
def ReadPart.count (p : ReadPart) : Nat := (p.len + 7) / 8
/-- Every piece of a part is read. -/
def ReadPart.full (p : ReadPart) : Bool := decide (p.count ≤ p.got.length)

/-- The flight is an access of its thread, in the sense of R93: what an engine does for the thread is not. A LAUNCH is one until
it has loaded its record (R239). -/
def FlightOp.isAccess : FlightOp → Bool
  | .load .. | .store .. | .loadS .. | .storeS .. | .tagst .. | .tagld .. | .dload .. | .atom .. | .atomc .. | .red ..
  | .waitc .. | .osenter .. | .osend .. | .osstat .. | .accld .. | .accst .. | .shadow .. | .sampled .. | .gather .. => true
  | .launch parts _ _ => !parts.all ReadPart.full
  | _ => false

/-- The flight is a load, an atomic, a WAITC or an OSENTER: what an acquire waits for (R93). -/
def FlightOp.acquired : FlightOp → Bool
  | .load .. | .loadS .. | .tagld .. | .dload .. | .atom .. | .atomc .. | .waitc .. | .osenter ..
  | .accld .. | .sampled .. | .gather .. => true
  | .launch parts _ _ => !parts.all ReadPart.full
  | _ => false

/-- Earlier flights of the same thread: those issued before, and not done. -/
def State.earlier (s : State) (f : Flight) : List Flight :=
  s.x.flights.filter fun g => g.thread == f.thread && decide (g.uid < f.uid)

/-- The launch of a thread is deterministic. -/
def State.det (s : State) (t : Thread) : Bool := ((s.launch? t.launch).map fun l => lrDet l.record).getD false

/-- Every SHADOW that a team issued before the flight has been tested: a flush point waits for it (R274). -/
def State.shadowsTested (s : State) (f : Flight) : Bool :=
  match s.thread? f.thread with
  | none => true
  | some t =>
    t.team.isNone || !s.det t || s.e.rays.all fun r =>
      !(r.ticket.isNone && r.stage == .flying && decide (r.uid < f.uid) && ((s.thread? r.thread).bind Thread.team) == t.team)

/-- Every earlier access of the flight's thread has completed; at level 2 and wider its posted writes have reached their
targets too (R94), and at level 5 and wider its team's SHADOWs have been tested (R274). -/
def State.accessesDone (s : State) (f : Flight) (level : Nat) : Bool :=
  ((s.earlier f).all fun g => !(g.op.isAccess && (g.busy || decide (2 ≤ level)))) && (level < 5 || s.shadowsTested f)

/-- Every earlier load, atomic, WAITC and OSENTER of the flight's thread has completed (R93). -/
def State.acquireDone (s : State) (f : Flight) : Bool := (s.earlier f).all fun g => !(g.op.acquired && g.busy)

/-- Release work of a level for a thread (R94): its core's dirty bytes of the context go home, a flush point is taken at
level 5 and wider in a deterministic launch (R107), and the result is the write completion times that the thread waits
past: those of earlier releases that still wait are among them. -/
def State.releaseWork (s : State) (t : Thread) (level : Nat) : State × Sparse Nat :=
  if level < 2 then (s, [])
  else
    let r := s.releaseCore t.core t.ctx
    let w := wctJoin r.2 t.wct
    (match r.1.teamOf t with
      | some tm => if 5 ≤ level && s.det t then r.1.flushTeam tm else r.1
      | none => r.1, w)

/-- A thread has waited past write completion times (R91). -/
def State.passed (s : State) (t : Thread) (m : Sparse Nat) : Bool := s.passedAt (coreDie t.core) m

/-! Key tables (R235) -/

/-- Device-wide index of the slice that holds a key's entry (R235). -/
def keySlice (key : DWord) : Nat := (key.extractLsb' 0 32 ^^^ key.extractLsb' 32 32).toNat % 96

/-- A key with no entry (R105). -/
def KeyEntry.fresh (lid ctx : Nat) (key : DWord) : KeyEntry := ⟨lid, ctx, key, 0#32, false, false, none, [], none⟩
/-- Equal to the no-entry state, with no waiters (R235). -/
def KeyEntry.blank (e : KeyEntry) : Bool := e.next == 0#32 && !e.held && !e.poison && e.waiters.isEmpty
/-- The entry is for a launch and a key. -/
def KeyEntry.is (e : KeyEntry) (lid : Nat) (key : DWord) : Bool := e.launch == lid && e.key == key

/-- The entry of a key, in its table or in the backing table. -/
def State.keyEntry (s : State) (lid : Nat) (key : DWord) : Option KeyEntry :=
  match s.y.keys.find? fun e => e.is lid key with
  | some e => some e
  | none => s.y.backing.find? fun e => e.is lid key

/-- Stores an entry in its table; a blank one is deleted (R235). -/
def State.putKey (s : State) (e : KeyEntry) : State :=
  let rest := s.y.keys.filter fun k => !k.is e.launch e.key
  let back := s.y.backing.filter fun k => !k.is e.launch e.key
  { s with y := { s.y with keys := if e.blank then rest else rest ++ [e], backing := back } }

/-- The entry may go to its launch's backing table: neither held nor waited on, and the table has room (R235, R411). -/
def State.movable (s : State) (slice : Nat) (e : KeyEntry) : Bool :=
  keySlice e.key == slice && !e.held && e.waiters.isEmpty &&
    match s.launch? e.launch with
    | some l => lrOsback l.record != 0#64 &&
        decide ((s.y.backing.filter fun b => b.launch == e.launch).length < lrOsbackn l.record)
    | none => false

/-- Where entry `n` of a launch's backing table stands (R411). -/
def backSlot (l : Launch) (n : Nat) : DWord := lrOsback l.record + BitVec.ofNat 64 (64 * n)

/-- An entry goes to its launch's backing table, at its first free number, and is written there (R235, R411). -/
def State.backOut (s : State) (core : Nat) (k : KeyEntry) : State :=
  match s.launch? k.launch with
  | none => s
  | some l =>
    let used := (s.y.backing.filter fun b => b.launch == k.launch).filterMap fun b => b.image.map Prod.fst
    let n := ((List.range (used.length + 1)).find? fun i => !used.contains i).getD 0
    let r := s.areaWrite core k.ctx (backSlot l n) 64
    { r.1 with y := { r.1.y with keys := r.1.y.keys.erase k, backing := r.1.y.backing ++ [{ k with image := some (n, r.2) }] } }

/-- An entry comes back from the backing table: one that software has written comes with NEXT 0, HELD clear and POISON set
(R411). -/
def State.backIn (s : State) (core : Nat) (b : KeyEntry) : State × KeyEntry :=
  let s1 : State := { s with y := { s.y with backing := s.y.backing.erase b } }
  match s.launch? b.launch, b.image with
  | some l, some i =>
    let r := s1.areaSame core b.ctx (backSlot l i.1) 64 i.2
    (r.1, if r.2 then { b with image := none }
      else { b with image := none, next := 0#32, held := false, holder := none, poison := true })
  | _, _ => (s1, { b with image := none })

/-- Brings a key's entry into its slice's table, moving another entry out where the 2048 entries are full; none is
OS_CAPACITY (R235, R411). -/
def State.bringKey (s : State) (core lid ctx : Nat) (key : DWord) : Option (State × KeyEntry) :=
  let slice := keySlice key
  match s.y.keys.find? fun e => e.is lid key with
  | some e => some (s, e)
  | none =>
    let r := match s.y.backing.find? fun b => b.is lid key with
      | some b => s.backIn core b
      | none => (s, KeyEntry.fresh lid ctx key)
    if (r.1.y.keys.filter fun k => keySlice k.key == slice).length < 2048 then some r
    else
      match r.1.y.keys.find? fun k => r.1.movable slice k with
      | none => none
      | some k => some (r.1.backOut core k, r.2)

/-- Grants a section to the flight of an OSENTER (R105): the thread holds the key, and the grant carries POISON. -/
def State.grantSection (s : State) (e : KeyEntry) (fl : Nat) : State × KeyEntry :=
  match s.flight? fl with
  | none => (s, e)
  | some f =>
    match f.op with
    | .osenter key seq p _ =>
      let s := s.updFlight fl fun g => { g with op := .osenter key seq p true }
      let s := s.updThread f.thread fun t => { t with secs := t.secs ++ [⟨key, seq, e.poison, []⟩] }
      (s, { e with held := true, holder := some f.thread, waiters := e.waiters.filter fun w => w.1 != fl })
    | _ => (s, e)

/-- Grants the waiter whose sequence comes next, if the key is free (R105). -/
def State.grantNext (s : State) (e : KeyEntry) : State :=
  if e.held then s.putKey e
  else
    match e.waiters.find? fun w => w.2.1 == e.next with
    | some w => let r := s.grantSection e w.1; r.1.putKey r.2
    | none => s.putKey e

/-- The thread holds a key. -/
def Thread.holds (t : Thread) (key : DWord) : Bool := t.secs.any fun h => h.key == key

/-- The end of a held section at its key (R237): NEXT rises, HELD clears, and the next waiter is granted. -/
def State.endSection (s : State) (u lid : Nat) (key : DWord) (abort : Bool) : State :=
  let s := s.updThread u fun t => { t with secs := t.secs.filter fun h => h.key != key }
  match s.keyEntry lid key with
  | none => s
  | some e =>
    if e.holder != some u then s
    else s.grantNext { e with next := e.next + 1#32, held := false, holder := none, poison := e.poison || abort }

/-- A pre-image record of a replay names a section of a thread (R435): LN bits 127:11, KEY and SEQ. -/
def preOf (t : Thread) (key : DWord) (seq : Word) (r : BitVec 512) : Bool :=
  r.extractLsb' 0 8 == 4#8 && r.extractLsb' 395 117 == t.name.extractLsb' 11 117 && r.extractLsb' 192 64 == key &&
    r.extractLsb' 96 32 == seq

/-- OSENTER of a re-created thread (R435): granted at once, with no key-table entry; P[d] takes the POISON of the pre-image
record found for the section, or false. -/
def State.replaySection (s : State) (t : Thread) (c : Ctl) (d : PReg) (key : DWord) (seq : Word) : Res State :=
  let rec_ := ((s.launch? t.launch).bind Launch.replay).bind fun r => r.records.find? (preOf t key seq)
  let poi := (rec_.map fun r => r.getLsbD 8).getD false
  if d == 63#6 && poi then .error (Cause.at .osPoisoned key)
  else
    .ok ((s.launchFlight t c (.write [] [(d.toNat, poi)])).updThread t.uid fun u =>
      { u with secs := u.secs ++ [⟨key, seq, poi, []⟩] })

/-- One lane of OSENTER that its checks let through (R236, R411): it waits at its key, and is granted where it comes next. -/
def State.enterLane (s : State) (t : Thread) (c : Ctl) (d : PReg) (key : DWord) (seq : Word) : Res State :=
  match s.bringKey t.core t.launch t.ctx key with
  | none => .error (Cause.of .osCapacity)
  | some (s, e) =>
    let fl := s.x.nextUid
    let s := s.launchFlight t c (.osenter key seq d.toNat false)
    let s := s.grantNext { e with waiters := e.waiters ++ [(fl, seq, s.timeOf t)] }
    match s.flight? fl with
    | some f =>
      .ok (if f.op == .osenter key seq d.toNat true then s
           else s.updThread t.uid fun u => { u with status := .parkedSec })
    | none => .ok s

/-- OSENTER (R236, R411). A shadow that reaches one is skipped (R318). -/
def execOsenter (c : Ctl) (d : PReg) (a : VReg) (b : SrcB) (s : State) : Out :=
  .next (s.lanes c.grd ((a, 2) :: bRuns b 1) fun s t => do
    let seq ← s.srcI t b
    let key := t.pair a.toNat
    match s.inShadow t with
    | some tm => .ok (s.skipShadow tm)
    | none =>
      if t.holds key then illop
      else if 4 ≤ t.secs.length then .error (Cause.of .osCapacity)
      else if t.isReplay then s.replaySection t c d key seq
      else s.enterLane t c d key seq)

/-- OSLEAVE and OSABORT (R237); in a replay they change nothing (R435), and the thread holds the section no more. A thread that does not hold the key raises OS_NOT_HELD. -/
def State.osEnd (s : State) (c : Ctl) (a : VReg) (abort : Bool) : State :=
  s.lanes c.grd [(a, 2)] fun s t =>
    let key := t.pair a.toNat
    if !t.holds key then .error (Cause.of .osNotHeld)
    else if t.isReplay then .ok (s.updThread t.uid fun u => { u with secs := u.secs.filter fun h => h.key != key })
    else .ok ((if t.hasPre key then s.emitLater t.uid s.x.nextUid else s).launchFlight t c (.osend key abort false))

/-- OSLEAVE (R237). -/
def execOsleave (c : Ctl) (a : VReg) (s : State) : Out := .next (s.osEnd c a false)
/-- OSABORT (R237). -/
def execOsabort (c : Ctl) (a : VReg) (s : State) : Out := .next (s.osEnd c a true)

/-- OSSTAT (R238). -/
def execOsstat (c : Ctl) (clrp : Bool) (d a : VReg) (s : State) : Out :=
  .next (s.lanes c.grd [(d, 2), (a, 2)] fun s t => .ok (s.launchFlight t c (.osstat (t.pair a.toNat) clrp d.toNat)))

/-- The two words that OSSTAT reads (R238). -/
def osstatWords (e : KeyEntry) (u : Nat) : Word × Word :=
  (e.next, BitVec.ofNat 32 (e.held.toNat + 2 * e.poison.toNat + 4 * (e.holder == some u).toNat
    + 65536 * min e.waiters.length 65535))

/-- The entry that OSSTAT reads: one in the backing table is brought back, where its slice has room for it (R235). -/
def State.osstatEntry (s : State) (t : Thread) (key : DWord) : State × KeyEntry :=
  if s.y.backing.any fun b => b.is t.launch key then
    match s.bringKey t.core t.launch t.ctx key with
    | some r => (r.1.putKey r.2, r.2)
    | none => (s, (s.keyEntry t.launch key).getD (KeyEntry.fresh t.launch t.ctx key))
  else (s, (s.keyEntry t.launch key).getD (KeyEntry.fresh t.launch t.ctx key))

/-- An entry is changed where it stands: in its slice's table, or in the backing table, where it is written again. -/
def State.keepKey (s : State) (core : Nat) (e : KeyEntry) : State :=
  if s.y.backing.any fun b => b.is e.launch e.key then
    ({ s with y := { s.y with backing := s.y.backing.filter fun b => !b.is e.launch e.key } } : State).backOut core e
  else s.putKey e

/-- Completion of OSSTAT (R238). -/
def State.doneOsstat (s : State) (f : Flight) (key : DWord) (clrp : Bool) (d : Nat) : State :=
  match s.thread? f.thread with
  | none => s.finish f
  | some t =>
    let r := s.osstatEntry t key
    let w := osstatWords r.2 t.uid
    let s := r.1.updThread t.uid fun t => (t.vset d w.1).vset (d + 1) w.2
    let s := if clrp && !r.2.held && r.2.poison then s.keepKey t.core { r.2 with poison := false } else s
    s.finish f

/-- Completion of an OSENTER that has been granted (R236, R412): P[d] := POISON, and the thread goes on past it; with P63
named, a poisoned grant raises OS_POISONED. -/
def State.doneOsenter (s : State) (f : Flight) (key : DWord) (p : Nat) (granted : Bool) : State :=
  if !granted || !s.acquireDone f then s
  else
    match s.thread? f.thread with
    | none => s.finish f
    | some t =>
      let poi := ((t.secs.find? fun h => h.key == key).map HeldSec.poisoned).getD false
      let parked := t.status == .parkedSec
      let s := (s.finish f).updThread t.uid fun t =>
        let t := t.pset p poi
        if parked then t.past else t
      if p == 63 && poi then s.raiseAt t.uid f.site (Cause.at .osPoisoned key) else s

/-- Completion of OSLEAVE and OSABORT (R237): the release work of level 5, the wait past it, then the entry. -/
def State.doneOsend (s : State) (f : Flight) (key : DWord) (abort begun : Bool) : State :=
  match s.thread? f.thread with
  | none => s.finish f
  | some t =>
    if !begun then
      if !s.accessesDone f 5 then s
      else
        let r := (s.recordPre t.uid f.uid key).releaseWork t 5
        r.1.updFlight f.uid fun g => { g with op := .osend key abort true, wait := r.2 }
    else if !s.passed t f.wait then s
    else (s.endSection t.uid t.launch key abort).finish f

/-- A thread that ends while it holds sections aborts each in the order of its grants (R413). -/
def State.abortAll (s : State) (u : Nat) : State :=
  match s.thread? u with
  | none => s
  | some t =>
    if t.isReplay then s
    else
      t.secs.foldl (fun s h =>
        (if h.pre.isEmpty then s else s.emitLater u s.x.nextUid).launchFlight t ⟨63#6, false, 0#4, 0#3, false⟩
          (.osend h.key true false)) s

end Sys2Proof.Machine
end

