-- ==== Sys2Proof/Machine/Barrier.lean ====
section
/-! DEFINITION. Team, cluster and grid barriers (R32, R89, R232 to R234). -/

namespace Sys2Proof.Machine

/-- The flight of a thread held at a barrier. -/
def State.barFlight (s : State) (u : Nat) : Option Flight :=
  s.x.flights.find? fun f => f.thread == u && (match f.op with | .bar _ _ => true | _ => false)

/-- The thread is held at a barrier: the hold it carries. -/
def Thread.atBar (t : Thread) : Option Hold :=
  match t.status with
  | .held (.bar n c) => if t.trap.isNone then some (.bar n c) else none
  | .held .barc => if t.trap.isNone then some .barc else none
  | .held .barg => if t.trap.isNone then some .barg else none
  | _ => none

/-- The thread has arrived at its barrier: its fence is done (R89, R232). -/
def State.arrived (s : State) (t : Thread) : Bool :=
  t.atBar.isSome &&
    match s.barFlight t.uid with
    | some f => (match f.op with | .bar _ b => b | _ => false) && s.passed t f.wait
    | none => false

/-- Threads of a team that have not exited. -/
def State.liveOf (s : State) (team : Nat) : List Thread :=
  s.x.threads.filter fun t => t.team == some team && t.status != .exited

/-- A thread held at a barrier goes on past it. -/
def State.barPass (s : State) (t : Thread) (bundle : List Nat) : State :=
  let s := match s.barFlight t.uid with
    | some f => s.finish f
    | none => s
  s.updThread t.uid fun t => t.goOn bundle

/-- Inserts a thread by thread index. -/
def insertTix (t : Thread) (ts : List Thread) : List Thread :=
  match ts with
  | [] => [t]
  | u :: r => if t.tix < u.tix then t :: u :: r else u :: insertTix t r

/-- The W writes of threads become visible to their team, the highest thread index last (R32). -/
def State.showW (s : State) (team : Nat) (ts : List Thread) : State :=
  let ws := (ts.foldr insertTix []).flatMap fun t => t.wown
  let s := s.updTeam team fun k => { k with w := ws.foldl (fun w p => w.set p.1 p.2) k.w }
  s.mapThreads fun t => if ts.any fun u => u.uid == t.uid then { t with wown := [] } else t

/-- Orders threads by the issue of their barrier. -/
def State.barOrder (s : State) (ts : List Thread) : List Thread :=
  (s.x.flights.filterMap fun f => match f.op with
    | .bar _ _ => ts.find? fun t => t.uid == f.thread
    | _ => none)

/-- Threads of a replay's team that were not re-created: they count as having arrived (R435). -/
def State.absent (s : State) (team : Nat) : Nat :=
  let ts := s.x.threads.filter fun t => t.team == some team
  if ts.any Thread.isReplay then ((s.team? team).map fun k => k.size - ts.length).getD 0 else 0

/-- Completes the instance of team barrier `n` when it can complete (R232). -/
def State.barTry (s : State) (team n : Nat) (bundle : List Nat) : State :=
  let live := s.liveOf team
  let at_ := s.barOrder (live.filter fun t => (match t.atBar with | some (.bar m _) => m == n | _ => false) && s.arrived t)
  match at_ with
  | [] => s
  | h :: _ =>
    let c := match h.atBar with
      | some (.bar _ c) => c
      | _ => 0
    let ready := if c == 0 then at_.length == live.length else decide (c ≤ at_.length + s.absent team)
    if !ready then s
    else
      let go := if c == 0 then at_ else at_.take c
      let s := s.showW team go
      (go.foldl (fun s t => s.barPass t bundle) s).digestTeam team

/-- Teams of the cluster of a team. -/
def State.clusterTeams (s : State) (tm : Team) : List Nat :=
  (s.x.teams.filter fun k => k.launch == tm.launch && k.cluster == tm.cluster && k.shadowOf == tm.shadowOf).map Team.uid

/-- Completes the cluster barrier of a team when every thread that has not exited has arrived (R233). -/
def State.barcTry (s : State) (team : Nat) (bundle : List Nat) : State :=
  match s.team? team with
  | none => s
  | some tm =>
    let live := (s.clusterTeams tm).flatMap s.liveOf
    if !live.isEmpty && live.all fun t => t.atBar == some .barc && s.arrived t then
      live.foldl (fun s t => s.barPass t bundle) s
    else s

/-- Completes the grid barrier of a launch when every thread that has not exited has arrived (R233); the clusters that a replay
does not create count as having arrived (R435). -/
def State.bargTry (s : State) (lid : Nat) (bundle : List Nat) : State :=
  match s.launch? lid with
  | none => s
  | some l =>
    let live := ((s.x.teams.filter fun k => k.launch == lid && k.shadowOf.isNone).map Team.uid).flatMap s.liveOf
    if (l.placed == l.clusters || l.replay.isSome) && !live.isEmpty && live.all fun t => t.atBar == some .barg && s.arrived t then
      live.foldl (fun s t => s.barPass t bundle) s
    else s

/-- R234: every thread of a team that has not exited is held at team barriers, and no instance among them can complete:
the thread with the lowest index raises BARRIER_MISMATCH. -/
def State.barDead (s : State) (team : Nat) : State :=
  let live := s.liveOf team
  let bar (t : Thread) : Option (Nat × Nat) :=
    match t.atBar with
    | some (.bar n c) => some (n, c)
    | _ => none
  let can (p : Nat × Nat) : Bool :=
    let k := (live.filter fun t => (bar t).map Prod.fst == some p.1).length
    if p.2 == 0 then k == live.length else decide (p.2 ≤ k + s.absent team)
  if live.isEmpty || live.any fun t => (bar t).isNone then s
  else if (live.filterMap bar).any can then s
  else
    match (live.foldr insertTix []).head? with
    | none => s
    | some t =>
      let s := match s.barFlight t.uid with
        | some f => s.finish f
        | none => s
      s.updThread t.uid fun t => s.trapped { t with status := .boundary } (Cause.of .barrierMismatch)

/-- Every barrier that a team waits at, after an arrival, an exit or the end of a wait. -/
def State.barCheck (s : State) (team : Nat) (bundle : List Nat) : State :=
  let ns := ((s.liveOf team).filterMap fun t => match t.atBar with
    | some (.bar n _) => some n
    | _ => none).eraseDups
  let s := ns.foldl (fun s n => s.barTry team n bundle) s
  let s := s.barcTry team bundle
  let s := match s.team? team with
    | some tm => s.bargTry tm.launch bundle
    | none => s
  s.barDead team

/-- The fence of an arrival (R89): BAR as FENCE.AR.S1, BARC as S2, BARG as S5. -/
def Hold.level : Hold → Nat
  | .barc => 2
  | .barg => 5
  | _ => 1

/-- The fence of an arrival begins: earlier accesses are done, and the release work of its level is performed; at a team
barrier of a deterministic launch the arrival flushes its team's couched entries (R232). -/
def State.barBegin (s : State) (f : Flight) : State :=
  match f.op, s.thread? f.thread with
  | .bar h false, some t =>
    let flush := s.det t && (match h with | .bar _ _ => true | _ => false)
    if !s.accessesDone f h.level || (flush && !s.shadowsTested f) then s
    else
      let s := match s.teamOf t with
        | some tm => if flush then s.flushTeam tm else s
        | none => s
      let r := s.releaseWork t h.level
      r.1.updFlight f.uid fun g => { g with op := .bar h true, wait := r.2 }
  | _, _ => s

/-- A barrier's flight goes on: its fence, then its instance (R232, R233). -/
def State.doneBar (s : State) (f : Flight) : State :=
  let s := s.barBegin f
  match (s.thread? f.thread).bind Thread.team with
  | some tm => (s.barCheck tm []).settle
  | none => s.finish f

/-- A thread arrives at a barrier and is held (R232, R233). -/
def State.barArrive (s : State) (t : Thread) (c : Ctl) (h : Hold) (bundle : List Nat) (team : Team) : State :=
  let fl := s.x.nextUid
  let s := s.launchFlight t c (.bar h false)
  let s := s.updThread t.uid fun t => { t with status := .held h }
  let s := match s.flight? fl with
    | some f => s.barBegin f
    | none => s
  match h with
  | .bar n _ => s.barTry team.uid n bundle
  | _ => s

/-- The word's barriers once every lane has arrived. -/
def State.barWord (s : State) (bundle : List Nat) : State :=
  let tms := ((s.x.threads.filter fun t => bundle.contains t.uid).filterMap Thread.team).eraseDups
  (tms.foldl (fun s tm => s.barCheck tm bundle) s).settle

/-- BAR (R232). -/
def execBar (c : Ctl) (n : BitVec 4) (b : SrcB) (s : State) : Out :=
  let bundle := s.members
  .next ((s.lanes c.grd (bRuns b 1) fun s t => do
    let w ← s.srcI t b
    match s.teamOf t with
    | none => illop
    | some tm =>
      if tm.size < w.toNat then illop
      else if (s.liveOf tm.uid).any fun u => match u.atBar with
          | some (.bar m k) => m == n.toNat && k != w.toNat
          | _ => false then .error (Cause.of .barrierMismatch)
      else
        .ok (s.barArrive t c (.bar n.toNat w.toNat) bundle tm)).barWord bundle)

/-- BARC (R233). -/
def execBarc (c : Ctl) (s : State) : Out :=
  let bundle := s.members
  .next ((s.lanes c.grd [] fun s t =>
    match s.teamOf t with
    | none => illop
    | some tm => .ok (s.barArrive t c .barc bundle tm)).barWord bundle)

/-- BARG (R233): legal only in a cooperative launch. -/
def execBarg (c : Ctl) (s : State) : Out :=
  let bundle := s.members
  .next ((s.lanes c.grd [] fun s t =>
    match s.teamOf t with
    | none => illop
    | some tm =>
      if ((s.launch? t.launch).map fun l => lrCoop l.record).getD false then
        .ok (s.barArrive t c .barg bundle tm)
      else illop).barWord bundle)

end Sys2Proof.Machine
end

