-- ==== Sys2Proof/Machine/Ctrl.lean ====
section
/-! DEFINITION. Branches, YIELD, SLEEPN and register blocks (R43, R44, R146, R189 to R193, R195). -/

namespace Sys2Proof.Machine

/-- The thread leaves its clause for a boundary. -/
def Thread.jump (t : Thread) (target : DWord) : Thread :=
  { t with pc := target, hdr := target, mid := false, status := .boundary }

/-- Target of a branch in I32 form (R146). -/
def branchTarget (t : Thread) (imm : Word) : DWord := t.pc + (imm.signExtend 64 <<< 3)

/-- A computed branch: a misaligned target raises BAD_CLAUSE and the thread does not move (R146). -/
def Thread.jumpTo (t : Thread) (target : DWord) : Res Thread :=
  if targetOk target then .ok (t.jump target) else .error (Cause.of .badClause)

/-- BRA (R189). -/
def execBra (g : Grd) (imm : Word) (s : State) : Out := .next (s.alu g [] fun t => .ok (t.jump (branchTarget t imm)))

/-- BRP (R189). -/
def execBrp (g : Grd) (p : PReg) (imm : Word) (s : State) : Out :=
  .next (s.alu g [] fun t => .ok (if t.pget p.toNat then t.jump (branchTarget t imm) else t))

/-- CALL (R189): the return address is that of the next word. -/
def execCall (g : Grd) (d : VReg) (imm : Word) (s : State) : Out :=
  .next (s.alu g [(d, 2)] fun t => .ok ((t.setPair d.toNat (t.pc + 8#64)).jump (branchTarget t imm)))

/-- BRX (R190). -/
def execBrx (c : Ctl) (b : VReg) (s : State) : Out :=
  .next (s.alu c.grd [(b, 2)] fun t => t.jumpTo (t.pair b.toNat))

/-- CALLI (R190): the target is read before the return address is written. -/
def execCalli (c : Ctl) (d b : VReg) (s : State) : Out :=
  .next (s.alu c.grd [(d, 2), (b, 2)] fun t => (t.setPair d.toNat (t.pc + 8#64)).jumpTo (t.pair b.toNat))

/-- RET (R190). -/
def execRet (c : Ctl) (b : VReg) (s : State) : Out :=
  .next (s.alu c.grd [(b, 2)] fun t => t.jumpTo (t.pair b.toNat))

/-- YIELD (R192): the thread falls through, and its group does not lead next if another has a candidate. -/
def execYield (c : Ctl) (s : State) : Out :=
  .next (s.lanes c.grd [] fun s t => .ok (s.updGroup t.group fun g => { g with yielded := true }))

/-- SLEEPN (R193): with QE, the counter stays raised until the deadline; without, no effect. -/
def execSleepn (c : Ctl) (b : SrcB) (s : State) : Out :=
  .next (s.lanes c.grd (bRuns b 1) fun s t => do
    let y ← s.srcI t b
    .ok (if c.qe then s.launchFlight t c (.sleep (s.timeOf t + min y.toNat (2 ^ 24))) else s))

/-- SLEEPN_DEADLINE (R193): device time reaches the moment, and the counter falls. -/
def execSleepnDeadline (flight : Nat) (s : State) : Out :=
  .next (match s.flight? flight with
    | some f =>
      match f.op, s.thread? f.thread with
      | .sleep dl, some t => if dl ≤ s.timeOf t then s.finish f else s
      | _, _ => s
    | none => s)

/-- The team of a thread is in its save area (R50). -/
def State.swappedOut (s : State) (t : Thread) : Bool :=
  match s.teamOf t with
  | some tm => tm.swapped.isSome
  | none => false

/-- Free register blocks of a lane (R43, R44): 128 less those of the threads placed there. -/
def State.laneFree (s : State) (core slice lane : Nat) : Nat :=
  128 - ((s.x.threads.filter fun t => t.core == core && t.slice == slice && t.lane == lane && t.status != .exited
    && !s.swappedOut t).map Thread.blocks).sum

/-- RBACQ (R44, R195). -/
def execRbacq (c : Ctl) (d : PReg) (b : SrcB) (s : State) : Out :=
  .next (s.alu c.grd (bRuns b 1) fun t => do
    let y ← s.srcI t b
    let n := y.toNat
    if n == 0 then .ok (t.pset d.toNat true)
    else if 16 < t.blocks + n then illop
    else if n ≤ s.laneFree t.core t.slice t.lane then
      .ok ({ t with v := t.v ++ List.replicate (16 * n) 0#32 }.pset d.toNat true)
    else .ok (t.pset d.toNat false))

/-- A thread of the bundle still has an instruction in flight that RBREL waits for (R195). -/
def State.rbWaits (s : State) (g : Grd) : Bool :=
  s.x.threads.any fun t => s.member t && t.guard g && s.busyThread t.uid

/-- RBREL (R44, R195): it waits while a thread of the bundle has an instruction in flight. -/
def execRbrel (c : Ctl) (b : SrcB) (s : State) : Out :=
  if s.rbWaits c.grd then .next s
  else
    .next (s.alu c.grd (bRuns b 1) fun t => do
      let y ← s.srcI t b
      let n := y.toNat
      if n == 0 then .ok t
      else if t.blocks ≤ n then illop
      else .ok { t with v := t.v.take (t.v.length - 16 * n) })

/-- RBQRY (R195). -/
def execRbqry (c : Ctl) (d : VReg) (s : State) : Out :=
  .next (s.alu c.grd [(d, 1)] fun t =>
    .ok (t.vset d.toNat (BitVec.ofNat 32 (s.laneFree t.core t.slice t.lane % 256 + 256 * t.blocks))))

end Sys2Proof.Machine
end

