-- ==== Sys2Proof/Machine/Conv.lean ====
section
/-! DEFINITION. Conversion and quantisation (R177 to R180), and the format slots they read (R120 to R122). -/

namespace Sys2Proof.Machine

/-- ELEM of a slot record (R120). -/
def slotElem (r : BitVec 256) : Option Fmt := Fmt.ofCode (r.extractLsb' 252 4)
/-- BLK of a slot record, in positions. -/
def slotBlk (r : BitVec 256) : Nat := 16 * 2 ^ (r.extractLsb' 250 2).toNat
/-- SFMT of a slot record: E4M3 scales. -/
def slotE4m3 (r : BitVec 256) : Bool := r.getLsbD 249
/-- OVF of a slot record. -/
def slotOvf (r : BitVec 256) : Nat := (r.extractLsb' 247 2).toNat
/-- PERM of a slot record. -/
def slotPerm (r : BitVec 256) : Bool := r.getLsbD 246
/-- PLEN of a slot record. -/
def slotPlen (r : BitVec 256) : Nat := (r.extractLsb' 240 6).toNat

/-- A format slot of a thread's launch. -/
def State.slot? (s : State) (t : Thread) (f : Nat) : Option Slot := (s.launch? t.launch).bind fun l => l.slots[f]?

/-- A slot that is valid, else FORMAT_SLOT (R121). -/
def State.slotOk (s : State) (t : Thread) (f : Nat) : Res Slot :=
  match s.slot? t f with
  | some k => if k.valid then .ok k else .error (Cause.of .formatSlot)
  | none => .error (Cause.of .formatSlot)

/-- The overflow policy of a conversion word (R177), after the checks of R122 and R149. -/
def State.cvOvf (s : State) (t : Thread) (c : CvCtl) (f : Fmt) : Res Nat :=
  if f == .e8m0 then .error (Cause.of .formatSlot)
  else if c.useslot then do
    let k ← s.slotOk t c.slot.toNat
    if slotElem k.record == some .e8m0 then .error (Cause.of .formatSlot) else .ok (slotOvf k.record)
  else .ok c.ovf.toNat

/-- Element `i` of a packed register (R112). -/
def elemOf (f : Fmt) (w : Word) (i : Nat) : Nat := w.toNat / 2 ^ (f.bits * i) % 2 ^ f.bits
/-- Packs elements, element 0 lowest (R112). -/
def packElems (f : Fmt) (es : List Nat) : Word :=
  BitVec.ofNat 32 ((es.zipIdx).foldl (fun n e => n + e.1 * 2 ^ (f.bits * e.2)) 0)

/-- All elements, or CONVERT_TRAP when one traps (R177). -/
def allElems (es : List (Option Nat)) : Res (List Nat) :=
  if es.any Option.isNone then .error (Cause.of .convertTrap) else .ok (es.map fun e => e.getD 0)

/-- CVT (R178). -/
def execCvt (c : CvCtl) (d a : VReg) (sf df : Fmt) (s : State) : Out :=
  .next (s.alu c.grd [(d, 1), (a, 1)] fun t => do
    let ovf ← s.cvOvf t c (if sf == .e8m0 then sf else df)
    let es ← allElems [roundNum df c.rm ovf (decodeNum sf (elemOf sf (t.vget a.toNat) 0))]
    let e := es.headD 0
    .ok (t.vset d.toNat (match df with
      | .i8 => (BitVec.ofNat 8 e).signExtend 32
      | .i4 => (BitVec.ofNat 4 e).signExtend 32
      | _ => BitVec.ofNat 32 e)))

/-- CVTPK (R179). -/
def execCvtpk (c : CvCtl) (d a : VReg) (df : Fmt) (s : State) : Out :=
  .next (s.alu c.grd [(d, 1), (a, df.pack)] fun t => do
    let ovf ← s.cvOvf t c df
    let es ← allElems ((t.run a.toNat df.pack).map fun w => roundNum df c.rm ovf (fp32 w))
    .ok (t.vset d.toNat (packElems df es)))

/-- CVTUP (R179). -/
def execCvtup (c : CvCtl) (d a : VReg) (sf : Fmt) (s : State) : Out :=
  .next (s.alu c.grd [(d, sf.pack), (a, 1)] fun t => do
    let _ ← s.cvOvf t c sf
    let w := t.vget a.toNat
    .ok (t.setRun d.toNat ((List.range sf.pack).map fun i => toFp32 (decodeNum sf (elemOf sf w i)))))

/-- The scale in the register of SS (R180). -/
def scaleReg (w : Word) : Num := decodeScale (w.getLsbD 8) (w.toNat % 256)

/-- Quotient of SCALEQ (R180): a NaN scale gives NaN, a zero scale +0. -/
def quotBy (x sc : Num) : Num := if sc.isNan then .nan else if sc.isZero then .zero else x.div sc

/-- SCALEQ (R180). -/
def execScaleq (c : CvCtl) (d a : VReg) (df : Fmt) (ss : VReg) (s : State) : Out :=
  .next (s.alu c.grd [(d, 1), (a, df.pack), (ss, 1)] fun t => do
    let ovf ← s.cvOvf t c df
    let sc := scaleReg (t.vget ss.toNat)
    let es ← allElems ((t.run a.toNat df.pack).map fun w => roundNum df c.rm ovf (quotBy (fp32 w) sc))
    .ok (t.vset d.toNat (packElems df es)))

/-- DESCALE (R180). -/
def execDescale (c : CvCtl) (d a : VReg) (sf : Fmt) (ss : VReg) (s : State) : Out :=
  .next (s.alu c.grd [(d, sf.pack), (a, 1), (ss, 1)] fun t => do
    let ovf ← s.cvOvf t c sf
    let sc := scaleReg (t.vget ss.toNat)
    let w := t.vget a.toNat
    let es ← allElems ((List.range sf.pack).map fun i =>
      roundNum .fp32 c.rm ovf (scaled (decodeNum sf (elemOf sf w i)) sc))
    .ok (t.setRun d.toNat (es.map fun e => BitVec.ofNat 32 e)))

end Sys2Proof.Machine
end

