-- ==== Sys2Proof/Machine/Matrix.lean ====
section
/-! DEFINITION. Convergence registers and the issue of matrix instructions (R47, R196 to R198, R245 to R258, R401). -/

namespace Sys2Proof.Machine

/-! Convergence registers (R47) -/

/-- A convergence register at team start. -/
def ConvReg.zero : ConvReg := ⟨0#32, 0#32, [], 0#8⟩
/-- A convergence register of a team. -/
def Team.kget (t : Team) (k : Nat) : ConvReg := t.k.getD k ConvReg.zero
/-- Changes a convergence register of a team. -/
def State.updK (s : State) (team k : Nat) (f : ConvReg → ConvReg) : State :=
  s.updTeam team fun t => { t with k := t.k.modify k f }

/-- The declared set, by rank: group ordinal and lane (R47, R247). -/
def ConvReg.members (r : ConvReg) : List (Nat × Nat) :=
  ((List.range 32).filter fun g => r.gmask.getLsbD g).flatMap fun g =>
    ((List.range 32).filter fun l => r.mmask.getLsbD l).map fun l => (g, l)

/-- A thread's place in its team: group ordinal and lane. -/
def Thread.place (t : Thread) : Nat × Nat := (t.tix / 32, t.lane)
/-- The thread is in the declared set. -/
def ConvReg.has (r : ConvReg) (t : Thread) : Bool := r.gmask.getLsbD (t.tix / 32) && r.mmask.getLsbD t.lane
/-- The thread has signed in the current generation. -/
def ConvReg.signedBy (r : ConvReg) (u : Nat) : Bool := r.signed.any fun p => p.1 == u

/-- The thread of a team in a place. -/
def State.memberThread (s : State) (team : Nat) (p : Nat × Nat) : Option Thread :=
  s.x.threads.find? fun t => t.team == some team && t.place == p

/-- The set that must sign: of a replay's team, the members that were re-created (R435). -/
def State.kSet (s : State) (tm : Team) (r : ConvReg) : List (Nat × Nat) :=
  if s.x.threads.any fun t => t.team == some tm.uid && t.isReplay then
    r.members.filter fun p => (s.memberThread tm.uid p).isSome
  else r.members

/-- Closes a generation: it rises by 1 modulo 256, and the count and the signed set clear (R47, R197, R401). -/
def ConvReg.close (r : ConvReg) : ConvReg := { r with gen := r.gen + 1#8, signed := [] }

/-- A register of a team closes its generation, and a thread held by WAITK has seen it change (R47, R198). -/
def State.closeK (s : State) (team k : Nat) : State :=
  let waits (f : Flight) : Bool :=
    ((s.thread? f.thread).bind Thread.team) == some team && match f.op with
      | .waitk j _ _ => j == k
      | _ => false
  let move (op : FlightOp) : FlightOp :=
    match op with
    | .waitk j g _ => .waitk j g true
    | op => op
  let s : State := { s with x := { s.x with
    flights := s.x.flights.map fun f => if waits f then { f with op := move f.op } else f } }
  s.updK team k ConvReg.close

/-- Signers held at a matrix instruction that names K[k]. -/
def State.heldSigners (s : State) (team k : Nat) : List Thread :=
  s.x.threads.filter fun t => t.team == some team && t.trap.isNone &&
    match t.status with
    | .held (.matrix j _) => j == k
    | _ => false

/-- The flight of a signer that waits for its set. -/
def State.signFlight (s : State) (u : Nat) : Option Flight :=
  s.x.flights.find? fun f => f.thread == u && f.op == .matrix 0

/-- The signers held at a matrix instruction raise a code, and the register closes its generation (R401). -/
def State.kFail (s : State) (team k : Nat) (c : Cause) : State :=
  let hs := s.heldSigners team k
  let s := hs.foldl (fun s t =>
    let s := match s.signFlight t.uid with
      | some f => s.finish f
      | none => s
    s.updThread t.uid fun t => s.trapped { t with status := .boundary } c) s
  (s.closeK team k).settle

/-- Signers held against a set with a member that has exited before signing, or is absent, raise MISSING_MEMBER (R47,
R196, R258). -/
def State.kMissing (s : State) (team k : Nat) : State :=
  match s.team? team with
  | none => s
  | some tm =>
    let r := tm.kget k
    if (s.heldSigners team k).isEmpty then s
    else
      let gone (p : Nat × Nat) : Bool :=
        match s.memberThread team p with
        | none => true
        | some t => t.status == .exited && !r.signedBy t.uid
      if (s.kSet tm r).any gone then s.kFail team k (Cause.of .missingMember) else s

/-! Slots and operands of a pass (R245, R248, R249) -/

/-- The element format is one that matrix instructions take (R122). -/
def matrixElem (f : Fmt) : Bool := [Fmt.e4m3, .e5m2, .e2m1, .i8, .i4, .fp16, .bf16].contains f

/-- The slot of a matrix instruction: valid, with an admitted ELEM (R122, R245). -/
def State.matSlot (s : State) (t : Thread) (f : Nat) : Res (Slot × Fmt) :=
  match s.slotOk t f with
  | .error c => .error c
  | .ok k =>
    match slotElem k.record with
    | some e => if matrixElem e then .ok (k, e) else .error (Cause.of .formatSlot)
    | none => .error (Cause.of .formatSlot)

/-- K positions of one pass (R245). -/
def passK (e : Fmt) : Nat := 512 / e.bits

/-- Position of a stored channel (R249). -/
def Slot.pos (k : Slot) (c : Nat) : Nat :=
  if slotPerm k.record then
    let l := 128 * slotPlen k.record
    c - c % l + k.ptab.findIdx fun p => p.toNat == c % l
  else c

/-- Size minus one at a field of a tensor shape record, plus one (R250). -/
def tsDim (d : BitVec 256) (lo n : Nat) : Nat := (d.extractLsb' lo n).toNat + 1
/-- KIND of a descriptor (R79). -/
def descKind (d : BitVec 256) : Nat := (d.extractLsb' 240 4).toNat
/-- ESIZE of a descriptor. -/
def descEsize (d : BitVec 256) : Nat := (d.extractLsb' 236 4).toNat
/-- FLAGS bit 0: RO. -/
def descRo (d : BitVec 256) : Bool := d.getLsbD 232
/-- FLAGS bit 1: ROBUST. -/
def descRobust (d : BitVec 256) : Bool := d.getLsbD 233
/-- TENSOR of a descriptor. -/
def descTensor (d : BitVec 256) : BitVec 12 := d.extractLsb' 244 12
/-- BASE of a descriptor. -/
def descBase (d : BitVec 256) : DWord := d.extractLsb' 0 64
/-- EXTENT of a buffer descriptor. -/
def descExtent (d : BitVec 256) : Nat := (d.extractLsb' 128 48).toNat
/-- Elements of a tensor. -/
def tsCount (d : BitVec 256) : Nat := tsDim d 216 16 * tsDim d 200 16 * tsDim d 184 16 * tsDim d 168 16
/-- Byte offset of an element from BASE (R250). -/
def tsOffset (d : BitVec 256) (c x y b : Nat) : Nat :=
  (((b * tsDim d 184 16 + y) * tsDim d 200 16 + x) * tsDim d 216 16 + c) * 2 ^ descEsize d

/-- The word of a matrix instruction, as its fields: slot, REUSE, tile, A, B, K and whether it is MMAC. -/
structure MatIns where
  f     : Nat
  reuse : Bool
  tile  : Nat
  a     : Nat
  b     : Nat
  k     : Nat
  conv  : Bool
deriving DecidableEq, Repr

/-- The fields of an MMA or MMAC. -/
def matIns? (i : Instr) : Option MatIns :=
  match i with
  | .mma _ f reuse x a b k => some ⟨f.toNat, reuse, x.toNat, a.toNat, b.toNat, k.toNat, false⟩
  | .mmac _ f reuse x a b k => some ⟨f.toNat, reuse, x.toNat, a.toNat, b.toNat, k.toNat, true⟩
  | _ => none

/-- What the checks of a completed set leave for its pass (R248, R252, R258). -/
structure MatOps where
  words : List Word
  desc  : BitVec 256
  off   : Nat
  len   : Nat
deriving DecidableEq, Repr

/-- The checks that every signer meets when its set completes (R248, R249, R252, R258): the slot, then the operand
values, then alignment, then range (R390). -/
def State.matCheck (s : State) (tm : Team) (r0 : Thread) (m : MatIns) : Res MatOps := do
  let (slot, e) ← s.matSlot r0 m.f
  let ws := r0.run m.b (if m.conv then 8 else 4)
  let w (i : Nat) : Word := ws.getD i 0#32
  let k0 := (w 1).toNat
  let nb := (w 2).toNat / 2 ^ 20 + 1
  let k := passK e
  if k0 % k != 0 || (w 3).toNat / 2 ^ 20 != 0 then illop
  else if (List.range k).any fun i => decide (nb ≤ slot.pos (k0 + i) / slotBlk slot.record) then illop
  else if !m.conv then
    let off := (w 0).toNat
    if off % 256 != 0 then .error (Cause.at .align ((w 0).zeroExtend 64))
    else if tm.ssize < off + 4096 then .error (Cause.at .scratchRange ((w 0).zeroExtend 64))
    else .ok ⟨ws, 0#256, off, 4096⟩
  else
    let d := tm.d.getD ((w 0).toNat % 32) 0#256
    if (w 0).toNat / 32 != 0 || w 7 != 0#32 || descKind d != 2 || (descBase d).extractLsb' 32 32 != 0#32
        || descEsize d != (if e.bits == 16 then 1 else 0) then illop
    else
      let off := ((descBase d).extractLsb' 0 32).toNat
      let len := tsCount d * 2 ^ descEsize d
      if off % 2 ^ descEsize d != 0 then .error (Cause.at .align (BitVec.ofNat 64 off))
      else if tm.ssize < off + len then .error (Cause.at .scratchRange (BitVec.ofNat 64 off))
      else .ok ⟨ws, d, off, len⟩

/-- Rows that a signer supplies from its registers (R247); zero bytes for a member that signed with SIGN. -/
def rowBytes (t : Thread) (a rows : Nat) : List Byte :=
  (t.run a (16 * rows)).flatMap fun w => natBytes 4 w.toNat

/-- Entries of an engine's reservation table. -/
def State.passesOf (s : State) (e : Nat) : List Pass := s.e.passes.filter fun p => p.engine == e

/-- The A operand and the latch after the issue (R253). -/
def State.latchA (s : State) (tm : Team) (m : MatIns) (regs : List Byte) : List Byte × State :=
  let put (o : Option (Nat × Nat × List Byte)) : State :=
    { s with e := { s.e with latches := sset s.e.latches tm.core o } }
  match sget s.e.latches tm.core with
  | some (o, k, rows) =>
    if o == tm.uid && k == m.k then (rows, if m.reuse then s else put none) else (regs, s)
  | none => (regs, if m.reuse then put (some (tm.uid, m.k, regs)) else s)

/-- A completed set issues once (R47, R247, R254): the pass enters its engine's table, the generation rises, and the
signers go on past the instruction. -/
def State.matIssue (s : State) (tm : Team) (m : MatIns) (r : ConvReg) (bundle : List Nat) : State :=
  let k := m.k
  let places := r.members
  let ths := places.map fun p => s.memberThread tm.uid p
  match ths.head?.join with
  | none => s
  | some r0 =>
    match s.matCheck tm r0 m with
    | .error c => s.kFail tm.uid k c
    | .ok o =>
      let n := 64 / places.length
      let hs := s.heldSigners tm.uid k
      let held (t : Thread) : Bool := hs.any fun h => h.uid == t.uid
      let regs := ths.flatMap fun t => match t with
        | some t => if held t then rowBytes t m.a n else List.replicate (64 * n) 0#8
        | none => List.replicate (64 * n) 0#8
      let (rows, s) := s.latchA tm m regs
      let u := s.x.nextUid
      let prio := ((s.launch? tm.launch).map fun l => l.queue / 4).getD 0
      let p : Pass := { uid := u, engine := coreEngine tm.core, team := tm.uid, core := tm.core, rank0 := r0.uid,
                        signers := hs.map Thread.uid, slot := m.f, tile := m.tile, rows := rows, b := o.words,
                        desc := o.desc, conv := m.conv, lines := spadLines o.off o.len, prio := prio, stamp := u,
                        since := s.x.clk, site := r0.site, stalled := none, failed := none }
      let s := { s with x := { s.x with nextUid := u + 1 }, e := { s.e with passes := s.e.passes ++ [p] } }
      let s := hs.foldl (fun s t =>
        let s := match s.signFlight t.uid with
          | some f => s.updFlight f.uid fun g => { g with op := .matrix u }
          | none => s
        s.updThread t.uid fun t => t.goOn bundle) s
      s.closeK tm.uid k

/-- A convergence register whose count has reached its set: the instruction at which signers are held issues, if its
engine's table has room; a set signed with SIGN alone closes its generation (R47, R197, R254). -/
def State.kTry (s : State) (team k : Nat) (bundle : List Nat) : State :=
  match s.team? team with
  | none => s
  | some tm =>
    let r := tm.kget k
    if r.signed.isEmpty || r.signed.length != (s.kSet tm r).length then s.kMissing team k
    else
      match s.heldSigners team k with
      | [] => s.closeK team k
      | h :: _ =>
        match h.status with
        | .held (.matrix _ ins) =>
          match matIns? ins with
          | some m =>
            if 64 ≤ (s.passesOf (coreEngine tm.core)).length || tm.swapped.isSome then s else s.matIssue tm m r bundle
          | none => s
        | _ => s

/-- A pass leaves its engine's table (R254): its signers' counters fall, the lines it held are free, and a complete set
that waits for room may issue. -/
def State.endPass (s : State) (p : Pass) : State :=
  let s := { s with e := { s.e with passes := s.e.passes.filter fun q => q.uid != p.uid } }
  let s := (s.x.flights.filter fun f => f.op == .matrix p.uid).foldl (fun s f => s.finish f) s
  let free (l : Nat) : Bool :=
    !s.passHolds p.team l && ((s.team? p.team).map fun tm => (sget tm.pend l).isNone).getD true
  let s := (p.lines.filter free).foldl (fun s l => s.unpark (.line p.team l)) s
  let tms := (s.x.teams.filter fun tm => coreEngine tm.core == p.engine).map Team.uid
  (tms.foldl (fun s tm => (List.range 16).foldl (fun s k =>
    if (s.heldSigners tm k).isEmpty then s else s.kTry tm k []) s) s).settle

/-- MMA and MMAC: each thread of the bundle signs and is held (R47, R197, R247). -/
def State.matSign (s : State) (c : Ctl) (ins : Instr) (m : MatIns) : State :=
  let bundle := s.members
  let sign (s : State) (t : Thread) : Res State :=
    match s.teamOf t with
    | none => illop
    | some tm =>
      let r := tm.kget m.k
      let n := r.members.length
      if n != 16 && n != 32 && n != 64 then illop
      else if t.v.length < m.a + 16 * (64 / n) then .error (Cause.of .registerBlock)
      else if tm.tiles.length ≤ m.tile || !r.has t || r.signedBy t.uid
          || (s.heldSigners tm.uid m.k).any fun h => h.pc != t.pc then illop
      else
        let s := s.launchFlight t c (.matrix 0)
        let s := s.updK tm.uid m.k fun r => { r with signed := r.signed ++ [(t.uid, false)] }
        .ok (s.updThread t.uid fun t => { t with status := .held (.matrix m.k ins) })
  let s := s.lanes ⟨63#6, false⟩ [(BitVec.ofNat 8 m.a, 16), (BitVec.ofNat 8 m.b, if m.conv then 8 else 4)] sign
  let tms := ((s.x.threads.filter fun t => bundle.contains t.uid).filterMap Thread.team).eraseDups
  tms.foldl (fun s tm => s.kTry tm m.k bundle) s

/-- MMA (R247). -/
def execMma (c : Ctl) (f : BitVec 3) (reuse : Bool) (x : CReg) (a b : VReg) (k : KReg) (s : State) : Out :=
  .next (s.matSign c (.mma c f reuse x a b k) ⟨f.toNat, reuse, x.toNat, a.toNat, b.toNat, k.toNat, false⟩)

/-- MMAC (R247, R252). -/
def execMmac (c : Ctl) (f : BitVec 3) (reuse : Bool) (x : CReg) (a b : VReg) (k : KReg) (s : State) : Out :=
  .next (s.matSign c (.mmac c f reuse x a b k) ⟨f.toNat, reuse, x.toNat, a.toNat, b.toNat, k.toNat, true⟩)

/-! KDECL, SIGN and WAITK (R196 to R198) -/

/-- KDECL (R196): an empty set raises ILLEGAL_OPERAND; the count is tested when it completes. -/
def execKdecl (c : Ctl) (k : KReg) (a : VReg) (b : SrcB) (s : State) : Out :=
  .next (s.lanes c.grd ((a, 1) :: bRuns b 1) fun s t => do
    let mm ← s.srcI t b
    let gm := t.vget a.toNat
    if t.team.isNone || gm == 0#32 || mm == 0#32 then illop
    else .ok (s.launchFlight t c (.kdecl k.toNat gm mm)))

/-- Completion of KDECL (R196), in issue order at its register. -/
def State.doneKdecl (s : State) (f : Flight) (k : Nat) (gm mm : Word) : State :=
  match s.thread? f.thread with
  | none => s.finish f
  | some t =>
    match s.teamOf t with
    | none => s.finish f
    | some tm =>
      let before := s.x.flights.any fun g => decide (g.uid < f.uid) &&
        (((s.thread? g.thread).bind Thread.team) == some tm.uid) &&
        match g.op with
        | .kdecl j _ _ => j == k
        | _ => false
      if before then s
      else if !(tm.kget k).signed.isEmpty then (s.finish f).raiseAt t.uid f.site (Cause.of .illegalOperand)
      else (s.updK tm.uid k fun r => { r with gmask := gm, mmask := mm, signed := [] }).finish f

/-- SIGN (R197). -/
def execSign (c : Ctl) (d : VReg) (k : KReg) (s : State) : Out :=
  .next (s.lanes c.grd [(d, 1)] fun s t =>
    if t.team.isNone then illop else .ok (s.launchFlight t c (.sign k.toNat d.toNat)))

/-- Completion of SIGN (R197): the ordering of FENCE.REL.S1, then the signature. -/
def State.doneSign (s : State) (f : Flight) (k d : Nat) : State :=
  if !s.accessesDone f 1 then s
  else
    match s.thread? f.thread with
    | none => s.finish f
    | some t =>
      match s.teamOf t with
      | none => s.finish f
      | some tm =>
        let r := tm.kget k
        if !r.has t || r.signedBy t.uid then (s.finish f).raiseAt t.uid f.site (Cause.of .illegalOperand)
        else
          let s := if (s.kSet tm r).length == r.members.length then s else s.note t 0#8 0x40#8
          let s := (s.finish f).updThread t.uid fun t => t.vset d (r.gen.zeroExtend 32)
          let s := s.updK tm.uid k fun r => { r with signed := r.signed ++ [(t.uid, true)] }
          s.kTry tm.uid k []

/-- WAITK (R198): the thread is held until the generation differs from its operand; where it does at issue, the word completes
at once. The rule states the acquire after a Hold alone: one that completes at once performs none. DESIGN CHOICE (log 76). -/
def execWaitk (c : Ctl) (k : KReg) (b : SrcB) (s : State) : Out :=
  .next (s.lanes c.grd (bRuns b 1) fun s t => do
    let w ← s.srcI t b
    match s.teamOf t with
    | none => illop
    | some tm =>
      let g : BitVec 8 := w.setWidth 8
      .ok (if (tm.kget k.toNat).gen != g then s
           else (s.launchFlight t c (.waitk k.toNat g false)).updThread t.uid fun t =>
             { t with status := .held (.waitk k.toNat g) }))

/-- Completion of WAITK (R198): the generation has moved on since, and FENCE.ACQ.S1 is done. -/
def State.doneWaitk (s : State) (f : Flight) (k : Nat) (g : BitVec 8) (moved : Bool) : State :=
  match s.thread? f.thread with
  | none => s.finish f
  | some t =>
    match s.teamOf t with
    | none => s.finish f
    | some tm =>
      if (!moved && (tm.kget k).gen == g) || !s.acquireDone f then s
      else (s.finish f).updThread t.uid fun t => if t.status == .held (.waitk k g) then t.past else t

/-! Accumulator tiles (R245, R254 to R257) -/

/-- Tile that a flight acts on (R254). -/
def FlightOp.tile? : FlightOp → Option Nat
  | .accz c => some c
  | .accld c _ _ _ => some c
  | .accst c _ _ _ _ => some c
  | .accrd c _ _ _ => some c
  | .accwr c _ _ _ => some c
  | _ => none

/-- Nothing issued before `uid` still has to act on a tile of a team (R254). -/
def State.tileFree (s : State) (team tile uid : Nat) : Bool :=
  (s.x.flights.all fun g => !(decide (g.uid < uid) && g.op.tile? == some tile &&
    ((s.thread? g.thread).bind Thread.team) == some team)) &&
  s.e.passes.all fun p => !(decide (p.uid < uid) && p.team == team && p.tile == tile)

/-- A tile's element (R245): unlisted elements are +0. -/
def Team.tileElem (t : Team) (c i : Nat) : Word := (sget (t.tiles.getD c []) i).getD 0#32
/-- Replaces a tile. -/
def State.setTile (s : State) (team c : Nat) (f : Sparse Word → Sparse Word) : State :=
  s.updTeam team fun t => { t with tiles := t.tiles.modify c f }
/-- A tile from its 4096 elements. -/
def tileOf (ws : List Word) : Sparse Word := ws.zipIdx.filterMap fun w => if w.1 == 0#32 then none else some (w.2, w.1)
/-- The tile is poisoned or not (R444). -/
def State.tilePoison (s : State) (team c : Nat) (p : Bool) : State :=
  s.updTeam team fun t => { t with tpoison := if p then c :: t.tpoison.filter (· != c) else t.tpoison.filter (· != c) }

/-- Team of a matrix instruction that names a tile of it (R241, R245). -/
def State.tileTeam (s : State) (t : Thread) (c : Nat) : Res Team :=
  match s.teamOf t with
  | none => illop
  | some tm => if c < tm.tiles.length then .ok tm else illop

/-- ACCZ (R255). -/
def execAccz (c : Ctl) (x : CReg) (s : State) : Out :=
  .next (s.lanes c.grd [] fun s t => do
    let _ ← s.tileTeam t x.toNat
    .ok (s.launchFlight t c (.accz x.toNat)))

/-- Selector of ACCRD and ACCWR: row and quarter (R255). -/
def accSel (w : Word) : Res (Nat × Nat) := if w.toNat / 256 != 0 then illop else .ok (w.toNat % 64, w.toNat / 64 % 4)

/-- ACCRD (R255). -/
def execAccrd (c : Ctl) (d : VReg) (x : CReg) (b : SrcB) (s : State) : Out :=
  .next (s.lanes c.grd ((d, 16) :: bRuns b 1) fun s t => do
    let w ← s.srcI t b
    let _ ← s.tileTeam t x.toNat
    let (m, q) ← accSel w
    .ok (s.launchFlight t c (.accrd x.toNat d.toNat m q)))

/-- ACCWR (R255). -/
def execAccwr (c : Ctl) (x : CReg) (a : VReg) (b : SrcB) (s : State) : Out :=
  .next (s.lanes c.grd ((a, 16) :: bRuns b 1) fun s t => do
    let w ← s.srcI t b
    let _ ← s.tileTeam t x.toNat
    let (m, q) ← accSel w
    .ok (s.launchFlight t c (.accwr x.toNat m q (t.run a.toNat 16))))

/-- Bytes of a packed tile of an element width (R255). -/
def tileBytes (e : Fmt) : Nat := 512 * e.bits
/-- Bytes that FMTQ writes: the tile, and its scales (R257). -/
def fmtqBytes (k : Slot) (e : Fmt) : Nat :=
  tileBytes e + (if e.bits == 16 then 0 else 64 * (64 / slotBlk k.record))

/-- Scratchpad operand of an accumulator movement: the slot, the tile, a multiple of 256 (ALIGN), the range (R255). -/
def State.accOperand (s : State) (t : Thread) (f : BitVec 3) (x : CReg) (b : SrcB) (len : Slot → Fmt → Nat) :
    Res (Team × Nat × Nat) := do
  let (k, e) ← s.matSlot t f.toNat
  let w ← s.srcI t b
  let tm ← s.tileTeam t x.toNat
  let off := w.toNat
  if off % 256 != 0 then .error (Cause.at .align (w.zeroExtend 64))
  else if tm.ssize < off + len k e then .error (Cause.at .scratchRange (w.zeroExtend 64))
  else .ok (tm, off, len k e)

/-- A scratchpad operand of a thread: the lane parks on a line that is not present, or on poisoned data that it would
read (R48, R72, R444). `ea` is the address that it has used. -/
def State.spadGate (s : State) (t : Thread) (tm : Team) (ea : DWord) (off n : Nat) (reads : Bool) (go : State) : State :=
  match s.absentLine tm off n with
  | some l => s.updThread t.uid fun t => t.park (.line tm.uid l)
  | none => if reads && tm.spadPoison off n then s.parkPoison t ea 0 1 t.core else go

/-- ACCLD (R255). -/
def execAccld (c : Ctl) (f : BitVec 3) (x : CReg) (b : SrcB) (s : State) : Out :=
  .next (s.lanes c.grd (bRuns b 1) fun s t => do
    let (tm, off, n) ← s.accOperand t f x b fun _ e => tileBytes e
    .ok (s.spadGate t tm (BitVec.ofNat 64 off) off n true (s.launchFlight t c (.accld x.toNat f.toNat off []))))

/-- ACCST (R255). -/
def execAccst (c : Ctl) (f : BitVec 3) (x : CReg) (b : SrcB) (s : State) : Out :=
  .next (s.lanes c.grd (bRuns b 1) fun s t => do
    let (tm, off, n) ← s.accOperand t f x b fun _ e => tileBytes e
    .ok (s.spadGate t tm (BitVec.ofNat 64 off) off n false (s.launchFlight t c (.accst x.toNat f.toNat off false none))))

/-- FMTQ (R257). -/
def execFmtq (c : Ctl) (f : BitVec 3) (x : CReg) (b : SrcB) (s : State) : Out :=
  .next (s.lanes c.grd (bRuns b 1) fun s t => do
    let (tm, off, n) ← s.accOperand t f x b fmtqBytes
    .ok (s.spadGate t tm (BitVec.ofNat 64 off) off n false (s.launchFlight t c (.accst x.toNat f.toNat off true none))))

/-- MPERM (R256). -/
def execMperm (c : Ctl) (f : BitVec 3) (d : VReg) (b : SrcB) (s : State) : Out :=
  .next (s.lanes c.grd ((d, 1) :: bRuns b 1) fun s t => do
    let (k, _) ← s.matSlot t f.toNat
    if !slotPerm k.record then .error (Cause.of .formatSlot)
    let w ← s.srcI t b
    if t.team.isNone || w.toNat % 2 != 0 || 128 * slotPlen k.record ≤ w.toNat then illop
    else
      let e (i : Nat) : BitVec 16 := k.ptab.getD i 0#16
      .ok (s.launchFlight t c (.write [(d.toNat, e (w.toNat + 1) ++ e w.toNat)] [])))

/-- Scratchpad accesses of a thread perform in program order (R83, R204). -/
def FlightOp.spad : FlightOp → Bool
  | .loadS .. | .storeS .. | .accld .. | .accst .. => true
  | _ => false

/-- No earlier scratchpad access of the flight's thread is still to perform (R83). -/
def State.spadFirst (s : State) (f : Flight) : Bool := (s.earlier f).all fun g => !g.op.spad

/-- Values of a packed tile (R112, R255). -/
def tileValues (e : Fmt) (bs : List Byte) : List Num :=
  let n := leNat bs
  (List.range 4096).map fun i => decodeNum e (n / 2 ^ (e.bits * i) % 2 ^ e.bits)

/-- Bytes of a packed tile. -/
def tilePack (e : Fmt) (es : List Nat) : List Byte :=
  let per := 8 / e.bits
  if e.bits == 4 then
    (List.range (es.length / per)).map fun i => BitVec.ofNat 8 (es.getD (2 * i) 0 + 16 * es.getD (2 * i + 1) 0)
  else es.flatMap fun x => natBytes (e.bits / 8) x

/-- Encoded tile of ACCST and FMTQ (R255, R257); none is CONVERT_TRAP. -/
def tileEncode (k : Slot) (e : Fmt) (quant : Bool) (vs : List Num) : Option (List Byte) :=
  let r := k.record
  if quant && e.bits != 16 then
    let blk := slotBlk r
    let qs := (List.range (4096 / blk)).map fun j =>
      quantBlock e (slotE4m3 r) .rn (slotOvf r) ((List.range blk).map fun i => vs.getD (blk * j + i) Num.zero)
    if qs.any Option.isNone then none
    else
      let qs := qs.filterMap id
      some (tilePack e (qs.flatMap Prod.snd) ++ qs.map fun q => BitVec.ofNat 8 q.1)
  else
    let es := vs.map fun v => roundNum e .rn (slotOvf r) v
    if es.any Option.isNone then none else some (tilePack e (es.map fun x => x.getD 0))

/-- Offsets of the 8-byte pieces, `n` of them from piece `i` on, that are not among those read. -/
def piecesMissing : Nat → Nat → Sparse Nat → List Nat
  | _, 0, _ => []
  | i, n + 1, [] => 8 * i :: piecesMissing (i + 1) n []
  | i, n + 1, p :: ps => if p.1 == 8 * i then piecesMissing (i + 1) n ps else 8 * i :: piecesMissing (i + 1) n (p :: ps)

/-- One of a list, by a free value: pieces have no order (R85). -/
def State.pick {α : Type} (s : State) (xs : List α) (d : α) : State × α :=
  if xs.length < 2 then (s, xs.headD d)
  else
    let r := s.takeFree
    (r.2, xs.getD (Config.freeNat r.1 % xs.length) d)

/-- ACCLD reads its next piece; with all `n` bytes read, the tile takes their values (R85, R255). -/
def State.accldStep (s : State) (f : Flight) (tm : Team) (c sl off : Nat) (e : Fmt) (ps : Sparse Nat) : State :=
  let n := tileBytes e
  let r := s.pick (piecesMissing 0 (n / 8) ps) 0
  if tm.spadPoison (off + r.2) 8 then s.stallPoison f (BitVec.ofNat 64 (off + r.2)) 0 1 tm.core
  else
    let ps := sput ps r.2 (leNat (tm.spadRead (off + r.2) 8))
    if 8 * ps.length < n then r.1.updFlight f.uid fun g => { g with op := .accld c sl off ps }
    else
      let vs := tileValues e (ps.flatMap fun p => natBytes 8 p.2)
      ((r.1.setTile tm.uid c fun _ => tileOf (vs.map toFp32)).tilePoison tm.uid c false).finish f

/-- ACCST or FMTQ writes its next piece (R85, R255); sectors that it has written whole are no longer poisoned (R444). -/
def State.accstStep (s : State) (f : Flight) (tm : Team) (c sl off n : Nat) (quant : Bool) (left : List (Nat × Nat)) :
    State :=
  let r := s.pick left (0, 0)
  let rest := left.filter fun p => p.1 != r.2.1
  let s := r.1.spadStore tm.uid (off + r.2.1) (natBytes 8 r.2.2) false
  if rest.isEmpty then
    (s.updTeam tm.uid fun t => { t with spoison := (wholeSectors off n).foldl sdel t.spoison }).finish f
  else s.updFlight f.uid fun g => { g with op := .accst c sl off quant (some rest) }

/-- The 8-byte pieces of bytes, by offset. -/
def piecesOf (bs : List Byte) : List (Nat × Nat) :=
  (List.range (bs.length / 8)).map fun i => (8 * i, leNat ((bs.drop (8 * i)).take 8))

/-- Completion of the accumulator instructions (R254, R255, R257), in tile order and, for those that use the scratchpad,
in the thread's scratchpad order and piece by piece (R85). -/
def State.doneAcc (s : State) (f : Flight) : State :=
  match s.thread? f.thread with
  | none => s.finish f
  | some t =>
    match s.teamOf t, f.op.tile? with
    | some tm, some c =>
      if !s.tileFree tm.uid c f.uid || (f.op.spad && !s.spadFirst f) then s
      else
        let stall (s : State) : State := s.stallPoison f 0#64 0 3 t.core
        match f.op with
        | .accz _ => ((s.setTile tm.uid c fun _ => []).tilePoison tm.uid c false).finish f
        | .accwr _ m q vals =>
          (s.setTile tm.uid c fun e => vals.zipIdx.foldl (fun e w => sputD 0#32 e (64 * m + 16 * q + w.2) w.1) e).finish f
        | .accrd _ d m q =>
          if tm.tpoison.contains c then stall s
          else
            (s.finish f).updThread t.uid fun t =>
              t.setRun d ((List.range 16).map fun i => tm.tileElem c (64 * m + 16 * q + i))
        | .accld _ sl off ps =>
          match s.matSlot t sl with
          | .error e => (s.finish f).raiseAt t.uid f.site e
          | .ok (_, e) =>
            if s.absentFor f tm off (tileBytes e) || f.stalled.isSome then s else s.accldStep f tm c sl off e ps
        | .accst _ sl off quant left =>
          match s.matSlot t sl with
          | .error e => (s.finish f).raiseAt t.uid f.site e
          | .ok (k, e) =>
            let n := if quant then fmtqBytes k e else tileBytes e
            if s.absentFor f tm off n || f.stalled.isSome then s
            else
              match left with
              | some ps => s.accstStep f tm c sl off n quant ps
              | none =>
                if tm.tpoison.contains c then stall s
                else
                  match tileEncode k e quant ((List.range 4096).map fun i => fp32 (tm.tileElem c i)) with
                  | none => (s.finish f).raiseAt t.uid f.site (Cause.of .convertTrap)
                  | some bs => s.accstStep f tm c sl off n quant (piecesOf bs)
        | _ => s.finish f
    | _, _ => s.finish f

end Sys2Proof.Machine
end

