-- ==== Sys2Proof/Machine/Exit.lean ====
section
/-! DEFINITION. The end of a thread, of its group and of its team (R52, R191, R317 to R319, R375, R413). -/

namespace Sys2Proof.Machine

/-- Control fields of work that a thread's end does for it. -/
def Ctl.none : Ctl := ⟨63#6, false, 0#4, 0#3, false⟩

/-- The least legal scratchpad size of a core that holds the allocations of its resident teams, in KiB (R70). -/
def State.needDivision (s : State) (core : Nat) : Nat :=
  let need := ((s.x.teams.filter fun t => t.core == core && t.swapped.isNone).map fun t => (t.ssize + 1023) / 1024).sum
  (need + 255) / 256 * 256

/-- The scratchpad division of a core once a team there has ended: lines that stand in other sets for it, and find no way left
there, leave (R70, R73). -/
def State.setDivision (s : State) (core : Nat) : State :=
  ({ s with d := { s.d with division := sputD 0 s.d.division core (s.needDivision core) } } : State).shrinkL1 core

/-- The scratchpad division of a core once a team has come there: it rises where the allocations need it, and falls only when
teams end (R70). -/
def State.raiseDivision (s : State) (core : Nat) : State :=
  { s with d := { s.d with division := sputD 0 s.d.division core (max ((sget s.d.division core).getD 0) (s.needDivision core)) } }

/-- A ray, a copy, a collective or a matrix pass of a thread goes on. -/
def State.owes (s : State) (t : Thread) : Bool :=
  (s.e.rays.any fun r => r.thread == t.uid && r.stage != .done) || (s.e.copies.any fun k => k.thread == t.uid) ||
    (s.e.colls.any fun k => k.thread == t.uid && k.status.isNone) ||
    s.e.passes.any fun k => k.rank0 == t.uid

/-- Threads leave; of one whose rays, copies, collectives or passes go on, a ghost stays (R269, R380). -/
def State.dropThreads (s : State) (p : Thread → Bool) : State :=
  { s with x := { s.x with
    threads := s.x.threads.filter fun t => !p t
    ghosts := s.x.ghosts ++ s.x.threads.filter fun t => p t && s.owes t } }

/-- Ghosts whose work is done leave, and so do the threads of a killed context once their accesses have performed, or wait for an
answer that a kill does not wait for (R380). -/
def State.layGhosts (s : State) : State :=
  let dead (t : Thread) : Bool :=
    (s.ctx t.ctx).killing && !s.x.flights.any fun f => f.thread == t.uid && f.stalled.isNone
  let s := if s.x.threads.any dead then
      (let gone := (s.x.threads.filter dead).map Thread.uid
       let s := s.dropThreads dead
       { s with x := { s.x with flights := s.x.flights.filter fun f => !gone.contains f.thread } })
    else s
  if s.x.ghosts.isEmpty then s else { s with x := { s.x with ghosts := s.x.ghosts.filter s.owes } }

/-- DET_MISMATCH (R318, R376): the report's thread fields are zero but for TEAM. -/
def detReport (time ctx team : Nat) : BitVec 512 :=
  mkReport 0#128 0#64 0#64 0#64 time (Cause.of .detMismatch) 0 0 0 0 ctx 0 false (BitVec.ofNat 32 team) 0

/-- A sampled team, or its shadow, has ended with a digest: the two are compared once both have (R318). -/
def State.sampleEnd (s : State) (tm : Team) : State :=
  match s.launch? tm.launch with
  | none => s
  | some l =>
    let shadow := tm.shadowOf.isSome
    let other := l.digests.find? fun d => d.1 == tm.logical && d.2.1 != shadow
    let paired := shadow || other.isSome || s.x.teams.any fun k => k.shadowOf == some tm.uid
    if !paired then s
    else
      match other with
      | none => s.updLaunch l.uid fun l => { l with digests := l.digests ++ [(tm.logical, shadow, tm.digest)] }
      | some d =>
        let same := d.2.2 == tm.digest
        let s := s.updLaunch l.uid fun l =>
          ({ l with digests := l.digests.filter fun d => d.1 != tm.logical }).detAdd (if same then 1 else 2)
        if same then s else s.launchTrap l.uid (detReport (s.now (coreDie tm.core)) tm.ctx tm.logical)

/-- A team ends (R52): its digest is closed, its couched entries leave, and its resources are freed. -/
def State.endTeam (s : State) (u : Nat) : State :=
  let s := s.digestTeam u
  match s.team? u with
  | none => s
  | some tm =>
    let s := if tm.shadowOf.isSome then s else s.flushTeam tm
    let s := s.sampleEnd tm
    let w := (s.x.threads.filter fun t => t.team == some u).foldl (fun w t => wctJoin w t.wct) []
    let s := s.updLaunch tm.launch fun l =>
      { l with ended := if tm.shadowOf.isSome then l.ended else tm.logical :: l.ended, wct := wctJoin l.wct w }
    let s := match sget s.e.latches tm.core with
      | some (o, _, _) => if o == u then { s with e := { s.e with latches := sdel s.e.latches tm.core } } else s
      | none => s
    let s := s.dropThreads fun t => t.team == some u
    let s := { s with x := { s.x with
      groups := s.x.groups.filter fun g => g.team != some u
      teams := s.x.teams.filter fun t => t.uid != u } }
    s.setDivision tm.core

/-- A replay that has still to write its header keeps the threads it re-created (R439). -/
def State.tracing (s : State) (t : Thread) : Bool :=
  t.isReplay && ((s.launch? t.launch).bind Launch.replay).any fun r => !r.headerDone

/-- A flight, an engine, a handler or a replay's header still needs a thread's record. -/
def State.needed (s : State) (u : Nat) : Bool :=
  (s.x.threads.any fun t => t.uid == u && s.tracing t) || (s.x.flights.any fun f => f.thread == u) || (s.e.passes.any fun p => p.rank0 == u || p.signers.contains u)

/-- Ends the teams and the teamless groups whose threads have all exited, with nothing of them left in flight (R52). -/
def State.reap (s : State) : State :=
  let done (ts : List Thread) : Bool := ts.all fun t => t.status == .exited && !s.needed t.uid
  let tms := (s.x.teams.filter fun k => done (s.x.threads.filter fun t => t.team == some k.uid)).map Team.uid
  let gs := (s.x.groups.filter fun g => g.team.isNone && done (s.x.threads.filter fun t => t.group == g.uid)).map Group.uid
  let s := gs.foldl (fun s g =>
    let w := (s.x.threads.filter fun t => t.group == g).foldl (fun w t => wctJoin w t.wct) []
    let lid := (s.group? g).map Group.launch
    let s := match lid with
      | some l => s.updLaunch l fun l => { l with wct := wctJoin l.wct w }
      | none => s
    let s := s.dropThreads fun t => t.group == g
    { s with x := { s.x with groups := s.x.groups.filter fun k => k.uid != g } }) s
  tms.foldl State.endTeam s

/-- Whatever waited for a thread that has ended looks again: joins of its group, convergence sets and barriers of its
team (R45 to R47, R232). -/
def State.partners (s : State) (t : Thread) : State :=
  let s := s.joinCheck t.group []
  match t.team with
  | none => s.settle
  | some tm =>
    let s := (List.range 16).foldl (fun s k => s.kMissing tm k) s
    (s.barCheck tm []).settle

/-- A shader has ended, and its stores, reductions and SHADOW additions have performed: the release work of level 5 is done,
and its ray completes with the largest write completion time (R101, R342). -/
def State.shaderDone (s : State) (t : Thread) (ray : Nat) : State :=
  let r := s.releaseCore t.core t.ctx
  let w := wctJoin r.2 t.wct
  { r.1 with e := { r.1.e with rays := r.1.e.rays.map fun y =>
    if y.uid == ray then { y with stage := .done, wct := wctJoin y.wct w } else y } }

/-- A shader that has ended still has posted writes, or SHADOWs, to perform (R94, R101). -/
def State.shaderOwes (s : State) (u uid : Nat) : Bool :=
  (s.x.flights.any fun f => f.thread == u && decide (f.uid < uid) && f.op.isAccess) ||
    s.e.rays.any fun r => r.thread == u && r.ticket.isNone && r.stage != .done

/-- The end of a shader thread goes on (R101). -/
def State.doneShaderEnd (s : State) (f : Flight) (ray : Nat) : State :=
  match s.thread? f.thread with
  | none => s.finish f
  | some t => if s.shaderOwes t.uid f.uid then s else ((s.shaderDone t ray).finish f).reap

/-- What the end of a thread of each kind does beside (R101, R241, R242, R269, R414). -/
def State.endKind (s : State) (t : Thread) : State :=
  match t.kind with
  | .shader ray =>
    if s.shaderOwes t.uid s.x.nextUid then s.launchFlight t Ctl.none (.shaderEnd ray) else s.shaderDone t ray
  | .message _ => if t.amdone then s else s.launchFlight t Ctl.none (.amdone false)
  | .launchTrap true => s.updLaunch t.launch fun l => { l with stallEnd := some s.x.clk }
  | _ => s

/-- A thread becomes Exited (R191): its slot and blocks are free, and sections it holds are aborted (R413). -/
def State.exitOne (s : State) (u : Nat) : State :=
  match s.thread? u with
  | none => s
  | some t =>
    if t.status == .exited then s
    else
      let s := s.updThread u fun t => { t with status := .exited, trap := none }
      let s := s.abortAll u
      let s := s.endKind t
      s.partners t

/-- A thread ends (R191). The thread that a trap handler serves ends with it (R375). -/
def State.exitBoth (s : State) (u : Nat) : State :=
  match (s.thread? u).map Thread.kind with
  | some (.handler x) => (s.exitOne u).exitOne x
  | _ => s.exitOne u

/-- A thread ends with EXIT, and its team or group with it where it was the last (R191, R52). -/
def State.exitThread (s : State) (u : Nat) : State := (s.exitBoth u).reap

/-- A thread ends once what it has in flight has completed (R191). -/
def State.exitWhenIdle (s : State) (u : Nat) : State :=
  match s.thread? u with
  | none => s
  | some t =>
    if s.busyThread u then s.launchFlight { t with trap := none } Ctl.none (.exit false) else s.exitThread u

/-- EXIT (R191): the thread ends when every instruction it has in flight has completed. -/
def execExit (c : Ctl) (s : State) : Out :=
  .next ((s.lanes c.grd [] fun s t =>
    .ok (if s.busyThread t.uid then s.launchFlight t c (.exit false) else s.exitBoth t.uid)).reap)

/-- Completion of EXIT. -/
def State.doneExit (s : State) (f : Flight) : State :=
  if (s.earlier f).any Flight.busy then s else (s.finish f).exitThread f.thread

end Sys2Proof.Machine
end

