-- ==== Sys2Proof/Machine/Freeze.lean ====
section
/-! DEFINITION. Ending a freeze: RESUME and KILL, the host's freeze, and the answers to fault and error records (R377 to
R381, R403 to R405, R447, R451). -/

namespace Sys2Proof.Machine

/-- Ends a launch's stall episode (R414). -/
def Launch.endEpisode (l : Launch) : Launch := { l with stallFired := false, stallEnd := none, watched := [] }

/-- RESUME (R380): threads that raised a freezing code end, and handlers that raised any with the threads they serve;
suppressed threads are released at their fall-through (R381); FROZEN and the report clear, LOST stays. The context's threads are
resumed, which ends its stall episodes (R414). A fatal device stays frozen until it is reset and booted (R445). -/
def State.resumeCtx (s : State) (c : Nat) : State :=
  if !(s.ctx c).frozen || (s.ctx c).killing || s.b.fatal then s
  else
    let s := s.updCtx c fun k => { k with frozen := false, report := 0#512 }
    let s : State := { s with d := { s.d with launches := s.d.launches.map fun l => if l.ctx == c then l.endEpisode else l } }
    let ts := s.x.threads.filter fun t => t.ctx == c && t.trap.isSome && t.status != .exited
    ts.foldl (fun s t =>
      match t.trap with
      | none => s
      | some r =>
        if r.freezing || t.isHandler then s.exitWhenIdle t.uid
        else if r.suppressed then s.updThread t.uid fun u => u.release r.fall
        else s) s

/-- Nothing of a context remains (R380). -/
def State.gone (s : State) (c : Nat) : Bool :=
  !(s.x.threads.any fun t => t.ctx == c) && !(s.x.teams.any fun t => t.ctx == c)
    && !(s.d.launches.any fun l => l.ctx == c) && !(s.d.queues.any fun q => q.1 / 16 == c && !q.2.isEmpty)
    && !(s.y.keys.any fun k => k.ctx == c) && !(s.y.backing.any fun k => k.ctx == c)
    && !(s.e.bindings.any fun b => b.ctx == c) && !(s.y.couch.any fun q => q.2.any fun e => e.ctx == c)
    && !(s.y.sent.any fun q => q.entries.any fun e => e.ctx == c) && !(s.e.copies.any fun k => k.ctx == c)
    && !(s.e.rays.any fun r => r.ctx == c && r.stage != .done) && !(s.e.colls.any fun k => k.ctx == c && k.status.isNone)
    && !(s.x.ghosts.any fun t => t.ctx == c && s.e.passes.any fun p => p.rank0 == t.uid)

/-- What a thread has in flight that completes though its context is killed (R378, R380): its accesses to memory, and the upkeep
of caches and translations. -/
def FlightOp.lands : FlightOp → Bool
  | .load .. | .store .. | .tagst .. | .tagld .. | .dload .. | .atom .. | .atomc .. | .red .. | .pref .. | .cacheop .. | .tlbinv ..
  | .lpsweep .. => true
  | _ => false

/-- KILL (R380): teams, groups and tile jobs end without issuing, queues empty, launches end without their signals, and
the entries they hold are dropped. Accesses in flight and entries already sent complete (R378): a thread that has any stays until
then, Exited (log 79). Copies, passes, rays and collectives in flight run on; one that waits on a fault of the context ends with
it. -/
def State.killCtx (s : State) (c : Nat) : State :=
  if !(s.ctx c).frozen then s
  else
    let mine (u : Nat) : Bool := s.x.threads.any fun t => t.uid == u && t.ctx == c
    let lids := (s.d.launches.filter fun l => l.ctx == c).map Launch.uid
    let tms := (s.x.teams.filter fun t => t.ctx == c).map Team.uid
    let cores := ((s.x.teams.filter fun t => t.ctx == c).map Team.core).eraseDups
    let run := ((s.e.copies.filter fun k => k.ctx == c && k.stalled.isNone).map CopyJob.uid) ++
      ((s.e.colls.filter fun k => k.ctx == c && k.stalled.isNone && k.status.isNone && k.entered).map CollJob.uid)
    let lands (f : Flight) : Bool :=
      f.op.lands && f.stalled.isNone && !(s.thread? f.thread).any s.isolates
    let s := (s.d.launches.filter fun l => l.ctx == c).foldl State.applySent s
    let sx := s.dropThreads fun t => t.ctx == c && !s.x.flights.any fun f => f.thread == t.uid && lands f
    let s1 : State := { s with
      x := { sx.x with
        threads := sx.x.threads.map fun t => if t.ctx == c then { t with status := .exited, trap := none } else t
        groups := s.x.groups.filter fun g => !lids.contains g.launch
        teams := s.x.teams.filter fun t => t.ctx != c
        flights := s.x.flights.filter fun f => !mine f.thread || lands f }
      y := { s.y with
        keys := s.y.keys.filter fun k => k.ctx != c
        backing := s.y.backing.filter fun k => k.ctx != c
        monitors := s.y.monitors.filter fun m => !(s.x.flights.any fun f => f.uid == m.flight && mine f.thread)
        couch := (s.y.couch.map fun q => (q.1, q.2.filter fun e => e.ctx != c)).filter fun q => !q.2.isEmpty }
      e := { s.e with
        copies := s.e.copies.filter fun k => !(k.ctx == c && k.stalled.isSome)
        latches := s.e.latches.filter fun q => !tms.contains q.2.1
        passes := s.e.passes.filter fun p => !(tms.contains p.team && p.stalled.isSome)
        bindings := s.e.bindings.filter fun b => b.ctx != c
        eqReqs := s.e.eqReqs.filter fun r => !mine r.thread
        rays := s.e.rays.filter fun r => !(r.ctx == c && (r.stalled.isSome || r.stage != .flying))
        tiles := s.e.tiles.filter fun t => !lids.contains t.launch
        colls := s.e.colls.filter fun k => !(k.ctx == c && (k.stalled.isSome || k.status.isSome || !k.entered))
        msgs := s.e.msgs.filter fun m => m.ctx != c }
      m := { s.m with locks := s.m.locks.filter fun l => l.ctx != c || run.contains l.owner }
      d := { s.d with
        queues := s.d.queues.filter fun q => q.1 / 16 != c
        launches := s.d.launches.filter fun l => l.ctx != c
        bells := s.d.bells.filter fun b => b.ctx != c
        dfails := s.d.dfails.filter fun f => !lids.contains f.1 }
      h := { s.h with faults := s.h.faults.filter fun f => f.ctx != c } }
    let s2 := cores.foldl (fun s k => s.setDivision k) s1
    s2.updCtx c fun k => { k with killing := true }

/-- KILL_COMPLETE (R380): FROZEN clears when nothing of the context remains. -/
def State.killDone (s : State) (c : Nat) : State :=
  if (s.ctx c).killing && s.gone c then s.updCtx c fun k => { k with killing := false, frozen := false } else s

/-- HFRZ (R451): the context freezes without a message; the report has CODE 0. -/
def State.hostFreeze (s : State) (c : Nat) : State :=
  if (s.ctx c).frozen then s else s.freeze c (bareReport (s.now 0) c (Cause.of .hostFreeze)) false

/-- An answer to a fault record (R405): RETRY. -/
def State.faultRetry (s : State) (id : BitVec 32) : State :=
  match s.h.faults.find? fun f => f.id == some id with
  | none => s
  | some f =>
    let s := { s with h := { s.h with faults := s.h.faults.filter fun g => g.uid != f.uid } }
    f.waiters.foldl (fun s w => s.retryWaiter f.uid w) s

/-- A fault is answered FAIL (R405). -/
def State.failFault (s : State) (f : PFault) : State :=
  let s := { s with h := { s.h with faults := s.h.faults.filter fun g => g.uid != f.uid } }
  f.waiters.foldl (fun s w => s.failWaiter w f.cause) s

/-- An answer to a fault record (R405): FAIL. -/
def State.faultFail (s : State) (id : BitVec 32) : State :=
  match s.h.faults.find? fun f => f.id == some id with
  | none => s
  | some f => s.failFault f

/-- EN of the fault ring clears (R403): every fault not yet written is answered FAIL. -/
def State.faultDisable (s : State) : State :=
  let s := { s with h := { s.h with fq := { s.h.fq with ctl := s.h.fq.ctl &&& 0x7FFFFFFF#32 } } }
  (s.h.faults.filter fun f => f.id.isNone).foldl (fun s f => s.failFault f) s

/-- The threads that an error record holds: parked lanes, and lanes whose flight waits on it (R444). -/
def State.errLanes (s : State) (u : Nat) : List Thread :=
  s.x.threads.filter fun t => t.status == Status.parkedMem (.poison u) ||
    s.x.flights.any fun f => f.thread == t.uid && f.stalled == some u

/-- RETRY of an error record (R447): each lane performs its access again. -/
def State.errRetry (s : State) (u : Nat) : State :=
  let s := s.unpark (.poison u)
  { s with
    x := { s.x with flights := s.x.flights.map fun f => if f.stalled == some u then { f with stalled := none } else f }
    e := { s.e with passes := s.e.passes.map fun p => if p.stalled == some u then { p with stalled := none } else p } }

/-- FREEZE of an error record (R447): the lanes that it holds, and the rank-0 signer of a pass that waits on it, raise
UNCORRECTABLE, which freezes their context; the report's ADDR is the effective address of the access, or what the engine had
reached (R372). -/
def State.errFreeze (s : State) (u : Nat) (addr : DWord) : State :=
  let ts := s.errLanes u
  let s := ts.foldl (fun s t =>
    let fl := s.x.flights.find? fun f => f.thread == t.uid && f.stalled == some u
    let p := (fl.map Flight.site).getD t.site
    let s := match fl with
      | some f => s.finish f
      | none => s
    s.updThread t.uid fun t =>
      let st : Status := match t.status with
        | .parkedMem _ => .boundary
        | k => k
      ({ t with status := st }).trapAt
        (s.reportOf t p (Cause.at .uncorrectable addr)) p.fall true) s
  (s.e.passes.filter fun p => p.stalled == some u).foldl (fun s p =>
    (s.endPass p).raiseAt p.rank0 p.site ⟨.uncorrectable, 0#8, addr, true, false⟩) s.settle

/-- Takes an error record off the list. -/
def State.dropErr (s : State) (u : Nat) : State :=
  { s with h := { s.h with errors := s.h.errors.filter fun e => e.uid != u } }

/-- An answer to an error record (R447); an unknown identifier is ignored. -/
def State.errAnswer (s : State) (id : BitVec 32) (freeze : Bool) : State :=
  match s.h.errors.find? fun e => e.id == some id with
  | none => s
  | some e =>
    let s := s.dropErr e.uid
    if freeze then s.errFreeze e.uid e.addr else s.errRetry e.uid

/-- With EN clear, every error record not yet written is handled as answered FREEZE (R447). -/
def State.errSettle (s : State) : State :=
  if s.h.er.en then s
  else (s.h.errors.filter fun e => e.id.isNone).foldl (fun s e => (s.dropErr e.uid).errFreeze e.uid e.addr) s

/-- EN of the error ring clears (R447). -/
def State.errDisable (s : State) : State :=
  ({ s with h := { s.h with er := { s.h.er with ctl := s.h.er.ctl &&& 0x7FFFFFFF#32 } } }).errSettle

/-- FAULT_RECORD_WRITE (R403, R404). -/
def State.faultWrite (s : State) (u : Nat) : State :=
  match s.h.faults.find? fun f => f.uid == u with
  | none => s
  | some f =>
    let r := s.h.fq
    if f.id.isSome || !r.en then s
    else if !r.room then { s with h := { s.h with fq := { r with ctl := r.ctl ||| (1#32 <<< 30) } } }
    else
      let id : BitVec 32 := BitVec.ofNat 32 s.h.nextId
      let cause := match f.cause with
        | .invalid => 0#2 | .dupRead => 1#2 | .dupWrite => 2#2
      let rec_ : BitVec 256 := 0#16 ++ f.va.extractLsb' 0 48 ++ BitVec.ofNat 64 f.time ++ id ++ 0#32 ++ BitVec.ofNat 6 f.ctx
        ++ cause ++ BitVec.ofNat 4 f.access ++ BitVec.ofNat 4 f.sector ++ 0#48
      let w := r.send s 32 (natBytes 32 rec_.toNat)
      { w.1 with h := { w.1.h with
        fq := w.2
        nextId := w.1.h.nextId + 1
        faults := w.1.h.faults.map fun g => if g.uid == u then { g with id := some id } else g } }

/-- ERROR_RECORD_WRITE (R447). -/
def State.errWrite (s : State) (u : Nat) : State :=
  match s.h.errors.find? fun e => e.uid == u with
  | none => s
  | some e =>
    let r := s.h.er
    if e.id.isSome || !r.en then s
    else if !r.room then
      let full := { r with ctl := r.ctl ||| (1#32 <<< 30) }
      if e.code == .softErrorCorrected then
        ({ s with h := { s.h with er := { full with drop := satInc r.drop } } }).dropErr u
      else { s with h := { s.h with er := full } }
    else
      let id : BitVec 32 := BitVec.ofNat 32 s.h.nextId
      let rec_ : BitVec 256 := 0#16 ++ BitVec.ofNat 48 e.pa ++ BitVec.ofNat 64 e.time ++ id ++ e.code.val ++ BitVec.ofNat 4 e.unit
        ++ BitVec.ofNat 8 e.index ++ BitVec.ofNat 6 e.ctx ++ BitVec.ofBool e.parked ++ BitVec.ofBool e.fatal
        ++ BitVec.ofBool e.dropped ++ BitVec.ofNat 3 e.cause ++ 0#64
      let w := r.send s 32 (natBytes 32 rec_.toNat)
      let s1 := { w.1 with h := { w.1.h with
        er := w.2
        nextId := w.1.h.nextId + 1
        errors := w.1.h.errors.map fun g => if g.uid == u then { g with id := some id } else g } }
      if e.parked then s1 else s1.dropErr u

end Sys2Proof.Machine
end

