-- ==== Sys2Proof/Machine/Win.lean ====
section
/-! DEFINITION. The management window: its registers, their reads, writes and effects (R345 to R356, R377, R382, R403,
R410, R423, R428, R447, R448, R451, R452). An offset that no rule lists reads zero and ignores writes (log 13). -/

namespace Sys2Proof.Machine

/-! Contexts (R351) -/

/-- A team, a tile job or a group of no team of a context is resident, or a queue of it is not empty (R351). -/
def State.ctxBusy (s : State) (c : Nat) : Bool :=
  (s.x.threads.any fun t => t.ctx == c && !s.swappedOut t) || (s.x.teams.any fun t => t.ctx == c && t.swapped.isNone)
    || (s.d.queues.any fun q => q.1 / 16 == c && !q.2.isEmpty)
    || (s.e.tiles.any fun k => (s.launch? k.launch).any fun l => l.ctx == c)

/-- A context descriptor is refused (R351): a reserved LEASE, a Zero field, a ROOT misaligned or out of DRAM. -/
def State.descOk (s : State) (d : BitVec 512) : Bool :=
  let root : DWord := d.extractLsb' 448 64
  !d.getLsbD 11 && d.extractLsb' 16 432 == 0#432 && d.extractLsb' 1 7 == 0#7 && root.toNat % 4096 == 0
    && decide (root.toNat < 2 ^ 48) && s.isDram root.toNat

/-- CTXEN bit c changes from 0 to 1 (R351): the hub reads the descriptor. -/
def State.ctxEnable (s : State) (c : Nat) : State :=
  if (s.ctx c).enabled then s
  else
    let r := s.physRead (s.h.ctxbase.toNat % 2 ^ 48 + 64 * c) 64
    let d : BitVec 512 := BitVec.ofNat 512 (leNat r.2)
    if !r.1.descOk d then r.1
    else r.1.updCtx c fun k =>
      { k with
        enabled := true
        root := (d.extractLsb' 448 64).toNat
        lease := 2 ^ ((d.extractLsb' 8 4).toNat + 6)
        tslice := (d.extractLsb' 12 4).toNat
        priv := d.getLsbD 0
        report := if k.frozen then k.report else 0#512 }

/-- CTXEN bit c is written 0 (R351); ignored while the context is in use. -/
def State.ctxDisable (s : State) (c : Nat) : State :=
  if s.ctxBusy c then s else s.updCtx c fun k => { k with enabled := false }

/-! Power (R353) -/

/-- A write of PLIMIT, clamped; every CBUDGET follows (R348, R353). -/
def State.plimit (s : State) (w : Nat) : State :=
  let w := max 400 (min w 2800)
  let b := min 1023 (1023 * (w - 400) / 2400)
  { s with h := { s.h with plimit := BitVec.ofNat 12 w, cbudget := List.replicate 144 (BitVec.ofNat 10 b) } }

/-! Monitors (R356) -/

/-- The read-outs clear (R356). -/
def Health.clear (h : Health) : Health :=
  { h with min := 0xFFFFFFFF#32, max := 0#32, count := 0#32, bins := List.replicate 32 0#32 }

/-- A write of a monitor's control word; one with a reserved PROBE is ignored (R356). -/
def Health.write (h : Health) (v : DWord) : Health :=
  if 5 < (v.extractLsb' 3 8).toNat then h
  else
    let h := { h with ctl := v &&& 0xFFFFFFFF0000FFFB#64 }
    if v.getLsbD 2 then h.clear else h

/-! The measurement block (R355) -/

/-- Bytes that a quote signs. -/
def quoteMsg (k : BitVec 256 × List (BitVec 256)) : List Byte :=
  natBytes 32 k.1.toNat ++ k.2.flatMap fun m => natBytes 32 m.toNat

/-- A byte of the measurement block (R355). Before the first quote the signature has no value: free (log 9). -/
def State.measByte (s : State) (o : Nat) : Byte :=
  if o < 0x80 then (natBytes 32 (s.h.meas.getD (o / 32) 0#256).toNat).getD (o % 32) 0#8
  else if o < 0xA0 then 0#8
  else if o < 0x100 then (if o == 0xA0 && s.h.quoting then 1#8 else 0#8)
  else if o < 0x620 then Config.publicKey s.h.identity (o - 0x100)
  else if o < 0x800 then 0#8
  else if o < 0x1174 then
    match s.h.sigKey with
    | some k => Config.signature s.h.identity (quoteMsg k) (o - 0x800)
    | none => Config.signature s.h.identity [] (o - 0x800)
  else 0#8

/-- QUOTE is written 1 (R355). -/
def State.quote (s : State) : State := { s with h := { s.h with quoting := true } }

/-- Signing ends (R355). -/
def State.quoteDone (s : State) : State :=
  if s.h.quoting then { s with h := { s.h with quoting := false, sigKey := some (s.h.nonce, s.h.meas) } } else s

/-! Reads (R347, R452) -/

/-- Two 32-bit words as a 64-bit value, the lower address low. -/
def two32 (lo hi : Word) : DWord := hi ++ lo

/-- Registers of a watch (R423), by index of the 64-bit slot. -/
def Watch.read (w : Watch) (i : Nat) : DWord :=
  match i with
  | 0 => w.ctl
  | 1 => w.name.extractLsb' 0 64
  | 2 => w.name.extractLsb' 64 64
  | 3 => w.mask.extractLsb' 0 64
  | 4 => w.mask.extractLsb' 64 64
  | 5 => w.rect
  | 6 => w.surf
  | _ => w.pitch

/-- A read-out word of a monitor (R356). -/
def Health.word (h : Health) (o : Nat) : Word :=
  if o == 8 then h.min else if o == 12 then h.max else if o == 16 then h.count
  else if decide (32 ≤ o) && decide (o < 160) then h.bins.getD ((o - 32) / 4) 0#32 else 0#32

/-- Registers of a ring (R403, R428, R447), by index of the 64-bit slot. -/
def Ring.read (r : Ring) (i : Nat) : DWord :=
  match i with
  | 0 => r.base
  | 1 => r.ctl.zeroExtend 64
  | 2 => r.head.zeroExtend 64
  | 3 => r.tail.zeroExtend 64
  | 4 => r.drop.zeroExtend 64
  | _ => 0#64

/-- LCSTAT (R410). -/
def LeaseClock.read (l : LeaseClock) : DWord :=
  l.skew ++ 0#22 ++ l.link ++ l.die ++ 0#1 ++ BitVec.ofBool l.event ++ BitVec.ofBool l.guard

/-- CTXEN (R348). -/
def State.ctxen (s : State) : DWord :=
  (s.d.ctxs.zipIdx).foldl (fun m p => if p.1.enabled then m ||| (1#64 <<< p.2) else m) 0#64

/-- The registers that exist in die 0's part only (R347), by 8-byte aligned offset. -/
def State.readDevice (s : State) (o : Nat) : DWord :=
  if o == 0x100 then s.h.ctxbase
  else if o == 0x108 then s.ctxen
  else if o == 0x110 then s.h.apbase
  else if o == 0x118 then s.h.qovf
  else if o == 0x200 then s.h.plimit.zeroExtend 64
  else if o == 0x30000 then s.h.grpbase
  else if decide (0x40000 ≤ o) && decide (o < 0x42000) then
    leWord ((List.range 8).map fun i => s.measByte (o - 0x40000 + i))
  else if decide (0x50000 ≤ o) && decide (o < 0x52000) then
    let k := s.ctx ((o - 0x50000) / 128)
    let i := (o - 0x50000) % 128
    if i < 64 then k.report.extractLsb' (8 * i) 64
    else if i == 64 then 0#62 ++ BitVec.ofBool k.lost ++ BitVec.ofBool k.frozen else 0#64
  else if decide (0x60000 ≤ o) && decide (o < 0x60400) then
    let k := s.ctx ((o - 0x60000) / 16)
    if o % 16 == 0 then k.rejptr else k.rejstat.zeroExtend 64
  else if decide (0x70000 ≤ o) && decide (o < 0x70020) then s.h.fq.read ((o - 0x70000) / 8)
  else if decide (0x80000 ≤ o) && decide (o < 0x80200) then
    (s.h.watches.getD ((o - 0x80000) / 64) Watch.reset).read (o % 64 / 8)
  else if decide (0x90000 ≤ o) && decide (o < 0x90028) then s.h.cb.read ((o - 0x90000) / 8)
  else if decide (0xA0000 ≤ o) && decide (o < 0xA0028) then s.h.er.read ((o - 0xA0000) / 8)
  else 0#64

/-- A 64-bit slot of a die's part of the window (R347). -/
def State.read64 (s : State) (die o : Nat) : DWord :=
  if o == 0 then two32 (0x0B51#16 ++ Config.stepping) 0#32
  else if o == 8 then (BitVec.ofBool (s.h.lp.getLsbD die)).zeroExtend 64
  else if o == 0x300 then (s.h.lc.getD die LeaseClock.reset).read
  else if o == 0x400 then s.h.corr.getD die 0#32 ++ s.h.linkerr.getD die 0#16 ++ 0#16
  else if decide (0x1000 ≤ o) && decide (o < 0x1090) then
    let b (k : Nat) : Word := (s.h.cbudget.getD (36 * die + k) 0#10).zeroExtend 32
    two32 (b ((o - 0x1000) / 4)) (b ((o - 0x1000) / 4 + 1))
  else if decide (0x10000 ≤ o) && decide (o < 0x11000) then
    let h := s.h.health.getD (16 * die + (o - 0x10000) / 256) Health.reset
    if o % 256 == 0 then h.ctl else two32 (h.word (o % 256)) (h.word (o % 256 + 4))
  else if decide (0x20000 ≤ o) && decide (o < 0x20030) then
    (s.h.linkwin.getD (3 * die + (o - 0x20000) / 16) 0#128).extractLsb' (8 * (o % 16)) 64
  else if die == 0 then s.readDevice o
  else 0#64

/-! Writes (R452) -/

/-- Changes an element of a list. -/
def updAt {α : Type} (l : List α) (i : Nat) (f : α → α) : List α := l.modify i f

/-- Registers of a watch are written (R422, R423). -/
def Watch.write (w : Watch) (i : Nat) (v : DWord) : Watch :=
  match i with
  | 0 => { w with ctl := v &&& 0xFF3#64 }
  | 1 => { w with name := w.name.extractLsb' 64 64 ++ v }
  | 2 => { w with name := v ++ w.name.extractLsb' 0 64 }
  | 3 => { w with mask := w.mask.extractLsb' 64 64 ++ v }
  | 4 => { w with mask := v ++ w.mask.extractLsb' 0 64 }
  | 5 => { w with rect := v &&& 0x1FFF1FFF1FFF1FFF#64 }
  | 6 => { w with surf := v }
  | _ => { w with pitch := v &&& 0xFFFFFFFF#64 }

/-- A watch register is written (R422). -/
def State.watchWrite (s : State) (w i : Nat) (v : DWord) : State :=
  { s with h := { s.h with watches := updAt s.h.watches w fun k => k.write i v } }

/-- CBBASE is written: the counts clear (R428). -/
def State.cbbase (s : State) (v : DWord) : State :=
  { s with h := { s.h with cb := { s.h.cb with base := v, head := 0#32, tail := 0#32, drop := 0#32, sent := [] } } }

/-- LCSTAT is written (R410): CLR and EVENT. -/
def LeaseClock.write (l : LeaseClock) (raw : DWord) : LeaseClock :=
  { l with skew := if raw.getLsbD 2 then 0#32 else l.skew, event := l.event && !raw.getLsbD 1 }

/-- SIZE, EN and the W1C FULL of a ring's control word (R403, R428, R447). -/
def ringCtl (old : Word) (merged raw : DWord) : Word :=
  (merged.extractLsb' 0 32 &&& 0x800F0000#32) ||| (old &&& 0x40000000#32 &&& ~~~(raw.extractLsb' 0 32))

/-- ERRCNT is cleared (R448). -/
def State.errcntClear (s : State) (die : Nat) : State :=
  { s with h := { s.h with corr := updAt s.h.corr die fun _ => 0#32, linkerr := updAt s.h.linkerr die fun _ => 0#16 } }

/-- CTXEN is written (R351): each bit that changes acts. -/
def State.ctxenWrite (s : State) (v : DWord) : State :=
  (List.range 64).foldl (fun s c =>
    if v.getLsbD c == (s.ctx c).enabled then s else if v.getLsbD c then s.ctxEnable c else s.ctxDisable c) s

/-- FCTL is written (R377): LOST, then CMD. -/
def State.fctl (s : State) (c : Nat) (raw : DWord) : State :=
  let s := if raw.getLsbD 1 then s.updCtx c fun k => { k with lost := false } else s
  match (raw.extractLsb' 8 2).toNat with
  | 1 => s.killCtx c
  | 2 => s.resumeCtx c
  | _ => s

/-- A doorbell write (R352): one for a disabled context is dropped. -/
def State.doorbell (s : State) (c q : Nat) (ptr : DWord) : State :=
  if (s.ctx c).enabled then
    { s with
      x := { s.x with nextUid := s.x.nextUid + 1 }
      d := { s.d with bells := s.d.bells ++ [⟨s.x.nextUid, c, q, ptr, none⟩] } }
  else s

/-- A write of a slot of the measurement block (R355): `lo` and `hi` say which halves are written. -/
def State.measWrite (s : State) (o : Nat) (raw merged : DWord) (lo : Bool) : State :=
  if decide (0x80 ≤ o) && decide (o < 0xA0) then
    if s.h.quoting then s
    else
      let i := (o - 0x80) / 8
      let n := s.h.nonce
      let mask : BitVec 256 := (0xFFFFFFFFFFFFFFFF#256) <<< (64 * i)
      { s with h := { s.h with nonce := (n &&& ~~~mask) ||| (merged.zeroExtend 256 <<< (64 * i)) } }
  else if o == 0xA0 && lo && raw.getLsbD 0 then s.quote
  else s

/-- A write to a register of die 0's part only (R347). `old` is the slot's value with the covered bytes replaced
(`merged`); `raw` has the bytes not covered zero. -/
def State.writeDevice (s : State) (o : Nat) (raw merged : DWord) (lo hi : Bool) : State :=
  if o == 0x100 then { s with h := { s.h with ctxbase := merged } }
  else if o == 0x108 then s.ctxenWrite merged
  else if o == 0x110 then { s with h := { s.h with apbase := merged &&& 0xFFFFFFFF0000#64 } }
  else if o == 0x118 then { s with h := { s.h with qovf := s.h.qovf &&& ~~~raw } }
  else if o == 0x200 then (if lo then s.plimit (merged.extractLsb' 0 12).toNat else s)
  else if o == 0x30000 then { s with h := { s.h with grpbase := merged } }
  else if decide (0x40000 ≤ o) && decide (o < 0x42000) then
    let keep := if lo then (if hi then raw else (s.h.nonce >>> (8 * (o - 0x40080))).extractLsb' 32 32 ++ raw.extractLsb' 0 32)
      else raw.extractLsb' 32 32 ++ (s.h.nonce >>> (8 * (o - 0x40080))).extractLsb' 0 32
    s.measWrite (o - 0x40000) raw keep lo
  else if decide (0x50000 ≤ o) && decide (o < 0x52000) then
    let c := (o - 0x50000) / 128
    if (o - 0x50000) % 128 == 64 then s.fctl c raw
    else if (o - 0x50000) % 128 == 72 && raw.getLsbD 0 then s.hostFreeze c else s
  else if decide (0x60000 ≤ o) && decide (o < 0x60400) then
    if o % 16 == 8 then
      s.updCtx ((o - 0x60000) / 16) fun k => { k with rejstat := k.rejstat &&& ~~~(raw.extractLsb' 0 18 &&& 0x30000#18) }
    else s
  else if o == 0x70000 then { s with h := { s.h with fq := { s.h.fq with base := merged } } }
  else if o == 0x70008 then
    let ctl := ringCtl s.h.fq.ctl merged raw
    let s := { s with h := { s.h with fq := { s.h.fq with ctl := ctl } } }
    if s.h.fq.en then s else s.faultDisable
  else if o == 0x70018 then { s with h := { s.h with fq := { s.h.fq with tail := merged.extractLsb' 0 32 } } }
  else if o == 0x70020 then
    if !(lo && hi) then s
    else
      match (raw.extractLsb' 0 2).toNat with
      | 1 => s.faultRetry (raw.extractLsb' 32 32)
      | 2 => s.faultFail (raw.extractLsb' 32 32)
      | _ => s
  else if decide (0x80000 ≤ o) && decide (o < 0x80200) then s.watchWrite ((o - 0x80000) / 64) (o % 64 / 8) merged
  else if o == 0x90000 then s.cbbase merged
  else if o == 0x90008 then { s with h := { s.h with cb := { s.h.cb with ctl := merged.extractLsb' 0 32 &&& 0x800F0000#32 } } }
  else if o == 0x90018 then { s with h := { s.h with cb := { s.h.cb with tail := merged.extractLsb' 0 32 } } }
  else if o == 0xA0000 then { s with h := { s.h with er := { s.h.er with base := merged } } }
  else if o == 0xA0008 then
    ({ s with h := { s.h with er := { s.h.er with ctl := ringCtl s.h.er.ctl merged raw } } }).errSettle
  else if o == 0xA0018 then { s with h := { s.h with er := { s.h.er with tail := merged.extractLsb' 0 32 } } }
  else if o == 0xA0028 then
    if !(lo && hi) then s
    else
      match (raw.extractLsb' 0 2).toNat with
      | 1 => s.errAnswer (raw.extractLsb' 32 32) false
      | 2 => s.errAnswer (raw.extractLsb' 32 32) true
      | _ => s
  else if decide (0x10000000 ≤ o) && decide (o < 0x10040000) then
    if lo && hi && decide (o % 4096 < 128) then s.doorbell ((o - 0x10000000) / 4096) (o % 4096 / 8) raw else s
  else s

/-- A write to a 64-bit slot of a die's part of the window (R347, R452). -/
def State.write64 (s : State) (die o : Nat) (raw : DWord) (lo hi : Bool) : State :=
  let old := s.read64 die o
  let merged := (if hi then raw.extractLsb' 32 32 else old.extractLsb' 32 32) ++
    (if lo then raw.extractLsb' 0 32 else old.extractLsb' 0 32)
  if o == 0x300 then { s with h := { s.h with lc := updAt s.h.lc die fun l => l.write raw } }
  else if o == 0x400 then (if raw.getLsbD 0 then s.errcntClear die else s)
  else if decide (0x1000 ≤ o) && decide (o < 0x1090) then
    let k := 36 * die + (o - 0x1000) / 4
    let b := if lo then updAt s.h.cbudget k fun _ => raw.extractLsb' 0 10 else s.h.cbudget
    { s with h := { s.h with cbudget := if hi then updAt b (k + 1) fun _ => raw.extractLsb' 32 10 else b } }
  else if decide (0x10000 ≤ o) && decide (o < 0x11000) then
    if o % 256 == 0 then
      { s with h := { s.h with health := updAt s.h.health (16 * die + (o - 0x10000) / 256) fun h => h.write merged } }
    else s
  else if decide (0x20000 ≤ o) && decide (o < 0x20030) then
    let half := merged &&& 0xFFFFFFFFFFFF#64
    { s with h := { s.h with linkwin := updAt s.h.linkwin (3 * die + (o - 0x20000) / 16) fun w =>
      if o % 16 == 0 then w.extractLsb' 64 64 ++ half else half ++ w.extractLsb' 0 64 } }
  else if die == 0 then s.writeDevice o raw merged lo hi
  else s

/-- Offset of a physical address in the window, and its die. -/
def winPart (pa : Nat) : Nat × Nat := ((pa - 0x40000000000) / 0x40000000, (pa - 0x40000000000) % 0x40000000)

/-- A load from the window (R452): 1 and 2 bytes read zero, 16 bytes are two loads. -/
def State.winLoad (s : State) (pa n : Nat) : List Byte :=
  let p := winPart pa
  let slot (o : Nat) : List Byte := natBytes 8 (s.read64 p.1 o).toNat
  if n < 4 then List.replicate n 0#8
  else if n == 4 then ((slot (p.2 / 8 * 8)).drop (p.2 % 8)).take 4
  else (List.range (n / 8)).flatMap fun i => slot (p.2 + 8 * i)

/-- A store to the window (R452). -/
def State.winStore (s : State) (pa : Nat) (bs : List Byte) : State :=
  let p := winPart pa
  if bs.length < 4 then s
  else if bs.length == 4 then
    let w := leWord bs
    if p.2 % 8 == 0 then s.write64 p.1 p.2 w true false else s.write64 p.1 (p.2 - 4) (w <<< 32) false true
  else
    (List.range (bs.length / 8)).foldl (fun s i => s.write64 p.1 (p.2 + 8 * i) (leWord ((bs.drop (8 * i)).take 8)) true true) s

/-! Host events on registers -/

/-- CONTEXT_ENABLE (R351). -/
def execContextEnable (ctx : Nat) (s : State) : Out := .next (s.ctxEnable ctx)
/-- CONTEXT_DISABLE (R351). -/
def execContextDisable (ctx : Nat) (s : State) : Out := .next (s.ctxDisable ctx)
/-- PLIMIT_WRITE (R353). -/
def execPlimitWrite (watts : BitVec 32) (s : State) : Out := .next (s.plimit (watts.extractLsb' 0 12).toNat)
/-- MONITOR_CLEAR (R356): a write of CLR. -/
def execMonitorClear (die mon : Nat) (s : State) : Out :=
  .next { s with h := { s.h with health := updAt s.h.health (16 * die + mon) fun h => h.clear } }
/-- QUOTE (R355). -/
def execQuote (s : State) : Out := .next s.quote
/-- QUOTE_DONE (R355). -/
def execQuoteDone (s : State) : Out := .next s.quoteDone
/-- KILL (R380). -/
def execKill (ctx : Nat) (s : State) : Out := .next (s.killCtx ctx)
/-- KILL_COMPLETE (R380). -/
def execKillComplete (ctx : Nat) (s : State) : Out := .next (s.killDone ctx)
/-- RESUME (R380). -/
def execResume (ctx : Nat) (s : State) : Out := .next (s.resumeCtx ctx)
/-- HFRZ_WRITE (R451). -/
def execHfrzWrite (ctx : Nat) (s : State) : Out := .next (s.hostFreeze ctx)
/-- FAULT_RETRY (R405). -/
def execFaultRetry (id : BitVec 32) (s : State) : Out := .next (s.faultRetry id)
/-- FAULT_FAIL (R405). -/
def execFaultFail (id : BitVec 32) (s : State) : Out := .next (s.faultFail id)
/-- FAULT_RING_DISABLE (R403). -/
def execFaultRingDisable (s : State) : Out := .next s.faultDisable
/-- FAULT_RECORD_WRITE (R404). -/
def execFaultRecordWrite (fault : Nat) (s : State) : Out := .next (s.faultWrite fault)
/-- ERROR_RETRY (R447). -/
def execErrorRetry (id : BitVec 32) (s : State) : Out := .next (s.errAnswer id false)
/-- ERROR_FREEZE (R447). -/
def execErrorFreeze (id : BitVec 32) (s : State) : Out := .next (s.errAnswer id true)
/-- ERROR_RING_DISABLE (R447). -/
def execErrorRingDisable (s : State) : Out := .next s.errDisable
/-- ERROR_RECORD_WRITE (R447). -/
def execErrorRecordWrite (err : Nat) (s : State) : Out := .next (s.errWrite err)
/-- WATCH_WRITE (R422): `off` is the byte offset of the register in the watch. -/
def execWatchWrite (w off : Nat) (value : BitVec 64) (s : State) : Out := .next (s.watchWrite w (off % 64 / 8) value)
/-- CBBASE_WRITE (R428). -/
def execCbbaseWrite (value : BitVec 64) (s : State) : Out := .next (s.cbbase value)
/-- LCSTAT_CLEAR (R410): a write of CLR. -/
def execLcstatClear (die : Nat) (s : State) : Out :=
  .next { s with h := { s.h with lc := updAt s.h.lc die fun l => l.write 4#64 } }
/-- ERRCNT_CLEAR (R448). -/
def execErrcntClear (die : Nat) (s : State) : Out := .next (s.errcntClear die)
/-- DOORBELL (R352): a write through a PCIe link that is down is lost (R446). -/
def execDoorbell (ctx : LinkCtx) (q : Nat) (ptr : BitVec 64) (s : State) : Out :=
  .next (if s.b.pcie.getLsbD ctx.link then s.doorbell ctx.ctx q ptr else s)
/-- REGISTER_WRITE (R452): a host store of 1, 2, 4, 8 or 16 bytes at an offset of the window; one that is not naturally
aligned is ignored. One to the doorbell pages is lost where no link is trained (R446): that it comes through a trained one where
there is any is a DESIGN CHOICE (log 82). -/
def execRegisterWrite (off width : Nat) (value : BitVec 128) (s : State) : Out :=
  .next (if decide (0x10000000 ≤ off) && decide (off < 0x10040000) && s.b.pcie == 0#2 then s
    else if (width == 4 || width == 8 || width == 16) && off % width == 0 && decide (off < 0x100000000) then
    s.winStore (0x40000000000 + off) (natBytes width value.toNat) else s)

end Sys2Proof.Machine
end

