-- ==== Sys2Proof/Machine/Mem.lean ====
section
/-! DEFINITION. Loads, stores, tags, descriptors, prefetch, atomics and reductions: their issue (R80, R92, R200 to R209,
R224 to R228). -/

namespace Sys2Proof.Machine

/-- Bytes of a width (R202). -/
def widthBytes : Width → Nat
  | .b8 => 1 | .b16 => 2 | .b32 => 4 | .b64 => 8 | .b128 => 16
/-- Registers of a width (R200). -/
def widthRegs (w : Width) : Nat := if widthBytes w ≤ 4 then 1 else widthBytes w / 4

/-- The bytes of a run of registers, low register first (R202). -/
def regBytes (t : Thread) (d n : Nat) : List Byte :=
  ((t.run d ((n + 3) / 4)).flatMap fun w => loBytes 4 (w.zeroExtend 64)).take n

/-- Address of a memory operand with a pointer pair and an offset (R148). -/
def ptrAddr (t : Thread) (addr : VReg) (off : BitVec 14) : DWord := t.pair addr.toNat + off.signExtend 64

/-- Address of a scratchpad operand (R204). -/
def spadAddr (t : Thread) (addr : VReg) (off : BitVec 14) : Word := t.vget addr.toNat + off.signExtend 32

/-- The access performs at the home slice (R63, R92). -/
def Acc.atHome (a : Acc) : Bool := decide (2 ≤ a.scope) || a.mt != 0#2

/-! Isolated teams (R318, R435) -/

/-- Where an isolated team keeps the bytes that it stores to the scratchpad of a rank of its cluster (R318, R435). -/
def isoSpad (rank off : Nat) : Nat := 2 ^ 48 + 2 ^ 24 * rank + off
/-- Where an isolated team keeps the tag that it sets on the sector of a virtual address (R318, R435). -/
def isoTag (va : Nat) : Nat := 2 ^ 52 + va / 64

/-- Bytes stored by an isolated team stay with it; a shadow whose stores overflow its L1 is skipped (R318). -/
def State.storeIsolated (s : State) (tm : Team) (va : Nat) (bs : List Byte) : State :=
  let m := bs.zipIdx.foldl (fun m b => sput m (va + b.2) b.1) tm.isolated
  let lines := ((m.filter fun p => decide (p.1 < 2 ^ 52)).map fun p => p.1 / 256).eraseDups.length
  if tm.shadowOf.isSome && decide (s.l1Lines tm.core < lines) then s.skipShadow tm
  else s.updTeam tm.uid fun k => { k with isolated := m }

/-- Bytes of a load with the team's own isolated stores over them. -/
def State.overlay (s : State) (t : Thread) (va : Nat) (bs : List Byte) : List Byte :=
  match s.teamOf t with
  | none => bs
  | some tm => if tm.isolated.isEmpty then bs else bs.zipIdx.map fun b => (sget tm.isolated (va + b.2)).getD b.1

/-- The tag that an isolated team has itself set on the sector of an address. -/
def State.tagKept (s : State) (t : Thread) (p : DWord) : Option (BitVec 4) :=
  if s.isolates t then
    (s.teamOf t).bind fun tm => (sget tm.isolated (isoTag (ptrVa p))).map fun b => b.extractLsb' 0 4
  else none

/-- An access whose pointer carries the tag that its isolated team has itself set (R64, R435): memory's own is not
checked. -/
def State.ownTagFits (s : State) (t : Thread) (p : DWord) : Bool := s.tagKept t p == some (ptrTag p)

/-- The tag to check of an access of an isolated team: none where the team's own agrees. -/
def State.ownTag (s : State) (t : Thread) (a : Acc) : Acc := if s.ownTagFits t a.va then { a with tag := none } else a

/-! The checks of a lane (R201, R390, R444) -/

/-- The data that an access would read is poisoned, or behind a link that is down (R444, R446). -/
def State.poisonSeen (s : State) (core ctx pa n : Nat) (atHome : Bool) : Bool :=
  if isWindow pa then false
  else if s.hostDown pa then true
  else
    let l := pa / 256
    let k := pa % 256 / 64
    let die := coreDie core
    if atHome then s.poisoned pa
    else
      let m := ((s.copy? (.l1 core) l ctx).map Copy.mask).getD []
      if (List.range n).all fun i => (sget m (pa % 256 + i)).isSome then false
      else
        match s.validSector (.l1 core) die l ctx k with
        | some (d, _) => d.poison
        | none =>
          match (pathPlace core (256 * l)).bind fun p => s.validSector p die l ctx k with
          | some (d, _) => d.poison
          | none => s.poisoned pa

/-- Steps 4 to 6 of R201 for one access of a lane, then what follows: a page fault parks the lane, and so does poison
that a reading access would consume. -/
def State.access (s : State) (t : Thread) (p : DWord) (n : Nat) (modifies reads tags : Bool) (tensor : BitVec 12)
    (scope code : Nat) (k : State → Acc → Res State) : Res State :=
  match s.threadCheck t p n modifies (tags && !s.ownTagFits t p) tensor scope with
  | (_, .code c) => .error (Cause.at c p)
  | (s, .fault c) => s.parkPage t p c code
  | (s, .go a) =>
    let a := s.ownTag t a
    if (reads && s.poisonSeen t.core t.ctx a.pa n a.atHome) || s.hostDown a.pa then
      .ok (s.parkPoison t p a.pa (paUnit a.pa).1 (paUnit a.pa).2)
    else k s a

/-- What a buffer form addresses (R80). -/
inductive Buf where
  | at_ (p : DWord)
  | robust
deriving DecidableEq, Repr

/-- The bounds check of a buffer form (R79, R80). -/
def State.bufAddr (s : State) (t : Thread) (dn : DReg) (i : VReg) (n : Nat) (modifies : Bool) :
    Res (Buf × BitVec 12) :=
  match s.teamOf t with
  | none => illop
  | some tm =>
    let d := tm.d.getD dn.toNat 0#256
    let off : DWord := (t.vget i.toNat).zeroExtend 64 <<< descEsize d
    let p := descBase d + off
    if descKind d != 1 then illop
    else if descExtent d < off.toNat + n then
      (if descRobust d then .ok (.robust, descTensor d) else .error (Cause.at .bounds p))
    else if descRo d && modifies then .error (Cause.at .permission p)
    else .ok (.at_ p, descTensor d)

/-- A lane's pointer must be aligned to the width (R58). -/
def alignTo (p : DWord) (n : Nat) : Res Unit := if p.toNat % n == 0 then .ok () else .error (Cause.at .align p)

/-- A word that a helper thread performs nothing of, and raises nothing for (R341): the register blocks are checked for the
other lanes. -/
def State.lanesNoHelper (s : State) (g : Grd) (runs : List (VReg × Nat)) (f : State → Thread → Res State) : State :=
  s.lanes g [] fun s t =>
    if t.helper then .ok s
    else if !t.inBlocks runs then .error (Cause.of .registerBlock)
    else f s t

/-! Retained loads (R235) -/

/-- A global load of a watched holder takes its place among the first four of its section, its bytes still to come. -/
def State.retainLoad (s : State) (t : Thread) (va : DWord) : State :=
  if lnWatched t.name && !t.secs.isEmpty then s.retain t.uid va [] else s

/-- The bytes of a retained load. -/
def State.fillPre (s : State) (u : Nat) (va : DWord) (bs : List Byte) : State :=
  let fill (ps : List (DWord × List Byte)) : List (DWord × List Byte) :=
    match ps.findIdx? fun p => p.1 == va && p.2.isEmpty with
    | some i => ps.set i (va, bs)
    | none => ps
  s.updThread u fun t => { t with secs := t.secs.map fun h => { h with pre := fill h.pre } }

/-! Global loads and stores (R202, R203) -/

/-- Registers that a load writes (R202). -/
def loadRegs (w : Width) (sx : Bool) (d : Nat) (bs : List Byte) : List (Nat × Word) :=
  let v (i : Nat) : Word := (leWord ((bs.drop (4 * i)).take 4)).extractLsb' 0 32
  match w with
  | .b8 => [(d, if sx then (v 0 |>.extractLsb' 0 8).signExtend 32 else v 0)]
  | .b16 => [(d, if sx then (v 0 |>.extractLsb' 0 16).signExtend 32 else v 0)]
  | .b32 => [(d, v 0)]
  | .b64 => [(d, v 0), (d + 1, v 1)]
  | .b128 => (List.range 4).map fun i => (d + i, v i)

/-- A load of the named thread inside a section (R435): the bytes that a supplied pre-image record gives it, of the i-th
record that matches its section, address and width for its i-th such load; and the replay with the load counted. -/
def Replay.supply (r : Replay) (t : Thread) (p : DWord) (n : Nat) : Option (List Byte) × Replay :=
  match t.lastSec with
  | none => (none, r)
  | some h =>
    let va := p.extractLsb' 0 48
    let fits (x : BitVec 512) : Bool := preOf t h.key h.seq x && x.extractLsb' 48 48 == va && (x.extractLsb' 20 5).toNat == n
    let k : BitVec 117 × DWord × Word × DWord × Nat := (t.name.extractLsb' 11 117, h.key, h.seq, va.zeroExtend 64, n)
    let i := ((r.supplied.find? fun c => c.1 == k).map Prod.snd).getD 0
    let out := ((r.records.filter fits)[i]?).map fun x => natBytes n ((x.extractLsb' 256 128).toNat)
    (out, { r with supplied := r.supplied.filter (fun c => c.1 != k) ++ [(k, i + 1)], given := out.isSome })

/-- A load of a replay's named thread inside a section: supplied, or performed with its pre-image missing (R435). -/
def State.replayLoad (s : State) (t : Thread) (c : Ctl) (w : Width) (sx : Bool) (d : Nat) (p : DWord) (a : Acc) : State :=
  match (s.launch? t.launch).bind Launch.replay with
  | none => s.launchFlight t c (.load a w sx d [])
  | some r =>
    let q := r.supply t p (widthBytes w)
    let s := s.updReplay t.launch fun _ => q.2
    match q.1 with
    | some bs => (s.note t 2#8 0#8).launchFlight t c (.sampled (loadRegs w sx d bs) [])
    | none => (s.note t 0#8 0x10#8).launchFlight t c (.load a w sx d [])

/-- One lane of a global load. -/
def State.loadLane (s : State) (t : Thread) (c : Ctl) (w : Width) (sx : Bool) (d : Nat) (p : DWord) (tensor : BitVec 12)
    (scope : Nat) : Res State := do
  alignTo p (widthBytes w)
  s.access t p (widthBytes w) false true true tensor scope 0 fun s a =>
    .ok (if t.isNamed && !t.secs.isEmpty then s.replayLoad t c w sx d p a
      else (s.retainLoad t p).launchFlight t c (.load a w sx d []))

/-- A watched write is recorded at its issue, but for one that is known to perform nothing: a narrow store to the management
window is ignored (R426, R452). -/
def State.recordStore (s : State) (t : Thread) (a : Acc) (bs : List Byte) : State :=
  if isWindow a.pa && decide (bs.length < 4) then s else s.recordWrite t 0 a.va bs

/-- One lane of a global store: a helper's performs nothing (R341). -/
def State.storeLane (s : State) (t : Thread) (c : Ctl) (d n : Nat) (p : DWord) (tensor : BitVec 12) (scope : Nat) :
    Res State := do
  alignTo p n
  s.access t p n true false true tensor scope 1 fun s a =>
    let bs := regBytes t d n
    .ok (((s.recordStore t a bs).streamAdd t s.x.nextUid p n bs).launchFlight t c (.store a bs))

/-- LD (R202). -/
def execLd (c : Ctl) (w : Width) (sx : Bool) (data : VReg) (addr : VReg) (off : BitVec 14) (scope : BitVec 3)
    (s : State) : Out :=
  .next (s.lanes c.grd [(addr, 2), (data, widthRegs w)] fun s t =>
    s.loadLane t c w sx data.toNat (ptrAddr t addr off) 0#12 scope.toNat)

/-- ST (R202). -/
def execSt (c : Ctl) (w : Width) (data : VReg) (addr : VReg) (off : BitVec 14) (scope : BitVec 3) (s : State) : Out :=
  .next (s.lanesNoHelper c.grd [(addr, 2), (data, widthRegs w)] fun s t =>
    s.storeLane t c data.toNat (widthBytes w) (ptrAddr t addr off) 0#12 scope.toNat)

/-- LDB (R80, R202). -/
def execLdb (c : Ctl) (w : Width) (sx : Bool) (data : VReg) (dn : DReg) (i : VReg) (scope : BitVec 3) (s : State) : Out :=
  .next (s.lanes c.grd [(i, 1), (data, widthRegs w)] fun s t => do
    match ← s.bufAddr t dn i (widthBytes w) false with
    | (.robust, _) => .ok (s.launchFlight t c (.sampled ((List.range (widthRegs w)).map fun k => (data.toNat + k, 0#32)) []))
    | (.at_ p, tensor) => s.loadLane t c w sx data.toNat p tensor scope.toNat)

/-- STB (R80, R202). -/
def execStb (c : Ctl) (w : Width) (data : VReg) (dn : DReg) (i : VReg) (scope : BitVec 3) (s : State) : Out :=
  .next (s.lanesNoHelper c.grd [(i, 1), (data, widthRegs w)] fun s t => do
    match ← s.bufAddr t dn i (widthBytes w) true with
    | (.robust, _) => .ok s
    | (.at_ p, tensor) => s.storeLane t c data.toNat (widthBytes w) p tensor scope.toNat)

/-! Scratchpad loads and stores (R71, R204, R205) -/

/-- Where a scratchpad access of a team-local form lands. -/
def State.spadOwn (s : State) (t : Thread) (a : Word) (n : Nat) : Res (Team × Nat) := do
  alignTo (a.zeroExtend 64) n
  match s.teamOf t with
  | none => .error (Cause.at .scratchRange (a.zeroExtend 64))
  | some tm => if tm.ssize < a.toNat + n then .error (Cause.at .scratchRange (a.zeroExtend 64)) else .ok (tm, a.toNat)

/-- The team of a rank of a thread's cluster (R71, R205): none where it has ended. -/
def State.rankTeam (s : State) (tm : Team) (rank : Nat) : Option Team :=
  if rank == tm.rank then some tm
  else s.x.teams.find? fun k => k.launch == tm.launch && k.cluster == tm.cluster && k.rank == rank && k.shadowOf.isNone

/-- Where a scratchpad access of a cluster form lands (R71). -/
def State.spadCluster (s : State) (t : Thread) (a : Word) (n : Nat) : Res (Team × Nat) := do
  alignTo (a.zeroExtend 64) n
  match (s.teamOf t).bind fun tm => s.rankTeam tm (a.toNat / 2 ^ 24) with
  | none => .error (Cause.at .scratchRange (a.zeroExtend 64))
  | some tm =>
    if tm.ssize < a.toNat % 2 ^ 24 + n then .error (Cause.at .scratchRange (a.zeroExtend 64))
    else .ok (tm, a.toNat % 2 ^ 24)

/-- LDS (R204). -/
def execLds (c : Ctl) (w : Width) (sx : Bool) (data : VReg) (addr : VReg) (off : BitVec 14) (_scope : BitVec 3)
    (s : State) : Out :=
  .next (s.lanes c.grd [(addr, 1), (data, widthRegs w)] fun s t => do
    let a := spadAddr t addr off
    let (tm, o) ← s.spadOwn t a (widthBytes w)
    .ok (s.spadGate t tm (a.zeroExtend 64) o (widthBytes w) true
      (s.launchFlight t c (.loadS tm.uid o (a.zeroExtend 64) w sx data.toNat []))))

/-- STS (R204). -/
def execSts (c : Ctl) (w : Width) (data : VReg) (addr : VReg) (off : BitVec 14) (_scope : BitVec 3) (s : State) : Out :=
  .next (s.lanes c.grd [(addr, 1), (data, widthRegs w)] fun s t => do
    let a := spadAddr t addr off
    let (tm, o) ← s.spadOwn t a (widthBytes w)
    .ok (s.spadGate t tm (a.zeroExtend 64) o (widthBytes w) false
      (s.launchFlight t c (.storeS tm.uid o (regBytes t data.toNat (widthBytes w)) 1))))

/-- A rank of the cluster of a re-created thread other than its own: its scratchpad is not there, and what the thread stores
to it stays with the thread (R433, R435). -/
def State.rankGone (s : State) (t : Thread) (a : Word) (n : Nat) : Option (Team × Nat) :=
  match s.teamOf t, s.launch? t.launch with
  | some tm, some l =>
    let rank := a.toNat / 2 ^ 24
    if t.isReplay && rank != tm.rank && decide (rank < l.cs) && decide (a.toNat % 2 ^ 24 + n ≤ tm.ssize) && a.toNat % n == 0 then
      some (tm, isoSpad rank (a.toNat % 2 ^ 24))
    else none
  | _, _ => none

/-- LDC (R205). -/
def execLdc (c : Ctl) (w : Width) (sx : Bool) (data : VReg) (addr : VReg) (off : BitVec 14) (_scope : BitVec 3)
    (s : State) : Out :=
  .next (s.lanes c.grd [(addr, 1), (data, widthRegs w)] fun s t =>
    let a := spadAddr t addr off
    match s.rankGone t a (widthBytes w) with
    | some (tm, o) =>
      let bs := (List.range (widthBytes w)).map fun i => (sget tm.isolated (o + i)).getD 0#8
      .ok (s.launchFlight t c (.sampled (loadRegs w sx data.toNat bs) []))
    | none => do
      let (tm, o) ← s.spadCluster t a (widthBytes w)
      .ok (s.spadGate t tm (a.zeroExtend 64) o (widthBytes w) true
        (s.launchFlight t c (.loadS tm.uid o (a.zeroExtend 64) w sx data.toNat []))))

/-- STC (R205). It stores no global bytes, and so makes no record of the store stream (R319). -/
def execStc (c : Ctl) (w : Width) (data : VReg) (addr : VReg) (off : BitVec 14) (scope : BitVec 3) (s : State) : Out :=
  .next (s.lanes c.grd [(addr, 1), (data, widthRegs w)] fun s t =>
    let a := spadAddr t addr off
    let n := widthBytes w
    let bs := regBytes t data.toNat n
    match s.rankGone t a n with
    | some (tm, o) => .ok ((s.storeIsolated tm o bs).launchFlight t c (.write [] []))
    | none => do
      let (tm, o) ← s.spadCluster t a n
      let k := if t.team == some tm.uid then 1 else 8 + scope.toNat
      .ok (s.spadGate t tm (a.zeroExtend 64) o n false (s.launchFlight t c (.storeS tm.uid o bs k))))

/-! Prefetch, tags and descriptors (R206 to R209) -/

/-- PREF (R206): a lane that would fault does nothing. -/
def execPref (c : Ctl) (addr : VReg) (off : BitVec 14) (s : State) : Out :=
  .next (s.lanes c.grd [(addr, 2)] fun s t =>
    let p := ptrAddr t addr off
    match s.threadCheck t p 1 false true 0#12 1 with
    | (s, .go a) => .ok (s.launchFlight t c (.pref (if a.mt == 0#2 && !isWindow a.pa then some a else none)))
    | _ => .ok (s.launchFlight t c (.pref none)))

/-- The checks of TAGST and TAGLD (R207): no alignment and no tag; the locks at the sector named. -/
def State.tagLane (s : State) (t : Thread) (p : DWord) (modifies : Bool) (k : State → Acc → Res State) : Res State :=
  match s.pageCheck t.core (some (t.slice, t.lane)) t.ctx p 1 modifies false false 0#12 1 with
  | (_, .code c) => .error (Cause.at c p)
  | (s, .fault c) => s.parkPage t p c (if modifies then 1 else 0)
  | (s, .go a) =>
    if s.locked t.ctx (ptrVa p / 64 * 64) 64 modifies then .error (Cause.at .rangeLock p)
    else if !modifies && s.poisonSeen t.core t.ctx a.pa 1 true then
      .ok (s.parkPoison t p a.pa (paUnit a.pa).1 (paUnit a.pa).2)
    else k s a

/-- TAGST (R207). -/
def execTagst (c : Ctl) (data addr : VReg) (off : BitVec 14) (_scope : BitVec 3) (s : State) : Out :=
  .next (s.lanes c.grd [(addr, 2), (data, 1)] fun s t =>
    s.tagLane t (ptrAddr t addr off) true fun s a =>
      .ok (s.launchFlight t c (.tagst a ((t.vget data.toNat).extractLsb' 0 4))))

/-- TAGLD (R207). -/
def execTagld (c : Ctl) (data addr : VReg) (off : BitVec 14) (_scope : BitVec 3) (s : State) : Out :=
  .next (s.lanes c.grd [(addr, 2), (data, 1)] fun s t =>
    s.tagLane t (ptrAddr t addr off) false fun s a => .ok (s.launchFlight t c (.tagld a data.toNat)))

/-- DLOAD (R208). -/
def execDload (c : Ctl) (dn : DReg) (addr : VReg) (off : BitVec 14) (scope : BitVec 3) (s : State) : Out :=
  .next (s.lanes c.grd [(addr, 2)] fun s t =>
    let p := ptrAddr t addr off
    if t.team.isNone then illop
    else do
      alignTo p 32
      s.access t p 32 false true true 0#12 scope.toNat 0 fun s a => .ok (s.launchFlight t c (.dload a dn.toNat [])))

/-- DLOAD accepts a record, and what the register then holds; none where it is refused (R79, R208, R250). -/
def descAccept (d : BitVec 256) : Option (BitVec 256) :=
  let flags := d.extractLsb' 234 2 == 0#2
  let base := ((descBase d).extractLsb' 0 48).toNat
  match descKind d with
  | 0 => some 0#256
  | 1 =>
    if decide (descEsize d ≤ 4) && flags && d.extractLsb' 176 56 == 0#56 && d.extractLsb' 64 64 == 0#64
      && decide (base + descExtent d ≤ 2 ^ 48) then some d else none
  | 2 =>
    if decide (descEsize d ≤ 2) && flags && d.extractLsb' 96 20 == 0#20
      && decide (base + tsCount d * 2 ^ descEsize d ≤ 2 ^ 48) then some d else none
  | _ => none

/-- DQRY (R209). -/
def execDqry (c : Ctl) (d : VReg) (dn : DReg) (b : SrcB) (s : State) : Out :=
  .next (s.lanes c.grd ((d, 1) :: bRuns b 1) fun s t => do
    let y ← s.srcI t b
    match s.teamOf t with
    | none => illop
    | some tm =>
      if 7 < y.toNat then illop
      else .ok (s.launchFlight t c (.dqry d.toNat ((tm.d.getD dn.toNat 0#256).extractLsb' (32 * y.toNat) 32))))

/-! Atomics and reductions (R224 to R228) -/

/-- Registers that a memory operand names. -/
def maddrRuns : MAddr → List (VReg × Nat)
  | .ptr addr _ => [(addr, 2)]
  | .desc _ i => [(i, 1)]

/-- The address of a memory operand of an atomic, after the bounds check (R80, R148). -/
def State.maddr (s : State) (t : Thread) (ad : MAddr) (n : Nat) (modifies : Bool) : Res (Buf × BitVec 12) :=
  match ad with
  | .ptr addr off => .ok (.at_ (ptrAddr t addr off), 0#12)
  | .desc dn i => s.bufAddr t dn i n modifies

/-- The thread's atomics write nothing: a helper's, or a replay's (R341, R435). -/
def Thread.quiet (t : Thread) : Bool := t.helper || t.isReplay

/-- A watched atomic or reduction is recorded at its issue; at the management window it performs nothing (R228, R426, log 33). -/
def State.recordAtom (s : State) (t : Thread) (event : Nat) (a : Acc) (operand : List Byte) : State :=
  if isWindow a.pa then s else s.recordWrite t event a.va operand

/-- One lane of an atomic: the checks, then `k` (R224, R225). It performs on the line as the home holds it, and its tag is
checked there (R64, R95, R408); a helper's or a replay's is a load of the address (R341, R435). A shadow that reaches one is
skipped (R318). Under ROBUST out of bounds the result is 0 (R80). -/
def State.atomLane (s : State) (t : Thread) (c : Ctl) (w64 : Bool) (data : VReg) (ad : MAddr) (operand : List Byte)
    (k : Acc → FlightOp) : Res State :=
  match s.inShadow t with
  | some tm => .ok (s.skipShadow tm)
  | none => do
    let n := opWidth w64
    match ← s.maddr t ad n (!t.quiet) with
    | (.robust, _) =>
      let s := if t.quiet then s.note t 0#8 0x20#8 else s
      .ok (s.launchFlight t c (.sampled ((List.range (n / 4)).map fun i => (data.toNat + i, 0#32)) []))
    | (.at_ p, tensor) =>
      alignTo p n
      s.access t p n (!t.quiet) true true tensor (if t.quiet then 1 else 2) 2 fun s a =>
        let s := if t.quiet then s.note t 0#8 0x20#8 else s.recordAtom t 1 a operand
        .ok (s.launchFlight t c (k a))

/-- ATOM (R224). -/
def execAtom (c : Ctl) (w64 : Bool) (op : AtomOp) (data : VReg) (ad : MAddr) (_scope : BitVec 3) (s : State) : Out :=
  .next (s.lanes c.grd ((data, opWidth w64 / 4) :: maddrRuns ad) fun s t =>
    let x := if w64 then t.pair data.toNat else (t.vget data.toNat).zeroExtend 64
    s.atomLane t c w64 data ad (loBytes (opWidth w64) x) fun a => .atom a w64 op x data.toNat)

/-- ATOMC (R225). -/
def execAtomc (c : Ctl) (w64 : Bool) (data : VReg) (ad : MAddr) (_scope : BitVec 3) (s : State) : Out :=
  .next (s.lanes c.grd ((data, opWidth w64 / 2) :: maddrRuns ad) fun s t =>
    let e := if w64 then t.pair data.toNat else (t.vget data.toNat).zeroExtend 64
    let n := if w64 then t.pair (data.toNat + 2) else (t.vget (data.toNat + 1)).zeroExtend 64
    s.atomLane t c w64 data ad (loBytes (opWidth w64) n) fun a => .atomc a w64 e n data.toNat)

/-- A couched entry of a thread, numbered in its program order (R227). -/
def State.couchOf (s : State) (t : Thread) (a : Acc) (op : AtomOp) (w64 : Bool) (x : DWord) (count : Nat) (poison : Bool) :
    CouchEntry :=
  ⟨t.launch, a.pa, t.ctx, op, w64, x, a.tensor, (s.srTeam t).toNat, t.srGroup, t.lane, count, poison⟩

/-- RED (R107, R226): couched in a deterministic launch for a thread of a team, else in flight to its home slice. One of a
shadow enters its digest alone (R318). -/
def execRed (c : Ctl) (w64 : Bool) (op : AtomOp) (data : VReg) (ad : MAddr) (_scope : BitVec 3) (s : State) : Out :=
  .next (s.lanesNoHelper c.grd ((data, opWidth w64 / 4) :: maddrRuns ad) fun s t => do
    let n := opWidth w64
    let x := if w64 then t.pair data.toNat else (t.vget data.toNat).zeroExtend 64
    match ← s.maddr t ad n true with
    | (.robust, _) => .ok s
    | (.at_ p, tensor) =>
      alignTo p n
      s.access t p n true false true tensor 2 2 fun s a =>
        let s := (s.recordAtom t 2 a (loBytes n x)).streamAdd t s.x.nextUid p n (loBytes n x)
        if (s.inShadow t).isSome then .ok s
        else if s.det t && t.team.isSome && !t.isReplay && !isWindow a.pa then
          .ok ((s.updThread t.uid fun u => { u with couch := u.couch + 1 }).couchAdd t.core
            (s.couchOf t a op w64 x t.couch false))
        else .ok (s.launchFlight t c (.red a w64 op x)))

end Sys2Proof.Machine
end

