-- ==== Sys2Proof/Machine/Nodes.lean ====
section
/-! DEFINITION. The hierarchy's records and the exact tests on them (R267, R271 to R273, R333 to R336). -/

namespace Sys2Proof.Machine

/-! Child references and nodes (R333 to R336) -/

/-- A child reference that is not empty: its kind, the leaves of its run, and its pointer (R333, R334). -/
def childRef (r : DWord) : Option (Nat × Nat × DWord) :=
  let k := (r.extractLsb' 60 4).toNat
  let n := (r.extractLsb' 56 4).toNat
  if decide (1 ≤ k) && decide (k ≤ 3) && r.extractLsb' 52 4 == 0#4 && (n == 0 || k == 2) then
    some (k, n + 1, r.extractLsb' 48 4 ++ 0#12 ++ r.extractLsb' 0 48)
  else none

/-- A word of a record of bytes. -/
def recWord (bs : List Byte) (i : Nat) : Word := (leWord ((bs.drop (4 * i)).take 4)).extractLsb' 0 32
/-- A 64-bit word of a record of bytes. -/
def recDWord (bs : List Byte) (i : Nat) : DWord := leWord ((bs.drop (8 * i)).take 8)
/-- An FP32 value of a record of bytes. -/
def recNum (bs : List Byte) (i : Nat) : Num := fp32 (recWord bs i)

/-! Rays and boxes (R267, R271) -/

/-- A ray: ox, oy, oz, tmin, dx, dy, dz, tmax (R267). -/
abbrev RayRegs := List Word
/-- A value of a ray. -/
def rayNum (r : RayRegs) (i : Nat) : Num := fp32 (r.getD i 0#32)

/-- A division rounded in one direction into FP32 (R271). -/
def divRound (rm : Rm) (x y : Num) : Num := decodeNum .fp32 ((roundNum .fp32 rm 1 (x.div y)).getD 0)

/-- A difference under RD (R113): a zero one is -0, but for that of +0 and -0. -/
def diffRd (x y : Num) : Num :=
  let z := x.add y.negate
  if z.isZero && !(x.isZero && !x.neg? && y.neg?) then Num.zero.negate else z

/-- The slab of an axis (R271); none where it is empty, or meets a NaN: such a box is not hit. -/
def slab (lo hi o d : Num) : Option (Num × Num) :=
  if d.isZero then
    (if !o.lt lo && !hi.lt o && !o.isNan && !lo.isNan && !hi.isNan then some (.inf true, .inf false) else none)
  else
    let tn := divRound .rd (diffRd lo o) d
    let tf := divRound .ru (hi.add o.negate) d
    if tn.isNan || tf.isNan then none else some (tn.min tf, tn.max tf)

/-- enter(i) of a box that the ray hits (R271): `b` gives lox, loy, loz, hix, hiy, hiz. -/
def boxEnter (r : RayRegs) (b : Nat → Num) : Option Num :=
  let nan := (List.range 6).any (fun i => (b i).isNan) || (List.range 8).any fun i => (rayNum r i).isNan
  let swapped := (List.range 3).any fun a => (b (3 + a)).lt (b a)
  let axes := (List.range 3).map fun a => slab (b a) (b (3 + a)) (rayNum r a) (rayNum r (4 + a))
  if nan || swapped || axes.any Option.isNone then none
  else
    let axes := axes.filterMap id
    let enter := axes.foldl (fun m x => m.max x.1) (rayNum r 3)
    let leave := axes.foldl (fun m x => m.min x.2) (rayNum r 7)
    if leave.lt enter then none else some enter

/-- enter(i) of child `i` of an internal node, where it is hit (R271, R334). -/
def nodeEnter (r : RayRegs) (node : List Byte) (i : Nat) : Option Num :=
  match childRef (recDWord node (12 + i)) with
  | none => none
  | some _ => boxEnter r fun k => recNum node (6 * i + k)

/-- The words that BOXT writes (R271). -/
def boxWords (r : RayRegs) (node : List Byte) : List Word :=
  let es := (List.range 4).map fun i => (i, nodeEnter r node i)
  let hits := es.filterMap fun e => e.2.map fun x => (e.1, x)
  let ins (h : Nat × Num) (hs : List (Nat × Num)) : List (Nat × Num) :=
    hs.takeWhile (fun k => k.2.lt h.2 || (!h.2.lt k.2 && decide (k.1 < h.1))) ++ h ::
      hs.dropWhile (fun k => k.2.lt h.2 || (!h.2.lt k.2 && decide (k.1 < h.1)))
  let order := (hits.foldr ins []).map Prod.fst ++ (es.filter fun e => e.2.isNone).map Prod.fst
  let mask := hits.foldl (fun m h => m + 2 ^ h.1) 0
  let word := mask + (order.zipIdx.foldl (fun m o => m + o.1 * 2 ^ (8 + 2 * o.2)) 0) + hits.length * 2 ^ 16
  BitVec.ofNat 32 word :: es.map fun e => match e.2 with
    | some x => toFp32 x
    | none => 0x7F800000#32

/-! Triangles (R272) -/

/-- A hit: distance, barycentrics, whether the triangle is front-facing, its primitive and its instance. -/
structure TriHit where
  t     : Rat
  u     : Rat
  v     : Rat
  front : Bool
  prim  : Nat
  inst  : Nat
deriving DecidableEq, Repr

/-- A vector of three rationals. -/
abbrev V3 := Rat × Rat × Rat
/-- Difference. -/
def v3sub (a b : V3) : V3 := (a.1 - b.1, a.2.1 - b.2.1, a.2.2 - b.2.2)
/-- Dot product. -/
def v3dot (a b : V3) : Rat := a.1 * b.1 + a.2.1 * b.2.1 + a.2.2 * b.2.2
/-- Cross product. -/
def v3cross (a b : V3) : V3 :=
  (a.2.1 * b.2.2 - a.2.2 * b.2.1, a.2.2 * b.1 - a.1 * b.2.2, a.1 * b.2.1 - a.2.1 * b.1)

/-- The value is finite. -/
def finiteNum (x : Num) : Bool := !x.isNan && !x.isInf

/-- Three finite values; none where one is not finite: no equation over the reals has them. -/
def v3of (x y z : Num) : Option V3 :=
  if finiteNum x && finiteNum y && finiteNum z then some (x.toRat, y.toRat, z.toRat) else none

/-- The intersection of a ray with a leaf's plane, exactly (R272): t, u, v and det; none where det is zero. -/
def triSolve (r : RayRegs) (leaf : List Byte) : Option (Rat × Rat × Rat × Rat) := do
  let vert (i : Nat) : Option V3 := v3of (recNum leaf (3 * i)) (recNum leaf (3 * i + 1)) (recNum leaf (3 * i + 2))
  let v0 ← vert 0
  let v1 ← vert 1
  let v2 ← vert 2
  let o ← v3of (rayNum r 0) (rayNum r 1) (rayNum r 2)
  let d ← v3of (rayNum r 4) (rayNum r 5) (rayNum r 6)
  let e1 := v3sub v1 v0
  let e2 := v3sub v2 v0
  let n := v3cross e1 e2
  let det := v3dot d n
  if det == 0 then none
  else
    let t := v3dot n (v3sub v0 o) / det
    let p : V3 := (o.1 + t * d.1 - v0.1, o.2.1 + t * d.2.1 - v0.2.1, o.2.2 + t * d.2.2 - v0.2.2)
    let nn := v3dot n n
    some (t, v3dot (v3cross p e2) n / nn, v3dot (v3cross e1 p) n / nn, det)

/-- PRIM of a leaf. -/
def leafPrim (leaf : List Byte) : Nat := (recWord leaf 9).toNat % 2 ^ 25
/-- The Zero fields of a leaf are zero. -/
def leafZero (leaf : List Byte) : Bool := recWord leaf 11 == 0#32 && (recWord leaf 9).toNat / 2 ^ 25 == 0

/-- The hit of a ray on a leaf (R272). -/
def triHit (r : RayRegs) (leaf : List Byte) (cb cf : Bool) (inst : Nat) : Option TriHit :=
  match triSolve r leaf with
  | none => none
  | some (t, u, v, det) =>
    let x := Num.ofRat t
    let front := decide (det < 0)
    let inside := decide (0 ≤ u) && decide (0 ≤ v) && decide (u + v ≤ 1)
    let range := !(rayNum r 3).isNan && !(rayNum r 7).isNan && !x.lt (rayNum r 3) && !(rayNum r 7).lt x
    if inside && range && !(if front then cf else cb) then some ⟨t, u, v, front, leafPrim leaf, inst⟩ else none

/-- RoundNE of a rational into FP32. -/
def ratFp32 (q : Rat) : Word := toFp32 (Num.ofRat q)

/-- The words that TRIT writes (R272). -/
def tritWords (h : Option TriHit) : List Word :=
  match h with
  | some h => [ratFp32 h.t, ratFp32 h.u, ratFp32 h.v, if h.front then 3#32 else 1#32]
  | none => [0x7F800000#32, 0#32, 0#32, 0#32]

/-- The ray that XFORM gives (R273): `m` holds M row by row. -/
def xformRay (r : RayRegs) (m : Nat → Num) : RayRegs :=
  let o (k : Nat) : Word := toFp32 (Num.sum [(m (4 * k)).mul (rayNum r 0), (m (4 * k + 1)).mul (rayNum r 1),
    (m (4 * k + 2)).mul (rayNum r 2), m (4 * k + 3)])
  let d (k : Nat) : Word := toFp32 (Num.sum [(m (4 * k)).mul (rayNum r 4), (m (4 * k + 1)).mul (rayNum r 5),
    (m (4 * k + 2)).mul (rayNum r 6)])
  [o 0, o 1, o 2, r.getD 3 0#32, d 0, d 1, d 2, r.getD 7 0#32]

end Sys2Proof.Machine
end

