-- ==== Sys2Proof/Machine/Reach.lean ====
section
/-! DEFINITION. What a load of a thread returns where it performs, and the reads of the traversal unit (R63, R74, R92, R269,
R330, R337). -/

namespace Sys2Proof.Machine

/-- Why an engine's access has no result. -/
inductive Stop where
  | code (c : Code) (a : DWord)
  | fault (c : PfCause) (a : DWord)
deriving DecidableEq, Repr

/-- The bytes that a load of a thread returns now, with the tag and poison where it performs (R74, R92). -/
def State.readAcc (s : State) (t : Thread) (a : Acc) (off n : Nat) : State × Got :=
  if isWindow a.pa then
    let bs := s.winLoad (a.pa + off) n
    (s, ⟨if n < 4 then bs else s.overlay t (ptrVa a.va + off) bs, 0#4, false⟩)
  else
    let r := s.loadCore t.core t.ctx a.tensor a.atHome (a.pa + off) n
    (r.1, { r.2 with bytes := s.overlay t (ptrVa a.va + off) r.2.bytes, poison := r.2.poison || s.hostDown a.pa })

/-- The tag of an access does not agree with the tag where it performs (R63, R408). -/
def Acc.refused (a : Acc) (tag : BitVec 4) : Bool :=
  match a.tag with
  | some k => k != tag
  | none => false

/-- Cuts a range at 64-B sectors: offset and length of each part. -/
def sectorParts (va n : Nat) : List (Nat × Nat) :=
  (sectorsOf va n).map fun k =>
    let lo := max va (64 * k)
    (lo - va, min (va + n) (64 * k + 64) - lo)

/-! The traversal unit (R269, R330, R337) -/

/-- A traversal in progress (R337): of what it has read before, what it has still to meet again; what it has read, newest
first; how many more reads it makes now; and whether one of these was of device memory. -/
structure TravSt where
  left : List (List Byte × Bool)
  read : List (List Byte × Bool)
  more : Option Nat
  dev  : Bool

/-- A traversal: it ends with a result, or is stopped. -/
abbrev TrM (α : Type) := ExceptT Stop (StateT TravSt (StateM State)) α

/-- The parts of a run of bytes that the unit reads for a thread, as loads of scope 1: the bytes, whether any is poisoned, and
whether any is device memory (R63, R103, R337, R444). -/
def State.travBytes (s : State) (t : Thread) (p : DWord) (n : Nat) : State × Except Stop (List Byte × Bool × Bool) :=
  (sectorParts (ptrVa p) n).foldl (fun a q =>
    match a.2 with
    | .error _ => a
    | .ok bs =>
      let va := p + BitVec.ofNat 64 q.1
      match a.1.pageCheck t.core none t.ctx va q.2 false false true 0#12 1 with
      | (s, .code c) => (s, .error (.code c va))
      | (s, .fault c) => (s, .error (.fault c va))
      | (s, .go acc) =>
        if s.locked t.ctx (ptrVa va) q.2 false then (s, .error (.code .rangeLock va))
        else
          let r := s.readAcc t acc 0 q.2
          if acc.refused r.2.tag then (r.1, .error (.code .tagMismatch va))
          else (r.1, .ok (bs.1 ++ r.2.bytes, bs.2.1 || r.2.poison, bs.2.2 || acc.mt == 2#2 || isWindow acc.pa)))
    (s, .ok ([], false, false))

/-- The unit reads a node or a leaf: again what it read before, or memory. With no read left to make, it meets nothing more. -/
def travRead (t : Thread) (p : DWord) (n : Nat) : TrM (List Byte) := do
  let st ← getThe TravSt
  match st.left with
  | x :: r =>
    MonadStateOf.set { st with left := r, read := x :: st.read }
    pure x.1
  | [] =>
    if st.more == some 0 then pure (List.replicate n 0#8)
    else
      let q := (← getThe State).travBytes t p n
      MonadStateOf.set q.1
      match q.2 with
      | .error e => throw e
      | .ok x =>
        MonadStateOf.set
          { st with read := (x.1, x.2.1) :: st.read, more := st.more.map (· - 1), dev := st.dev || x.2.2 }
        pure x.1

/-- What a traversal looks for: instance mask and culling (R268). -/
structure TravFlags where
  imask : Nat
  cb    : Bool
  cf    : Bool
deriving DecidableEq, Repr

/-- Every hit under a child reference (R337): `fuel` is the number of nodes that may still be entered along the path, and
`inst` the instance entered, if any. -/
def travRef (t : Thread) (fl : TravFlags) : Nat → DWord → RayRegs → Option Nat → TrM (List TriHit)
  | fuel, ref, ray, inst => do
    match childRef ref with
    | none => pure []
    | some (kind, count, p) =>
      if kind == 2 then
        if p.toNat % 16 != 0 then pure []
        else
          let mut hits : List TriHit := []
          for j in List.range count do
            let leaf ← travRead t (p + BitVec.ofNat 64 (48 * j)) 48
            if leafZero leaf && leafPrim leaf != 0x1FFFFFF then
              match triHit ray leaf fl.cb fl.cf (inst.getD 0) with
              | some h => hits := hits ++ [h]
              | none => pure ()
          pure hits
      else if p.toNat % 64 != 0 then pure []
      else
        match fuel with
        | 0 => pure []
        | fuel + 1 => do
          if kind == 1 then
            let node ← travRead t p 128
            let mut hits : List TriHit := []
            for i in List.range 4 do
              if (nodeEnter ray node i).isSome then
                let hs ← travRef t fl fuel (recDWord node (12 + i)) ray inst
                hits := hits ++ hs
            pure hits
          else if inst.isSome then pure []
          else
            let node ← travRead t p 128
            let r : BitVec 1024 := BitVec.ofNat 1024 (leNat node)
            if r.extractLsb' 832 192 != 0#192 || r.extractLsb' 532 4 != 0#4 then pure []
            else if (r.extractLsb' 536 8).toNat &&& fl.imask == 0 then pure []
            else
              let sub := recDWord node 6
              let kind := (sub.extractLsb' 60 4).toNat
              if kind == 3 then pure []
              else travRef t fl fuel sub (xformRay ray fun i => recNum node i) (some (r.extractLsb' 512 20).toNat)

/-- A ray that misses without fault (R269): a NaN component, tmin above tmax, or no direction. -/
def rayVoid (r : RayRegs) : Bool :=
  ((List.range 8).any fun i => (rayNum r i).isNan) || (rayNum r 7).lt (rayNum r 3) ||
    ((List.range 3).all fun i => (rayNum r (4 + i)).isZero)

/-- Every hit of a ray from a root internal node (R269). -/
def travRoot (t : Thread) (fl : TravFlags) (root : DWord) (ray : RayRegs) : TrM (List TriHit) := do
  if rayVoid ray then pure []
  else
    let node ← travRead t root 128
    let mut hits : List TriHit := []
    for i in List.range 4 do
      if (nodeEnter ray node i).isSome then
        let hs ← travRef t fl 63 (recDWord node (12 + i)) ray none
        hits := hits ++ hs
    pure hits

/-- Order of hits (R269): least t, then the lower instance, then the lower primitive. -/
def TriHit.before (a b : TriHit) : Bool :=
  if a.t != b.t then decide (a.t < b.t) else if a.inst != b.inst then decide (a.inst < b.inst) else decide (a.prim < b.prim)

/-- The closest hit. -/
def closest (hs : List TriHit) : Option TriHit :=
  hs.foldl (fun a h => match a with
    | none => some h
    | some b => if h.before b then some h else some b) none

/-- Runs a traversal from where it stands. -/
def State.travSt {α : Type} (s : State) (st : TravSt) (m : TrM α) : State × TravSt × Except Stop α :=
  let r := (m.run.run st).run s
  (r.2, r.1.2, r.1.1)

/-- Runs a traversal from what it has read before, for at most `more` further reads: the state, all that it has read, and its
result with whether any of it was poisoned. -/
def State.travRun {α : Type} (s : State) (log : List (List Byte × Bool)) (more : Option Nat) (m : TrM α) :
    State × List (List Byte × Bool) × Except Stop (α × Bool) :=
  let r := s.travSt ⟨log, [], more, false⟩ m
  (r.1, r.2.1.read.reverse, r.2.2.map fun x => (x, r.2.1.read.any Prod.snd))

/-- The thread that sent a ray, or what is kept of it. -/
def State.sender? (s : State) (r : Ray) : Option Thread := (s.thread? r.thread).or (s.ghost? r.thread)

/-- The traversal of a ray (R269, R274). -/
def Ray.traverse (r : Ray) (t : Thread) : TrM (List TriHit) :=
  travRoot t ⟨(r.flags.extractLsb' 16 8).toNat, r.flags.getLsbD 1, r.flags.getLsbD 2⟩ r.root r.ray

/-- A page of device memory (R63), as the translations of a core now have it. -/
def State.deviceAt (s : State) (core ctx : Nat) (p : DWord) : Bool :=
  match (s.translate core none ctx (ptrVa p) false).2 with
  | .ok (_, x) => x.mt == 2#2
  | .error _ => false

/-- A ray still in flight that has to read device memory, as memory now stands, or to make its additions there (R63). Where a
page fault hides what it reads next, it may have to. -/
def State.rayDevice (s : State) (r : Ray) : Bool :=
  r.stage == .flying && ((r.ticket.isNone && s.deviceAt r.core r.ctx r.target) ||
    (s.sender? r).any fun t =>
      let q := s.travSt ⟨r.log, [], none, false⟩ (r.traverse t)
      q.2.1.dev || match q.2.2 with
        | .error (.fault _ _) => true
        | _ => false)

end Sys2Proof.Machine
end

