-- ==== Sys2Proof/Machine/Perform.lean ====
section
/-! DEFINITION. How accesses perform and complete: order within a thread and within a word, pieces, ownership, the home
slices, fences, WAITC and its monitors (R81 to R99, R106, R202 to R208, R224 to R231). -/

namespace Sys2Proof.Machine

/-! Order (R83, R84, R88, R63) -/

/-- The access of TAGLD and TAGST: the sector of its address (R207). -/
def Acc.sector (a : Acc) : Acc := { a with pa := a.pa / 64 * 64, va := BitVec.ofNat 64 (ptrVa a.va / 64 * 64) }

/-- Parts that are still to be read, each an access and a length. -/
def partsLeft (ps : List ReadPart) : List (Acc × Nat) :=
  (ps.filter fun p => !p.full).filterMap fun p => p.acc.map fun a => (a, p.len)

/-- The accesses of a flight that have still to perform, each with its length. -/
def FlightOp.accs : FlightOp → List (Acc × Nat)
  | .load a w _ _ _ => [(a, widthBytes w)]
  | .store a bs => [(a, bs.length)]
  | .tagst a _ => [(a.sector, 64)]
  | .tagld a _ => [(a.sector, 64)]
  | .dload a _ _ => [(a, 32)]
  | .atom a w64 _ _ _ => [(a, opWidth w64)]
  | .atomc a w64 _ _ _ => [(a, opWidth w64)]
  | .red a w64 _ _ => [(a, opWidth w64)]
  | .waitc a w64 _ _ _ _ _ => [(a, opWidth w64)]
  | .gather _ _ parts _ => partsLeft parts
  | .launch parts _ _ => partsLeft parts
  | _ => []

/-- Physical bytes that a flight has still to reach. -/
def FlightOp.ranges (op : FlightOp) : List (Nat × Nat) := op.accs.map fun a => (a.1.pa, a.2)

/-- Two lists of ranges share a byte. -/
def overlaps (xs ys : List (Nat × Nat)) : Bool :=
  xs.any fun x => ys.any fun y => decide (x.1 < y.1 + y.2) && decide (y.1 < x.1 + x.2)

/-- A flight with an access to device memory (R63). -/
def FlightOp.device (op : FlightOp) : Bool := op.accs.any fun a => a.1.mt == 2#2 || isWindow a.1.pa

/-- A SHADOW that a thread issued before still has to add to bytes of a virtual range (R83, R106): its entries are not
couched, and its ray has not been tested. -/
def State.shadowAhead (s : State) (t : Thread) (uid va n : Nat) : Bool :=
  s.e.rays.any fun r => r.thread == t.uid && decide (r.uid < uid) && r.ticket.isNone && r.stage == .flying && !r.none &&
    !(s.det t && t.team.isSome) && overlaps [(r.target.toNat % 2 ^ 48, 4 * r.chans.length)] [(va, n)]

/-- No flight that comes before this one in its thread has still to reach one of its bytes; device accesses of a thread go
one by one, those of its rays with them (R63, R83, R84). -/
def State.ownFirst (s : State) (f : Flight) : Bool :=
  (s.x.flights.all fun g =>
    !(decide (g.uid < f.uid) && g.thread == f.thread &&
      (overlaps g.op.ranges f.op.ranges || (g.op.device && f.op.device)))) &&
  ((s.thread? f.thread).all fun t => f.op.accs.all fun a => !s.shadowAhead t f.uid (ptrVa a.1.va) a.2) &&
  !(f.op.device && s.e.rays.any fun r => r.thread == f.thread && decide (r.uid < f.uid) && s.rayDevice r)

/-- Flights of a word that reach the same bytes, this one first: R88 runs them as one. -/
def State.sameWord (s : State) (f : Flight) : List Flight :=
  s.x.flights.filter fun g => g.stamp == f.stamp && decide (f.uid ≤ g.uid) && overlaps g.op.ranges f.op.ranges

/-- A flight's access may perform: no lower lane of its word comes before it, and what its own thread and those of the lanes
that run with it have issued before has performed (R83, R88). -/
def State.accessFirst (s : State) (f : Flight) : Bool :=
  (s.x.flights.all fun g => !(decide (g.uid < f.uid) && g.stamp == f.stamp && overlaps g.op.ranges f.op.ranges)) &&
  s.ownFirst f && (s.sameWord f).all s.ownFirst

/-- A write of a thread that performs at home is collected for its next release of level 2 or wider (R91, R94). -/
def State.collect (s : State) (u pa w : Nat) : State := s.updThread u fun t => { t with wct := wctAdd t.wct (homeDie pa) w }

/-! Loads -/

/-- Writes registers of a thread. -/
def Thread.setRegs (t : Thread) (ws : List (Nat × Word)) : Thread := ws.foldl (fun t w => t.vset w.1 w.2) t

/-- A flight ends with a code of its lane (R391). -/
def State.failFlight (s : State) (f : Flight) (c : Cause) : State := (s.finish f).raiseAt f.thread f.site c

/-- Which 8-byte piece of a wider access performs next (R85): pieces have no order, so each is a free choice among those
left; at the management window the lower address goes first (R452). -/
def State.piece (s : State) (n : Nat) (done : List Nat) (rising : Bool) : State × Nat :=
  let left := ((List.range (n / 8)).map fun i => 8 * i).filter fun o => !done.contains o
  if rising || left.length < 2 then (s, left.headD 0)
  else
    let r := s.takeFree
    (r.2, left.getD (Config.freeNat r.1 % left.length) 0)

/-- Bytes of the pieces of an access, lowest address first. -/
def pieceBytes (n : Nat) (ps : List (Nat × Nat)) : List Byte :=
  (List.range (n / 8)).flatMap fun i => natBytes 8 (((ps.find? fun p => p.1 == 8 * i).map Prod.snd).getD 0)

/-- A locked range refuses an access of a flight where it performs (R103): the lock came after its issue, and before this. A
copy that its own thread has issued later waits for it, and refuses nothing (R102). -/
def State.lockedNow (s : State) (f : Flight) (t : Thread) (a : Acc) (n : Nat) (modifies : Bool) : Bool :=
  let mine (o : Nat) : Bool := s.e.copies.any fun k => k.uid == o && k.thread == f.thread && decide (f.uid < k.flight)
  s.m.locks.any fun l => l.refuses t.ctx (ptrVa a.va) n modifies && !mine l.owner

/-- A flight reads one piece of an access that is `len` bytes (R81, R85), if it can: a locked range, a tag or poison may stop
it there (R63, R103, R444). Without a value the flight has failed, or is stalled. -/
def State.readPiece (s : State) (f : Flight) (t : Thread) (a : Acc) (len o n : Nat) : State × Option Nat :=
  if s.lockedNow f t a len false then (s.failFlight f (Cause.at .rangeLock a.va), none)
  else
    let r := s.readAcc t a o n
    if a.refused r.2.tag then (r.1.failFlight f (Cause.at .tagMismatch a.va), none)
    else if r.2.poison then (r.1.stallPoison f a.va (a.pa + o) (paUnit a.pa).1 (paUnit a.pa).2, none)
    else (r.1, some (leNat r.2.bytes))

/-- The lanes of a flight's word that read with it: those that reach the same bytes and do not wait on poison (R88, R444). -/
def State.readers (s : State) (f : Flight) : List Flight := (s.sameWord f).filter fun g => g.stalled.isNone

/-- One lane's load of a word performs, or its piece at an offset (R202). -/
def State.loadOne (o : Nat) (s : State) (f : Flight) : State :=
  match f.op, s.thread? f.thread with
  | .load a w sx d ps, some t =>
    let n := widthBytes w
    match s.readPiece f t a n o (min 8 n) with
    | (s, none) => s
    | (s, some v) =>
      let ps := ps ++ [(o, v)]
      if 8 * ps.length < n then s.updFlight f.uid fun g => { g with op := .load a w sx d ps }
      else
        let bs := if n == 16 then pieceBytes 16 ps else natBytes n v
        ((s.updThread t.uid fun t => t.setRegs (loadRegs w sx d bs)).fillPre t.uid a.va bs).finish f
  | _, _ => s.finish f

/-- Completion of a load (R81, R85, R88, R202): a 16-byte load performs one piece at a time, and the lanes of one word that
reach the same bytes run together. -/
def State.doneLoad (s : State) (f : Flight) (a : Acc) (w : Width) (ps : List (Nat × Nat)) : State :=
  if !s.accessFirst f || f.stalled.isSome then s
  else
    let p := if widthBytes w == 16 then s.piece 16 (ps.map Prod.fst) (isWindow a.pa) else (s, 0)
    (p.1.readers f).foldl (State.loadOne p.2) p.1

/-! What is read at issue -/

/-- Parts that every check has let through are read at once: a texture's header and a collective's record, on which the rest of
the instruction rests (R217, R278): the word has waited for its thread's earlier accesses (R83). DESIGN CHOICE (log 68). -/
def State.readNow (s : State) (t : Thread) (ps : List ReadPart) : Res (State × List Byte) :=
  ps.foldl (fun (a : Res (State × List Byte)) p => do
    let (s, bs) ← a
    match p.acc with
    | none => .ok (s, bs)
    | some acc =>
      let r := s.readAcc t acc 0 p.len
      if acc.refused r.2.tag then .error (Cause.at .tagMismatch acc.va)
      else .ok (r.1, bs ++ r.2.bytes)) (.ok (s, []))

/-! What is read part by part (R85, R219, R239, R267) -/

/-- Parts of a flight. -/
def FlightOp.parts : FlightOp → List ReadPart
  | .gather _ _ ps _ => ps
  | .launch ps _ _ => ps
  | _ => []

/-- The flight with other parts. -/
def FlightOp.withParts (op : FlightOp) (ps : List ReadPart) : FlightOp :=
  match op with
  | .gather what d _ sectors => .gather what d ps sectors
  | .launch _ q begun => .launch ps q begun
  | op => op

/-- The pieces of a part that are still to be read: physical address and offset of each. -/
def ReadPart.left (p : ReadPart) : List (Nat × Nat) :=
  match p.acc with
  | none => []
  | some a =>
    (((List.range p.count).map fun i => 8 * i).filter fun o => !p.got.any fun g => g.1 == o).map fun o => (a.pa + o, o)

/-- Bytes of a part that has been read. -/
def ReadPart.bytes (p : ReadPart) : List Byte :=
  ((List.range p.count).flatMap fun i =>
    natBytes 8 (((p.got.find? fun g => g.1 == 8 * i).map Prod.snd).getD 0)).take p.len

/-- A part that needs no read: its bytes are known. -/
def ReadPart.known (bs : List Byte) : ReadPart :=
  { acc := none, len := bs.length
    got := (List.range ((bs.length + 7) / 8)).map fun i => (8 * i, leNat ((bs.drop (8 * i)).take 8)) }

/-- One lane reads the piece at a physical address of the parts of its flight, if it lacks one there. -/
def State.readOne (pa : Nat) (s : State) (f : Flight) : State :=
  match s.thread? f.thread, f.op.parts.zipIdx.findSome? fun p => (p.1.left.find? fun l => l.1 == pa).map fun l => (p, l.2) with
  | some t, some ((p, i), o) =>
    match p.acc with
    | none => s
    | some a =>
      match s.readPiece f t a p.len o (min 8 (p.len - o)) with
      | (s, none) => s
      | (s, some v) =>
        s.updFlight f.uid fun g => { g with op := g.op.withParts (g.op.parts.set i { p with got := p.got ++ [(o, v)] }) }
  | _, _ => s

/-- The next piece of a flight's parts performs, for every lane of its word that lacks it: pieces have no order, so which one
is a free choice among those left; at the management window the lowest address goes first (R85, R88, R452). -/
def State.readNext (s : State) (f : Flight) : State :=
  let left := f.op.parts.flatMap fun p => p.left.map Prod.fst
  if !s.accessFirst f || f.stalled.isSome || left.isEmpty then s
  else
    let lowest := left.foldl min (left.headD 0)
    let r := if left.length < 2 || isWindow lowest then (s, lowest)
      else (let r := s.takeFree; (r.2, left.getD (Config.freeNat r.1 % left.length) lowest))
    (r.1.readers f).foldl (State.readOne r.2) r.1

/-! Stores -/

/-- Bytes of a store of a thread perform (R74, R81, R86, R92, R203): in L1, at home, at the target of a window, or
within an isolated team. -/
def State.storeAcc (s : State) (t : Thread) (a : Acc) (off : Nat) (bs : List Byte) : State :=
  let pa := a.pa + off
  if isWindow pa && decide (bs.length < 4) then s
  else if s.isolates t then
    (match s.teamOf t with
     | some tm => s.storeIsolated tm (ptrVa a.va + off) bs
     | none => s)
  else if isWindow pa then s.winStore pa bs
  else if a.mt != 0#2 then
    let r := (s.recall (pa / 256)).performHome (some t.core) (pa / 256) t.ctx a.tensor
      (bs.zipIdx.map fun b => (pa % 256 + b.2, b.1)) false
    r.1.collect t.uid pa r.2
  else
    let s := s.storeLocal t.core t.ctx a.tensor pa bs
    if a.scope < 2 then s else s.homeRange t.core t.ctx pa bs.length

/-- One lane's store of a word performs, or its next piece. -/
def State.storeOne (s : State) (o : Option Nat) (f : Flight) : State :=
  match f.op, s.thread? f.thread with
  | .store a bs, some t =>
    if a.refused (s.tagSeen t.core t.ctx a.pa a.atHome) then s.failFlight f (Cause.at .tagMismatch a.va)
    else if s.lockedNow f t a bs.length true then s.failFlight f (Cause.at .rangeLock a.va)
    else
      match o with
      | none => (s.storeAcc t a 0 bs).finish f
      | some o =>
        let s := s.storeAcc t a o ((bs.drop o).take 8)
        let rest : FlightOp := .store { a with pa := a.pa + (8 - o), va := a.va + BitVec.ofNat 64 (8 - o) }
          ((bs.drop (8 - o)).take 8)
        s.updFlight f.uid fun g => { g with op := rest }
  | _, _ => s.finish f

/-- Completion of a store (R81, R85, R88): the lanes of one word that reach the same bytes run together, ascending. -/
def State.doneStore (s : State) (f : Flight) (bs : List Byte) : State :=
  if !s.accessFirst f then s
  else
    let p := if bs.length == 16 then (let r := s.piece 16 [] (f.op.ranges.any fun a => isWindow a.1); (r.1, some r.2)) else (s, none)
    (p.1.sameWord f).foldl (fun s g => s.storeOne p.2 g) p.1

/-- The scratchpad bytes that a load or store in flight reaches. -/
def FlightOp.spadRange : FlightOp → Option (Nat × Nat × Nat)
  | .loadS k o _ w _ _ _ => some (k, o, widthBytes w)
  | .storeS k o bs _ => some (k, o, bs.length)
  | _ => none

/-- Two scratchpad accesses of one word share a byte. -/
def Flight.meetsSpad (f g : Flight) : Bool :=
  match f.op.spadRange, g.op.spadRange with
  | some a, some b => f.stamp == g.stamp && a.1 == b.1 && decide (a.2.1 < b.2.1 + b.2.2) && decide (b.2.1 < a.2.1 + a.2.2)
  | _, _ => false

/-- The lanes of a word that reach a byte of a scratchpad that this flight reaches, this one first (R88, R201). -/
def State.sameSpad (s : State) (f : Flight) : List Flight :=
  s.x.flights.filter fun g => decide (f.uid ≤ g.uid) && f.meetsSpad g

/-- A scratchpad access may perform: its thread's earlier ones have, lower lanes of its word that reach its bytes have, those
of the lanes that run with it have too, and every line that it touches is present (R72, R83, R88, R104). -/
def State.spadReady (s : State) (f : Flight) (tm : Team) (off n : Nat) : Bool :=
  s.spadFirst f && (s.sameSpad f).all s.spadFirst && !s.absentFor f tm off n &&
    !(s.x.flights.any fun g => decide (g.uid < f.uid) && f.meetsSpad g)

/-- Bytes that a thread reads of a team's scratchpad: an isolated thread's own stores to another team lie over them. -/
def State.spadSeen (s : State) (u : Nat) (tm : Team) (off n : Nat) : List Byte :=
  let iso := match (s.thread? u).bind s.teamOf with
    | some k => if k.uid == tm.uid then [] else k.isolated
    | none => []
  (tm.spadRead off n).zipIdx.map fun b => (sget iso (isoSpad tm.rank off + b.2)).getD b.1

/-- One lane's scratchpad load of a word performs, or its piece at an offset. -/
def State.loadSOne (tm : Team) (o : Nat) (s : State) (f : Flight) : State :=
  match f.op with
  | .loadS team off ea w sx d ps =>
    let n := widthBytes w
    if tm.spadPoison off n then s.stallPoison f ea 0 1 tm.core
    else
      let bs := s.spadSeen f.thread tm (off + o) (min 8 n)
      let ps := ps ++ [(o, leNat bs)]
      if 8 * ps.length < n then s.updFlight f.uid fun g => { g with op := .loadS team off ea w sx d ps }
      else
        (s.updThread f.thread fun t => t.setRegs (loadRegs w sx d (if n == 16 then pieceBytes 16 ps else bs))).finish f
  | _ => s.finish f

/-- Completion of a scratchpad load (R204, R205): a 16-byte load performs one piece at a time (R85), and the lanes of one word
that reach the same bytes run together (R88). -/
def State.doneLoadS (s : State) (f : Flight) (team off : Nat) (ea : DWord) (w : Width) (ps : List (Nat × Nat)) : State :=
  match s.team? team with
  | none => if s.spadFirst f then s.failFlight f (Cause.at .scratchRange ea) else s
  | some tm =>
    if !s.spadReady f tm off (widthBytes w) || f.stalled.isSome then s
    else
      let p := if widthBytes w == 16 then s.piece 16 (ps.map Prod.fst) false else (s, 0)
      ((p.1.sameSpad f).filter fun g => g.stalled.isNone).foldl (State.loadSOne tm p.2) p.1

/-- Bytes of a scratchpad store of a thread perform (R204, R205): an isolated thread's to another team stay with it. -/
def State.storeSpad (s : State) (u team off : Nat) (bs : List Byte) : State :=
  match s.thread? u, (s.thread? u).bind s.teamOf, s.team? team with
  | some t, some tm, some k =>
    if s.isolates t && t.team != some team then s.storeIsolated tm (isoSpad k.rank off) bs else s.spadStore team off bs false
  | _, _, _ => s.spadStore team off bs false

/-- One lane's scratchpad store of a word performs, or its next piece (R85). -/
def State.storeSOne (s : State) (o : Option Nat) (f : Flight) : State :=
  match f.op with
  | .storeS team off bs scope =>
    match o with
    | none => (s.storeSpad f.thread team off bs).finish f
    | some o =>
      (s.storeSpad f.thread team (off + o) ((bs.drop o).take 8)).updFlight f.uid fun g =>
        { g with op := .storeS team (off + (8 - o)) ((bs.drop (8 - o)).take 8) scope }
  | _ => s.finish f

/-- Completion of a scratchpad store (R204, R205): one to another team's scratchpad at scope 0 or 1 completes when the
mesh has accepted it, and is written later. The lanes of one word that reach the same bytes run together (R88, R201). -/
def State.doneStoreS (s : State) (f : Flight) (team off : Nat) (bs : List Byte) (scope : Nat) : State :=
  match s.team? team with
  | none => if s.spadFirst f then s.finish f else s
  | some tm =>
    if !s.spadReady f tm off bs.length then s
    else if decide (8 ≤ scope) && decide (scope < 10) && !f.posted then s.post f
    else
      let p := if bs.length == 16 then (let r := s.piece 16 [] false; (r.1, some r.2)) else (s, none)
      (p.1.sameSpad f).foldl (fun s g => s.storeSOne p.2 g) p.1

/-! Tags, descriptors, prefetch -/

/-- Completion of PREF (R206): the line's sectors fill into L1 with a lease. -/
def State.donePref (s : State) (f : Flight) (a : Option Acc) : State :=
  match a, s.thread? f.thread with
  | some a, some t =>
    let s := (List.range 4).foldl (fun s k => (s.fetchSector t.core t.ctx 0#12 (a.pa / 256) k).1) s
    s.finish f
  | _, _ => s.finish f

/-- One lane's TAGST of a word performs. -/
def State.tagstOne (s : State) (f : Flight) : State :=
  match f.op, s.thread? f.thread with
  | .tagst a tag, some t =>
    if s.lockedNow f t a.sector 64 true then s.failFlight f (Cause.at .rangeLock a.va)
    else if s.isolates t then
      (match s.teamOf t with
        | some tm => s.storeIsolated tm (isoTag (ptrVa a.va)) [tag.zeroExtend 8]
        | none => s).finish f
    else if !s.isDram a.pa then s.finish f
    else
      let l := a.pa / 256
      let k := a.pa % 256 / 64
      let s := ((s.homeSectorBytes t.core t.ctx l k).dropClean t.core t.ctx l k).recall l
      let s := { s with m := { s.m with tags := sputD 0#4 s.m.tags (a.pa / 64) tag } }
      (s.collect t.uid a.pa (s.wctOf a.pa)).finish f
  | _, _ => s.finish f

/-- Completion of TAGST (R88, R207): the lanes of one word that name the same sector run together, ascending. -/
def State.doneTagst (s : State) (f : Flight) : State :=
  if !s.accessFirst f then s else (s.sameWord f).foldl State.tagstOne s

/-- One lane's TAGLD of a word performs: the tag that the thread's isolated team has set itself, else that of the home. -/
def State.tagldOne (s : State) (f : Flight) : State :=
  match f.op, s.thread? f.thread with
  | .tagld a d, some t =>
    if s.lockedNow f t a.sector 64 false then s.failFlight f (Cause.at .rangeLock a.va)
    else if s.poisonSeen t.core t.ctx a.pa 1 true then s.stallPoison f a.va a.pa (paUnit a.pa).1 (paUnit a.pa).2
    else
      let tag := (s.tagKept t a.va).getD (if s.isDram a.pa then s.tagOf a.pa else 0#4)
      (s.updThread f.thread fun t => t.vset d (tag.zeroExtend 32)).finish f
  | _, _ => s.finish f

/-- Completion of TAGLD (R88, R207): the lanes of one word that name the same sector run together. -/
def State.doneTagld (s : State) (f : Flight) : State :=
  if !s.accessFirst f || f.stalled.isSome then s else (s.readers f).foldl State.tagldOne s

/-- One lane's DLOAD reads its piece at an offset. -/
def State.dloadOne (o : Nat) (s : State) (f : Flight) : State :=
  match f.op, s.thread? f.thread with
  | .dload a dn ps, some t =>
    match s.readPiece f t a 32 o 8 with
    | (s, none) => s
    | (s, some v) => s.updFlight f.uid fun g => { g with op := .dload a dn (ps ++ [(o, v)]) }
  | _, _ => s.finish f

/-- Completion of DLOAD (R208): the 32 bytes perform as four pieces (R85), those of a word's lanes that reach the same bytes
together (R88); then DLOADs of one register apply in issue order. -/
def State.doneDload (s : State) (f : Flight) (a : Acc) (dn : Nat) (ps : List (Nat × Nat)) : State :=
  match s.thread? f.thread with
  | none => s.finish f
  | some t =>
    if ps.length < 4 then
      if !s.accessFirst f || f.stalled.isSome then s
      else
        let p := s.piece 32 (ps.map Prod.fst) (isWindow a.pa)
        (p.1.readers f).foldl (State.dloadOne p.2) p.1
    else if s.x.flights.any fun g => decide (g.uid < f.uid) &&
        ((s.thread? g.thread).bind Thread.team) == t.team && (match g.op with | .dload _ k _ => k == dn | _ => false) then s
    else
      match descAccept (BitVec.ofNat 256 (leNat (pieceBytes 32 ps))) with
      | none => s.failFlight f (Cause.of .illegalOperand)
      | some d =>
        (match t.team with
          | some tm => s.updTeam tm fun k => { k with d := k.d.set dn d }
          | none => s).finish f

/-! Atomics (R88, R95, R106, R224 to R226) -/

/-- A read-modify-write in the L1 of a core that owns the line (R95): the new state and the old value. A clean sector that
the copy has lost is read from the home (R443). -/
def State.rmwOwned (s : State) (core ctx pa n : Nat) (f : DWord → Option DWord) : State × DWord :=
  match s.copy? (.l1 core) (pa / 256) ctx with
  | none => (s, 0#64)
  | some c =>
    let sec := ((sget c.sectors (pa % 256 / 64)).getD (s.homeSector (pa / 256) (pa % 256 / 64))).bytes
    let old := leWord ((List.range n).map fun i => (sget c.mask (pa % 256 + i)).getD (sec.getD (pa % 64 + i) 0#8))
    match f old with
    | none => (s, old)
    | some v =>
      (s.putCopy { c with
        mask := (loBytes n v).zipIdx.foldl (fun m b => sput m (pa % 256 + b.2) b.1) c.mask
        since := if c.mask.isEmpty then s.x.clk else c.since }, old)

/-- One atomic of a thread (R95): in L1 on an owned line of device memory, else at the home slice. Atomics act on DRAM and on
host memory only (R228): at the management window nothing is performed, and the value is a free one (log 33). -/
def State.rmw (s : State) (t : Thread) (a : Acc) (n : Nat) (f : DWord → Option DWord) : State × DWord :=
  if isWindow a.pa then
    let r := s.takeFree
    (r.2, BitVec.ofNat 64 (Config.freeNat r.1))
  else if a.mt == 0#2 && !isHostMem a.pa && !s.monitored (a.pa / 256) t.ctx then
    let o := s.ownLine t.core t.ctx a.tensor (a.pa / 256)
    let r := o.1.rmwOwned t.core t.ctx a.pa n f
    (r.1.collect t.uid a.pa o.2, r.2)
  else
    let s := (s.homeRange t.core t.ctx a.pa n).dropClean t.core t.ctx (a.pa / 256) (a.pa % 256 / 64)
    let r := s.rmwHome (some t.core) t.ctx a.tensor a.pa n f false
    (r.1.collect t.uid a.pa r.2.2, r.2.1)

/-- Writes an atomic's result register or pair. -/
def Thread.setOld (t : Thread) (w64 : Bool) (d : Nat) (v : DWord) : Thread :=
  if w64 then t.setPair d v else t.vset d (v.extractLsb' 0 32)

/-- A helper's or a replay's atomic performs as a load of its address (R341, R435). -/
def State.atomQuiet (s : State) (f : Flight) (t : Thread) (a : Acc) (w64 : Bool) (d : Nat) : State :=
  let r := s.readAcc t a 0 (opWidth w64)
  if a.refused r.2.tag then r.1.failFlight f (Cause.at .tagMismatch a.va)
  else if r.2.poison then r.1.stallPoison f a.va a.pa (paUnit a.pa).1 (paUnit a.pa).2
  else (r.1.updThread t.uid fun t => t.setOld w64 d (leWord r.2.bytes)).finish f

/-- What stops an atomic where it performs: a lock, its tag, or poison (R63, R103, R444). -/
def State.atomStop (s : State) (f : Flight) (t : Thread) (a : Acc) (n : Nat) : Option State :=
  if s.lockedNow f t a n (!t.quiet) then some (s.failFlight f (Cause.at .rangeLock a.va))
  else if t.quiet then none
  else if a.refused (s.tagSeen t.core t.ctx a.pa true) then some (s.failFlight f (Cause.at .tagMismatch a.va))
  else if s.poisonSeen t.core t.ctx a.pa n true then some (s.stallPoison f a.va a.pa (paUnit a.pa).1 (paUnit a.pa).2)
  else none

/-- One lane of ATOM or ATOMC performs (R224, R225). The list holds the expected values that a lower lane has swapped. -/
def State.atomOne (a : State × List DWord) (f : Flight) : State × List DWord :=
  let s := a.1
  match f.op, s.thread? f.thread with
  | .atom ac w64 op x d, some t =>
    match s.atomStop f t ac (opWidth w64) with
    | some s' => (s', a.2)
    | none =>
      if t.quiet then (s.atomQuiet f t ac w64 d, a.2)
      else
        let r := s.rmw t ac (opWidth w64) fun old => some (atomBytes w64 op old x)
        ((r.1.updThread t.uid fun t => t.setOld w64 d r.2).finish f, a.2)
  | .atomc ac w64 e n d, some t =>
    match s.atomStop f t ac (opWidth w64) with
    | some s' => (s', a.2)
    | none =>
      if t.quiet then (s.atomQuiet f t ac w64 d, a.2)
      else
        let r := s.rmw t ac (opWidth w64) fun old => if old == e && !a.2.contains e then some n else none
        ((r.1.updThread t.uid fun t => t.setOld w64 d r.2).finish f, if r.2 == e then e :: a.2 else a.2)
  | _, _ => (s.finish f, a.2)

/-- Completion of ATOM and ATOMC (R88, R224, R225): the lanes of one word on one address run together, ascending. -/
def State.doneAtom (s : State) (f : Flight) : State :=
  if !s.accessFirst f || f.stalled.isSome then s
  else (((s.sameWord f).filter fun g => g.stalled.isNone).foldl State.atomOne (s, [])).1

/-- One lane of a RED performs at its home slice, or within an isolated team (R106, R226, R435); at the management window it
performs nothing (R228). -/
def State.redOne (s : State) (f : Flight) : State :=
  match f.op, s.thread? f.thread with
  | .red a w64 op x, some t =>
    let n := opWidth w64
    if s.lockedNow f t a n true then s.failFlight f (Cause.at .rangeLock a.va)
    else if s.isolates t then
      let r := s.readAcc t a 0 n
      (r.1.storeAcc t a 0 (loBytes n (atomBytes w64 op (leWord r.2.bytes) x))).finish f
    else if a.refused (s.tagSeen t.core t.ctx a.pa true) then s.failFlight f (Cause.at .tagMismatch a.va)
    else if isWindow a.pa then s.finish f
    else
      let s := (s.homeRange t.core t.ctx a.pa n).dropClean t.core t.ctx (a.pa / 256) (a.pa % 256 / 64)
      let r := s.rmwHome (some t.core) t.ctx a.tensor a.pa n (fun old => some (atomBytes w64 op old x)) false
      (r.1.collect t.uid a.pa r.2.2).finish f
  | _, _ => s.finish f

/-- RED goes on (R226): it completes when its request has left the core, and performs at home after that. -/
def State.doneRed (s : State) (f : Flight) : State :=
  if !f.posted then s.post f
  else if !s.accessFirst f then s
  else (s.sameWord f).foldl State.redOne s

/-! WAITC (R96, R229) -/

/-- Changes the monitor of a flight. -/
def State.updMonitor (s : State) (fl : Nat) (f : Monitor → Monitor) : State :=
  { s with y := { s.y with monitors := s.y.monitors.map fun m => if m.flight == fl then f m else m } }

/-- The value that WAITC compares, at the home slice: any owner is recalled first, the core's own masked bytes of the word go
home, and its clean copies of the sector go, so that it reads nothing older after it (R83, R96). -/
def State.waitValue (s : State) (t : Thread) (a : Acc) (w64 : Bool) : State × DWord :=
  if isWindow a.pa then (s, leWord (s.winLoad a.pa (opWidth w64)))
  else
    let s := (s.homeRange t.core t.ctx a.pa (opWidth w64)).dropClean t.core t.ctx (a.pa / 256) (a.pa % 256 / 64)
    let r := s.readHome a.pa (opWidth w64)
    (r.1, leWord r.2)

/-- A slice holds 512 monitors; device and host memory hold none (R96, R229). -/
def State.monitorRoom (s : State) (a : Acc) : Bool :=
  a.mt != 2#2 && !isHostMem a.pa && !isWindow a.pa &&
    decide ((s.y.monitors.filter fun m => m.monitor && m.slice == homeSlice a.pa).length < 512)

/-- The condition of a WAITC is evaluated, once the earlier accesses to its bytes have performed (R83, R88, R96). Where it does
not hold the first time, the home registers a monitor, if it has room. A locked range or poison stops it (R103, R444). -/
def State.waitEval (s : State) (f : Flight) : State :=
  match f.op, s.thread? f.thread with
  | .waitc a w64 c u k _ _, some t =>
    if f.stalled.isSome || !s.accessFirst f then s
    else if s.poisonSeen t.core t.ctx a.pa (opWidth w64) true then s.stallPoison f a.va a.pa (paUnit a.pa).1 (paUnit a.pa).2
    else
      let r := s.waitValue t a w64
      let room := r.1.monitorRoom a
      r.1.updMonitor f.uid fun m =>
        if waitHolds w64 c u r.2 k then { m with woken := some (r.2, true), fresh := false }
        else { m with monitor := if m.fresh then room else m.monitor, fresh := false, last := s.x.clk }
  | _, _ => s

/-- The monitor of a flight has been woken. -/
def State.wokenOf (s : State) (fl : Nat) : Option (DWord × Bool) :=
  (s.y.monitors.find? fun m => m.flight == fl).bind Monitor.woken

/-- One lane of WAITC: it is evaluated at once, or as soon as its earlier accesses let it; where the condition does not hold,
the thread is Parked on monitor. -/
def State.waitLane (s : State) (t : Thread) (c : Ctl) (w64 : Bool) (cond : Cond) (u : Bool) (d : Nat) (a : Acc) : State :=
  let k := if w64 then t.pair d else (t.vget d).zeroExtend 64
  let tmo := (t.vget (d + 2)).toNat
  let fl := s.x.nextUid
  let dl := if tmo == 0 then none else some (s.timeOf t + tmo)
  let s := s.launchFlight t c (.waitc a w64 cond u k d ((t.vget (d + 3)).toNat % 64))
  let m : Monitor := ⟨fl, homeSlice a.pa, dl, false, none, true, s.x.clk⟩
  let s := { s with y := { s.y with monitors := s.y.monitors ++ [m] } }
  let s := match s.flight? fl with
    | some f => s.waitEval f
    | none => s
  if (s.wokenOf fl).isSome then s else s.updThread t.uid fun t => { t with status := .parkedMon }

/-- WAITC (R229). -/
def execWaitc (c : Ctl) (w64 : Bool) (cond : Cond) (u : Bool) (data addr : VReg) (off : BitVec 14) (_scope : BitVec 3)
    (s : State) : Out :=
  .next (s.lanes c.grd [(addr, 2), (data, 4)] fun s t =>
    match s.inShadow t with
    | some tm => .ok (s.skipShadow tm)
    | none => do
      let p := ptrAddr t addr off
      alignTo p (opWidth w64)
      s.access t p (opWidth w64) false true true 0#12 2 0 fun s a => .ok (s.waitLane t c w64 cond u data.toNat a))

/-- Completion of a WAITC that has been woken or has timed out (R96, R229): an acquire of level 5, the value, the
predicate, and the thread goes on past it. -/
def State.doneWaitc (s : State) (f : Flight) (w64 : Bool) (d p : Nat) : State :=
  let s := if (s.wokenOf f.uid).isNone && !(s.y.monitors.any fun m => m.flight == f.uid && m.monitor)
    then s.waitEval f else s
  match s.wokenOf f.uid with
  | none => s
  | some v =>
    if !s.acquireDone f || (s.thread? f.thread).any s.swappedOut then s
    else
      let s := { s with y := { s.y with monitors := s.y.monitors.filter fun m => m.flight != f.uid } }
      (s.finish f).updThread f.thread fun t =>
        let t := (t.setOld w64 d v.1).pset p v.2
        if t.status == .parkedMon then t.past else t

/-- The WAITC of a thread, with its monitor. -/
def State.waitOf (s : State) (u : Nat) : Option (Flight × Monitor) :=
  (s.y.monitors.findSome? fun m =>
    match s.flight? m.flight with
    | some f => if f.thread == u then some (f, m) else none
    | none => none)

/-- Completes the WAITC of a flight, if it can. -/
def State.waitGo (s : State) (f : Flight) : State :=
  match f.op with
  | .waitc _ w64 _ _ _ d p => s.doneWaitc f w64 d p
  | _ => s

/-- MONITOR_WAKE (R96): a waiter whose condition a write at home has made true completes. -/
def execMonitorWake (thread : Nat) (s : State) : Out :=
  .next (match s.waitOf thread with
    | some (f, m) => if m.woken.isSome then s.waitGo f else s
    | none => s)

/-- WAITC_TIMEOUT (R96, R229): the waiter completes with a false predicate and an acquire; poison in its word stalls it first
(R444). -/
def execWaitcTimeout (thread : Nat) (s : State) : Out :=
  .next (match s.waitOf thread, s.thread? thread with
    | some (f, m), some t =>
      match m.deadline, f.op with
      | some dl, .waitc a w64 _ _ _ _ _ =>
        if m.woken.isSome || decide (s.timeOf t < dl) || f.stalled.isSome then s
        else if s.poisonSeen t.core t.ctx a.pa (opWidth w64) true then s.stallPoison f a.va a.pa (paUnit a.pa).1 (paUnit a.pa).2
        else
          let r := s.waitValue t a w64
          (r.1.updMonitor f.uid fun m => { m with woken := some (r.2, false) }).waitGo f
      | _, _ => s
    | _, _ => s)

/-- MONITOR_REEVALUATE (R96, R229): a waiter without a monitor is evaluated, or evaluated again. -/
def execMonitorReevaluate (thread : Nat) (s : State) : Out :=
  .next (match s.waitOf thread with
    | some (f, m) => if m.monitor || m.woken.isSome then s else (s.waitEval f).waitGo f
    | none => s)

/-- Waiters without a monitor that have not been evaluated for 1024 fabric clocks (R96, R229). -/
def State.waitersDue (s : State) : List Nat :=
  (s.y.monitors.filter fun m => !m.monitor && m.woken.isNone && decide (m.last + 1024 ≤ s.x.clk)).map Monitor.flight

/-- Those waiters are evaluated again. -/
def State.waitSweep (s : State) : State :=
  s.waitersDue.foldl (fun s u =>
    let s := s.updMonitor u fun m => { m with last := s.x.clk }
    match s.flight? u with
    | some f => (s.waitEval f).waitGo f
    | none => s) s

/-! Fences and TIME (R93, R94, R230, R231) -/

/-- One lane of a fence: `kind` is 0 ACQ, 1 REL, 2 AR, 3 REF. -/
def State.fence (s : State) (c : Ctl) (kind : BitVec 2) (scope : BitVec 3) : State :=
  s.lanes c.grd [] fun s t => .ok (s.launchFlight t c (.fence kind scope.toNat false))

/-- FENCE.ACQ (R230). -/
def execFenceAcq (c : Ctl) (scope : BitVec 3) (s : State) : Out := .next (s.fence c 0#2 scope)
/-- FENCE.REL (R230). -/
def execFenceRel (c : Ctl) (scope : BitVec 3) (s : State) : Out := .next (s.fence c 1#2 scope)
/-- FENCE.AR (R230). -/
def execFenceAr (c : Ctl) (scope : BitVec 3) (s : State) : Out := .next (s.fence c 2#2 scope)
/-- FENCE.REF (R230). -/
def execFenceRef (c : Ctl) (scope : BitVec 3) (s : State) : Out := .next (s.fence c 3#2 scope)

/-- Completion of a fence (R93, R94): its earlier accesses, its release work, and the wait past the write completion
times. -/
def State.doneFence (s : State) (f : Flight) (kind : BitVec 2) (scope : Nat) (begun : Bool) : State :=
  match s.thread? f.thread with
  | none => s.finish f
  | some t =>
    if kind == 0#2 then (if s.acquireDone f then s.finish f else s)
    else if kind == 3#2 then (if s.acquireDone f then (s.refresh t.core t.ctx).finish f else s)
    else if !begun then
      if !s.accessesDone f scope || (kind == 2#2 && !s.acquireDone f) then s
      else
        let r := s.releaseWork t scope
        if r.1.passed t r.2 then r.1.finish f
        else r.1.updFlight f.uid fun g => { g with op := .fence kind scope true, wait := r.2 }
    else if s.passed t f.wait then s.finish f else s

/-- TIME (R231). -/
def execTime (c : Ctl) (d : VReg) (s : State) : Out :=
  .next (s.lanes c.grd [(d, 2)] fun s t => .ok (s.launchFlight t c (.time d.toNat)))

/-- Completion of TIME (R231): every earlier instruction of the thread has completed. -/
def State.doneTime (s : State) (f : Flight) (d : Nat) : State :=
  if (s.earlier f).any Flight.busy then s
  else
    match s.thread? f.thread with
    | none => s.finish f
    | some t => (s.updThread t.uid fun u => u.setPair d (BitVec.ofNat 64 (s.timeOf t))).finish f

/-- A write at issue whose result is already known: registers and predicates at completion (R36, R174). -/
def State.doneWrite (s : State) (f : Flight) (regs : List (Nat × Word)) (preds : List (Nat × Bool)) : State :=
  (s.updThread f.thread fun t => preds.foldl (fun t p => t.pset p.1 p.2) (t.setRegs regs)).finish f

end Sys2Proof.Machine
end

