-- ==== Sys2Proof/Machine/Engine.lean ====
section
/-! DEFINITION. Memory as the engines reach it (R64, R91, R349, R444). -/

namespace Sys2Proof.Machine

/-- Cuts a range at 64 KiB pages: offset and length of each part. -/
def pageParts (va n : Nat) : List (Nat × Nat) :=
  if n == 0 then []
  else
    (List.range ((va % 65536 + n + 65535) / 65536)).map fun i =>
      let lo := if i == 0 then 0 else 65536 * i - va % 65536
      let hi := min n (65536 * (i + 1) - va % 65536)
      (lo, hi - lo)

/-- The checks of an engine's access to a range (R63, R64), page by page: the physical parts, or what stops it. -/
def State.engCheck (s : State) (core ctx : Nat) (p : DWord) (n : Nat) (modifies : Bool) (tensor : BitVec 12) :
    State × Except Stop (List (Nat × Nat)) :=
  (pageParts (ptrVa p) n).foldl (fun a part =>
    match a.2 with
    | .error e => (a.1, .error e)
    | .ok segs =>
      let q := p + BitVec.ofNat 64 part.1
      match a.1.pageCheck core none ctx q part.2 modifies false true tensor 5 with
      | (s, .code c) => (s, .error (.code c q))
      | (s, .fault c) => (s, .error (.fault c q))
      | (s, .go acc) => (s, .ok (segs ++ [(acc.pa, part.2)]))) (s, .ok [])

/-- An engine's access to lines at home retags them (R77). -/
def State.retagHome (s : State) (ctx : Nat) (tensor : BitVec 12) (pa n : Nat) : State :=
  if tensor == 0#12 then s
  else
    ((List.range ((pa % 256 + n + 255) / 256)).map fun i => pa / 256 + i).foldl (fun s l => s.touchHome l (some ctx) tensor) s

/-- An engine's read at the home slices: its bytes, and whether any is poisoned. -/
def State.engLoad (s : State) (core ctx : Nat) (tensor : BitVec 12) (p : DWord) (n : Nat) :
    State × Except Stop (List Byte × Bool) :=
  match s.engCheck core ctx p n false tensor with
  | (s, .error e) => (s, .error e)
  | (s, .ok segs) =>
    let r := segs.foldl (fun (a : State × List Byte × Bool) g =>
      if isWindow g.1 then (a.1, a.2.1 ++ a.1.winLoad g.1 g.2, a.2.2)
      else
        let r := (a.1.retagHome ctx tensor g.1 g.2).readHome g.1 g.2
        let bad := a.1.hostDown g.1 || (sectorsOf g.1 g.2).any fun k => a.1.poisoned (64 * k)
        (r.1, a.2.1 ++ r.2, a.2.2 || bad)) (s, [], false)
    (r.1, .ok r.2)

/-- An engine's write at the home slices: its write completion time. Poisoned input poisons every sector written. -/
def State.engStore (s : State) (core ctx : Nat) (tensor : BitVec 12) (p : DWord) (bs : List Byte) (poison : Bool) :
    State × Except Stop (Sparse Nat) :=
  match s.engCheck core ctx p bs.length true tensor with
  | (s, .error e) => (s, .error e)
  | (s, .ok segs) =>
    let r := segs.foldl (fun (a : State × Sparse Nat × List Byte) g =>
      let b := a.2.2.take g.2
      if isWindow g.1 then (a.1.winStore g.1 b, a.2.1, a.2.2.drop g.2)
      else
        let w := a.1.writeHome ctx tensor g.1 b poison
        (w.1, wctAdd a.2.1 (homeDie g.1) w.2, a.2.2.drop g.2)) (s, [], bs)
    (r.1, .ok r.2.1)

/-- Each home has passed the write completion times of its own writes (R91). -/
def State.homesPassed (s : State) (m : Sparse Nat) : Bool := m.all fun e => decide (e.2 < s.now e.1)

/-- Write completion times have been waited past on every die (R91). -/
def State.allPassed (s : State) (m : Sparse Nat) : Bool := (List.range 4).all fun d => s.passedAt d m

end Sys2Proof.Machine
end

