-- ==== Sys2Proof/Machine/Copy.lean ====
section
/-! DEFINITION. Asynchronous copies, discard and cache operations (R72, R78, R102 to R104, R210 to R216, R251). -/

namespace Sys2Proof.Machine

/-! Write-back of a range (R92, R102, R216) -/

/-- Masked bytes of a context in a range of virtual addresses leave a core for home; the result is the write completion times.
Pages that do not translate are skipped. -/
def State.wbRange (s : State) (core ctx lo n : Nat) : State × Sparse Nat :=
  (pageParts lo n).foldl (fun a part =>
    match a.1.translate core none ctx (lo + part.1) false with
    | (s, .error _) => (s, a.2)
    | (s, .ok (pa, _)) =>
      (s.m.copies.filter fun c => c.place == .l1 core && c.ctx == ctx && decide (pa < 256 * c.line + 256)
        && decide (256 * c.line < pa + part.2)).foldl (fun a c =>
          let r := a.1.writeBack c fun o => decide (pa ≤ 256 * c.line + o) && decide (256 * c.line + o < pa + part.2)
          (r.1, wctAdd a.2 (homeDie pa) r.2)) (s, a.2)) (s, [])

/-- Physical addresses that a page gives an address: its frame, and every replica (R68). -/
def Xlat.placesOf (x : Xlat) (pa va : Nat) : List Nat := (pa :: (x.frames.filterMap id).map fun f => f + (va - x.base)).eraseDups

/-- The lines of a context in a range leave the L1 of its core: an owned one returns to its home (R95, R216). -/
def State.dropOwn (s : State) (core ctx lo n : Nat) : State :=
  (pageParts lo n).foldl (fun s part =>
    match s.translate core none ctx (lo + part.1) false with
    | (s, .error _) => s
    | (s, .ok (pa, _)) =>
      (s.m.copies.filter fun c => c.place == .l1 core && c.ctx == ctx && decide (pa < 256 * c.line + 256)
        && decide (256 * c.line < pa + part.2)).foldl State.evict s) s

/-- The clean bytes that every core holds of a context's lines in a range, on every die's frames of its pages, are dropped
(R68, R216). -/
def State.dropFetch (s : State) (core ctx lo n : Nat) : State :=
  (pageParts lo n).foldl (fun s part =>
    match s.translate core none ctx (lo + part.1) false with
    | (s, .error _) => s
    | (s, .ok (pa, x)) =>
      let hit (c : Copy) : Bool :=
        (match c.place with | .l1 _ => true | _ => false) && c.ctx == ctx && c.own.isNone &&
          (x.placesOf pa (lo + part.1)).any fun q => decide (q < 256 * c.line + 256) && decide (256 * c.line < q + part.2)
      let keep (c : Copy) : Option Copy :=
        if !hit c then some c else if c.mask.isEmpty then none else some { c with sectors := [] }
      { s with m := { s.m with copies := s.m.copies.filterMap keep } }) s

/-! Issue (R103, R210, R214) -/

/-- A locked range, rounded outward to sectors (R103). -/
def lockOf (owner ctx : Nat) (p : DWord) (n : Nat) (dest : Bool) : Lock :=
  ⟨owner, ctx, ptrVa p / 64 * 64, (ptrVa p + n + 63) / 64 * 64, dest⟩

/-- Lines that a copy's pieces write or read in the scratchpad. -/
def pieceLines (ps : List CopyPiece) : List Nat :=
  (ps.flatMap fun p =>
    (match p.dst with | .spad o => spadLines o p.len | _ => []) ++
    (match p.src with | .spad o => spadLines o p.len | _ => [])).eraseDups

/-- The lock table and the pending counts have room (R72, R103). -/
def State.copyRoom (s : State) (tm : Option Team) (locks : Nat) (lines : List Nat) : Bool :=
  decide (s.m.locks.length + locks ≤ 512) &&
    match tm with
    | some tm => lines.all fun l => decide (tm.pendOf l < 15)
    | none => true

/-- A copy starts (R102, R103, R210): its ranges lock, its lines count, its core's dirty source bytes go home. With no
room the thread waits at its word (R214). `src` is the source range that the core writes home. -/
def State.startCopy (s : State) (t : Thread) (c : Ctl) (tensor : BitVec 12) (pieces : List CopyPiece)
    (locks : List (DWord × Nat × Bool)) (src : List (DWord × Nat)) : State :=
  if pieces.isEmpty then s.launchFlight t c (.write [] [])
  else
    let lines := pieceLines pieces
    let tm := s.teamOf t
    if !s.copyRoom tm locks.length lines then s.updThread t.uid fun t => { t with status := .copyWait locks.length lines, mid := true }
    else
      let u := s.x.nextUid
      let s := { s with x := { s.x with nextUid := u + 1 } }
      let fl := s.x.nextUid
      let s := s.launchFlight t c (.copyEnd u)
      let s := match tm with
        | some tm => s.pendAdd tm.uid lines
        | none => s
      let job : CopyJob :=
        { uid := u, thread := t.uid, team := t.team, ctx := t.ctx, core := t.core, flight := fl, tensor := tensor,
          ro := false, pieces := pieces, src := src, begun := false, wait := [], landed := [], bad := [], lines := lines,
          wct := [], stalled := none, failed := none }
      { s with
        m := { s.m with locks := s.m.locks ++ locks.map fun l => lockOf u t.ctx l.1 l.2.1 l.2.2 }
        e := { s.e with copies := s.e.copies ++ [job] } }

/-- A plain copy's length (R211). -/
def plainLen (w : Word) : Res Nat := if w.toNat % 16 == 0 && decide (w.toNat ≤ 2 ^ 24) then .ok w.toNat else illop

/-- The operands of a gather (R212): base, list, element size and count. -/
def gatherOps (t : Thread) (esz : BitVec 3) (a : VReg) (count : Word) : Res (DWord × DWord × Nat × Nat) :=
  if esz == 7#3 || decide (65536 < count.toNat) then illop
  else .ok (t.pair a.toNat, t.pair (a.toNat + 2), 2 ^ (esz.toNat + 2), count.toNat)

/-- The alignment of a gather's list and base (R212). -/
def gatherAlign (base list : DWord) (es : Nat) : Res Unit := do
  alignTo list 4
  alignTo base (min es 16)

/-- The pieces of a gather: one for each element. -/
def gatherPieces (base list : DWord) (es count : Nat) (dst : Nat → CopyEnd) : List CopyPiece :=
  (List.range count).map fun i => ⟨.elem base (list + BitVec.ofNat 64 (4 * i)) es 0, dst (es * i), es⟩

/-- The whole range lies in the allocation of the thread's team (R214); a length of zero is no error (R244). -/
def State.copySpad (s : State) (t : Thread) (off : Word) (n : Nat) : Res Unit :=
  if n == 0 then .ok ()
  else
    match s.spadTeam t off.toNat n with
    | .ok _ => .ok ()
    | .error c => .error c

/-- CPY (R211, R212). R211 states the alignment of plain copies; that a gather's destination too must be aligned to 16 is a
DESIGN CHOICE (log 65). -/
def execCpy (c : Ctl) (s2g : Bool) (gather : Bool) (esz : BitVec 3) (a : VReg) (b : SrcB) (x : VReg) (s : State) : Out :=
  .next (s.lanes c.grd ([(a, if gather then 4 else 2), (x, 1)] ++ bRuns b 1) fun s t => do
    let off ← s.srcI t b
    let len := t.vget x.toNat
    let p := t.pair a.toNat
    if (s2g && gather) || (!gather && esz != 0#3) then illop
    else if gather then
      let (base, list, es, n) ← gatherOps t esz a len
      gatherAlign base list es
      alignTo (off.zeroExtend 64) 16
      s.copySpad t off (es * n)
      .ok (s.startCopy t c 0#12 (gatherPieces base list es n fun o => .spad (off.toNat + o)) [(list, 4 * n, false)]
        [(list, 4 * n)])
    else
      let n ← plainLen len
      alignTo p 16
      alignTo (off.zeroExtend 64) 16
      s.copySpad t off n
      let ps : List CopyPiece := if n == 0 then []
        else if s2g then [⟨.spad off.toNat, .glob p, n⟩] else [⟨.glob p, .spad off.toNat, n⟩]
      .ok (s.startCopy t c 0#12 ps [(p, n, s2g)] (if s2g then [] else [(p, n)])))

/-- CPYG (R211, R212). A gather's destination must be aligned to 16, and that its ranges must not overlap binds the plain form
alone, a gather's elements lying in no one range: DESIGN CHOICE (log 65). -/
def execCpyg (c : Ctl) (gather : Bool) (esz : BitVec 3) (a : VReg) (b : SrcB) (x : VReg) (s : State) : Out :=
  .next (s.lanes c.grd ([(a, if gather then 4 else 2), (x, 2)] ++ bRuns b 1) fun s t => do
    let len ← s.srcI t b
    let p := t.pair a.toNat
    let q := t.pair x.toNat
    let at_ (o : Nat) : CopyEnd := .glob (q + BitVec.ofNat 64 o)
    if !gather && esz != 0#3 then illop
    else if gather then
      let (base, list, es, n) ← gatherOps t esz a len
      gatherAlign base list es
      alignTo q 16
      .ok (s.startCopy t c 0#12 (gatherPieces base list es n at_) [(list, 4 * n, false), (q, es * n, true)]
        [(list, 4 * n)])
    else
      let n ← plainLen len
      if decide (ptrVa p < ptrVa q + n) && decide (ptrVa q < ptrVa p + n) && n != 0 then illop
      else do
        alignTo p 16
        alignTo q 16
        .ok (s.startCopy t c 0#12 (if n == 0 then [] else [⟨.glob p, .glob q, n⟩]) [(p, n, false), (q, n, true)] [(p, n)]))

/-- Tile extent of a dimension of a tensor shape record (R250). -/
def tsTile (d : BitVec 256) (i : Nat) : Nat := (d.extractLsb' (160 - 8 * i) 8).toNat + 1
/-- Size of a dimension (R250). -/
def tsSize (d : BitVec 256) (i : Nat) : Nat := tsDim d (216 - 16 * i) 16

/-- The pieces of one row of a tile (R251): padding before and after the part that lies in the tensor. -/
def rowPieces (d : BitVec 256) (s2t : Bool) (o0 : Int) (y : Option (Nat × Nat × Nat)) (spad : Nat) : List CopyPiece :=
  let e := 2 ^ descEsize d
  let t0 := tsTile d 0
  let pad : List Byte := (natBytes 8 (d.extractLsb' 64 32).toNat).take e
  let fill (i n : Nat) : List CopyPiece :=
    if s2t || n == 0 then [] else [⟨.fill ((List.replicate n pad).flatten), .spad (spad + i * e), n * e⟩]
  match y with
  | none => fill 0 t0
  | some (x, yy, bt) =>
    let lo := min t0 (0 - o0).toNat
    let hi := max lo (min (t0 : Int) ((tsSize d 0 : Int) - o0)).toNat
    let mid : List CopyPiece :=
      if hi ≤ lo then []
      else
        let g : CopyEnd := .glob (descBase d + BitVec.ofNat 64 (tsOffset d (o0 + (lo : Int)).toNat x yy bt))
        if s2t then [⟨.spad (spad + lo * e), g, (hi - lo) * e⟩] else [⟨g, .spad (spad + lo * e), (hi - lo) * e⟩]
    fill 0 lo ++ mid ++ fill hi (t0 - hi)

/-- The pieces of a tile (R251). -/
def tilePieces (d : BitVec 256) (s2t : Bool) (o : Nat → Int) (off : Nat) : List CopyPiece :=
  let inside (i k : Nat) : Option Nat :=
    let v := o i + (k : Int)
    if 0 ≤ v ∧ v < (tsSize d i : Int) then some v.toNat else none
  (List.range (tsTile d 3)).flatMap fun i3 => (List.range (tsTile d 2)).flatMap fun i2 =>
    (List.range (tsTile d 1)).flatMap fun i1 =>
      let spad := off + (((i3 * tsTile d 2 + i2) * tsTile d 1 + i1) * tsTile d 0) * 2 ^ descEsize d
      let y := match inside 1 i1, inside 2 i2, inside 3 i3 with
        | some x, some yy, some bt => some (x, yy, bt)
        | _, _, _ => none
      rowPieces d s2t (o 0) y spad

/-- Global addresses that pieces touch: lowest, and one past the highest. -/
def pieceRange (ps : List CopyPiece) : Option (Nat × Nat) :=
  ps.foldl (fun r p =>
    let g := match p.src, p.dst with
      | .glob a, _ => some (a.toNat, a.toNat + p.len)
      | _, .glob a => some (a.toNat, a.toNat + p.len)
      | _, _ => none
    match g, r with
    | none, r => r
    | some g, none => some g
    | some g, some r => some (min g.1 r.1, max g.2 r.2)) none

/-- CPYT (R213, R251). -/
def execCpyt (c : Ctl) (s2t : Bool) (dn : DReg) (b : SrcB) (x : VReg) (s : State) : Out :=
  .next (s.lanes c.grd ((x, 4) :: bRuns b 1) fun s t => do
    let off ← s.srcI t b
    match s.teamOf t with
    | none => illop
    | some tm =>
      let d := tm.d.getD dn.toNat 0#256
      if descKind d != 2 then illop
      else do
        alignTo (off.zeroExtend 64) 16
        s.copySpad t off (tsTile d 0 * tsTile d 1 * tsTile d 2 * tsTile d 3 * 2 ^ descEsize d)
        if s2t && descRo d then .error (Cause.at .permission (descBase d))
        else
          let ps := tilePieces d s2t (fun i => (t.vget (x.toNat + i)).toInt) off.toNat
          let g : List (DWord × Nat) := match pieceRange ps with
            | some r => [(BitVec.ofNat 64 r.1, r.2 - r.1)]
            | none => []
          .ok (s.startCopy t c (descTensor d) ps (g.map fun r => (r.1, r.2, s2t)) (if s2t then [] else g)))

/-- COPY_ROOM (R214): a thread that waits at a copy word becomes Ready there once the table and its team's counts have
room. -/
def execCopyRoom (thread : Nat) (s : State) : Out :=
  .next (match s.thread? thread with
    | some t =>
      match t.status with
      | .copyWait locks lines =>
        if s.copyRoom (s.teamOf t) locks lines then s.updThread thread fun t => { t with status := .boundary } else s
      | _ => s
    | none => s)

/-! The copy engines (R102, R210) -/

/-- Changes a copy. -/
def State.updCopy (s : State) (u : Nat) (f : CopyJob → CopyJob) : State :=
  { s with e := { s.e with copies := s.e.copies.map fun k => if k.uid == u then f k else k } }

/-- A copy's access has stopped: on a page fault it waits (R210), on a code it ends. -/
def State.stopCopy (s : State) (k : CopyJob) (e : Stop) : State :=
  match e with
  | .code c a => s.updCopy k.uid fun k => { k with failed := some ⟨c, 0#8, a, true, false⟩ }
  | .fault c a =>
    let s := s.updCopy k.uid fun k => { k with stalled := some 0 }
    (s.addFault k.ctx a c 4 (coreSector k.core) (.copy k.uid)).1

/-- Bytes that a copy moves next: a piece is cut at the 64-B sectors of its ends. An element is aligned to the lesser of its
size and 16 (R212). -/
def chunk (p : CopyPiece) : Nat :=
  let cut (e : CopyEnd) : Nat :=
    match e with
    | .glob a => 64 - a.toNat % 64
    | .spad o => 64 - o % 64
    | .elem .. => 16
    | .fill _ => p.len
  min p.len (min (cut p.src) (cut p.dst))

/-- The rest of an end after `n` bytes. -/
def CopyEnd.skip (e : CopyEnd) (n : Nat) : CopyEnd :=
  match e with
  | .glob a => .glob (a + BitVec.ofNat 64 n)
  | .spad o => .spad (o + n)
  | .fill bs => .fill (bs.drop n)
  | .elem base list size off => .elem base list size (off + n)

/-- Bytes that an end supplies, and whether any is poisoned. -/
def State.copyRead (s : State) (k : CopyJob) (src : CopyEnd) (n : Nat) : State × Except Stop (List Byte × Bool) :=
  let overlaid (s : State) (a : DWord) (bs : List Byte) : List Byte :=
    match s.thread? k.thread with
    | some t => s.overlay t (ptrVa a) bs
    | none => bs
  match src with
  | .fill bs => (s, .ok (bs.take n, false))
  | .spad o =>
    match k.team.bind s.team? with
    | some tm => (s, .ok (tm.spadRead o n, tm.spadPoison o n))
    | none => (s, .ok (List.replicate n 0#8, false))
  | .glob a =>
    match s.engLoad k.core k.ctx k.tensor a n with
    | (s, .ok r) => (s, .ok (overlaid s a r.1, r.2))
    | r => r
  | .elem base list size off =>
    match s.engLoad k.core k.ctx k.tensor list 4 with
    | (s, .error e) => (s, .error e)
    | (s, .ok ix) =>
      let a := base + BitVec.ofNat 64 (leNat (overlaid s list ix.1) * size + off)
      match s.engLoad k.core k.ctx k.tensor a n with
      | (s, .ok r) => (s, .ok (overlaid s a r.1, r.2 || ix.2))
      | r => r

/-- The sector of a copy's destination that an address lies in. -/
def CopyEnd.sector : CopyEnd → Nat
  | .glob a => ptrVa a / 64
  | .spad o => o / 64
  | _ => 0

/-- Bytes of a sector of the destination have landed, poisoned or not (R444). -/
def CopyJob.land (k : CopyJob) (dst : CopyEnd) (n : Nat) (poison : Bool) : CopyJob :=
  { k with
    landed := sput k.landed dst.sector ((sget k.landed dst.sector).getD 0 + n)
    bad := if poison && !k.bad.contains dst.sector then dst.sector :: k.bad else k.bad }

/-- What the poison bit of a destination sector becomes (R444): set by poisoned input, cleared once the copy has covered the
sector whole, else as it was. -/
def CopyJob.poisonOf (k : CopyJob) (dst : CopyEnd) : Option Bool :=
  if k.bad.contains dst.sector then some true
  else if (sget k.landed dst.sector).getD 0 == 64 then some false
  else none

/-- The poison bit of a copy's destination sector is set or cleared. -/
def State.copyPoison (s : State) (k : CopyJob) (dst : CopyEnd) : State :=
  match k.poisonOf dst, dst with
  | none, _ => s
  | some b, .spad o =>
    match k.team with
    | some tm => s.updTeam tm fun t => { t with spoison := if b then sput t.spoison (o / 64) () else sdel t.spoison (o / 64) }
    | none => s
  | some b, .glob a =>
    if (s.thread? k.thread).any s.isolates then s
    else
      match s.engCheck k.core k.ctx a 1 true k.tensor with
      | (s, .ok [g]) => if isWindow g.1 then s else s.setPoison g.1 b
      | (s, _) => s
  | _, _ => s

/-- Bytes land at an end: the write completion times. Poisoned input poisons their sector as it lands (R444). -/
def State.copyWrite (s : State) (k : CopyJob) (dst : CopyEnd) (bs : List Byte) (bad : Bool) :
    State × Except Stop (Sparse Nat) :=
  match dst with
  | .spad o =>
    match k.team with
    | some tm => (s.spadStore tm o bs bad, .ok [])
    | none => (s, .ok [])
  | .glob a =>
    let iso := (s.thread? k.thread).bind fun t => if s.isolates t then s.teamOf t else none
    match iso with
    | some tm =>
      match s.engCheck k.core k.ctx a bs.length true k.tensor with
      | (s, .error e) => (s, .error e)
      | (s, .ok _) => (s.storeIsolated tm (ptrVa a) bs, .ok [])
    | none => s.engStore k.core k.ctx k.tensor a bs bad
  | _ => (s, .ok [])

/-- Lines that a copy no longer has to reach fall out of its count (R72). -/
def State.copyLines (s : State) (u : Nat) : State :=
  match s.e.copies.find? fun k => k.uid == u with
  | none => s
  | some k =>
    let left := pieceLines k.pieces
    let out := k.lines.filter fun l => !left.contains l
    let s := s.updCopy u fun k => { k with lines := k.lines.filter fun l => left.contains l }
    match k.team with
    | some tm => out.foldl (fun s l => s.pendSub tm l) s
    | none => s

/-- The core's own bytes of a range go home, for a copy that has still to start (R102). -/
def State.copyHome (s : State) (k : CopyJob) (p : DWord) (n : Nat) : State :=
  let w := s.wbRange k.core k.ctx (ptrVa p) n
  w.1.updCopy k.uid fun k => { k with wait := wctJoin k.wait w.2 }

/-- A copy starts (R102): the earlier accesses of its thread have performed, and the core's own bytes of its source go home, of
a gather the elements that its list names too; it reads once their write completion times have passed. -/
def State.copyBegin (s : State) (k : CopyJob) : State :=
  if s.x.flights.any fun f => f.thread == k.thread && decide (f.uid < k.flight) && (!f.op.ranges.isEmpty || f.op.spad) then s
  else
    let s := k.src.foldl (fun s r => s.copyHome k r.1 r.2) s
    let r := k.pieces.foldl (fun (a : State × Bool) p =>
      match p.src with
      | .elem base list size _ =>
        if a.2 then a
        else
          match a.1.copyRead k (.glob list) 4 with
          | (s, .error e) => (s.stopCopy k e, true)
          | (s, .ok ix) => (s.copyHome k (base + BitVec.ofNat 64 (leNat ix.1 * size)) size, false)
      | _ => a) (s, false)
    if r.2 then r.1 else r.1.updCopy k.uid fun k => { k with begun := true }

/-- COPY_LINE_LANDS (R72, R104): the copy starts, or its next bytes move, at most a sector of them. -/
def execCopyLineLands (copy : Nat) (s : State) : Out :=
  .next (match s.e.copies.find? fun k => k.uid == copy with
    | none => s
    | some k =>
      match k.pieces with
      | [] => s
      | p :: rest =>
        if k.stalled.isSome || k.failed.isSome then s
        else if !k.begun then s.copyBegin k
        else if !s.passedAt (coreDie k.core) k.wait then s
        else
          let n := chunk p
          match s.copyRead k p.src n with
          | (s, .error e) => s.stopCopy k e
          | (s, .ok r) =>
            match s.copyWrite k p.dst r.1 (r.2 || k.bad.contains p.dst.sector) with
            | (s, .error e) => s.stopCopy k e
            | (s, .ok w) =>
              let left := if p.len ≤ n then rest else ⟨p.src.skip n, p.dst.skip n, p.len - n⟩ :: rest
              let k := { k.land p.dst n r.2 with pieces := left, wct := wctJoin k.wct w }
              ((s.copyPoison k p.dst).updCopy copy fun _ => k).copyLines copy)

/-- COPY_COMPLETE (R102, R103, R210, R405): every byte has landed and its write completion times have passed, or a code
has ended the copy. Its locks and its lines go, and its counter falls. -/
def execCopyComplete (copy : Nat) (s : State) : Out :=
  .next (match s.e.copies.find? fun k => k.uid == copy with
    | none => s
    | some k =>
      if k.failed.isNone && (!k.pieces.isEmpty || !s.homesPassed k.wct) then s
      else
        let s := { s with m := { s.m with locks := s.m.locks.filter fun l => l.owner != copy } }
        let s := (s.updCopy copy fun k => { k with pieces := [] }).copyLines copy
        let s := { s with e := { s.e with copies := s.e.copies.filter fun j => j.uid != copy } }
        match s.flight? k.flight with
        | none => s
        | some f =>
          let s := s.finish f
          match k.failed with
          | none => s
          | some c => s.raiseAt k.thread f.site c)

/-! Discard and cache operations (R78, R215, R216) -/

/-- DISCT (R215). -/
def execDisct (c : Ctl) (b : SrcB) (s : State) : Out :=
  .next (s.lanes c.grd (bRuns b 1) fun s t => do
    let y ← s.srcI t b
    if y.toNat == 0 || decide (4096 ≤ y.toNat) then illop else .ok (s.launchFlight t c (.disct (y.extractLsb' 0 12))))

/-- Completion of DISCT (R78): the lines of the context that carry the identifier go, with no masked byte written back. -/
def State.doneDisct (s : State) (f : Flight) (id : BitVec 12) : State :=
  match s.thread? f.thread with
  | none => s.finish f
  | some t =>
    if s.isolates t then s.finish f
    else
      let own (l : Nat) : Bool := s.m.copies.any fun c => c.ctx == t.ctx && c.tensor == id && c.line == l && c.own.isSome
      let home := (s.m.home.map fun h =>
        let k := h.2
        let k := if k.ctx == some t.ctx && k.tensor == id then { k with bytes := [], tensor := 0#12 } else k
        (h.1, if own h.1 then { k with owner := none } else k)).filter fun h => h.2 != HomeLine.empty
      let copies := s.m.copies.filter fun c => !(c.ctx == t.ctx && c.tensor == id)
      ({ s with m := { s.m with home := home, copies := copies } }).finish f

/-- One lane of a CACHEOP: `op` is 0 WB, 1 WBINV, 2 ICINV. -/
def State.cacheop (s : State) (c : Ctl) (a : VReg) (b : SrcB) (op : Nat) : State :=
  s.lanes c.grd ((a, 2) :: bRuns b 1) fun s t => do
    let n ← s.srcI t b
    .ok (s.launchFlight t c (.cacheop op (t.pair a.toNat) n.toNat false))

/-- CACHEOP.WB (R216). -/
def execCacheopWb (c : Ctl) (a : VReg) (b : SrcB) (s : State) : Out := .next (s.cacheop c a b 0)
/-- CACHEOP.WBINV (R216). -/
def execCacheopWbinv (c : Ctl) (a : VReg) (b : SrcB) (s : State) : Out := .next (s.cacheop c a b 1)
/-- CACHEOP.ICINV (R216). -/
def execCacheopIcinv (c : Ctl) (a : VReg) (b : SrcB) (s : State) : Out := .next (s.cacheop c a b 2)

/-- Completion of a CACHEOP (R216): the range is rounded outward to lines, and what lies past the last virtual address names no
page; a pointer whose bits 59:48 are not zero does nothing. -/
def State.doneCacheop (s : State) (f : Flight) (op : Nat) (va : DWord) (len : Nat) : State :=
  match s.thread? f.thread with
  | none => s.finish f
  | some t =>
    if len == 0 || !ptrOk va then s.finish f
    else
      let lo := ptrVa va / 256 * 256
      let n := min (2 ^ 48) ((ptrVa va + len + 255) / 256 * 256) - lo
      if op == 2 then
        let s := { s with m := { s.m with fetched := s.m.fetched.filter fun w =>
          !(w.ctx == t.ctx && decide (lo ≤ w.addr) && decide (w.addr < lo + n)) } }
        (s.dropFetch t.core t.ctx lo n).finish f
      else
        let s := (s.wbRange t.core t.ctx lo n).1
        let s := if op == 1 then s.dropOwn t.core t.ctx lo n else s
        s.finish f

end Sys2Proof.Machine
end

