-- ==== Sys2Proof/Machine/Texture.lean ====
section
/-! DEFINITION. Textures and surfaces (R217 to R223). -/

namespace Sys2Proof.Machine

/-- A texture after its header: texel format, levels, and the width, height and offset of each level (R217, R218). -/
structure Tex where
  fmt    : Nat
  w      : Nat
  h      : Nat
  levels : List (Nat × Nat × Nat)
deriving DecidableEq, Repr

/-- Bytes of a texel (R217). -/
def texelBytes (fmt : Nat) : Nat := [4, 8, 16, 4].getD fmt 4

/-- Width, height and offset of the levels from a level on (R218). -/
def texLevels (fmt w h : Nat) : Nat → Nat → Nat → List (Nat × Nat × Nat)
  | 0, _, _ => []
  | n + 1, l, o =>
    let wl := max 1 (w / 2 ^ l)
    let hl := max 1 (h / 2 ^ l)
    (wl, hl, o) :: texLevels fmt w h n (l + 1) (o + (wl * hl * texelBytes fmt + 255) / 256 * 256)

/-- A texture header (R217); none where it is refused. -/
def texHeader (bs : List Byte) : Option Tex :=
  let r : BitVec 512 := BitVec.ofNat 512 (leNat bs)
  let fmt := (r.extractLsb' 508 4).toNat
  let n := (r.extractLsb' 503 5).toNat
  let h := (r.extractLsb' 464 16).toNat + 1
  let w := (r.extractLsb' 448 16).toNat + 1
  if decide (fmt ≤ 3) && decide (1 ≤ n) && decide (n ≤ 1 + Nat.log2 (max w h)) && r.extractLsb' 480 23 == 0#23
    && r.extractLsb' 0 448 == 0#448 then some ⟨fmt, w, h, texLevels fmt w h n 0 64⟩ else none

/-- Offset of a texel (R218). -/
def Tex.pos (x : Tex) (l px py : Nat) : Nat :=
  match x.levels[l]? with
  | some (wl, _, o) => o + (py * wl + px) * texelBytes x.fmt
  | none => 0

/-- A texel's channels (R218). -/
def texelNums (fmt : Nat) (bs : List Byte) : List Num :=
  let w (i n : Nat) : Nat := leNat ((bs.drop (n * i)).take n)
  match fmt with
  | 0 => (List.range 4).map fun i => Num.ofRat ((w i 1 : Rat) / 255)
  | 1 => (List.range 4).map fun i => decodeNum .fp16 (w i 2)
  | 2 => (List.range 4).map fun i => decodeNum .fp32 (w i 4)
  | _ => [decodeNum .fp32 (w 0 4), Num.zero, Num.zero, Num.one]

/-- The encoding of a texel (R222). -/
def texelEncode (fmt : Nat) (vs : List Word) : List Byte :=
  match fmt with
  | 0 => vs.flatMap fun v => natBytes 1 ((roundNum .n8 .rn 0 ((fp32 v).mul (Num.ofInt 255))).getD 0)
  | 1 => vs.flatMap fun v => natBytes 2 (roundNE .fp16 (fp32 v))
  | 2 => vs.flatMap fun v => natBytes 4 (toFp32 (fp32 v)).toNat
  | _ => natBytes 4 (toFp32 (fp32 (vs.getD 0 0#32))).toNat

/-- A texel at an offset of a texture buffer (R218, R223): bounds, alignment, then the checks of any access, as a load of scope
1. What is left is the part that the flight reads; out of bounds under ROBUST it is zeros (R80). -/
def State.texPart (s : State) (t : Thread) (d : BitVec 256) (o n : Nat) (k : State → ReadPart → Res State) : Res State :=
  let p := descBase d + BitVec.ofNat 64 o
  if descExtent d < o + n then
    (if descRobust d then k s (ReadPart.known (List.replicate n 0#8)) else .error (Cause.at .bounds p))
  else if p.toNat % n != 0 then .error (Cause.at .align p)
  else s.access t p n false true true (descTensor d) 1 0 fun s a => k s ⟨some a, n, []⟩

/-- Several texels of one size, in order. -/
def texParts (t : Thread) (d : BitVec 256) (n : Nat) : State → List Nat → (State → List ReadPart → Res State) → Res State
  | s, [], k => k s []
  | s, o :: os, k => s.texPart t d o n fun s p => texParts t d n s os fun s ps => k s (p :: ps)

/-- A texel that every check has let through is a load of its thread: inside a section a watched holder keeps a place for it
(R235), and a replay's named thread takes its bytes from a supplied record, or reads it with its pre-image missing (R435). -/
def State.texelLoad (t : Thread) (s : State) (p : ReadPart) : State × ReadPart :=
  match p.acc with
  | none => (s, p)
  | some a =>
    match (s.launch? t.launch).bind Launch.replay with
    | none => (s.retainLoad t a.va, p)
    | some r =>
      if !t.isNamed || t.secs.isEmpty then (s, p)
      else
        let q := r.supply t a.va p.len
        let s := s.updReplay t.launch fun _ => q.2
        match q.1 with
        | some bs => (s.note t 2#8 0#8, ReadPart.known bs)
        | none => (s.note t 0#8 0x10#8, p)

/-- A texture instruction goes into flight with its texels still to be read. -/
def State.texFlight (s : State) (t : Thread) (c : Ctl) (what : Gathered) (d : Nat) (ps : List ReadPart) (head : List Nat) :
    State :=
  let r := ps.foldl (fun (a : State × List ReadPart) p => let q := State.texelLoad t a.1 p; (q.1, a.2 ++ [q.2])) (s, [])
  r.1.launchFlight t c (.gather what d r.2 head)

/-- Bytes of a header (R217, R218), read at issue. They are no load of up to 16 bytes, and are neither kept (R235) nor supplied
(R435): DESIGN CHOICE (log 68). -/
def State.headPart (s : State) (t : Thread) (d : BitVec 256) (o n : Nat) (k : State → List Byte → Res State) : Res State :=
  let p := descBase d + BitVec.ofNat 64 o
  s.access t p n false true true (descTensor d) 1 0 fun s a => do
    let (s, bs) ← s.readNow t [⟨some a, n, []⟩]
    k s bs

/-- The header (R217, R218): under ROBUST its bytes beyond EXTENT read as zeros. -/
def State.texHead (s : State) (t : Thread) (d : BitVec 256) (k : State → Tex → Res State) : Res State :=
  let inside := min 64 (descExtent d)
  if inside < 64 && !descRobust d then .error (Cause.at .bounds (descBase d))
  else
    let parts := sectorParts (ptrVa (descBase d)) inside
    let rec go : State → List (Nat × Nat) → List Byte → Res State
      | s, [], bs =>
        match texHeader (bs ++ List.replicate (64 - bs.length) 0#8) with
        | some x => k s x
        | none => illop
      | s, p :: ps, bs => s.headPart t d p.1 p.2 fun s b => go s ps (bs ++ b)
    go s parts []

/-- The descriptor of a texture instruction (R222, R244). -/
def State.texDesc (s : State) (t : Thread) (dn : DReg) : Res (BitVec 256) :=
  match s.teamOf t with
  | none => illop
  | some tm => let d := tm.d.getD dn.toNat 0#256; if descKind d == 1 then .ok d else illop

/-! Sampling (R219 to R221) -/

/-- A rational rounded to the nearest integer, ties to even. -/
def roundEven (q : Rat) : Int :=
  let f := q.floor
  let r := q - (f : Rat)
  if r < 1 / 2 then f else if 1 / 2 < r then f + 1 else if f % 2 == 0 then f else f + 1

/-- A rational rounded to a multiple of 2^-8, ties to even. -/
def round8 (q : Rat) : Rat := (roundEven (q * 256) : Rat) / 256

/-- Log2 of the root of `q`, rounded to a multiple of 2^-8: 256 times it is the log2 of q^128, whose nearest integer
never ties for a rational (R220). -/
def halfLog2 (q : Rat) : Rat := (((floorLog2 (q ^ 256) + 1) / 2 : Int) : Rat) / 256

/-- A wrap mode applied to an index (R219). -/
def wrapIx (mode : Nat) (i : Int) (n : Nat) : Nat :=
  match mode with
  | 0 => (i % (n : Int)).toNat
  | 1 => (max 0 (min i ((n : Int) - 1))).toNat
  | _ => let k := (i % (2 * (n : Int))).toNat; if k < n then k else 2 * n - 1 - k

/-- The texels of a level that a sample reads, with their weights (R221). -/
def levelTexels (x : Tex) (l filter wu wv : Nat) (u v : Rat) (scale : Rat) : List (Nat × Rat) :=
  match x.levels[l]? with
  | none => []
  | some (wl, hl, _) =>
    let px := round8 (u * (wl : Rat) - 1 / 2)
    let py := round8 (v * (hl : Rat) - 1 / 2)
    let at_ (i j : Int) : Nat := x.pos l (wrapIx wu i wl) (wrapIx wv j hl)
    if filter == 0 then [(at_ (px + 1 / 2).floor (py + 1 / 2).floor, scale)]
    else
      let i := px.floor
      let j := py.floor
      let a := px - (i : Rat)
      let b := py - (j : Rat)
      [(at_ i j, scale * (1 - a) * (1 - b)), (at_ (i + 1) j, scale * a * (1 - b)), (at_ i (j + 1), scale * (1 - a) * b),
       (at_ (i + 1) (j + 1), scale * a * b)]

/-- Weighted sum of texels, each channel rounded once (R221). -/
def blend (fmt : Nat) (ws : List Rat) (texels : List (List Byte)) : List Word :=
  let ns := (ws.zip texels).filter fun p => p.1 != 0
  (List.range 4).map fun c =>
    toFp32 (Num.sum (ns.map fun p => (Num.ofRat p.1).mul ((texelNums fmt p.2).getD c Num.zero)))

/-- The canonical NaN four times, or zeros: registers d to d + 3. -/
def quadRegs (d : Nat) (vs : List Word) : List (Nat × Word) := vs.zipIdx.map fun p => (d + p.2, p.1)

/-- The 64-B sectors of the header that a texture instruction asks for, by virtual address (R75, R217). -/
def texSectors (d : BitVec 256) : List Nat := sectorsOf (ptrVa (descBase d)) 64

/-- A sample of a thread (R219 to R221): `lam` gives the level value from the run once the header is known. -/
def State.sample (s : State) (t : Thread) (c : Ctl) (d : Nat) (run : List Word) (b : Word) (dn : DReg)
    (lam : Tex → List Rat → Rat) : Res State := do
  let desc ← s.texDesc t dn
  if b.extractLsb' 6 26 != 0#26 || b.extractLsb' 0 2 == 3#2 || b.extractLsb' 2 2 == 3#2 || b.extractLsb' 4 2 == 3#2 then illop
  else
    s.texHead t desc fun s x =>
      let ns := run.map fp32
      if ns.any fun v => v.isNan || v.isInf then
        .ok (s.launchFlight t c (.sampled (quadRegs d (List.replicate 4 0x7FC00000#32)) (texSectors desc)))
      else
        let vs := ns.map Num.toRat
        let u := vs.getD 0 0
        let v := vs.getD 1 0
        let top : Rat := ((x.levels.length - 1 : Nat) : Rat)
        let q := max 0 (min (lam x vs) top)
        let f := (b.extractLsb' 0 2).toNat
        let wu := (b.extractLsb' 2 2).toNat
        let wv := (b.extractLsb' 4 2).toNat
        let ts :=
          if f == 2 then
            let l0 := q.floor.toNat
            let fr := q - (l0 : Rat)
            levelTexels x l0 1 wu wv u v (1 - fr) ++ levelTexels x (min (l0 + 1) (x.levels.length - 1)) 1 wu wv u v fr
          else levelTexels x (q + 1 / 2).floor.toNat f wu wv u v 1
        texParts t desc (texelBytes x.fmt) s (ts.map Prod.fst) fun s ps =>
          .ok (s.texFlight t c (.blend x.fmt (ts.map Prod.snd)) d ps (texSectors desc))

/-- The level value of TEXS (R220). -/
def gradLevel (x : Tex) (vs : List Rat) : Rat :=
  let g (i j : Nat) : Rat :=
    let a := vs.getD i 0 * (x.w : Rat)
    let b := vs.getD j 0 * (x.h : Rat)
    a * a + b * b
  let r := max (g 2 3) (g 4 5)
  if r == 0 then 0 else halfLog2 r

/-- TEXS (R220). -/
def execTexs (c : Ctl) (d : VReg) (a : VReg) (b : SrcB) (dn : DReg) (s : State) : Out :=
  .next (s.lanes c.grd ([(d, 4), (a, 6)] ++ bRuns b 1) fun s t => do
    let y ← s.srcI t b
    s.sample t c d.toNat (t.run a.toNat 6) y dn gradLevel)

/-- TEXL (R220). -/
def execTexl (c : Ctl) (d : VReg) (a : VReg) (b : SrcB) (dn : DReg) (s : State) : Out :=
  .next (s.lanes c.grd ([(d, 4), (a, 3)] ++ bRuns b 1) fun s t => do
    let y ← s.srcI t b
    s.sample t c d.toNat (t.run a.toNat 3) y dn fun _ vs => round8 (vs.getD 2 0))

/-- TEXF (R222). -/
def execTexf (c : Ctl) (d : VReg) (a : VReg) (dn : DReg) (s : State) : Out :=
  .next (s.lanes c.grd [(d, 4), (a, 3)] fun s t => do
    let desc ← s.texDesc t dn
    s.texHead t desc fun s x =>
      let px := (t.vget a.toNat).toNat
      let py := (t.vget (a.toNat + 1)).toNat
      let l := (t.vget (a.toNat + 2)).toNat
      let inside := match x.levels[l]? with
        | some (wl, hl, _) => decide (px < wl) && decide (py < hl)
        | none => false
      if !inside then .ok (s.launchFlight t c (.sampled (quadRegs d.toNat (List.replicate 4 0#32)) (texSectors desc)))
      else
        s.texPart t desc (x.pos l px py) (texelBytes x.fmt) fun s p =>
          .ok (s.texFlight t c (.texel x.fmt) d.toNat [p] (texSectors desc)))

/-- SURFST (R222): a store of the texel's size at its texel address. -/
def execSurfst (c : Ctl) (a : VReg) (b : VReg) (dn : DReg) (s : State) : Out :=
  .next (s.lanesNoHelper c.grd [(a, 3), (b, 4)] fun s t => do
    let desc ← s.texDesc t dn
    s.texHead t desc fun s x =>
      let px := (t.vget a.toNat).toNat
      let py := (t.vget (a.toNat + 1)).toNat
      let l := (t.vget (a.toNat + 2)).toNat
      let inside := match x.levels[l]? with
        | some (wl, hl, _) => decide (px < wl) && decide (py < hl)
        | none => false
      if !inside then .ok s
      else
        let n := texelBytes x.fmt
        let o := x.pos l px py
        let p := descBase desc + BitVec.ofNat 64 o
        if descExtent desc < o + n then (if descRobust desc then .ok s else .error (Cause.at .bounds p))
        else if descRo desc then .error (Cause.at .permission p)
        else do
          alignTo p n
          s.access t p n true false true (descTensor desc) 1 1 fun s acc =>
            let bs := texelEncode x.fmt (t.run b.toNat 4)
            .ok (((s.recordStore t acc bs).streamAdd t s.x.nextUid p n bs).launchFlight t c (.store acc bs)))

end Sys2Proof.Machine
end

