-- ==== Sys2Proof/Machine/Spawn.lean ====
section
/-! DEFINITION. Room on a core, new threads, trap handlers, LAUNCH and active messages (R28, R44, R239 to R242, R314,
R315, R352, R374, R376). -/

namespace Sys2Proof.Machine

/-! Room (R314, R315) -/

/-- A group holds its slot: its team is not swapped out. -/
def State.resident (s : State) (g : Group) : Bool :=
  match g.team.bind s.team? with
  | some tm => tm.swapped.isNone
  | none => true

/-- Energy weight of a group of a launch. -/
def State.lweight (s : State) (lid : Nat) : Nat :=
  ((s.launch? lid).map fun l => eclassWeight (lrEclass l.record)).getD 1

/-- Weight of the groups and tile jobs resident on a core (R315, R332). -/
def State.coreWeight (s : State) (core : Nat) : Nat :=
  ((s.x.groups.filter fun g => g.core == core && s.resident g).map Group.weight).sum +
    ((s.e.tiles.filter fun k => k.core == core).map fun k => s.lweight k.launch).sum

/-- The core's budget admits more weight (R315). -/
def State.budgetOk (s : State) (core w : Nat) : Bool := decide (s.coreWeight core + w ≤ (s.h.cbudget.getD core 0#10).toNat)

/-- The lowest slot of a slice that no group holds (R28). That a group of a team keeps its slot until its team ends, though all
of its threads have exited before, is a DESIGN CHOICE (log 66): R50 and R191 release a thread's slot at its exit, R52 frees a
team's slots at the team's end, and neither says when a new group may take it. -/
def State.freeSlot (s : State) (core slice : Nat) : Option Nat :=
  (List.range 8).find? fun k => !(s.x.groups.any fun g => g.core == core && g.slice == slice && g.slot == k && s.resident g)

/-- Every lane of a slice has register blocks free (R43). -/
def State.lanesFree (s : State) (core slice n : Nat) : Bool :=
  (List.range 32).all fun l => decide (n ≤ s.laneFree core slice l)

/-- A teamless group may be placed on a slice of a core (R241, R342). -/
def State.groupFits (s : State) (core slice blocks weight : Nat) : Option Nat :=
  if decide (core < 144) && decide (slice < 8) && s.lanesFree core slice blocks && s.budgetOk core weight then
    s.freeSlot core slice
  else none

/-! New threads -/

/-- A thread at its creation: registers zero, predicates false, counters zero (R43). -/
def mkThread (uid core slice lane slot group : Nat) (team : Option Nat) (tix launch ctx : Nat) (kind : ThreadKind)
    (blocks : Nat) (pc : DWord) (name : BitVec 128) : Thread :=
  { uid := uid, core := core, slice := slice, lane := lane, slot := slot, group := group, team := team, tix := tix,
    launch := launch, ctx := ctx, kind := kind, v := List.replicate (16 * blocks) 0#32, p := 0#64,
    q := List.replicate 8 0, pc := pc, hdr := pc, count := 0, mid := false, name := name, status := .boundary,
    starve := 0, fair := false, wown := [], trap := none, secs := [], tickets := [], ctickets := [], couch := 0,
    wct := [], amdone := false, helper := false, recs := [], fail := none }

/-- Adds a teamless group of threads; `mk` builds the thread of a lane from its uid and group. -/
def State.addGroup (s : State) (core slice slot lid : Nat) (lanes : List Nat) (mk : Nat → Nat → Nat → Thread) : State :=
  let g := s.x.nextUid
  let grp : Group := ⟨g, core, slice, slot, 0, none, lid, s.lweight lid, 0, false, 0, false⟩
  let ts := lanes.map fun l => mk (g + 1 + l) g l
  { s with x := { s.x with
    nextUid := g + 33
    groups := s.x.groups ++ [grp]
    threads := s.x.threads ++ ts } }

/-! Trap handlers (R374, R376) -/

/-- The 16 words of a report. -/
def reportWords (r : BitVec 512) : List Word := (List.range 16).map fun i => r.extractLsb' (32 * i) 32

/-- A handler thread (R374): two blocks, the report in V0 to V15, the fall-through in V16:V17. -/
def handlerThread (t : Thread) (report : BitVec 512) (fall : DWord) : Thread :=
  { (t.setRun 0 (reportWords report)).setPair 16 fall with helper := false }

/-- A trapped thread waits for its handler, and everything it had in flight is done (R374). -/
def State.handlerDue (s : State) (t : Thread) : Bool :=
  match t.trap with
  | none => false
  | some r => !r.fresh && !r.freezing && !r.suppressed && r.handler.isNone && !t.isReplay && !t.isHandler &&
      t.status != .exited && !(s.x.flights.any fun f => f.thread == t.uid) && s.traph t != 0#64 && !s.swappedOut t

/-- Spawns the handlers of trapped threads of one launch as a group (R374). -/
def State.spawnHandlers (s : State) (xs : List Thread) (core slice slot : Nat) : State :=
  match xs with
  | [] => s
  | x0 :: _ =>
    let entry := s.traph x0
    let mk (u g l : Nat) : Thread :=
      let x := xs.getD l x0
      let r := (x.trap.map TrapRec.report).getD 0#512
      handlerThread (mkThread u core slice l slot g none l x.launch x.ctx (.handler x.uid) 2 entry x.name) r
        ((x.trap.map TrapRec.fall).getD 0#64)
    let g := s.x.nextUid
    let s := s.addGroup core slice slot x0.launch (List.range xs.length) mk
    (xs.zipIdx).foldl (fun s p =>
      s.updThread p.1.uid fun t => { t with trap := t.trap.map fun r => { r with handler := some (g + 1 + p.2) } }) s

/-- Spawns the handler of a launch trap (R376). -/
def State.spawnLaunchTrap (s : State) (l : Launch) (core slice slot : Nat) : State :=
  match l.traps with
  | [] => s
  | r :: rest =>
    let stall := reportCode r == Code.orderedStall.val
    let mk (u g k : Nat) : Thread :=
      handlerThread (mkThread u core slice k slot g none k l.uid l.ctx (.launchTrap stall) 2 (lrTraph l.record)
        (r.extractLsb' 384 128)) r 0#64
    (s.addGroup core slice slot l.uid [0] mk).updLaunch l.uid fun l => { l with traps := rest }

/-- A handler group goes to its thread's own core wherever that has room (R374). -/
def State.preferCore (s : State) (t : Thread) (core : Nat) : Bool :=
  core == t.core || (List.range 8).all fun k => (s.groupFits t.core k 2 (s.lweight t.launch)).isNone

/-- Puts a trapped thread among others by the arrival of its trap. -/
def arrivalInsert (t : Thread) (ts : List Thread) : List Thread :=
  let key (t : Thread) : Nat := (t.trap.map TrapRec.arrival).getD 0
  match ts with
  | [] => [t]
  | u :: r => if key t < key u then t :: u :: r else u :: arrivalInsert t r

/-- The threads of a launch that wait for handlers, by arrival (R374). -/
def State.handlersDue (s : State) (lid : Nat) : List Thread :=
  (s.x.threads.filter fun u => u.launch == lid && s.handlerDue u).foldr arrivalInsert []

/-- HANDLER_SPAWN (R374, R376): the trapped threads of a launch that wait for handlers are gathered by arrival, up to 32, and a
handler group is placed for them when the first of them is named; or one for a launch's oldest launch trap, which the launch's
uid names. -/
def execHandlerSpawn (thread core slice : Nat) (s : State) : Out :=
  .next (match s.thread? thread with
    | some t =>
      let xs := (s.handlersDue t.launch).take 32
      if xs.head? != some t || (s.ctx t.ctx).frozen || !s.preferCore t core then s
      else
        match s.groupFits core slice 2 (s.lweight t.launch) with
        | none => s
        | some slot => s.spawnHandlers xs core slice slot
    | none =>
      match s.launch? thread with
      | none => s
      | some l =>
        if l.traps.isEmpty || (s.ctx l.ctx).frozen then s
        else
          match s.groupFits core slice 2 (s.lweight l.uid) with
          | none => s
          | some slot => s.spawnLaunchTrap l core slice slot)

/-! Queues (R239, R311, R352) -/

/-- Records of a queue. -/
def State.queue (s : State) (ctx q : Nat) : List QRec := (sget s.d.queues (ctx * 16 + q)).getD []
/-- Replaces the records of a queue. -/
def State.setQueue (s : State) (ctx q : Nat) (rs : List QRec) : State :=
  { s with d := { s.d with queues := sputD [] s.d.queues (ctx * 16 + q) rs } }
/-- A record enters a queue. -/
def State.enqueue (s : State) (ctx q : Nat) (ptr : DWord) (record : BitVec 4096) : State :=
  let u := s.x.nextUid
  ({ s with x := { s.x with nextUid := u + 1 } }).setQueue ctx q (s.queue ctx q ++ [(⟨u, ptr, record⟩ : QRec)])

/-- A doorbell write is done with. -/
def State.dropBell (s : State) (u : Nat) : State :=
  { s with d := { s.d with bells := s.d.bells.filter fun b => b.uid != u } }

/-- A doorbell write reads its record and enters it (R352); a page fault of the read makes it wait. -/
def State.serveBell (s : State) (b : Bell) : State :=
  if b.ptr.toNat % 64 != 0 then (s.dropBell b.uid).reject b.ctx b.queue b.ptr .illegalOperand
  else if 64 ≤ (s.queue b.ctx b.queue).length then
    let s := s.dropBell b.uid
    { s with h := { s.h with qovf := s.h.qovf ||| (1#64 <<< b.ctx) } }
  else
    match s.engLoad 0 b.ctx 0#12 b.ptr 512 with
    | (s, .error (.code _ _)) => (s.dropBell b.uid).reject b.ctx b.queue b.ptr .illegalOperand
    | (s, .error (.fault c a)) =>
      let r := s.addFault b.ctx a c 0 0 (.bell b.uid)
      { r.1 with d := { r.1.d with bells := r.1.d.bells.map fun k => if k.uid == b.uid then { k with fault := some r.2 } else k } }
    | (s, .ok r) => (s.dropBell b.uid).enqueue b.ctx b.queue b.ptr (BitVec.ofNat 4096 (leNat r.1))

/-- Doorbell writes are served in order of arrival, those of one queue one at a time (R352). -/
def State.serveBells (s : State) : State :=
  (s.d.bells.map Bell.uid).foldl (fun s u =>
    match s.d.bells.find? fun b => b.uid == u with
    | none => s
    | some b =>
      let first := (s.d.bells.find? fun k => k.ctx == b.ctx && k.queue == b.queue).map Bell.uid
      if first == some u && b.fault.isNone then s.serveBell b else s) s

/-- Steps 4 to 6 of R201 for a load of a lane that may reach into a second page, part by part; then poison in any sector parks
the lane, and `k` gets the access of each part. -/
def State.accessParts (s : State) (t : Thread) (p : DWord) (scope : Nat) (accs : List (Acc × Nat))
    (k : State → List (Acc × Nat) → Res State) : List (Nat × Nat) → Res State
  | [] =>
    match accs.find? fun a => s.hostDown a.1.pa || (sectorsOf a.1.pa a.2).any fun j => s.poisonSeen t.core t.ctx (64 * j) 64 true with
    | none => k s accs
    | some a =>
      let bad := ((sectorsOf a.1.pa a.2).find? fun j => s.poisonSeen t.core t.ctx (64 * j) 64 true).getD (a.1.pa / 64)
      .ok (s.parkPoison t a.1.va (64 * bad) (paUnit a.1.pa).1 (paUnit a.1.pa).2)
  | part :: rest =>
    let q := p + BitVec.ofNat 64 part.1
    match s.threadCheck t q part.2 false true 0#12 scope with
    | (_, .code c) => .error (Cause.at c q)
    | (s, .fault c) => s.parkPage t q c 0
    | (s, .go a) => s.accessParts t p scope (accs ++ [(a, part.2)]) k rest

/-- LAUNCH (R239): its checks, and the translation of the record, page by page. -/
def execLaunch (c : Ctl) (a : VReg) (b : SrcB) (s : State) : Out :=
  .next (s.lanes c.grd ((a, 2) :: bRuns b 1) fun s t => do
    let q ← s.srcI t b
    let p := t.pair a.toNat
    if 15 < q.toNat then illop
    else
      match s.inShadow t with
      | some tm => .ok (s.skipShadow tm)
      | none => do
        alignTo p 64
        s.accessParts t p 5 [] (fun s accs => .ok 
            (s.launchFlight t c (.launch (accs.map fun a => ⟨some a.1, a.2, []⟩) q.toNat false)))
          (pageParts (ptrVa p) 512))

/-- LAUNCH goes on (R108, R239): the release work of level 5, then the load of the record, which then enters its queue once there
is room and no earlier doorbell write of the queue still waits. -/
def State.doneLaunch (s : State) (f : Flight) (parts : List ReadPart) (q : Nat) (begun : Bool) : State :=
  match s.thread? f.thread with
  | none => s.finish f
  | some t =>
    if !begun then
      if !s.accessesDone f 5 then s
      else
        let r := s.releaseWork t 5
        r.1.updFlight f.uid fun g => { g with op := .launch parts q true, wait := r.2 }
    else if !s.passed t f.wait then s
    else if !parts.all ReadPart.full then s.readNext f
    else if decide (64 ≤ (s.queue t.ctx q).length) || s.d.bells.any (fun b => b.ctx == t.ctx && b.queue == q) then s
    else
      (s.enqueue t.ctx q (((parts.head?.bind ReadPart.acc).map Acc.va).getD 0#64)
        (BitVec.ofNat 4096 (leNat (parts.flatMap ReadPart.bytes)))).finish f

/-! Active messages (R240 to R242) -/

/-- The entry of a launch's message-handler table; none where it is empty (R308). -/
def State.msgEntry (s : State) (lid h : Nat) : Option (BitVec 256) :=
  ((s.launch? lid).bind fun l => l.msgTab[h]?).bind fun e => if e.extractLsb' 0 64 == 0#64 then none else some e

/-- AMSEND (R240): the payload is read at issue; one of no bytes lies in no allocation (R244). -/
def execAmsend (c : Ctl) (a : VReg) (b : SrcB) (s : State) : Out :=
  .next (s.lanes c.grd ((a, 3) :: bRuns b 1) fun s t => do
    let core ← s.srcI t b
    let h := (t.vget a.toNat).toNat
    let n := (t.vget (a.toNat + 1)).toNat
    let off := t.vget (a.toNat + 2)
    if n % 8 != 0 || decide (256 < n) || decide (15 < h) || decide (143 < core.toNat) || (s.msgEntry t.launch h).isNone then illop
    else
      match s.inShadow t with
      | some tm => .ok (s.skipShadow tm)
      | none => do
        alignTo (off.zeroExtend 64) 8
        let tm : Option Team ← (if n == 0 then .ok none else (s.spadTeam t off.toNat n).map some)
        let u := s.x.nextUid
        let msg : Msg :=
          { uid := u, thread := t.uid, launch := t.launch, ctx := t.ctx, target := core.toNat, handler := h, len := n,
            payload := (tm.map fun k => k.spadRead off.toNat n).getD [], sender := t.core, senderTeam := s.srTeam t, name := t.name,
            queued := false, group := none, pending := 32 }
        let s1 : State := { s with
          x := { s.x with nextUid := u + 1 }
          e := { s.e with msgs := s.e.msgs ++ [msg] } }
        let go := s1.launchFlight t c (.amsend u false)
        .ok (match tm with
          | some tm => s.spadGate t tm (off.zeroExtend 64) off.toNat n true go
          | none => go))

/-- Changes a message. -/
def State.updMsg (s : State) (u : Nat) (f : Msg → Msg) : State :=
  { s with e := { s.e with msgs := s.e.msgs.map fun m => if m.uid == u then f m else m } }

/-- AMSEND goes on (R108, R240): the release work of level 5, room in the target's queue of 16, and in the end every
AMDONE of the handler group. -/
def State.doneAmsend (s : State) (f : Flight) (u : Nat) (begun : Bool) : State :=
  match s.thread? f.thread, s.e.msgs.find? fun m => m.uid == u with
  | some t, some m =>
    if !begun then
      if !s.accessesDone f 5 then s
      else
        let r := s.releaseWork t 5
        r.1.updFlight f.uid fun g => { g with op := .amsend u true, wait := r.2 }
    else if !m.queued then
      if !s.passed t f.wait ||
          decide (16 ≤ (s.e.msgs.filter fun k => k.target == m.target && k.queued && k.group.isNone).length) then s
      else
        let s := s.updMsg u fun m => { m with queued := true }
        -- a message that has entered the queue stands after those that entered before it
        { s with e := { s.e with msgs := (s.e.msgs.filter fun k => k.uid != u) ++ (s.e.msgs.filter fun k => k.uid == u) } }
    else if m.group.isSome && m.pending == 0 then
      ({ s with e := { s.e with msgs := s.e.msgs.filter fun k => k.uid != u } }).finish f
    else s
  | _, _ => s.finish f

/-- The name of a message-handler thread (R30). -/
def msgName (n : BitVec 128) (lane : Nat) : BitVec 128 :=
  setKind (n.extractLsb' 51 77 ++ BitVec.ofNat 13 lane ++ 0#13 ++ n.extractLsb' 0 25) 5#3 (n.extractLsb' 0 8 &&& 1#8)

/-- MESSAGE_HANDLER_SPAWN (R241): the oldest queued message of its core is spawned in a slice with room. R308 gives a table
entry 1 to 16 register blocks and no fate to another count, which is taken as it stands: DESIGN CHOICE (log 67). -/
def execMessageHandlerSpawn (msg slice : Nat) (s : State) : Out :=
  .next (match s.e.msgs.find? fun m => m.uid == msg with
    | none => s
    | some m =>
      let first := (s.e.msgs.find? fun k => k.target == m.target && k.queued && k.group.isNone).map Msg.uid
      if first != some msg || (s.ctx m.ctx).frozen then s
      else
        match s.msgEntry m.launch m.handler with
        | none => s
        | some e =>
          let blocks := (e.extractLsb' 128 8).toNat
          match s.groupFits m.target slice blocks (s.lweight m.launch) with
          | none => s
          | some slot =>
            let word (i : Nat) : Word :=
              if 4 * i < m.len then (leWord ((m.payload.drop (4 * i)).take 4)).extractLsb' 0 32 else 0#32
            let mk (u g l : Nat) : Thread :=
              (mkThread u m.target slice l slot g none l m.launch m.ctx (.message msg) blocks (e.extractLsb' 0 64)
                (s.formName m.ctx (msgName m.name l))).setRun 0
                [word (2 * l), word (2 * l + 1), BitVec.ofNat 32 m.sender, BitVec.ofNat 32 m.len, m.senderTeam]
            let g := s.x.nextUid
            (s.addGroup m.target slice slot m.launch (List.range 32) mk).updMsg msg fun m => { m with group := some g })

/-- AMDONE (R242): a second one, or one outside a handler group, is an error. -/
def execAmdone (c : Ctl) (s : State) : Out :=
  .next (s.lanes c.grd [] fun s t =>
    match t.kind with
    | .message _ =>
      if t.amdone then illop
      else .ok ((s.launchFlight t c (.amdone false)).updThread t.uid fun t => { t with amdone := true })
    | _ => illop)

/-- AMDONE goes on (R242): the release work of level 5, then the thread's part of the message is done. -/
def State.doneAmdone (s : State) (f : Flight) (begun : Bool) : State :=
  match s.thread? f.thread with
  | none => s.finish f
  | some t =>
    if !begun then
      if !s.accessesDone f 5 then s
      else
        let r := s.releaseWork t 5
        r.1.updFlight f.uid fun g => { g with op := .amdone true, wait := r.2 }
    else if !s.passed t f.wait then s
    else
      match t.kind with
      | .message m => (s.updMsg m fun k => { k with pending := k.pending - 1 }).finish f
      | _ => s.finish f

end Sys2Proof.Machine
end

