-- ==== Sys2Proof/Machine/Pass.lean ====
section
/-! DEFINITION. The quad matrix engines: the grant of a pass, its arithmetic and its end (R125 to R127, R249, R252, R254,
R405, R444). -/

namespace Sys2Proof.Machine

/-- Why a scale byte has no value: a code, a page fault, or poison. -/
inductive ScaleStop where
  | code (c : Code) (a : DWord)
  | fault (c : PfCause) (a : DWord)
  | poison (pa : Nat) (a : DWord)
deriving DecidableEq, Repr

/-- A scale byte (R121, R123, R254): a load of scope 1 by the rank-0 signer, within its descriptor's bounds. -/
def State.scaleByte (s : State) (t : Thread) (d : BitVec 256) (o : Nat) : State × Except ScaleStop Nat :=
  let a := descBase d + BitVec.ofNat 64 o
  if descExtent d ≤ o then (s, if descRobust d then .ok 0 else .error (.code .bounds a))
  else
    match s.threadCheck t a 1 false true (descTensor d) 1 with
    | (s, .code c) => (s, .error (.code c a))
    | (s, .fault c) => (s, .error (.fault c a))
    | (s, .go acc) =>
      let r := s.readAcc t acc 0 1
      if acc.refused r.2.tag then (r.1, .error (.code .tagMismatch a))
      else if r.2.poison then (r.1, .error (.poison acc.pa a))
      else (r.1, .ok (leNat r.2.bytes))

/-- The scales of one operand: 64 rows by the blocks of the pass, each exact (R119, R249). -/
def State.scales (s : State) (t : Thread) (ptr : BitVec 256) (sfmt : Bool) (o nb : Nat) (js : List Nat) :
    State × Except ScaleStop (List (List Num)) :=
  if ptr == 0#256 then (s, .ok (List.replicate 64 (js.map fun _ => Num.one)))
  else
    (List.range 64).foldl (fun (a : State × Except ScaleStop (List (List Num))) r =>
      match a.2 with
      | .error _ => a
      | .ok rows =>
        let row := js.foldl (fun (b : State × Except ScaleStop (List Num)) j =>
          match b.2 with
          | .error _ => b
          | .ok xs =>
            match b.1.scaleByte t ptr ((o + r) * nb + j) with
            | (s, .ok x) => (s, .ok (xs ++ [decodeScale sfmt x]))
            | (s, .error e) => (s, .error e)) (a.1, .ok [])
        match row with
        | (s, .ok xs) => (s, .ok (rows ++ [xs]))
        | (s, .error e) => (s, .error e)) (s, .ok [])

/-- Elements of a packed row of 64 bytes (R112, R245). -/
def rowElems (e : Fmt) (bs : List Byte) : List Nat :=
  let n := leNat bs
  (List.range (passK e)).map fun i => n / 2 ^ (e.bits * i) % 2 ^ e.bits

/-- Column `n` of B that MMAC generates from its tensor (R252). -/
def convColumn (tm : Team) (e : Fmt) (d : BitVec 256) (w : List Word) (k0 n : Nat) : List Nat :=
  let c4 := e.bits == 4
  let chans := if c4 then 2 * tsDim d 216 16 else tsDim d 216 16
  let kw := tsDim d 132 4
  let kh := tsDim d 128 4
  let dx := tsDim d 125 3
  let dy := tsDim d 122 3
  let sx := tsDim d 119 3
  let sy := tsDim d 116 3
  let x0 := (w.getD 4 0#32).toInt
  let y0 := (w.getD 5 0#32).toInt
  let bt := (w.getD 6 0#32).toNat
  let pad := (d.extractLsb' 64 32).toNat % 2 ^ e.bits
  let base := ((descBase d).extractLsb' 0 32).toNat
  (List.range (passK e)).map fun k =>
    let p := k0 + k
    let c := p % chans
    let t := p / chans
    let kx := t % kw
    let ky := t / kw
    let x : Int := x0 + (n % 8 * sx + kx * dx : Nat)
    let y : Int := y0 + (n / 8 * sy + ky * dy : Nat)
    if kh ≤ ky then 0
    else if decide (0 ≤ x) && decide (x < (tsDim d 200 16 : Int)) && decide (0 ≤ y) && decide (y < (tsDim d 184 16 : Int))
        && decide (bt < tsDim d 168 16) then
      let v := leNat (tm.spadRead (base + tsOffset d (if c4 then c / 2 else c) x.toNat y.toNat bt) (2 ^ descEsize d))
      if c4 then v / 2 ^ (4 * (c % 2)) % 16 else v
    else pad

/-- The 64 columns of B (R248, R252). -/
def Pass.columns (p : Pass) (tm : Team) (e : Fmt) : List (List Nat) :=
  let k0 := (p.b.getD 1 0#32).toNat
  (List.range 64).map fun n =>
    if p.conv then convColumn tm e p.desc p.b k0 n
    else rowElems e (tm.spadRead ((p.b.getD 0 0#32).toNat + 64 * n) 64)

/-- One pass (R249): the new elements of the tile. `js` names the blocks of the pass in the order of `sa` and `sb`. -/
def Pass.compute (p : Pass) (tm : Team) (k : Slot) (e : Fmt) (js : List Nat) (sa sb : List (List Num)) : List Word :=
  let k0 := (p.b.getD 1 0#32).toNat
  let cols := p.columns tm e
  let wide := e == .fp16 || e == .bf16
  (List.range 64).flatMap fun m =>
    let row := rowElems e ((p.rows.drop (64 * m)).take 64)
    (List.range 64).map fun n =>
      let col := cols.getD n []
      let terms := (List.range (passK e)).map fun i =>
        let j := js.findIdx fun x => x == k.pos (k0 + i) / slotBlk k.record
        let a := scaled (decodeNum e (row.getD i 0)) ((sa.getD m []).getD j Num.one)
        let b := scaled (decodeNum e (col.getD i 0)) ((sb.getD n []).getD j Num.one)
        a.mul b
      passSum wide terms (fp32 (tm.tileElem p.tile (64 * m + n)))

/-- The pass may be granted (R254): nothing stops it, its tile is its own, and its lines are present. -/
def State.passReady (s : State) (p : Pass) : Bool :=
  p.failed.isSome || (p.stalled.isNone &&
    match s.team? p.team with
    | none => true
    | some tm => s.tileFree p.team p.tile p.uid && p.lines.all fun l => (sget tm.pend l).isNone)

/-- The entry that the arbiter grants: the highest priority, then the oldest (R254). -/
def bestPass (ps : List Pass) : Option Pass :=
  ps.foldl (fun a p => match a with
    | none => some p
    | some q => if q.prio < p.prio || (q.prio == p.prio && decide (p.stamp < q.stamp)) then some p else some q) none

/-- The pass cannot go on (R254, R405, R444): a page fault delays it, poison parks it, and a code ends it without effect,
charged to the rank-0 signer. What waits for no answer once its context has been killed ends too (R380). -/
def State.passStop (s : State) (p : Pass) (ctx : Nat) (e : ScaleStop) : State :=
  let setStall (s : State) (v : Nat) : State :=
    { s with e := { s.e with passes := s.e.passes.map fun q => if q.uid == p.uid then { q with stalled := some v } else q } }
  match e with
  | .code c a => (s.endPass p).raiseAt p.rank0 p.site ⟨c, 0#8, a, true, false⟩
  | .fault c a => ((setStall s 0).addFault ctx a c 5 (coreSector p.core) (.pass p.uid)).1
  | .poison pa a =>
    let r := s.addError (pa / 64 * 64) .uncorrectable (paUnit pa).1 (paUnit pa).2 ctx true false false 0 (coreDie p.core) a
    if (s.ctx ctx).killing then r.1.endPass p else setStall r.1 r.2

/-- A granted pass runs (R249, R254). -/
def State.runPass (s : State) (p : Pass) : State :=
  match p.failed, s.team? p.team, s.thread? p.rank0 with
  | some c, _, _ => (s.endPass p).raiseAt p.rank0 p.site c
  | none, some tm, some t =>
    match s.matSlot t p.slot with
    | .error c => (s.endPass p).raiseAt p.rank0 p.site c
    | .ok (k, e) =>
      let k0 := (p.b.getD 1 0#32).toNat
      let nb := (p.b.getD 2 0#32).toNat / 2 ^ 20 + 1
      let js := ((List.range (passK e)).map fun i => k.pos (k0 + i) / slotBlk k.record).eraseDups
      match s.scales t k.scaleA (slotE4m3 k.record) ((p.b.getD 2 0#32).toNat % 2 ^ 20) nb js with
      | (s, .error x) => s.passStop p tm.ctx x
      | (s, .ok sa) =>
        match s.scales t k.scaleB (slotE4m3 k.record) ((p.b.getD 3 0#32).toNat % 2 ^ 20) nb js with
        | (s, .error x) => s.passStop p tm.ctx x
        | (s, .ok sb) =>
          let bad := if p.conv then
              tm.spadPoison ((descBase p.desc).extractLsb' 0 32).toNat (tsCount p.desc * 2 ^ descEsize p.desc)
            else tm.spadPoison (p.b.getD 0 0#32).toNat 4096
          let s := s.setTile tm.uid p.tile fun _ => tileOf (p.compute tm k e js sa sb)
          let s := if bad then s.tilePoison tm.uid p.tile true else s
          s.endPass p
  | _, _, _ => s.endPass p

/-- MATRIX_PASS (R254): the engine grants an entry and runs its pass. -/
def execMatrixPass (engine : Nat) (s : State) : Out :=
  .next (match bestPass ((s.passesOf engine).filter s.passReady) with
    | some p => s.runPass p
    | none => s)

/-- RESERVATION_RAISE (R254): an entry that has waited 4096 fabric clocks since it entered, or since it was last raised,
is raised one level, up to 7. -/
def execReservationRaise (engine entry : Nat) (s : State) : Out :=
  .next { s with e := { s.e with passes := s.e.passes.map fun p =>
    if p.uid == entry && p.engine == engine && decide (p.since + 4096 ≤ s.x.clk) && decide (p.prio < 7) then
      { p with prio := p.prio + 1, since := s.x.clk }
    else p } }

end Sys2Proof.Machine
end

