-- ==== Sys2Proof/Machine/Equiv.lean ====
section
/-! DEFINITION. The equivalence engines (R259 to R266, R362, R402, R416). -/

namespace Sys2Proof.Machine

/-! One operation of an engine: reads at the home slices, writes kept until every check has passed (R265, R402) -/

/-- An operation in progress: the engine, the context, the words it has written so far, its writes and log entries in
order, whether it read poison, and whether it joined two classes. -/
structure EqTx where
  core   : Nat
  ctx    : Nat
  words  : List (Nat × Word)
  writes : List (DWord × List Byte)
  log    : List DWord
  poison : Bool
  join   : Bool
deriving DecidableEq, Repr

/-- An engine's operation: it ends with a result, or is stopped with nothing written. -/
abbrev EqM (α : Type) := StateT EqTx (ExceptT Stop (StateM State)) α

/-- A code of the engine without an address. -/
def eqFail {α : Type} (c : Code) : EqM α := throw (.code c 0#64)

/-- Bytes at an address, without the writes of this operation. -/
def eqBytes (p : DWord) (n : Nat) : EqM (List Byte) := do
  let tx ← get
  let s ← getThe State
  match s.engLoad tx.core tx.ctx 0#12 p n with
  | (s, .error e) => do
    MonadStateOf.set s
    throw e
  | (s, .ok r) => do
    MonadStateOf.set s
    modify fun tx => { tx with poison := tx.poison || r.2 }
    pure r.1

/-- The word at an address, as this operation has left it. -/
def eqRead (p : DWord) : EqM Word := do
  let tx ← get
  match tx.words.find? fun w => w.1 == p.toNat with
  | some w => pure w.2
  | none => do
    let bs ← eqBytes p 4
    pure ((leWord bs).extractLsb' 0 32)

/-- A write of bytes. -/
def eqPut (p : DWord) (bs : List Byte) : EqM Unit := modify fun tx => { tx with writes := tx.writes ++ [(p, bs)] }
/-- A write of a word. -/
def eqWrite (p : DWord) (w : Word) : EqM Unit := do
  eqPut p (loBytes 4 (w.zeroExtend 64))
  modify fun tx => { tx with words := (p.toNat, w) :: tx.words }

/-- Address of element `i` of an array of words. -/
def eqAt (base : DWord) (i : Nat) : DWord := base + BitVec.ofNat 64 (4 * i)

/-- A write of parent (0) or size (1): while logging is on its entry is appended first (R263). -/
def Binding.set (b : Binding) (arr : Bool) (i : Nat) (w : Word) : EqM Unit := do
  let p := eqAt (if arr then b.size else b.parent) i
  let old ← eqRead p
  if b.logging then
    modify fun tx => { tx with log := tx.log ++ [(BitVec.ofBool arr ++ BitVec.ofNat 31 i ++ old : DWord)] }
  eqWrite p w

/-- The walk to a root, with the path in order; `fuel` bounds it by the index, as every parent lies below (R262,
R265). -/
def Binding.walk (b : Binding) : Nat → Nat → List Nat → EqM (Nat × List Nat)
  | 0, _, _ => eqFail .eqRange
  | k + 1, y, path => do
    let p := (← eqRead (eqAt b.parent y)).toNat
    if b.n ≤ p ∨ y < p then eqFail .eqRange
    else if p == y then pure (y, path.reverse)
    else b.walk k p (y :: path)

/-- root(x), with path compression (R262). -/
def Binding.root (b : Binding) (comp : Bool) (x : Nat) : EqM Nat := do
  if b.n ≤ x then eqFail .eqRange
  else
    let (r, path) ← b.walk (x + 1) x []
    if comp then
      for z in path do
        if (← eqRead (eqAt b.parent z)).toNat != r then b.set false z (BitVec.ofNat 32 r)
    pure r

/-- UNITE (R262). -/
def Binding.unite (b : Binding) (comp : Bool) (x y : Nat) : EqM Word := do
  let ra ← b.root comp x
  let rb ← b.root comp y
  if ra == rb then pure (BitVec.ofNat 32 ra)
  else
    modify fun tx => { tx with join := true }
    let lo := min ra rb
    let hi := max ra rb
    b.set false hi (BitVec.ofNat 32 lo)
    let n := (← eqRead (eqAt b.size lo)) + (← eqRead (eqAt b.size hi))
    b.set true lo n
    pure (BitVec.ofNat 32 lo ||| 0x80000000#32)

/-! RELABEL (R264) -/

/-- Value of a class (R264): `vs` are the values of its members in ascending order, `v` that of the root. -/
def relValue (op : RelOp) (vfmt : Nat) (vs : List Word) (v : Word) : Word :=
  match op with
  | .count => BitVec.ofNat 32 vs.length
  | .first => v
  | .sum => if vfmt == 0 then redList .fadd (vs.headD 0#32) vs.tail else redList .iadd (vs.headD 0#32) vs.tail
  | .min => redList (if vfmt == 0 then .fmin else if vfmt == 1 then .smin else .umin) (vs.headD 0#32) vs.tail
  | .max => redList (if vfmt == 0 then .fmax else if vfmt == 1 then .smax else .umax) (vs.headD 0#32) vs.tail

/-- The roots of a forest from its parents, in ascending order of element: each parent's root is already known. -/
def relRoots (n : Nat) (ps : List Nat) : Option (List Nat) :=
  (ps.zipIdx).foldl (fun a p => a.bind fun rs =>
    if n ≤ p.1 ∨ p.2 < p.1 then none else some (rs ++ [if p.1 == p.2 then p.2 else rs.getD p.1 0])) (some [])

/-- RELABEL (R263, R264, R266, R402). -/
def Binding.relabel (b : Binding) (op : RelOp) (ptr : DWord) : EqM Word := do
  let r : BitVec 256 := BitVec.ofNat 256 (leNat (← eqBytes ptr 32))
  let values : DWord := r.extractLsb' 192 64
  let res : DWord := r.extractLsb' 128 64
  let labels : DWord := r.extractLsb' 64 64
  let vfmt := (r.extractLsb' 32 4).toNat
  if r.extractLsb' 36 28 != 0#28 || r.extractLsb' 0 32 != 0#32 || decide (2 < vfmt) then eqFail .illegalOperand
  else if values.toNat % 4 != 0 || res.toNat % 4 != 0 || labels.toNat % 4 != 0 then throw (.code .align ptr)
  else if b.logging && decide (b.cap < b.logN + b.n) then eqFail .eqLogFull
  else
    let mut ps : List Nat := []
    for x in List.range b.n do
      ps := ps ++ [(← eqRead (eqAt b.parent x)).toNat]
    match relRoots b.n ps with
    | none => eqFail .eqRange
    | some rs =>
      let mut vs : List Word := []
      if op != .count then
        for x in List.range b.n do
          vs := vs ++ [← eqRead (eqAt values x)]
      for x in List.range b.n do
        if ps.getD x 0 != rs.getD x 0 then b.set false x (BitVec.ofNat 32 (rs.getD x 0))
      let roots := (List.range b.n).filter fun x => rs.getD x 0 == x
      for k in List.range roots.length do
        let rt := roots.getD k 0
        let mem := (List.range b.n).filter fun x => rs.getD x 0 == rt
        let w := relValue op vfmt (mem.map fun x => vs.getD x 0#32) (vs.getD rt 0#32)
        eqWrite (eqAt res k) w
      if labels != 0#64 then
        for x in List.range b.n do
          eqWrite (eqAt labels x) (BitVec.ofNat 32 (roots.findIdx fun rt => rt == rs.getD x 0))
      pure (BitVec.ofNat 32 roots.length)

/-- EQUNDO (R263): every entry's old value goes back, newest first. -/
def Binding.undo (b : Binding) : EqM Unit := do
  if b.logging then
    let mut es : List DWord := []
    for k in List.range b.logN do
      es := leWord (← eqBytes (b.log + BitVec.ofNat 64 (8 * k)) 8) :: es
    if es.any fun e => decide (b.n ≤ (e.extractLsb' 32 31).toNat) then eqFail .eqRange
    else
      for e in es do
        eqWrite (eqAt (if e.getLsbD 63 then b.size else b.parent) (e.extractLsb' 32 31).toNat) (e.extractLsb' 0 32)

/-! Requests (R259) -/

/-- The core through which an engine reaches memory: the first of its sector. R18 and R19 join the engine to the crossbar, beside
the sector TLB, and name no core TLB for it: that it looks in this core's, and fills it, is a DESIGN CHOICE (log 85). -/
def engineCore (e : Nat) : Nat := 36 * (e / 3) + 12 * (e % 3)

/-- Runs an operation with nothing written yet. -/
def State.eqRun {α : Type} (s : State) (e ctx : Nat) (m : EqM α) : State × Except Stop (α × EqTx) :=
  let r := (m.run ⟨engineCore e, ctx, [], [], [], false, false⟩).run.run s
  (r.2, r.1)

/-- Performs the writes of an operation once every one of them has passed its checks (R265, R402): the log's entries
first, then the arrays. -/
def State.eqCommit (s : State) (e ctx : Nat) (ws : List (DWord × List Byte)) (poison : Bool) :
    State × Except Stop (Sparse Nat) :=
  let c := ws.foldl (fun (a : State × Option Stop) w =>
    match a.2 with
    | some _ => a
    | none =>
      match a.1.engCheck (engineCore e) ctx w.1 w.2.length true 0#12 with
      | (s, .error x) => (s, some x)
      | (s, .ok _) => (s, none)) (s, none)
  match c.2 with
  | some x => (c.1, .error x)
  | none =>
    ws.foldl (fun a w =>
      match a.2 with
      | .error _ => a
      | .ok m =>
        match a.1.engStore (engineCore e) ctx 0#12 w.1 w.2 poison with
        | (s, .error x) => (s, .error x)
        | (s, .ok k) => (s, .ok (wctJoin m k))) (c.1, .ok [])

/-- Changes a request. -/
def State.updEq (s : State) (u : Nat) (f : EqReq → EqReq) : State :=
  { s with e := { s.e with eqReqs := s.e.eqReqs.map fun r => if r.uid == u then f r else r } }
/-- Changes a binding. -/
def State.updBinding (s : State) (b : Binding) (f : Binding → Binding) : State :=
  { s with e := { s.e with bindings := s.e.bindings.map fun k =>
    if k.engine == b.engine && k.slot == b.slot then f k else k } }

/-- A request is stopped (R266, R405): a code is its lane's, and a page fault is served as for a copy. -/
def State.eqStop (s : State) (r : EqReq) (ctx : Nat) (x : Stop) : State :=
  match x with
  | .code c a => s.updEq r.uid fun q => { q with code := some ⟨c, 0#8, a, true, false⟩ }
  | .fault c a => ((s.updEq r.uid fun q => { q with stalled := some 0, arrived := true }).addFault ctx a c 7 r.engine (.eqv r.uid)).1

/-- A request has been applied: its register result, and the times that its completion waits past. -/
def State.eqDone (s : State) (r : EqReq) (regs : List (Nat × Word)) (w : Sparse Nat) : State :=
  s.updEq r.uid fun q => { q with done := some regs, wct := w }

/-- EQOPEN at its engine (R260, R261, R266). -/
def State.eqOpen (s : State) (r : EqReq) (ctx lid : Nat) : State :=
  match s.eqRun r.engine ctx (eqBytes r.a 32) with
  | (s, .error x) => s.eqStop r ctx x
  | (s, .ok (bs, tx)) =>
    let f : BitVec 256 := BitVec.ofNat 256 (leNat bs)
    let parent : DWord := f.extractLsb' 192 64
    let size : DWord := f.extractLsb' 128 64
    let log : DWord := f.extractLsb' 64 64
    let n := (f.extractLsb' 32 32).toNat
    let cap := (f.extractLsb' 8 24).toNat
    if f.extractLsb' 1 7 != 0#7 || n == 0 || decide (2 ^ 31 < n) || (log == 0#64 && cap != 0) then
      s.eqStop r ctx (.code .illegalOperand 0#64)
    else if parent.toNat % 4 != 0 || size.toNat % 4 != 0 || log.toNat % 8 != 0 then s.eqStop r ctx (.code .align r.a)
    else
      match s.e.bindings.find? fun b => b.launch == lid && b.parent == parent with
      | some b =>
        (s.updBinding b fun k => { k with opens := k.opens + 1 }).eqDone r [(r.d, BitVec.ofNat 32 (64 * b.engine + b.slot))] []
      | none =>
        match (List.range 64).find? fun h => !(s.e.bindings.any fun b => b.engine == r.engine && b.slot == h) with
        | none => s.eqDone r [(r.d, 0xFFFFFFFF#32)] []
        | some h =>
          let init := f.getLsbD 0
          let ws : List (DWord × List Byte) := if init then
              [(parent, (List.range n).flatMap fun i => natBytes 4 i), (size, (List.range n).flatMap fun _ => natBytes 4 1)]
            else []
          match s.eqCommit r.engine ctx ws tx.poison with
          | (s, .error x) => s.eqStop r ctx x
          | (s, .ok w) =>
            let b : Binding := { engine := r.engine, slot := h, launch := lid, ctx := ctx, parent := parent, size := size,
                                 log := log, n := n, cap := cap, opens := 1, logging := false, logN := 0 }
            ({ s with e := { s.e with bindings := s.e.bindings ++ [b] } }).eqDone r
              [(r.d, BitVec.ofNat 32 (64 * r.engine + h))] w

/-- Commits an operation on a binding: its log entries go to LOG + 8·k (R362). -/
def State.eqFinish (s : State) (r : EqReq) (b : Binding) (tx : EqTx) (regs : List (Nat × Word)) (f : Binding → Binding) :
    State :=
  let ls : List (DWord × List Byte) := tx.log.zipIdx.map fun e => (b.log + BitVec.ofNat 64 (8 * (b.logN + e.2)), loBytes 8 e.1)
  match s.eqCommit b.engine b.ctx (ls ++ tx.writes) tx.poison with
  | (s, .error x) => s.eqStop r b.ctx x
  | (s, .ok w) => (s.updBinding b fun k => f { k with logN := k.logN + tx.log.length }).eqDone r regs w

/-- An operation with path compression; where its log entries would pass LOGCAP, a join raises EQ_LOG_FULL, and anything
else runs again without compressing (R263). -/
def State.eqForest (s : State) (r : EqReq) (b : Binding) (m : Bool → EqM Word) : State :=
  match s.eqRun b.engine b.ctx (m true) with
  | (s, .error x) => s.eqStop r b.ctx x
  | (s, .ok (v, tx)) =>
    if b.logging && decide (b.cap < b.logN + tx.log.length) then
      if tx.join then s.eqStop r b.ctx (.code .eqLogFull 0#64)
      else
        match s.eqRun b.engine b.ctx (m false) with
        | (s, .error x) => s.eqStop r b.ctx x
        | (s, .ok (v, tx)) => s.eqFinish r b tx [(r.d, v)] id
    else s.eqFinish r b tx [(r.d, v)] id

/-- A request on a bound forest. -/
def State.eqBound (s : State) (r : EqReq) (b : Binding) : State :=
  match r.ins with
  | .unite .. => s.eqForest r b fun c => b.unite c r.a.toNat r.b.toNat
  | .find .. => s.eqForest r b fun c => do
    let x ← b.root c r.a.toNat
    pure (BitVec.ofNat 32 x)
  | .eqsize .. => s.eqForest r b fun c => do
    let x ← b.root c r.a.toNat
    eqRead (eqAt b.size x)
  | .relabel _ op .. => s.eqForest r b fun _ => b.relabel op r.a
  | .eqsnap .. =>
    (s.updBinding b fun k => { k with logging := r.b == 0#32, logN := 0 }).eqDone r [] []
  | .equndo .. =>
    match s.eqRun b.engine b.ctx b.undo with
    | (s, .error x) => s.eqStop r b.ctx x
    | (s, .ok (_, tx)) => s.eqFinish r b tx [] fun k => if k.logging then { k with logN := 0 } else k
  | .eqclose .. =>
    if b.opens ≤ 1 then
      ({ s with e := { s.e with bindings := s.e.bindings.filter fun k => !(k.engine == b.engine && k.slot == b.slot) } }).eqDone
        r [] []
    else (s.updBinding b fun k => { k with opens := k.opens - 1 }).eqDone r [] []
  | _ => s.eqDone r [] []

/-- A request that has still to be applied. -/
def EqReq.open_ (r : EqReq) : Bool := r.done.isNone && r.code.isNone

/-- The forest of a request: its launch and its PARENT, of an EQOPEN as its record stands in memory; none where the record
cannot be read, or no binding has the handle. -/
def State.forestOf (s : State) (r : EqReq) : Option (Nat × DWord) :=
  (s.thread? r.thread).bind fun t =>
    match r.ins with
    | .eqopen .. =>
      match (s.eqRun r.engine t.ctx (eqBytes r.a 32)).2 with
      | .ok (bs, _) => some (t.launch, (BitVec.ofNat 256 (leNat bs)).extractLsb' 192 64)
      | .error _ => none
    | _ => (s.e.bindings.find? fun b => b.engine == r.handle.toNat / 64 && b.slot == r.handle.toNat % 64).map fun b =>
        (b.launch, b.parent)

/-- A request is the next of its thread on its forest, and of the lanes of its word; where one forest is not known, they may be
the same. A request that has arrived, and that a page fault holds, comes before every other on its forest (R259, R416). -/
def State.eqNext (s : State) (r : EqReq) : Bool :=
  let stamp (q : EqReq) : Option Nat := (s.flight? q.flight).map Flight.stamp
  let mine := s.forestOf r
  s.e.eqReqs.all fun q =>
    let other := s.forestOf q
    let near := q.thread == r.thread || stamp q == stamp r
    !(q.open_ && q.uid != r.uid &&
      ((q.arrived && !r.arrived && mine.isSome && mine == other) ||
       (decide (q.uid < r.uid) && near && (mine.isNone || other.isNone || mine == other))))

/-- EQV_APPLY (R259): a request that has arrived is applied. Requests of different words arrive in any order (R259); the
event names the one that arrives. -/
def execEqvApply (request : Nat) (s : State) : Out :=
  .next (match s.e.eqReqs.find? fun r => r.uid == request with
    | none => s
    | some r =>
      if !r.open_ || r.stalled.isSome || !s.eqNext r then s
      else
        match s.thread? r.thread with
        | none => { s with e := { s.e with eqReqs := s.e.eqReqs.filter fun q => q.uid != r.uid } }
        | some t =>
          match r.ins with
          | .eqopen .. => s.eqOpen r t.ctx t.launch
          | _ =>
            match s.e.bindings.find? fun b => b.engine == r.handle.toNat / 64 && b.slot == r.handle.toNat % 64 with
            | some b => if b.launch == t.launch then s.eqBound r b else s.eqStop r t.ctx (.code .eqNotOpen 0#64)
            | none => s.eqStop r t.ctx (.code .eqNotOpen 0#64))

/-- A request leaves its core. -/
def State.eqSend (s : State) (t : Thread) (c : Ctl) (ins : Instr) (a : DWord) (b handle : Word) (d : Nat) : State :=
  let u := s.x.nextUid
  let e := match ins with
    | .eqopen .. => coreSector t.core
    | _ => if handle.toNat < 768 then handle.toNat / 64 else coreSector t.core
  let r : EqReq := { uid := u, engine := e, thread := t.uid, flight := u + 1, ins := ins, a := a, b := b, handle := handle,
                     d := d, done := none, code := none, wct := [], stalled := none, arrived := false }
  ({ s with x := { s.x with nextUid := u + 1 }, e := { s.e with eqReqs := s.e.eqReqs ++ [r] } }).launchFlight t c (.eqv u)

/-- Completion of an equivalence instruction (R265): its writes are globally performed and its result is written; or its
lane raises the code that the engine met. -/
def State.doneEqv (s : State) (f : Flight) (req : Nat) : State :=
  match s.e.eqReqs.find? fun r => r.uid == req with
  | none => s.finish f
  | some r =>
    let drop (s : State) : State := { s with e := { s.e with eqReqs := s.e.eqReqs.filter fun q => q.uid != req } }
    match r.code, r.done with
    | some c, _ => (drop s).failFlight f c
    | none, some regs =>
      if s.homesPassed r.wct then ((drop s).updThread f.thread fun t => t.setRegs regs).finish f else s
    | none, none => s

/-- EQOPEN (R261). -/
def execEqopen (c : Ctl) (d a : VReg) (s : State) : Out :=
  .next (s.lanes c.grd [(d, 1), (a, 2)] fun s t => do
    let p := t.pair a.toNat
    alignTo p 32
    .ok (s.eqSend t c (.eqopen c d a) p 0#32 0#32 d.toNat))

/-- UNITE (R262). -/
def execUnite (c : Ctl) (d a : VReg) (b : SrcB) (x : VReg) (s : State) : Out :=
  .next (s.lanes c.grd ([(d, 1), (a, 1), (x, 1)] ++ bRuns b 1) fun s t => do
    let y ← s.srcI t b
    .ok (s.eqSend t c (.unite c d a b x) ((t.vget a.toNat).zeroExtend 64) y (t.vget x.toNat) d.toNat))

/-- FIND (R261). -/
def execFind (c : Ctl) (d a x : VReg) (s : State) : Out :=
  .next (s.lanes c.grd [(d, 1), (a, 1), (x, 1)] fun s t =>
    .ok (s.eqSend t c (.find c d a x) ((t.vget a.toNat).zeroExtend 64) 0#32 (t.vget x.toNat) d.toNat))

/-- EQSIZE (R261). -/
def execEqsize (c : Ctl) (d a x : VReg) (s : State) : Out :=
  .next (s.lanes c.grd [(d, 1), (a, 1), (x, 1)] fun s t =>
    .ok (s.eqSend t c (.eqsize c d a x) ((t.vget a.toNat).zeroExtend 64) 0#32 (t.vget x.toNat) d.toNat))

/-- RELABEL (R264). -/
def execRelabel (c : Ctl) (op : RelOp) (d a x : VReg) (s : State) : Out :=
  .next (s.lanes c.grd [(d, 1), (a, 2), (x, 1)] fun s t => do
    let p := t.pair a.toNat
    alignTo p 32
    .ok (s.eqSend t c (.relabel c op d a x) p 0#32 (t.vget x.toNat) d.toNat))

/-- EQSNAP (R263). -/
def execEqsnap (c : Ctl) (b : SrcB) (x : VReg) (s : State) : Out :=
  .next (s.lanes c.grd ((x, 1) :: bRuns b 1) fun s t => do
    let y ← s.srcI t b
    if 1 < y.toNat then illop
    else .ok (s.eqSend t c (.eqsnap c b x) 0#64 y (t.vget x.toNat) 0))

/-- EQUNDO (R263). -/
def execEqundo (c : Ctl) (x : VReg) (s : State) : Out :=
  .next (s.lanes c.grd [(x, 1)] fun s t => .ok (s.eqSend t c (.equndo c x) 0#64 0#32 (t.vget x.toNat) 0))

/-- EQCLOSE (R261). -/
def execEqclose (c : Ctl) (x : VReg) (s : State) : Out :=
  .next (s.lanes c.grd [(x, 1)] fun s t => .ok (s.eqSend t c (.eqclose c x) 0#64 0#32 (t.vget x.toNat) 0))

end Sys2Proof.Machine
end

