-- ==== Sys2Proof/Machine/Trav.lean ====
section
/-! DEFINITION. The instructions of the hierarchy, rays and their shader groups, and RNG (R222, R267 to R276, R337, R342,
R343). -/

namespace Sys2Proof.Machine

/-! Node reads by an instruction (R267) -/

/-- The parts of a run of bytes that a thread loads at scope 1, once every one has passed its checks (R201, R267). -/
def State.runParts (s : State) (t : Thread) (p : DWord) (n : Nat) (k : State → List ReadPart → Res State) : Res State :=
  let rec go : State → List (Nat × Nat) → List ReadPart → Res State
    | s, [], ps => k s ps
    | s, q :: qs, ps =>
      s.access t (p + BitVec.ofNat 64 q.1) q.2 false true true 0#12 1 0 fun s a => go s qs (ps ++ [⟨some a, q.2, []⟩])
  match go s (sectorParts (ptrVa p) n) [] with
  | .error c => .error (if c.addr == 0#64 then c else { c with addr := p })
  | r => r

/-- An instruction that reads one node and writes a run of registers (R267). A node is no load of up to 16 bytes, and is neither
kept (R235) nor supplied (R435): DESIGN CHOICE (log 68). -/
def State.nodeOp (s : State) (t : Thread) (c : Ctl) (d : VReg) (p : DWord) (n al : Nat) (what : Gathered) : Res State := do
  alignTo p al
  s.runParts t p n fun s ps => .ok (s.launchFlight t c (.gather what d.toNat ps []))

/-- The words that an instruction makes of the bytes that it has read (R221, R222, R271 to R273). -/
def Gathered.words (what : Gathered) (bs : List (List Byte)) : List Word :=
  match what with
  | .box ray => boxWords ray bs.flatten
  | .tri cb cf ray => tritWords (triHit ray bs.flatten cb cf 0)
  | .xform ray => xformRay ray fun i => recNum bs.flatten i
  | .blend fmt ws => Machine.blend fmt ws bs
  | .texel fmt => (texelNums fmt bs.flatten).map toFp32

/-- What is read are texels: loads that a watched holder keeps (R235). -/
def Gathered.texels : Gathered → Bool
  | .blend .. | .texel .. => true
  | _ => false

/-- Completion of an instruction that reads part by part: its next piece, or with every one read its results (R85, R223,
R267). -/
def State.doneGather (s : State) (f : Flight) (what : Gathered) (d : Nat) (parts : List ReadPart) : State :=
  if !parts.all ReadPart.full then s.readNext f
  else
    let s := if !what.texels then s
      else parts.foldl (fun s p => match p.acc with
        | some a => s.fillPre f.thread a.va p.bytes
        | none => s) s
    (s.updThread f.thread fun t => t.setRegs (quadRegs d (what.words (parts.map ReadPart.bytes)))).finish f

/-- BOXT (R271). -/
def execBoxt (c : Ctl) (d a b : VReg) (s : State) : Out :=
  .next (s.lanes c.grd [(d, 5), (a, 8), (b, 2)] fun s t =>
    s.nodeOp t c d (t.pair b.toNat) 128 64 (.box (t.run a.toNat 8)))

/-- TRIT (R272). -/
def execTrit (c : Ctl) (cb cf : Bool) (d a b : VReg) (s : State) : Out :=
  .next (s.lanes c.grd [(d, 4), (a, 8), (b, 2)] fun s t =>
    s.nodeOp t c d (t.pair b.toNat) 48 16 (.tri cb cf (t.run a.toNat 8)))

/-- XFORM (R273). -/
def execXform (c : Ctl) (d a b : VReg) (s : State) : Out :=
  .next (s.lanes c.grd [(d, 8), (a, 8), (b, 2)] fun s t =>
    s.nodeOp t c d (t.pair b.toNat) 128 64 (.xform (t.run a.toNat 8)))

/-! TRACE, TRWAIT and TRHIT (R268 to R270) -/

/-- The first words of a hit record (R269): t, u, v, primitive, instance, HIT and FRONT. -/
def hitWords (h : Option TriHit) : List Word :=
  match h with
  | some h => [ratFp32 h.t, ratFp32 h.u, ratFp32 h.v, BitVec.ofNat 32 h.prim, BitVec.ofNat 32 h.inst,
               if h.front then 3#32 else 1#32]
  | none => [0x7F800000#32, 0#32, 0#32, 0#32, 0#32, 0#32]

/-- Entry of the hit-shader table that a ray names, for a closest hit or a miss (R308); none where there is none. -/
def State.shaderEntry (s : State) (lid : Nat) (flags : Word) (miss : Bool) : Option (DWord × Nat) :=
  ((s.launch? lid).bind fun l => l.hitTab[(flags.extractLsb' 8 4).toNat]?).bind fun e =>
    let p : DWord := if miss then e.extractLsb' 64 64 else e.extractLsb' 0 64
    if p == 0#64 then none else some (p, (e.extractLsb' 128 8).toNat)

/-- A ray leaves its core. -/
def State.addRay (s : State) (r : Ray) : State := { s with e := { s.e with rays := s.e.rays ++ [r] } }
/-- Changes a ray. -/
def State.updRay (s : State) (u : Nat) (f : Ray → Ray) : State :=
  { s with e := { s.e with rays := s.e.rays.map fun r => if r.uid == u then f r else r } }
/-- The ray of a uid. -/
def State.ray? (s : State) (u : Nat) : Option Ray := s.e.rays.find? fun r => r.uid == u

/-- The name of a secondary ray, and of the shader that runs for it (R30, R343): with no hit yet known, or on a miss, its
instance and primitive are all ones. -/
def secondName (n : BitVec 128) (hit : Option (BitVec 20 × BitVec 25)) : BitVec 128 :=
  n.extractLsb' 96 32 ++ (hit.map Prod.fst).getD (BitVec.allOnes 20) ++ (hit.map Prod.snd).getD (BitVec.allOnes 25) ++
    n.extractLsb' 22 29 ++ (n.extractLsb' 17 5 + 1#5) ++ n.extractLsb' 11 6 ++ 2#3 ++ (n.extractLsb' 0 8 &&& 1#8)

/-- TRACE (R268, R269, R276, R342): the lowest free ticket is taken at issue and written at completion. -/
def execTrace (c : Ctl) (d a b : VReg) (s : State) : Out :=
  .next (s.lanes c.grd [(d, 1), (a, 8), (b, 4)] fun s t =>
    let root := t.pair b.toNat
    let flags := t.vget (b.toNat + 2)
    let free := (List.range 16).find? fun k => !(t.tickets.any fun x => x.1 == k)
    let noShader := (flags.getLsbD 3 && (s.shaderEntry t.launch flags false).isNone) ||
      (flags.getLsbD 4 && (s.shaderEntry t.launch flags true).isNone)
    if flags &&& 0xFF00F0E0#32 != 0#32 || lnBounce t.name == 31 || noShader then illop
    else
      match free with
      | none => illop
      | some k => do
        alignTo root 64
        let u := s.x.nextUid
        let ray : Ray :=
          { uid := u, thread := t.uid, launch := t.launch, ctx := t.ctx, core := t.core, site := t.site,
            name := secondName t.name none, ray := t.run a.toNat 8, root := root, flags := flags, user := t.vget (b.toNat + 3), ticket := some k,
            stage := .flying, hit := hitWords none, ret := 0#32, ran := false, restart := false, code := none, wct := [],
            target := 0#64, chans := [], couch := 0, none := false, stalled := none, came := 0, log := [] }
        let s1 : State := { s with x := { s.x with nextUid := u + 1 } }
        .ok (((s1.addRay ray).launchFlight t c (.trace u d.toNat k)).updThread t.uid fun t =>
          { t with tickets := t.tickets ++ [(k, u)] }))

/-- Completion of TRACE (R269): the unit has accepted the ray. -/
def State.doneTrace (s : State) (f : Flight) (d ticket : Nat) : State :=
  (s.updThread f.thread fun t => t.vset d (BitVec.ofNat 32 ticket)).finish f

/-- The issuing thread stands in its save area: its rays wait (R322). -/
def State.rayWaits (s : State) (r : Ray) : Bool :=
  match s.thread? r.thread with
  | some t => s.swappedOut t
  | none => false

/-- A ray's access has stopped (R276, R405): a page fault is served; a freezing code freezes at once, and any other stays
with the ray, which ends as a miss. -/
def State.rayStop (s : State) (r : Ray) (access : Nat) (x : Stop) : State :=
  match x with
  | .fault c a => ((s.updRay r.uid fun k => { k with stalled := some 0 }).addFault r.ctx a c access (coreSector r.core) (.ray r.uid)).1
  | .code c a =>
    let cause : Cause := ⟨c, 0#8, a, true, false⟩
    if c.freezing then (s.updRay r.uid fun k => { k with stage := .done, hit := hitWords none }).raiseAt r.thread r.site cause
    else s.updRay r.uid fun k => { k with stage := .done, hit := hitWords none, code := some cause }

/-- No device access that the ray's thread made before it is still to perform, where the ray reads or adds in device memory
(R63). -/
def State.rayFirst (s : State) (r : Ray) : Bool :=
  !s.rayDevice r ||
    ((s.x.flights.all fun g => !(g.thread == r.thread && decide (g.uid < r.uid) && g.op.device)) &&
      s.e.rays.all fun k => !(k.thread == r.thread && decide (k.uid < r.uid) && s.rayDevice k))

/-- The unit goes on with a ray: the ray is flying, no fault holds it, and its thread's device accesses come first. -/
def State.rayGoes (s : State) (r : Ray) : Bool :=
  r.stage == .flying && r.stalled.isNone && !s.rayWaits r && s.rayFirst r

/-- RAY_COMPLETE (R269): the unit finishes the ray of a TRACE. With FIRST set outside a deterministic launch, which hit it
reports is a free choice. -/
def execRayComplete (ray : Nat) (s : State) : Out :=
  .next (match s.ray? ray with
    | none => s
    | some r =>
      match s.sender? r with
      | none => s
      | some t =>
        if r.ticket.isNone || !s.rayGoes r then s
        else if r.code.isSome then s.updRay ray fun k => { k with stage := .done, hit := hitWords none }
        else
          match s.travRun r.log none (r.traverse t) with
          | (s, log, .error x) => (s.updRay ray fun k => { k with log := log }).rayStop r 6 x
          | (s, _, .ok (hs, _)) =>
            let any := r.flags.getLsbD 0 && !s.det t && decide (1 < hs.length)
            let f := if any then s.takeFree else (0, s)
            let h := if any then hs[Config.freeNat f.1 % hs.length]? else closest hs
            let run := !t.isReplay && !(s.ctx r.ctx).killing && (match h with
              | some _ => r.flags.getLsbD 3
              | none => r.flags.getLsbD 4)
            let s : State := { f.2 with x := { f.2.x with nextUid := f.2.x.nextUid + 1 } }
            s.updRay ray fun k =>
              { k with hit := hitWords h, stage := if run then .shader h.isNone else .done, log := [], came := f.2.x.nextUid })

/-- The name of a shader thread (R343): that of its ray, with the ray's hit. -/
def shaderName (r : Ray) : BitVec 128 :=
  let hit := (r.hit.getD 5 0#32).getLsbD 0
  let inst : BitVec 20 := if hit then (r.hit.getD 4 0#32).extractLsb' 0 20 else BitVec.allOnes 20
  let prim : BitVec 25 := if hit then (r.hit.getD 3 0#32).extractLsb' 0 25 else BitVec.allOnes 25
  r.name.extractLsb' 96 32 ++ inst ++ prim ++ r.name.extractLsb' 0 51

/-- Inserts a ray by when its invocation came. -/
def insertCame (r : Ray) (rs : List Ray) : List Ray :=
  match rs with
  | [] => [r]
  | k :: q => if r.came < k.came then r :: k :: q else k :: insertCame r q

/-- SHADER_GROUP_SPAWN (R342): the invocations of the ray's table entry and kind are gathered in the order in which they came,
up to 32, and placed on a core with room. -/
def execShaderGroupSpawn (ray core slice : Nat) (s : State) : Out :=
  .next (match s.ray? ray with
    | none => s
    | some r =>
      match r.stage with
      | .shader miss =>
        if (s.ctx r.ctx).frozen then s
        else
          match s.shaderEntry r.launch r.flags miss with
          | none => s.updRay ray fun k => { k with stage := .done }
          | some (entry, blocks) =>
            match s.groupFits core slice blocks (s.lweight r.launch) with
            | none => s
            | some slot =>
              let same (k : Ray) : Bool := k.launch == r.launch && k.stage == .shader miss &&
                k.flags.extractLsb' 8 4 == r.flags.extractLsb' 8 4
              let rs := ((s.e.rays.filter same).foldr insertCame []).take 32
              let g := s.x.nextUid
              let mk (u g l : Nat) : Thread :=
                let q := rs.getD l r
                mkThread u core slice l slot g none l q.launch q.ctx (.shader q.uid) blocks entry
                  (s.formName q.ctx (shaderName q))
              (rs.zipIdx).foldl (fun s q => s.updRay q.1.uid fun k => { k with stage := .running (g + 1 + q.2), ran := true })
                (s.addGroup core slice slot r.launch (List.range rs.length) mk)
      | _ => s)

/-- TRWAIT (R269, R276). -/
def execTrwait (c : Ctl) (d : VReg) (b : SrcB) (s : State) : Out :=
  .next (s.lanes c.grd ((d, 8) :: bRuns b 1) fun s t => do
    let y ← s.srcI t b
    let k := y.toNat
    let named := s.x.flights.any fun f => f.thread == t.uid && (match f.op with | .trwait j _ => j == k | _ => false)
    if !(t.tickets.any fun x => x.1 == k) || named then illop
    else .ok (s.launchFlight t c (.trwait k d.toNat)))

/-- Words 5 to 7 of a hit record as TRWAIT writes them (R269). -/
def hitTail (r : Ray) : List Word :=
  [(r.hit.getD 5 0#32) ||| (if r.ran then 4#32 else 0#32) ||| (if r.restart then 8#32 else 0#32), r.ret, 0#32]

/-- Completion of TRWAIT (R101, R269): the ray is done, the thread's time has passed its shader's writes, and
FENCE.ACQ.S5 is done. The ticket is consumed, and a code that the ray met is raised. -/
def State.doneTrwait (s : State) (f : Flight) (ticket d : Nat) : State :=
  match s.thread? f.thread with
  | none => s.finish f
  | some t =>
    match ((t.tickets.find? fun x => x.1 == ticket).bind fun x => s.ray? x.2) with
    | none => s.finish f
    | some r =>
      if r.stage != .done || !s.passed t r.wct || !s.acquireDone f then s
      else
        let shaded := if (r.hit.getD 5 0#32).getLsbD 0 then r.flags.getLsbD 3 else r.flags.getLsbD 4
        let s := if shaded then s.note t 0#8 0x20#8 else s
        let s1 : State := { s with e := { s.e with rays := s.e.rays.filter fun k => k.uid != r.uid } }
        let s2 := s1.updThread t.uid fun t => { t with tickets := t.tickets.filter fun x => x.1 != ticket }
        match r.code with
        | some c => s2.failFlight f c
        | none => (s2.updThread t.uid fun t => t.setRun d (r.hit.take 5 ++ hitTail r)).finish f

/-- The ray of a shader thread. -/
def State.shaderRay (s : State) (t : Thread) : Option Ray :=
  match t.kind with
  | .shader u => s.ray? u
  | _ => none

/-- TRHIT.GET (R270). -/
def execTrhitGet (c : Ctl) (d : VReg) (s : State) : Out :=
  .next (s.lanes c.grd [(d, 16)] fun s t =>
    match s.shaderRay t with
    | none => illop
    | some r =>
      let ws := r.ray ++ r.hit.take 5 ++ [(hitTail r).getD 0 0#32, r.user, 0#32]
      .ok (s.launchFlight t c (.write (ws.zipIdx.map fun w => (d.toNat + w.2, w.1)) [])))

/-- TRHIT.RET (R270). -/
def execTrhitRet (c : Ctl) (b : SrcB) (s : State) : Out :=
  .next (s.lanes c.grd (bRuns b 1) fun s t => do
    let y ← s.srcI t b
    match s.shaderRay t with
    | none => illop
    | some _ => .ok (s.launchFlight t c (.trret y)))

/-- Completion of TRHIT.RET (R270): a later one replaces an earlier one. -/
def State.doneTrret (s : State) (f : Flight) (v : Word) : State :=
  if (s.earlier f).any fun g => (match g.op with | .trret _ => true | _ => false) then s
  else
    match s.thread? f.thread with
    | none => s.finish f
    | some t =>
      match t.kind with
      | .shader u => (s.updRay u fun r => { r with ret := v }).finish f
      | _ => s.finish f

/-! SHADOW (R274, R343) -/

/-- The name of a SHADOW ray and its additions (R343). -/
def shadowName (n : BitVec 128) (couched : Bool) : BitVec 128 :=
  n.extractLsb' 22 106 ++ (n.extractLsb' 17 5 + 1#5) ++ n.extractLsb' 11 6 ++ 3#3 ++
    ((n.extractLsb' 0 8 &&& 1#8) ||| (if couched then 8#8 else 0#8))

/-- SHADOW (R274): the sort keys of its entries and its name are fixed at issue (R30, R227). A helper's adds nothing
(R341). -/
def execShadow (c : Ctl) (n : BitVec 2) (a b x : VReg) (s : State) : Out :=
  let k := n.toNat + 1
  .next (s.lanes c.grd [(a, 8), (b, 4), (x, k)] fun s t =>
    let root := t.pair b.toNat
    let target := t.pair (b.toNat + 2)
    if lnBounce t.name == 31 then illop
    else do
      alignTo root 64
      alignTo target (if k == 1 then 4 else if k == 2 then 8 else 16)
      let u := s.x.nextUid
      let couched := s.det t && t.team.isSome && !t.helper && !t.isReplay
      let name := s.formName t.ctx (shadowName t.name couched)
      let ray : Ray :=
        { uid := u, thread := t.uid, launch := t.launch, ctx := t.ctx, core := t.core, site := t.site, name := name,
          ray := t.run a.toNat 8, root := root, flags := 0x00FF0001#32, user := 0#32, ticket := none, stage := .flying,
          hit := hitWords none, ret := 0#32, ran := false, restart := false, code := none, wct := [], target := target,
          chans := t.run x.toNat k, couch := t.couch, none := t.helper, stalled := none, came := 0, log := [] }
      let s1 : State := { s with x := { s.x with nextUid := u + 1 } }
      let late := !t.helper && s.watchedWrite { t with name := name } target (4 * k)
      let s2 := (((if late then s1.emitLater t.uid u else s1)).addRay ray).launchFlight t c (.shadow u)
      .ok (if s.det t && t.team.isSome && !t.helper then s2.updThread t.uid fun t => { t with couch := t.couch + k } else s2))

/-- SHADOW goes on (R274): it completes when the unit has accepted the ray; what it still owes ends with the ray's
test. -/
def State.doneShadow (s : State) (f : Flight) (ray : Nat) : State :=
  if !f.posted then s.post f
  else if (s.ray? ray).isNone then s.finish f
  else s

/-- A shadow ray is done with: the flight that stands for it ends, and its contributor records are formed (R426). -/
def State.endShadow (s : State) (r : Ray) (rs : List (BitVec 512)) : State :=
  let s1 : State := ({ s with e := { s.e with rays := s.e.rays.filter fun k => k.uid != r.uid } } : State).emitNow r.thread r.uid rs
  match s1.x.flights.find? fun f => f.op == .shadow r.uid with
  | some f => if f.posted then s1.finish f else s1
  | none => s1

/-- A read of a ray that its traversal makes has stopped (R276): a SHADOW adds nothing, and its code is raised on its thread; a
TRACE keeps the code, which its TRWAIT raises. -/
def State.rayRefused (s : State) (r : Ray) (log : List (List Byte × Bool)) (x : Stop) : State :=
  match r.ticket, x with
  | none, .code c a => (s.endShadow r []).raiseAt r.thread r.site ⟨c, 0#8, a, true, false⟩
  | _, x => (s.updRay r.uid fun k => { k with log := log }).rayStop r 6 x

/-- The traversal of a ray reads one more node, and stands there (R337). -/
def State.rayNode (s : State) (u : Nat) : State :=
  match s.ray? u with
  | none => s
  | some r =>
    match s.sender? r with
    | none => s
    | some t =>
      if !s.rayGoes r || r.code.isSome then s
      else
        match s.travRun r.log (some 1) (r.traverse t) with
        | (s, log, .ok _) => s.updRay u fun k => { k with log := log }
        | (s, log, .error x) => s.rayRefused r log x

/-- The checks of the channels' additions, which perform at home (R274, R408): each that may add, with its access, the first
code refused, or a page fault. -/
def State.shadowChecks (s : State) (t : Thread) (r : Ray) :
    State × Except Stop (List (Nat × Acc) × Option (Code × DWord)) :=
  (List.range r.chans.length).foldl (fun (a : State × Except Stop (List (Nat × Acc) × Option (Code × DWord))) i =>
    match a.2 with
    | .error _ => a
    | .ok (go, bad) =>
      let p := r.target + BitVec.ofNat 64 (4 * i)
      match a.1.pageCheck t.core none t.ctx p 4 true false true 0#12 2 with
      | (s, .fault c) => (s, .error (.fault c p))
      | (s, .code c) => (s, .ok (go, bad.or (some (c, p))))
      | (s, .go acc) =>
        if s.locked t.ctx (ptrVa p) 4 true then (s, .ok (go, bad.or (some (.rangeLock, p))))
        else (s, .ok (go ++ [(i, acc)], bad))) (s, .ok ([], none))

/-- The contributor record of a channel's addition (R426): its name is the one that the ray was sent with (R343). One at the
management window performs nothing, and writes none (R228). -/
def State.shadowRec (s : State) (t : Thread) (r : Ray) (i : Nat) (a : Acc) : List (BitVec 512) :=
  let named := { t with name := r.name }
  if !isWindow a.pa && s.watchedWrite named a.va 4 then [s.eventRec named 2 a.va (loBytes 4 ((r.chans.getD i 0#32).zeroExtend 64)) true] else []

/-- One channel of an unoccluded ray is added (R106, R107, R274): couched for a team of a deterministic launch, kept with
an isolated team, else at the home slice; at the management window nothing is performed (R228). -/
def State.shadowAdd (s : State) (t : Thread) (r : Ray) (i : Nat) (a : Acc) (poison : Bool) : State :=
  let x := (r.chans.getD i 0#32).zeroExtend 64
  let s := s.streamAdd t r.uid a.va 4 (loBytes 4 x)
  if (s.inShadow t).isSome then s
  else if isWindow a.pa then s
  else if s.det t && t.team.isSome && !t.isReplay then s.couchAdd t.core (s.couchOf t a .fadd false x (r.couch + i) poison)
  else if t.isReplay then
    let q := s.readAcc t a 0 4
    q.1.storeAcc t a 0 (loBytes 4 (atomBytes false .fadd (leWord q.2.bytes) x))
  else
    let s := (s.homeRange t.core t.ctx a.pa 4).dropClean t.core t.ctx (a.pa / 256) (a.pa % 256 / 64)
    let q := s.rmwHome (some t.core) t.ctx 0#12 a.pa 4 (fun old => some (atomBytes false .fadd old x)) poison
    q.1.collect t.uid a.pa q.2.2

/-- The additions of a thread to the bytes of a ray's target stand behind nothing of the thread that came before
(R83). -/
def State.shadowFirst (s : State) (t : Thread) (r : Ray) (as : List (Nat × Acc)) : Bool :=
  (as.all fun a => s.x.flights.all fun g =>
    !(g.thread == t.uid && decide (g.uid < r.uid) && overlaps g.op.ranges [(a.2.pa, 4)])) &&
  !s.shadowAhead t r.uid (r.target.toNat % 2 ^ 48) (4 * r.chans.length)

/-- The additions of an unoccluded shadow ray (R274): checked, and performed once the thread's accesses before them have. -/
def State.shadowAdds (s : State) (t : Thread) (r : Ray) (poison : Bool) : State :=
  match s.shadowChecks t r with
  | (s, .error x) => s.rayStop r 2 x
  | (s, .ok (as, bad)) =>
    if !s.shadowFirst t r as then s
    else
      let rs := as.flatMap fun a => s.shadowRec t r a.1 a.2
      let s := as.foldl (fun s a => s.shadowAdd ((s.sender? r).getD t) r a.1 a.2 poison) s
      let s := s.endShadow r rs
      match bad with
      | some (c, a) => s.raiseAt r.thread r.site ⟨c, 0#8, a, true, false⟩
      | none => s

/-- SHADOW_RAY_TEST (R274): the unit finishes a shadow ray; its additions are performed, or dropped where it is
occluded. -/
def execShadowRayTest (ray : Nat) (s : State) : Out :=
  .next (match s.ray? ray with
    | none => s
    | some r =>
      match s.sender? r with
      | none => s.endShadow r []
      | some t =>
        if r.ticket.isSome || !s.rayGoes r then s
        else
          match r.code with
          | some c => (s.endShadow r []).raiseAt r.thread r.site c
          | none =>
            match s.travRun r.log none (r.traverse t) with
            | (s, log, .error x) => s.rayRefused r log x
            | (s, log, .ok (hs, poison)) =>
              if !hs.isEmpty || r.none || (s.ctx r.ctx).killing then s.endShadow r []
              else (s.updRay ray fun k => { k with log := log }).shadowAdds t r poison)

/-! RNG (R275) -/

/-- The words of RNG (R275). -/
def rngWords (name : BitVec 128) (stream draw : Word) (seed : DWord) (unit : Bool) (n : Nat) : List Word :=
  let msg := natBytes 16 (name.toNat / 2048 * 2048) ++ natBytes 4 stream.toNat ++ natBytes 4 draw.toNat ++ natBytes 8 seed.toNat
  let h := sha3 msg
  (List.range n).map fun i =>
    let w : Word := h.extractLsb' (32 * i) 32
    if unit then ratFp32 ((w.toNat / 256 : Nat) / (2 ^ 24 : Nat)) else w

/-- RNG (R275). -/
def execRng (c : Ctl) (n : BitVec 3) (unit : Bool) (d a : VReg) (b : SrcB) (s : State) : Out :=
  let k := n.toNat + 1
  .next (s.lanes c.grd ([(d, k), (a, 1)] ++ bRuns b 1) fun s t => do
    let y ← s.srcI t b
    let seed := ((s.launch? t.launch).map fun l => lrSeed l.record).getD 0#64
    let ws := rngWords t.name y (t.vget a.toNat) seed unit k
    .ok (s.launchFlight t c (.write (ws.zipIdx.map fun w => (d.toNat + w.2, w.1)) [])))

end Sys2Proof.Machine
end

