-- ==== Sys2Proof/Machine/Coll.lean ====
section
/-! DEFINITION. Collectives (R129, R130, R277 to R282, R354, R444). -/

namespace Sys2Proof.Machine

/-! The record and the group table -/

/-- A field of a collective record (R278). -/
abbrev cf (r : BitVec 512) (lo n : Nat) : BitVec n := r.extractLsb' lo n
/-- SRC. -/
def collSrc (r : BitVec 512) : DWord := cf r 448 64
/-- DST. -/
def collDst (r : BitVec 512) : DWord := cf r 384 64
/-- COUNT. -/
def collCount (r : BitVec 512) : Nat := (cf r 352 32).toNat
/-- SEQ. -/
def collSeq (r : BitVec 512) : Nat := (cf r 320 32).toNat
/-- GROUP. -/
def collGroup (r : BitVec 512) : Nat := (cf r 304 16).toNat
/-- OP. -/
def collOp (r : BitVec 512) : Nat := (cf r 300 4).toNat
/-- A format that a collective takes. -/
def collFmt (c : BitVec 4) : Option Fmt :=
  (Fmt.ofCode c).bind fun f => if f == .fp32 || f == .fp16 || f == .bf16 then some f else none
/-- SFMT. -/
def collSfmt (r : BitVec 512) : Option Fmt := collFmt (cf r 296 4)
/-- DFMT. -/
def collDfmt (r : BitVec 512) : Option Fmt := collFmt (cf r 292 4)
/-- WIRE. -/
def collWire (r : BitVec 512) : Bool := r.getLsbD 291
/-- WSLOT. -/
def collWslot (r : BitVec 512) : Nat := (cf r 288 3).toNat
/-- RBUF. -/
def collRbuf (r : BitVec 512) : Nat := (cf r 284 4).toNat

/-- Bytes of an element. -/
def fmtBytes (f : Fmt) : Nat := f.bits / 8

/-- The fields of a record are in range (R278, R282). -/
def collFieldsOk (r : BitVec 512) : Bool :=
  decide (1 ≤ collCount r) && decide (collCount r ≤ 2 ^ 30) && decide (collGroup r < 256) && decide (collOp r < 3) &&
    (collSfmt r).isSome && (collDfmt r).isSome && cf r 0 284 == 0#284

/-- The fields on which the participants must agree (R280). -/
def collAgrees (a b : BitVec 512) : Bool :=
  collOp a == collOp b && collCount a == collCount b && cf a 292 8 == cf b 292 8 && cf a 288 4 == cf b 288 4

/-- Entry of a group in the group table (R354). -/
def State.groupEntry (s : State) (g : Nat) : State × BitVec 512 :=
  let r := s.physRead (s.h.grpbase.toNat + 64 * g) 64
  (r.1, BitVec.ofNat 512 (leNat r.2))

/-- Element formats through which a contribution may be quantised. -/
def wireFmt (f : Fmt) : Bool :=
  match f with
  | .e8m0 => false
  | _ => true

/-- A residual buffer of a context (R281). -/
def State.residual (s : State) (ctx id : Nat) : Option (DWord × Nat) := sget s.e.resid (ctx * 16 + id)

/-- The ranges that a collective locks (R279). -/
def CollJob.ranges (k : CollJob) : List Lock :=
  let n := collCount k.record
  let src := lockOf k.uid k.ctx (collSrc k.record) (n * (((collSfmt k.record).map fmtBytes).getD 4)) false
  let dst := lockOf k.uid k.ctx (collDst k.record) (n * (((collDfmt k.record).map fmtBytes).getD 4)) true
  let res := if collWire k.record then [lockOf k.uid k.ctx k.resid (4 * n) true] else []
  [src, dst] ++ res

/-! COLL -/

/-- Ticket a thread's next collective takes: its lowest free one (R279), if any. -/
def freeTicket (ts : List (Nat × Nat)) : Option Nat := (List.range 8).find? fun i => !(ts.any fun x => x.1 == i)

/-- The checks of a record by COLL (R278, R281, R282, R354): the format slot it quantises through, if any. R121 lists matrix and
conversion-form instructions as the readers of slots; that a COLL with WIRE raises FORMAT_SLOT for an invalid WSLOT, or for one
whose ELEM is E8M0, is a DESIGN CHOICE (log 69). -/
def State.collCheck (s : State) (t : Thread) (r : BitVec 512) : Res (Option (BitVec 256)) := do
  let slot ← (if collWire r then (s.slotOk t (collWslot r)).map fun k => some k.record else .ok none)
  let bad := match slot.bind slotElem with
    | some f => !wireFmt f
    | none => false
  let entry := (s.groupEntry (collGroup r)).2
  let short := collWire r && (match s.residual t.ctx (collRbuf r) with
    | some (_, n) => decide (n < 4 * collCount r)
    | none => true)
  if bad then .error (Cause.of .formatSlot)
  else if !collFieldsOk r || !entry.getLsbD 0 || short then illop
  else do
    alignTo (collSrc r) 4
    alignTo (collDst r) (((collDfmt r).map fmtBytes).getD 4)
    .ok slot

/-- COLL (R278, R279, R281, R282): one that repeats a GROUP and SEQ of this device does nothing (R280). -/
def execColl (c : Ctl) (d a : VReg) (s : State) : Out :=
  .next (s.lanes c.grd [(d, 1), (a, 2)] fun s t =>
    match freeTicket t.ctickets with
    | none => illop
    | some k => do
      let p := t.pair a.toNat
      alignTo p 64
      match s.inShadow t with
      | some tm => .ok (s.skipShadow tm)
      | none =>
        s.runParts t p 64 fun s ps => do
          let (s, bs) ← s.readNow t ps
          let r : BitVec 512 := BitVec.ofNat 512 (leNat bs)
          let slot ← s.collCheck t r
          let key := (collGroup r, collSeq r)
          let dup := s.e.collSeen.contains key
          let u := s.x.nextUid
          let job : CollJob :=
            { uid := u, thread := t.uid, ctx := t.ctx, core := t.core, site := t.site, record := r, slot := slot,
              resid := ((s.residual t.ctx (collRbuf r)).map Prod.fst).getD 0#64,
              status := if dup then some 2 else none, entered := dup, stalled := none, wct := [] }
          let s1 : State := { s with
            x := { s.x with nextUid := u + 1 }
            e := { s.e with colls := s.e.colls ++ [job], collSeen := if dup then s.e.collSeen else key :: s.e.collSeen } }
          let s2 := s1.updThread t.uid fun t => { t with ctickets := t.ctickets ++ [(k, u)] }
          .ok (s2.launchFlight t c (.coll u d.toNat k false)))

/-- The collective of a uid. -/
def State.coll? (s : State) (u : Nat) : Option CollJob := s.e.colls.find? fun k => k.uid == u
/-- Changes a collective. -/
def State.updColl (s : State) (u : Nat) (f : CollJob → CollJob) : State :=
  { s with e := { s.e with colls := s.e.colls.map fun k => if k.uid == u then f k else k } }

/-- COLL goes on (R279): the release work of level 5, then its ranges lock and its ticket is written. A collective that
finds the lock table full waits. -/
def State.doneColl (s : State) (f : Flight) (u d ticket : Nat) (begun : Bool) : State :=
  match s.thread? f.thread, s.coll? u with
  | some t, some k =>
    let write (s : State) : State := (s.updThread t.uid fun t => t.vset d (BitVec.ofNat 32 ticket)).finish f
    if k.status.isSome then write s
    else if !begun then
      if !s.accessesDone f 5 then s
      else
        let r := s.releaseWork t 5
        r.1.updFlight f.uid fun g => { g with op := .coll u d ticket true, wait := r.2 }
    else if !s.passed t f.wait then s
    else
      let ls := k.ranges
      if 512 < s.m.locks.length + ls.length then s
      else
        let s1 : State := { s with m := { s.m with locks := s.m.locks ++ ls } }
        write (s1.updColl u fun k => { k with entered := true })
  | _, _ => s.finish f

/-! COLLECTIVE_COMPLETE (R129, R130, R279, R280) -/

/-- A peer's contribution as a value. -/
def peerNum : PeerVal → Num
  | .nan => .nan
  | .inf n => .inf n
  | .fin n m e => .fin n ((m : Rat) * pow2 e)

/-- Elements of a range of bytes. -/
def elemsOf (f : Fmt) (bs : List Byte) (n : Nat) : List Num :=
  (List.range n).map fun i => decodeNum f (leNat ((bs.drop (fmtBytes f * i)).take (fmtBytes f)))

/-- Dequantised values of a contribution (R130): blocks of the slot's BLK, quantised by R124 with its ELEM and SFMT; none is
CONVERT_TRAP. Under an E8M0 scale the Emax that R124 does not give, for an ELEM of FP32, FP16, BF16, N8 or N4, is a free value
(log 70). -/
def wireQuant (slot : BitVec 256) (xs : List Num) : Option (List Num) :=
  match slotElem slot with
  | none => none
  | some f =>
    let b := slotBlk slot
    let qs := (List.range ((xs.length + b - 1) / b)).map fun j =>
      quantBlock f (slotE4m3 slot) .rn (slotOvf slot) ((xs.drop (b * j)).take b)
    if qs.any Option.isNone then none
    else some ((qs.filterMap id).flatMap fun q =>
      q.2.map fun e => scaled (decodeNum f e) (decodeScale (slotE4m3 slot) q.1))

/-- Results of a collective from the contributions of its participants (R129, R171, R279). -/
def collReduce (op count : Nat) (parts : List (List Num)) : List Num :=
  (List.range count).map fun i =>
    let xs := parts.map fun p => p.getD i Num.zero
    if op == 0 then
      let blk := parts.flatMap fun p => (p.drop (i / 256 * 256)).take 256
      let es := (blk.filter fun t => !t.isZero && !t.isNan && !t.isInf).map fun t => floorLog2 t.abs.toRat
      let r := match es.max? with
        | none => Num.sum xs
        | some e => collSum e xs
      if r.isZero then Num.zero else r
    else
      match xs with
      | [] => Num.zero
      | x :: r => r.foldl (fun a y => if op == 1 then a.max y else a.min y) x

/-- A collective's status is known: its ranges are free (R280), and one that no thread will wait for is done with. -/
def State.collClose (s : State) (k : CollJob) (status : Nat) (wct : Sparse Nat) : State :=
  let s := s.updColl k.uid fun j => { j with status := some status, wct := wct }
  let s : State := if (s.thread? k.thread).isSome then s
    else { s with e := { s.e with colls := s.e.colls.filter fun j => j.uid != k.uid } }
  { s with m := { s.m with locks := s.m.locks.filter fun l => l.owner != k.uid } }

/-- DST after status 3 (R280): unspecified. -/
def State.collScramble (s : State) (k : CollJob) : State :=
  let w := ((collDfmt k.record).map fmtBytes).getD 4
  let n := collCount k.record
  let bs := (List.range n).flatMap fun i => natBytes w (Config.freeWord (s.freeCtr + i)).toNat
  let s := { s with freeCtr := s.freeCtr + n }
  match s.engStore k.core k.ctx 0#12 (collDst k.record) bs false with
  | (s, .ok _) => s
  | (_, .error _) => s

/-- An access of a collective has stopped: a page fault is served (R404), and a code ends it with status 3, charged to
its issuer. R117 writes no result where a rounding traps under policy 3, and the collective rules do not say what DST then holds:
free values, as with status 3: DESIGN CHOICE (log 71). -/
def State.collStop (s : State) (k : CollJob) (x : Stop) : State :=
  match x with
  | .fault c a =>
    let s := s.updColl k.uid fun j => { j with stalled := some 0 }
    (s.addFault k.ctx a c 9 (coreSector k.core) (.coll k.uid)).1
  | .code c a => ((s.collScramble k).collClose k 3 []).raiseAt k.thread k.site ⟨c, 0#8, a, true, false⟩

/-- The contribution of this device (R130, R279): its values, its new residuals, and whether it has read poison. -/
def State.contribution (s : State) (k : CollJob) : State × Except Stop (List Num × List Num × Bool) :=
  let n := collCount k.record
  let f := (collSfmt k.record).getD .fp32
  match s.engLoad k.core k.ctx 0#12 (collSrc k.record) (n * fmtBytes f) with
  | (s, .error x) => (s, .error x)
  | (s, .ok (bs, p)) =>
    let xs := elemsOf f bs n
    match k.slot with
    | some slot =>
      match s.engLoad k.core k.ctx 0#12 k.resid (4 * n) with
      | (s, .error x) => (s, .error x)
      | (s, .ok (rb, q)) =>
        let sum := (xs.zip (elemsOf .fp32 rb n)).map fun z => fp32 (toFp32 (z.1.add z.2))
        match wireQuant slot sum with
        | none => (s, .error (.code .convertTrap 0#64))
        | some ys => (s, .ok (ys, (sum.zip ys).map fun z => z.1.add z.2.negate, p || q))
    | none => (s, .ok (xs, [], p))

/-- The result of a collective lands at its DST, and its residuals in their buffer. -/
def State.collLand (s : State) (k : CollJob) (ys res : List Num) (poison : Bool) : State :=
  let f := (collDfmt k.record).getD .fp32
  let ovf := match k.slot with
    | some r => slotOvf r
    | none => 1
  let es := ys.map fun y => roundNum f .rn ovf y
  if es.any Option.isNone then s.collStop k (.code .convertTrap 0#64)
  else
    let out := es.flatMap fun e => natBytes (fmtBytes f) (e.getD 0)
    match s.engCheck k.core k.ctx (collDst k.record) out.length true 0#12 with
    | (s, .error x) => s.collStop k x
    | (s, .ok _) =>
      let left := if k.slot.isNone then (s, .ok [])
        else s.engStore k.core k.ctx 0#12 k.resid (res.flatMap fun x => natBytes 4 (toFp32 x).toNat) poison
      match left with
      | (s, .error x) => s.collStop k x
      | (s, .ok w) =>
        match s.engStore k.core k.ctx 0#12 (collDst k.record) out poison with
        | (s, .error x) => s.collStop k x
        | (s, .ok v) => s.collClose k 0 (wctJoin w v)

/-- No earlier collective or RESID of the same residual buffer is still to update it (R130, R281). -/
def State.residFirst (s : State) (k : CollJob) : Bool :=
  !collWire k.record ||
    (!(s.e.colls.any fun j => decide (j.uid < k.uid) && j.ctx == k.ctx && collWire j.record &&
        collRbuf j.record == collRbuf k.record && (j.status.isNone || s.m.locks.any fun l => l.owner == j.uid)) &&
      !(s.x.flights.any fun f => decide (f.uid < k.uid) && (match f.op with
        | .resid id _ _ _ _ => id == collRbuf k.record && (s.thread? f.thread).any fun t => t.ctx == k.ctx
        | _ => false)))

/-- The devices of a group, and whether the links to its ranks are up (R354, R445). -/
def State.groupLinks (s : State) (g : Nat) : Nat × Bool :=
  let e := (s.groupEntry g).2
  let n := (e.extractLsb' 8 8).toNat + 1
  (n, n == 1 || (s.b.links.getLsbD (e.extractLsb' 24 4).toNat && s.b.links.getLsbD (e.extractLsb' 28 4).toNat))

/-- Poisoned flits of the peers' parts have come over a device link: each link's is recorded (R445). -/
def State.poisonedParts (s : State) (ps : List PeerPart) : State :=
  ((ps.filterMap PeerPart.poison).eraseDups).foldl (fun s j =>
    (s.addError 0 .linkError 11 j 0 false false false 3 (j / 3)).1) s

/-- COLLECTIVE_COMPLETE (R279, R280): the hubs finish a collective with the parts that the peers bring. Poison in any part, its
own or a peer's, poisons DST on every participant (R444). -/
def execCollectiveComplete (coll : Nat) (peers : CollPeers) (s : State) : Out :=
  .next (match s.coll? coll with
    | none => s
    | some k =>
      let locked := s.m.locks.any fun l => l.owner == k.uid
      if !k.entered || k.stalled.isSome || (k.status.isSome && !locked) then s
      else if k.status.isSome then (s.collScramble k).collClose k 3 []
      else if !s.residFirst k then s
      else
        let n := collCount k.record
        let g := s.groupLinks (collGroup k.record)
        if peers.linkError || !g.2 then (s.collScramble k).collClose k 3 []
        else if peers.parts.length + 1 != g.1 then s
        else if peers.parts.any fun p => !collAgrees p.record k.record then s.collClose k 1 []
        else if peers.parts.any fun p => p.vals.length != n then s
        else
          match s.contribution k with
          | (s, .error x) => s.collStop k x
          | (s, .ok (xs, res, poison)) =>
            (s.poisonedParts peers.parts).collLand k
              (collReduce (collOp k.record) n (xs :: peers.parts.map fun p => p.vals.map peerNum)) res
              (poison || peers.parts.any fun p => p.poison.isSome))

/-! COLLW (R280) -/

/-- COLLW (R280, R282). -/
def execCollw (c : Ctl) (d : VReg) (b : SrcB) (s : State) : Out :=
  .next (s.lanes c.grd ((d, 1) :: bRuns b 1) fun s t => do
    let y ← s.srcI t b
    let k := y.toNat
    let named := s.x.flights.any fun f => f.thread == t.uid && (match f.op with | .collw j _ _ => j == k | _ => false)
    if !(t.ctickets.any fun x => x.1 == k) || named then illop
    else .ok (s.launchFlight t c (.collw k d.toNat false)))

/-- Completion of COLLW (R280): the status is known and the ranges are free; with status 0, FENCE.AR.S6, past the write
completion times of the result (R91, R100). The ticket is consumed. -/
def State.doneCollw (s : State) (f : Flight) (ticket d : Nat) (begun : Bool) : State :=
  match s.thread? f.thread with
  | none => s.finish f
  | some t =>
    match (t.ctickets.find? fun x => x.1 == ticket).bind fun x => s.coll? x.2 with
    | none => s.finish f
    | some k =>
      match k.status with
      | none => s
      | some st =>
        let close (s : State) : State :=
          let s1 : State := { s with e := { s.e with colls := s.e.colls.filter fun j => j.uid != k.uid } }
          (s1.updThread t.uid fun t =>
            ({ t with ctickets := t.ctickets.filter fun x => x.1 != ticket }).vset d (BitVec.ofNat 32 st)).finish f
        if !k.entered || s.m.locks.any (fun l => l.owner == k.uid) then s
        else if st != 0 then close s
        else if !begun then
          if !s.accessesDone f 6 || !s.acquireDone f then s
          else
            let r := s.releaseWork t 6
            r.1.updFlight f.uid fun g => { g with op := .collw ticket d true, wait := r.2 }
        else if s.passed t f.wait && s.homesPassed k.wct && s.passed t k.wct then close s
        else s

/-! RESID (R281) -/

/-- RESID (R281, R282): the buffer is bound at issue, and its range is locked until its zeros have performed. With the
lock table full the lane waits in flight. -/
def execResid (c : Ctl) (a : VReg) (b : SrcB) (x : VReg) (s : State) : Out :=
  .next (s.lanes c.grd ([(a, 2), (x, 1)] ++ bRuns b 1) fun s t => do
    let y ← s.srcI t b
    let p := t.pair a.toNat
    let n := (t.vget x.toNat).toNat
    if 15 < y.toNat || n % 4 != 0 then illop
    else do
      alignTo p 4
      let key := t.ctx * 16 + y.toNat
      let bind (s : State) : State := { s with e := { s.e with
        resid := if p == 0#64 && n == 0 then sdel s.e.resid key else sput s.e.resid key (p, n) } }
      match s.engCheck t.core t.ctx p n true 0#12 with
      | (_, .error (.code k q)) => .error (Cause.at k q)
      | (s, .error (.fault k q)) => s.parkPage t q k 9
      | (s, .ok parts) => .ok ((bind s).launchFlight t c (.resid y.toNat parts p n none)))

/-- RESID goes on (R281): its range locks, as its first moment after issue, DESIGN CHOICE (log 53); the zeros perform at home, where issue has translated them, once earlier collectives
have updated the buffer, and it completes when their write completion times have passed. -/
def State.doneResid (s : State) (f : Flight) (id : Nat) (parts : List (Nat × Nat)) (p : DWord) (n : Nat)
    (wct : Option (Sparse Nat)) : State :=
  match s.thread? f.thread with
  | none => s.finish f
  | some t =>
    let locked := s.m.locks.any fun l => l.owner == f.uid
    let close (s : State) : State :=
      ({ s with m := { s.m with locks := s.m.locks.filter fun l => l.owner != f.uid } }).finish f
    if n == 0 then s.finish f
    else
      match wct with
      | some w => if s.homesPassed w then close s else s
      | none =>
      if !locked then
        if 512 ≤ s.m.locks.length then s
        else { s with m := { s.m with locks := s.m.locks ++ [lockOf f.uid t.ctx p n true] } }
      else if s.e.colls.any fun j => decide (j.uid < f.uid) && j.ctx == t.ctx && collWire j.record &&
          collRbuf j.record == id && (j.status.isNone || s.m.locks.any fun l => l.owner == j.uid) then s
      else
        let r := parts.foldl (fun (a : State × Sparse Nat) g =>
          if isWindow g.1 then (a.1.winStore g.1 (List.replicate g.2 0#8), a.2)
          else
            let w := a.1.writeHome t.ctx 0#12 g.1 (List.replicate g.2 0#8) false
            (w.1, wctAdd a.2 (homeDie g.1) w.2)) (s, [])
        r.1.updFlight f.uid fun g => { g with op := .resid id parts p n (some r.2) }

end Sys2Proof.Machine
end

