-- ==== Sys2Proof/Machine/Fit.lean ====
section
/-! DEFINITION. Rectangles, and the room that a core has for a team (R31, R70, R313 to R317, R320, R453). -/

namespace Sys2Proof.Machine

/-! Rectangles (R31) -/

/-- Legal cluster shapes, rows by columns. -/
def legalShape (rows cols : Nat) : Bool :=
  (rows == 1 && decide (1 ≤ cols) && decide (cols ≤ 6)) || (rows == 2 && decide (2 ≤ cols) && decide (cols ≤ 6)) ||
    (rows == 3 && cols == 4)

/-- Cores of the rectangle of a shape whose top-left core is given, by rank; none where it is not legal there. -/
def rectAt (rows cols core : Nat) : Option (List Nat) :=
  let r := coreRow core
  let c := coreCol core
  if core < 144 && r + rows ≤ 6 && c + cols ≤ 6 && (rows != 2 || r % 2 == 0) then
    some ((List.range rows).flatMap fun i => (List.range cols).map fun j => core + 6 * i + j)
  else none

/-- The legal rectangles of a shape, by top-left core. -/
def rects (rows cols : Nat) : List (List Nat) := (List.range 144).filterMap (rectAt rows cols)

/-- The launch is one of tile jobs (R332). -/
def Launch.tileJobs (l : Launch) : Bool := lrKind l.record == 1
/-- The launch is a replay (R430). -/
def Launch.isReplay (l : Launch) : Bool := lrKind l.record == 3
/-- Rows and columns of a launch's clusters: tile jobs and replays take one core. -/
def Launch.shape (l : Launch) : Nat × Nat :=
  if l.tileJobs || l.isReplay then (1, 1) else (lrCrows l.record, lrCcols l.record)

/-! What a team needs -/

/-- What a team takes of a core: its group ordinals, its threads as slice, lane and blocks, its scratchpad bytes, its
tiles and the weight of a group. -/
structure Need where
  groups  : List Nat
  threads : List (Nat × Nat × Nat)
  scratch : Nat
  tiles   : Nat
  weight  : Nat
deriving DecidableEq, Repr

/-- KiB of an allocation (R70). -/
def kib (n : Nat) : Nat := (n + 1023) / 1024

/-- Screen position of a pixel of a tile by its Morton index (R327, R328). -/
def tilePixel (tx ty i : Nat) : Nat × Nat :=
  let b (k : Nat) : Nat := i / 2 ^ k % 2
  (16 * tx + b 0 + 2 * b 2 + 4 * b 4 + 8 * b 6, 16 * ty + b 1 + 2 * b 3 + 4 * b 5 + 8 * b 7)
/-- A pixel lies on the screen. -/
def onScreen (p : BitVec 2048) (q : Nat × Nat) : Bool := decide (q.1 < ppbW p) && decide (q.2 < ppbH p)

/-- Fields of a lineage name used for a replay's thread: its thread index, or the Morton index of its pixel. -/
def lnMorton (n : BitVec 128) : Nat :=
  let x := lnX n % 16
  let y := lnY n % 16
  let b (v k : Nat) : Nat := v / 2 ^ k % 2
  b x 0 + 2 * b y 0 + 4 * b x 1 + 8 * b y 1 + 16 * b x 2 + 32 * b y 2 + 64 * b x 3 + 128 * b y 3

/-- NAME of a replay request (R431). -/
def rqName (r : BitVec 512) : BitVec 128 := r.extractLsb' 384 128
/-- OKIND of a replay request. -/
def rqKind (r : BitVec 512) : Nat := (r.extractLsb' 4 2).toNat
/-- Thread index that a name of KIND 0 bears (R30). -/
def lnTid (n : BitVec 128) : Nat := lnX n + 8192 * lnY n

/-- Thread indices that a replay re-creates (R433). -/
def Launch.replayMembers (l : Launch) : List Nat :=
  match l.replay with
  | none => []
  | some r =>
    let n := rqName r.request
    if rqKind r.request == 0 then [lnTid n]
    else if rqKind r.request == 2 then
      let q := lnMorton n / 4 * 4
      (List.range 4).filterMap fun k =>
        if onScreen r.ppb (tilePixel (lnX n / 16) (lnY n / 16) (q + k)) then some (q + k) else none
    else []

/-- Morton indices of a tile whose threads are not exited from the start: those of quads with a pixel on the screen
(R338). -/
def tileMembers (p : BitVec 2048) (tx ty : Nat) : List Nat :=
  (List.range 256).filter fun i => (List.range 4).any fun k => onScreen p (tilePixel tx ty (i / 4 * 4 + k))

/-- Thread indices that a team of a cluster holds at its start (R28, R338, R433). -/
def Launch.members (l : Launch) (cluster : Nat) : List Nat :=
  if l.isReplay then l.replayMembers
  else if lrKind l.record == 2 then tileMembers l.ppb (cluster % l.gx) (cluster / l.gx)
  else List.range (lrTeam l.record)

/-- The team size of barriers (R232): TEAM, less the threads of a tile's team that are exited from the start. A replay's
team has the size of the team whose threads it re-creates. -/
def Launch.teamSize (l : Launch) (cluster : Nat) : Nat :=
  match l.replay with
  | some r =>
    if rqKind r.request == 2 then
      (tileMembers r.ppb (lnX (rqName r.request) / 16) (lnY (rqName r.request) / 16)).length
    else lrTeam l.record
  | none => (l.members cluster).length

/-- Group ordinals of a team (R28); a replay has only the group of its threads. -/
def Launch.ordinals (l : Launch) : List Nat :=
  if l.isReplay then (l.replayMembers.map fun i => i / 32).eraseDups else List.range l.groups

/-- What a new team of a launch takes. -/
def Launch.need (l : Launch) (cluster : Nat) : Need :=
  { groups := l.ordinals
    threads := (l.members cluster).map fun i => (i / 32 % 8, i % 32, lrRegb l.record)
    scratch := lrScratch l.record
    tiles := lrAcc l.record
    weight := eclassWeight (lrEclass l.record) }

/-- What a swapped team takes when it is restored (R324, R27). -/
def State.needOf (s : State) (tm : Team) : Need :=
  let gs := s.x.groups.filter fun g => g.team == some tm.uid
  let ts := s.x.threads.filter fun t => t.team == some tm.uid && t.status != .exited
  { groups := gs.map Group.ordinal
    threads := ts.map fun t => (t.slice, t.lane, t.blocks)
    scratch := tm.ssize
    tiles := tm.tiles.length
    weight := s.lweight tm.launch }

/-! Room (R314, R315) -/

/-- Teams resident on a core. -/
def State.teamsOn (s : State) (core : Nat) : List Team := s.x.teams.filter fun t => t.core == core && t.swapped.isNone

/-- `k` teams of one need fit on a core. -/
def State.fitsN (s : State) (core : Nat) (n : Need) (k : Nat) : Bool :=
  let ts := s.teamsOn core
  let slot (sl : Nat) : Bool :=
    let used := (s.x.groups.filter fun g => g.core == core && g.slice == sl && s.resident g).length
    decide (used + k * (n.groups.filter fun g => g % 8 == sl).length ≤ 8)
  let lane (x : Nat × Nat × Nat) : Bool :=
    let mine := ((n.threads.filter fun y => y.1 == x.1 && y.2.1 == x.2.1).map fun y => y.2.2).sum
    decide (k * mine ≤ s.laneFree core x.1 x.2.1)
  (List.range 8).all slot && n.threads.all lane
    && decide ((ts.map fun t => kib t.ssize).sum + k * kib n.scratch ≤ 4096)
    && decide ((ts.map fun t => t.tiles.length).sum + k * n.tiles ≤ 48)
    && decide (ts.length + k ≤ 32)
    && s.budgetOk core (k * n.groups.length * n.weight)

/-- A team fits on a core. -/
def State.fits (s : State) (core : Nat) (n : Need) : Bool := s.fitsN core n 1

/-- The same machine with some teams away: what room there would be. -/
def State.without (s : State) (us : List Nat) : State :=
  { s with x := { s.x with
    teams := s.x.teams.map fun t => if us.contains t.uid then { t with swapped := some 0 } else t } }

/-! Order of launches (R313) -/

/-- Priority of a queue (R311). -/
def queuePrio (q : Nat) : Nat := q / 4
/-- Priority of a launch. -/
def Launch.prio (l : Launch) : Nat := queuePrio l.queue

/-- A launch is Placing and may place (R287, R332, R378). -/
def State.mayPlace (s : State) (l : Launch) : Bool :=
  let c := s.ctx l.ctx
  l.state == .placing && l.held.isNone && !c.frozen && !c.halted && !c.saved && !s.b.fatal

/-- Turns before a launch is served (R313): its context's place in the rotation of its priority, then its queue's in the
rotation of its context. -/
def State.turn (s : State) (l : Launch) : Nat :=
  let c := (sget s.d.rot l.prio).getD 63
  let q := (sget s.d.rot (4 + 64 * l.prio + l.ctx)).getD 15
  16 * ((l.ctx + 63 - c) % 64) + (l.queue + 15 - q) % 16

/-- A launch comes before another at a placement decision (R313). -/
def State.ahead (s : State) (a b : Launch) : Bool :=
  decide (b.prio < a.prio) || (a.prio == b.prio && decide (s.turn a < s.turn b))

/-- The next cluster of a launch, with its curve position. -/
def Launch.next (l : Launch) : Option (Nat × Nat) :=
  if l.isReplay then (if l.placed == 0 then some (0, 0) else none)
  else l.clusterOrder[l.placed]?.map fun c => (c, l.placed)

/-- The die of a curve position in a deterministic launch (R317). -/
def Launch.die (l : Launch) (p : Nat) : Option Nat :=
  if lrDet l.record && !l.isReplay then some (4 * p / l.clusters) else none

/-- A core is reserved against a launch (R453). -/
def State.reservedFrom (s : State) (l : Launch) (core : Nat) : Bool :=
  s.d.launches.any fun k => k.uid != l.uid && k.state == .placing && decide (l.prio ≤ k.prio) && k.resv.contains core

/-- The legal rectangles of a launch's cluster on its die. -/
def Launch.rects (l : Launch) (p : Nat) : List (List Nat) :=
  (Machine.rects l.shape.1 l.shape.2).filter fun r => match l.die p with
    | some d => coreDie (r.headD 0) == d
    | none => true

/-- One cluster or tile job of a launch fits on the cores of a rectangle (R314, R332). -/
def State.rectFits (s : State) (l : Launch) (cluster : Nat) (r : List Nat) : Bool :=
  if l.tileJobs then r.all fun c => s.budgetOk c (eclassWeight (lrEclass l.record))
  else
    let n := l.need cluster
    r.all fun c => s.fits c n

/-- Where a launch's next cluster may be placed now. -/
def State.spots (s : State) (l : Launch) : List (List Nat) :=
  match l.next with
  | none => []
  | some (c, p) => (l.rects p).filter fun r => r.all (fun k => !s.reservedFrom l k) && s.rectFits l c r

/-- Largest number of teams of one need that a core takes, up to 32. -/
def State.capOf (s : State) (core : Nat) (n : Need) : Nat :=
  ((List.range 33).filter fun k => s.fitsN core n k).foldl max 0

/-- Clusters of a launch, each on one core, that a core takes: a tile job takes no more than its weight (R314, R332). -/
def State.roomOf (s : State) (l : Launch) (core : Nat) : Nat :=
  if l.tileJobs then ((s.h.cbudget.getD core 0#10).toNat - s.coreWeight core) / eclassWeight (lrEclass l.record)
  else s.capOf core (l.need 0)

/-- Clusters or tiles that a launch places in all (R307, R327); a replay is one team (R430). -/
def Launch.total (l : Launch) : Nat := if l.isReplay then 1 else l.clusters

/-- Single cores for `k` clusters within the capacities of the cores, the lowest first. -/
def packCores (cap : List Nat) (k : Nat) : Option (List (List Nat)) :=
  let r := cap.zipIdx.foldl (fun (a : Nat × List (List Nat)) c =>
    (a.1 - min c.1 a.1, a.2 ++ List.replicate (min c.1 a.1) [c.2])) (k, [])
  if r.1 == 0 then some r.2 else none

/-- A choice of rectangles for `k` clusters within the capacities of the cores, if there is one. -/
def packRects (cap : List Nat) : List (List Nat) → Nat → Option (List (List Nat))
  | [], k => if k == 0 then some [] else none
  | r :: rs, k =>
    let m := r.foldl (fun m c => min m (cap.getD c 0)) k
    (List.range (m + 1)).reverse.findSome? fun j =>
      let cap' := r.foldl (fun cs c => cs.modify c (· - j)) cap
      (packRects cap' rs (k - j)).map fun out => List.replicate j r ++ out

/-- Rectangles for every cluster of a launch at once, by curve position (R317, R320). -/
def State.packAll (s : State) (l : Launch) (ok : Nat → Bool) : Option (List (List Nat)) :=
  let cap := (List.range 144).map fun c => if ok c then s.roomOf l c else 0
  let pack (on : Nat → Bool) (k : Nat) : Option (List (List Nat)) :=
    let cap := cap.zipIdx.map fun c => if on c.2 then c.1 else 0
    if l.shape == (1, 1) then packCores cap k else packRects cap (Machine.rects l.shape.1 l.shape.2) k
  if lrDet l.record && !l.isReplay then
    (List.range 4).foldl (fun acc d =>
      match acc, pack (fun c => coreDie c == d) ((List.range l.total).filter fun p => l.die p == some d).length with
      | some a, some b => some (a ++ b)
      | _, _ => none) (some [])
  else pack (fun _ => true) l.total

/-- The launch is placed as a whole, whatever its kind (R320). -/
def Launch.coop (l : Launch) : Bool := lrCoop l.record

/-- A launch's next cluster fits now: with COOP, its whole grid at once (R320). -/
def State.nextFits (s : State) (l : Launch) : Bool :=
  if l.coop then (s.packAll l fun c => !s.reservedFrom l c).isSome
  else !(s.spots l).isEmpty

end Sys2Proof.Machine
end

