-- ==== Sys2Proof/Machine/Head.lean ====
section
/-! DEFINITION. A record at the head of its queue: the checks, the waits, and the tables and blocks that a launch reads on
entering Placing (R120, R121, R306 to R312, R325, R326, R382, R430, R431). -/

namespace Sys2Proof.Machine

/-! Checks of a record (R310) -/

/-- A pointer of a record is aligned. -/
def alignedTo (p : DWord) (n : Nat) : Bool := p.toNat % n == 0

/-- Least SAVESZ (R309). -/
def saveNeed (r : BitVec 4096) : Nat :=
  8192 + 16384 * lrAcc r + kib (lrScratch r) * 1024 + 32 * ((lrTeam r + 31) / 32) * (64 * lrRegm r + 64)

/-- Zero fields of a record (R306). -/
def lrZero (r : BitVec 4096) : Bool :=
  lrf r 1728 2368 == 0#2368 && lrf r 992 32 == 0#32 && lrf r 198 58 == 0#58 && lrf r 64 4 == 0#4

/-- Pointers of a record are aligned (R306, R308, R325). -/
def lrAligned (r : BitVec 4096) : Bool :=
  alignedTo (lrEntry r) 8 && alignedTo (lrFmttab r) 32 && alignedTo (lrTraph r) 8 && alignedTo (lrHandlers r) 32
    && alignedTo (lrHittab r) 32 && alignedTo (lrAux r) 64 && alignedTo (lrSave r) 256 && alignedTo (lrSpill r) 32
    && alignedTo (lrOsback r) 64 && alignedTo (lrSignal r) 8 && alignedTo (lrDetlog r) 32
    && (List.range 4).all fun i => alignedTo (lrWaitPtr r i) 8

/-- Ranges of a record (R306, R307, R309). -/
def lrRanges (r : BitVec 4096) : Bool :=
  decide (lrKind r < 4) && decide (1 ≤ lrTeam r) && decide (lrTeam r ≤ 1024) && decide (1 ≤ lrRegb r) && decide (lrRegb r ≤ 16)
    && decide (lrRegb r ≤ lrRegm r) && decide (lrRegm r ≤ 16) && decide (lrScratch r ≤ 4194304) && decide (lrAcc r ≤ 48)
    && legalShape (lrCrows r) (lrCcols r) && decide (1 ≤ lrGx r) && decide (1 ≤ lrGy r)
    && decide (lrGx r * lrGy r * (lrCrows r * lrCcols r) ≤ 2 ^ 32)
    && (lrSave r == 0#64 || (decide (saveNeed r ≤ lrSavesz r) && lrSavesz r % 256 == 0))

/-- What AUX and the kind ask of a record (R306, R310, R338, R430). -/
def lrKindOk (r : BitVec 4096) : Bool :=
  match lrKind r with
  | 0 => lrAux r == 0#64
  | 1 => lrAux r != 0#64
  | 2 => lrAux r != 0#64 && lrTeam r == 256 && lrCrows r == 1 && lrCcols r == 1
  | _ => lrAux r != 0#64 && lrDetlog r == 0#64

/-- One cluster of a record fits within the budgets in force on some rectangle (R310, R315). -/
def State.energyOk (s : State) (l : Launch) : Bool :=
  let w := eclassWeight (lrEclass l.record) * (if l.tileJobs || l.isReplay then 1 else l.groups)
  (rects l.shape.1 l.shape.2).any fun r => r.all fun c => decide (w ≤ (s.h.cbudget.getD c 0#10).toNat)

/-- The residency check (R320): every core is empty but for the teams of cooperative launches. -/
def State.residentOk (s : State) (l : Launch) : Bool :=
  let away := (s.x.teams.filter fun t => !((s.launch? t.launch).any fun k => k.coop)).map Team.uid
  let bare := s.without away
  let coop : State := { bare with
    x := { bare.x with
      groups := bare.x.groups.filter fun g => g.team.isSome
      threads := bare.x.threads.filter fun t => t.team.isSome }
    e := { bare.e with tiles := [] } }
  (coop.packAll l fun _ => true).isSome

/-- What the launch places is known only from the blocks that it reads on entering Placing: tiles, or a replay's threads
(R326, R431). -/
def Launch.sized (l : Launch) : Bool := l.tiled || l.isReplay

/-- The code with which a record is refused at the head of its queue (R310). -/
def State.headCode (s : State) (l : Launch) : Option Code :=
  let r := l.record
  if !(lrZero r && lrAligned r && lrRanges r && lrKindOk r) then some .illegalOperand
  else if !s.energyOk l then some .energyClass
  else if l.coop && !l.sized && !s.residentOk l then some .gridNotResident
  else none

/-- A launch leaves its queue without running (R382). -/
def State.rejectHead (s : State) (l : Launch) (c : Code) : State :=
  let s1 : State := { s with d := { s.d with
    launches := s.d.launches.filter fun k => k.uid != l.uid
    dfails := s.d.dfails.filter fun f => f.1 != l.uid } }
  (s1.setQueue l.ctx l.queue ((s1.queue l.ctx l.queue).filter fun q => q.uid != l.uid)).reject l.ctx l.queue l.ptr c

/-- A launch at the head of its queue, before its checks. -/
def mkLaunch (q : QRec) (ctx queue : Nat) : Launch :=
  { uid := q.uid, ctx := ctx, queue := queue, record := q.record, ptr := q.ptr, state := .waiting, checked := true,
    hitTab := [], msgTab := [], slots := [], ppb := 0#2048, placed := 0, ended := [], starve := 0, held := none, resv := [], wct := [],
    released := false, det := [0, 0, 0, 0], stallSince := none, stallFired := false, stallEnd := none, watched := [],
    traps := [],
    replay := none, digests := [] }

/-- LAUNCH_HEAD_CHECK (R310, R311): the record at the head of a queue is checked. -/
def execLaunchHeadCheck (ctx q : Nat) (s : State) : Out :=
  .next (match s.queue ctx q with
    | [] => s
    | h :: _ =>
      if (s.launch? h.uid).isSome then s
      else
        let l := mkLaunch h ctx q
        match s.headCode l with
        | some c => s.rejectHead l c
        | none => { s with d := { s.d with launches := s.d.launches ++ [l] } })

/-! Reads of the dispatcher (R308, R312) -/

/-- What a read of the dispatcher gives: bytes, a code, a page fault answered FAIL, or a wait for its service. -/
inductive DRead where
  | ok (bs : List Byte)
  | code (c : Code) (a : DWord)
  | failed (a : DWord) (c : PfCause)
  | wait
deriving DecidableEq, Repr

/-- A fault of a launch's own read lies in a range. -/
def inRange (p a : DWord) (n : Nat) : Bool := decide (ptrVa p ≤ ptrVa a) && decide (ptrVa a < ptrVa p + n)

/-- The dispatcher reads for a launch; a page fault is served (R403). -/
def State.dread (s : State) (l : Launch) (access : Nat) (p : DWord) (n : Nat) : State × DRead :=
  match s.d.dfails.find? fun f => f.1 == l.uid && inRange p f.2.1 n with
  | some f => (s, .failed f.2.1 f.2.2)
  | none =>
    let waits := s.h.faults.any fun f => f.waiters.any fun w => w.1 == .launch l.uid && inRange p w.2 n
    if waits then (s, .wait)
    else
      match s.engLoad 0 l.ctx 0#12 p n with
      | (s, .ok r) => (s, .ok r.1)
      | (s, .error (.code c a)) => (s, .code c a)
      | (s, .error (.fault c a)) => ((s.addFault l.ctx a c access 0 (.launch l.uid)).1, .wait)

/-- Several reads of a launch, in order. -/
def State.dreads (s : State) (l : Launch) (access : Nat) (ps : List (DWord × Nat)) : State × List DRead :=
  ps.foldl (fun a p =>
    let r := a.1.dread l access p.1 p.2
    (r.1, a.2 ++ [r.2])) (s, [])

/-! Waits (R312) -/

/-- The wait pairs of a record. -/
def lrWaits (r : BitVec 4096) : List (DWord × DWord) :=
  ((List.range 4).map fun i => (lrWaitPtr r i, lrWaitVal r i)).filter fun w => w.1 != 0#64

/-! Format slots (R120, R121) -/

/-- The entries of a permutation table. -/
def ptabOf (bs : List Byte) (n : Nat) : List (BitVec 16) :=
  (List.range n).map fun i => BitVec.ofNat 16 (leNat ((bs.drop (2 * i)).take 2))
/-- A table is a permutation of 0 to n − 1. -/
def isPerm (ps : List (BitVec 16)) : Bool := (List.range ps.length).all fun i => ps.contains (BitVec.ofNat 16 i)

/-- SCALEA and SCALEB of a slot record. -/
def slotScales (r : BitVec 256) : DWord × DWord := (r.extractLsb' 128 64, r.extractLsb' 64 64)

/-- An invalid slot (R121). -/
def Slot.bad : Slot := ⟨0#256, 0#256, 0#256, [], false⟩

/-- The fields of a slot record are admitted (R121). -/
def slotFieldsOk (r : BitVec 256) : Bool :=
  let sc := slotScales r
  match slotElem r with
  | none => false
  | some f =>
    r.extractLsb' 250 2 != 3#2 && r.extractLsb' 192 48 == 0#48 &&
      (if slotPerm r then decide (1 ≤ slotPlen r) && decide (slotPlen r ≤ 32) else slotPlen r == 0) &&
      !((f == .fp16 || f == .bf16) && (sc.1 != 0#64 || sc.2 != 0#64))

/-- A scale descriptor of a slot: what DLOAD would take, of KIND 1 and ESIZE 0 (R121, R208). -/
def scaleDesc (p : DWord) (d : DRead) : Option (BitVec 256) :=
  if p == 0#64 then some 0#256
  else
    match d with
    | .ok bs =>
      let r : BitVec 256 := BitVec.ofNat 256 (leNat bs)
      if p.toNat % 32 != 0 || descKind r != 1 || descEsize r != 0 then none else descAccept r
    | _ => none

/-- A format slot from its record (R121). -/
def State.loadSlot (s : State) (l : Launch) (r : BitVec 256) : State × Slot :=
  if !slotFieldsOk r then (s, Slot.bad)
  else
    let sc := slotScales r
    let read (s : State) (p : DWord) (n : Nat) : State × DRead := if p == 0#64 then (s, .ok []) else s.dread l 0 p n
    let a := read s sc.1 32
    let b := read a.1 sc.2 32
    let n := 128 * slotPlen r
    let p := if slotPerm r then b.1.dread l 0 (r.extractLsb' 0 64) (2 * n) else (b.1, .ok [])
    match scaleDesc sc.1 a.2, scaleDesc sc.2 b.2, p.2 with
    | some x, some y, .ok bs =>
      let tab := ptabOf bs n
      if slotPerm r && !isPerm tab then (p.1, Slot.bad) else (p.1, ⟨r, x, y, tab, true⟩)
    | _, _, _ => (p.1, Slot.bad)

/-- The format table of a launch (R120, R121). -/
def State.loadSlots (s : State) (l : Launch) : State × List Slot :=
  let t := lrFmttab l.record
  if t == 0#64 then (s, List.replicate 8 Slot.bad)
  else
    (List.range 8).foldl (fun (a : State × List Slot) i =>
      match a.1.dread l 0 (t + BitVec.ofNat 64 (32 * i)) 32 with
      | (s, .ok bs) =>
        let r := s.loadSlot l (BitVec.ofNat 256 (leNat bs))
        (r.1, a.2 ++ [r.2])
      | (s, _) => (s, a.2 ++ [Slot.bad])) (s, [])

/-! Tables (R308) and blocks (R326, R431) -/

/-- A handler or shader table: 16 entries, or none where it counts as empty. -/
def State.loadTable (s : State) (l : Launch) (p : DWord) : State × List (BitVec 256) :=
  if p == 0#64 then (s, [])
  else
    match s.dread l 0 p 512 with
    | (s, .ok bs) => (s, (List.range 16).map fun i => BitVec.ofNat 256 (leNat ((bs.drop (32 * i)).take 32)))
    | (s, _) => (s, [])

/-- An FP32 field of a PPB. -/
def ppbNum (p : BitVec 2048) (lo : Nat) : Num := fp32 (pf p lo 32)
/-- Log2 of the samples per pixel. -/
def ppbSpp (p : BitVec 2048) : Nat := (pf p 192 2).toNat
/-- Bytes of a visibility record. -/
def ppbRs (p : BitVec 2048) : Nat := if p.getLsbD 194 then 8 else 4
/-- PITCH. -/
def ppbPitch (p : BitVec 2048) : Nat := (pf p 128 32).toNat
/-- VBUF. -/
def ppbVbuf (p : BitVec 2048) : DWord := pf p 64 64
/-- ROOT. -/
def ppbRoot (p : BitVec 2048) : DWord := pf p 0 64
/-- INSTTAB. -/
def ppbInst (p : BitVec 2048) : DWord := pf p 960 64
/-- SHS. -/
def ppbShs (p : BitVec 2048) : Nat := (pf p 240 3).toNat

/-- A PPB passes the checks of R326. -/
def ppbOk (p : BitVec 2048) (kind : Nat) : Bool :=
  let ds := ppbNum p 352
  pf p 1024 1024 == 0#1024 && pf p 243 45 == 0#45 && pf p 206 2 == 0#2 && pf p 189 3 == 0#3 && pf p 173 3 == 0#3
    && decide (ppbShs p < 2 ^ ppbSpp p)
    && ppbPitch p % 64 == 0 && decide (ppbW p * 2 ^ ppbSpp p * ppbRs p ≤ ppbPitch p)
    && alignedTo (ppbVbuf p) 256 && alignedTo (ppbRoot p) 64 && alignedTo (ppbInst p) 8
    && !(kind == 2 && ppbInst p == 0#64)
    && !(p.getLsbD 194 && (ds.isNan || ds.isInf || ds.isZero || ds.neg?))
    && !(ppbNum p 288).isNan && !(ppbNum p 320).isNan

/-- PPB, CREC, CCOUNT, TRSIZE and TRBASE of a replay request (R431). -/
def rqPpb (r : BitVec 512) : DWord := r.extractLsb' 320 64
/-- CREC. -/
def rqCrec (r : BitVec 512) : DWord := r.extractLsb' 256 64
/-- CCOUNT. -/
def rqCcount (r : BitVec 512) : Nat := (r.extractLsb' 224 32).toNat
/-- TRSIZE. -/
def rqTrsize (r : BitVec 512) : Nat := (r.extractLsb' 192 32).toNat
/-- TRBASE. -/
def rqTrbase (r : BitVec 512) : DWord := r.extractLsb' 128 64
/-- ALLOWND. -/
def rqAllow (r : BitVec 512) : Bool := r.getLsbD 0

/-- The request of a replay is admitted (R430). -/
def rqOk (r : BitVec 512) : Bool :=
  r.extractLsb' 6 122 == 0#122 && r.extractLsb' 1 3 == 0#3 && rqKind r != 3 && alignedTo (rqTrbase r) 64
    && decide (128 ≤ rqTrsize r) && rqTrsize r % 64 == 0 && !(rqKind r != 0 && rqPpb r == 0#64)

/-- What reading a block for a launch gives: the block, a refusal, or a wait. -/
inductive Block (α : Type) where
  | ok (v : α)
  | refused
  | wait

/-- The bytes of a block that a launch must be able to read. -/
def DRead.block : DRead → Block (List Byte)
  | .ok bs => .ok bs
  | .wait => .wait
  | _ => .refused

/-- The PPB of a launch of tiles (R326). -/
def State.loadPpb (s : State) (l : Launch) : State × Block (BitVec 2048) :=
  if !l.tiled then (s, .ok 0#2048)
  else
    let r := s.dread l 0 (lrAux l.record) 256
    match r.2.block with
    | .ok bs =>
      let p : BitVec 2048 := BitVec.ofNat 2048 (leNat bs)
      (r.1, if ppbOk p (lrKind l.record) then .ok p else .refused)
    | .refused => (r.1, .refused)
    | .wait => (r.1, .wait)

/-- A replay before its first word. -/
def Replay.start (request : BitVec 512) (records : List (BitVec 512)) (ppb : BitVec 2048) : Replay :=
  { request := request, records := records, ppb := ppb, entries := 0, used := 0#8, missing := 0#8, finalPc := 0#64,
    full := false, dead := false, pendUsed := [], pendMiss := [], supplied := [], given := false, wset := [], pend := [],
    headerDone := false }

/-- The request, the records and the PPB of a replay (R430, R431). -/
def State.loadReplay (s : State) (l : Launch) : State × Block (Option Replay) :=
  if !l.isReplay then (s, .ok none)
  else
    let q := s.dread l 0 (lrAux l.record) 64
    match q.2.block with
    | .refused => (q.1, .refused)
    | .wait => (q.1, .wait)
    | .ok bs =>
      let r : BitVec 512 := BitVec.ofNat 512 (leNat bs)
      if !rqOk r then (q.1, .refused)
      else
        let c := if rqCcount r == 0 then (q.1, .ok []) else q.1.dread l 0 (rqCrec r) (64 * rqCcount r)
        let p := if rqKind r == 0 then (c.1, .ok []) else c.1.dread l 0 (rqPpb r) 256
        match c.2.block, p.2.block with
        | .wait, _ => (p.1, .wait)
        | _, .wait => (p.1, .wait)
        | .ok cs, .ok ps =>
          let recs := (List.range (rqCcount r)).map fun i => BitVec.ofNat 512 (leNat ((cs.drop (64 * i)).take 64))
          (p.1, .ok (some (Replay.start r recs (BitVec.ofNat 2048 (leNat ps)))))
        | _, _ => (p.1, .refused)

/-- The launch waits on a page fault of its own reads. -/
def State.launchWaits (s : State) (l : Launch) : Bool :=
  s.h.faults.any fun f => f.waiters.any fun w => w.1 == .launch l.uid

/-- LAUNCH_WAITS_HOLD (R308, R311, R312, R326, R431): the waits of the launch at the head of a queue are evaluated. Once
all hold it reads its tables and blocks and enters Placing; a wait, a PPB or a replay input that cannot be read rejects
it. -/
def execLaunchWaitsHold (ctx q : Nat) (s : State) : Out :=
  .next (match (s.queue ctx q).head?.bind fun h => s.launch? h.uid with
    | none => s
    | some l =>
      if l.state != .waiting || s.launchWaits l then s
      else
        let ws := lrWaits l.record
        let r := s.dreads l 0 (ws.map fun w => (w.1, 8))
        let bad (d : DRead) : Bool := match d with
          | .code _ _ => true
          | .failed _ _ => true
          | _ => false
        let holds (x : (DWord × DWord) × DRead) : Bool := match x.2 with
          | .ok bs => decide (x.1.2.toNat ≤ leNat bs)
          | _ => false
        if r.2.any bad then r.1.rejectHead l .illegalOperand
        else if r.2.any fun d => d == .wait then r.1
        else if !(ws.zip r.2).all holds then s
        else
          let h := r.1.loadTable l (lrHandlers l.record)
          let t := h.1.loadTable l (lrHittab l.record)
          let f := t.1.loadSlots l
          let p := f.1.loadPpb l
          let y := p.1.loadReplay l
          let s := y.1
          if s.launchWaits l then s
          else
            match p.2, y.2 with
            | .ok ppb, .ok rep =>
              let sized : Launch := { l with ppb := (rep.map Replay.ppb).getD ppb, replay := rep }
              if l.coop && l.sized && !s.residentOk sized then s.rejectHead l .gridNotResident
              else
              let s1 : State := { s with d := { s.d with dfails := s.d.dfails.filter fun f => f.1 != l.uid } }
              s1.updLaunch l.uid fun l =>
                { l with state := .placing, msgTab := h.2, hitTab := t.2, slots := f.2, ppb := (rep.map Replay.ppb).getD ppb, replay := rep,
                         starve := s.x.clk }
            | _, _ => s.rejectHead l .illegalOperand)

end Sys2Proof.Machine
end

