-- ==== Sys2Proof/Machine/Fuse.lean ====
section
/-! DEFINITION. Camera rays, visibility records, quads and their fusion (R327 to R331, R334 to R343). -/

namespace Sys2Proof.Machine

/-! Camera rays (R329) -/

/-- Sample offset of PAT, in pixels. -/
def ppbPat (p : BitVec 2048) (smp k : Nat) : Rat := ((pf p (448 + 16 * smp + 8 * k) 8).toNat : Rat) / 256

/-- The ray of a sample of a pixel (R329). -/
def camRay (p : BitVec 2048) (x y smp : Nat) : RayRegs :=
  let fx := Num.ofRat (x + ppbPat p smp 0)
  let fy := Num.ofRat (y + ppbPat p smp 1)
  let v (lo k : Nat) : Num := ppbNum p (lo + 32 * k)
  let step (lo k : Nat) : Word := toFp32 (Num.sum [v lo k, fx.mul (v 768 k), fy.mul (v 864 k)])
  let raw (lo k : Nat) : Word := pf p (lo + 32 * k) 32
  let o (k : Nat) : Word := if p.getLsbD 195 then step 576 k else raw 576 k
  let d (k : Nat) : Word := if p.getLsbD 195 then raw 672 k else step 672 k
  [o 0, o 1, o 2, pf p 288 32, d 0, d 1, d 2, pf p 320 32]

/-- What camera rays look for (R329): instance mask and culling. -/
def camFlags (p : BitVec 2048) : TravFlags := ⟨(pf p 198 8).toNat, p.getLsbD 196, p.getLsbD 197⟩

/-! Visibility records (R331) -/

/-- A visibility record: its two words, whether it is a hit, and its primitive and instance. -/
structure VisRec where
  w0   : Word
  w1   : Word
  hit  : Bool
  prim : Nat
  inst : Nat
deriving DecidableEq, Repr

/-- A record from its bytes. -/
def visOf (p : BitVec 2048) (bs : List Byte) : VisRec :=
  let n := leNat bs
  if p.getLsbD 194 then ⟨BitVec.ofNat 32 n, BitVec.ofNat 32 (n / 2 ^ 32), n != 2 ^ 64 - 1, n / 2 ^ 39 % 2 ^ 25, n / 2 ^ 19 % 2 ^ 20⟩
  else ⟨BitVec.ofNat 32 n, 0#32, n != 2 ^ 32 - 1, n / 2 ^ 7 % 2 ^ 25, n % 2 ^ 7⟩

/-- Address of the record of a sample of a pixel. -/
def visAddr (p : BitVec 2048) (x y smp : Nat) : DWord :=
  ppbVbuf p + BitVec.ofNat 64 (y * ppbPitch p + (x * 2 ^ ppbSpp p + smp) * ppbRs p)

/-- The bytes of a record of a hit, or of a miss. -/
def visBytes (p : BitVec 2048) (h : Option TriHit) : List Byte :=
  match h with
  | none => List.replicate (ppbRs p) 0xFF#8
  | some h =>
    if p.getLsbD 194 then
      let d := (fp32 (ratFp32 h.t)).mul (ppbNum p 352)
      natBytes 8 (h.prim * 2 ^ 39 + h.inst % 2 ^ 20 * 2 ^ 19 +
        (if d.isInf then 2 ^ 19 - 1 else min d.toRat.floor.toNat (2 ^ 19 - 1)))
    else natBytes 4 (h.prim * 2 ^ 7 + (if 127 ≤ h.inst then 127 else h.inst))

/-! Names (R343) -/

/-- The name of a camera ray or of a pixel-shading thread. -/
def pixelName (p : BitVec 2048) (prim inst x y smp : Nat) (kind : BitVec 3) (flags : BitVec 8) : BitVec 128 :=
  mkName (pf p 208 12) (pf p 220 6) (pf p 226 14) (BitVec.ofNat 20 inst) (BitVec.ofNat 25 prim) (BitVec.ofNat 13 x)
    (BitVec.ofNat 13 y) (BitVec.ofNat 3 smp) 0#5 0#6 kind flags

/-- The name of a thread of a KIND 0 launch (R30). -/
def computeName (team tid : Nat) : BitVec 128 :=
  mkName 0#12 0#6 0#14 (BitVec.ofNat 20 (team / 2 ^ 25)) (BitVec.ofNat 25 team) (BitVec.ofNat 13 tid)
    (BitVec.ofNat 13 (tid / 8192)) 0#3 0#5 0#6 0#3 0#8

/-! Quads (R338, R339) -/

/-- Why the threads of a quad cannot be formed: a page fault is being served, or the context freezes with a report. -/
inductive QStop where
  | wait
  | freeze (r : BitVec 512)

/-- The vertices of a leaf. -/
def leafVerts (leaf : List Byte) : List (List Word) := (List.range 3).map fun i => (List.range 3).map fun k => recWord leaf (3 * i + k)

/-- Two vertices of one leaf equal two of the other, bit for bit (R339). -/
def edgeTest (a b : List Byte) : Bool :=
  let va := leafVerts a
  let vb := leafVerts b
  let ps := (List.range 3).flatMap fun i => (List.range 3).filterMap fun j =>
    if va.getD i [] == vb.getD j [] then some (i, j) else none
  ps.any fun p => ps.any fun q => p.1 != q.1 && p.2 != q.2

/-- The normal of a leaf under an instance's NRM (R339), exactly; none where a value is not finite. -/
def leafNormal (node leaf : List Byte) : Option V3 := do
  let vert (i : Nat) : Option V3 := v3of (recNum leaf (3 * i)) (recNum leaf (3 * i + 1)) (recNum leaf (3 * i + 2))
  let v0 ← vert 0
  let v1 ← vert 1
  let v2 ← vert 2
  let n := v3cross (v3sub v1 v0) (v3sub v2 v0)
  let row (r : Nat) : Option V3 := v3of (recNum node (17 + 3 * r)) (recNum node (18 + 3 * r)) (recNum node (19 + 3 * r))
  let r0 ← row 0
  let r1 ← row 1
  let r2 ← row 2
  some (v3dot r0 n, v3dot r1 n, v3dot r2 n)

/-- `d ≥ c·√m`, exactly, with `m ≥ 0`. -/
def geRoot (d : Rat) (c : Num) (m : Rat) : Bool :=
  match c with
  | .nan => false
  | .inf n => n
  | .fin n q =>
    let c := if n then -q else q
    if 0 ≤ c then decide (0 ≤ d) && decide (c * c * m ≤ d * d) else decide (0 ≤ d) || decide (d * d ≤ c * c * m)

/-- The normal test of a pair (R339). -/
def normalTest (cosmin : Num) (a b : Option V3) : Bool :=
  match a, b with
  | some x, some y =>
    let xx := v3dot x x
    let yy := v3dot y y
    decide (xx ≠ 0) && decide (yy ≠ 0) && geRoot (v3dot x y) cosmin (xx * yy)
  | _, _ => false

/-- The depth test of a pair (R339). -/
def depthTest (drel : Num) (a b : Option Rat) : Bool :=
  match a, b with
  | some x, some y =>
    let d := Num.ofRat (if x < y then y - x else x - y)
    let r := drel.mul (Num.ofRat (if x < y then x else y))
    !r.isNan && !r.lt d
  | _, _ => false

/-- An instance node that quad fusion can use: Zero fields zero, its CHILD neither empty nor malformed (R333, R336). -/
def instOk (node : List Byte) : Bool :=
  let n := leNat node
  let c : DWord := recDWord node 6
  n / 2 ^ 832 == 0 && n / 2 ^ 532 % 16 == 0 && (match childRef c with
    | some (k, _, _) => k == 1 || k == 2
    | none => false)

/-- A leaf that quad fusion can use (R337). -/
def leafOk (leaf : List Byte) : Bool := leafZero leaf && leafPrim leaf != 0x1FFFFFF

/-- The depth of a member: its ray, formed again at its own pixel, meets the plane of its triangle (R272, R273, R339). -/
def memberDepth (p : BitVec 2048) (node leaf : List Byte) (x y : Nat) : Option Rat :=
  let ray := xformRay (camRay p x y (ppbShs p)) fun k => recNum node k
  (triSolve ray leaf).map fun h => h.1

/-- A quad's class once its leaves are read (R339): 1 FUSED, 2 SPLIT. -/
def fuseClass (p : BitVec 2048) (node : List Byte) (leaves : List (List Byte)) (prims : List Nat) (px : List (Nat × Nat)) :
    Nat :=
  let leaf (i : Nat) : List Byte := leaves.getD i []
  let depth (i : Nat) : Option Rat := memberDepth p node (leaf i) (px.getD i (0, 0)).1 (px.getD i (0, 0)).2
  let mesh := leaves.all fun l => recWord l 10 == recWord (leaf 0) 10
  let pair (q : Nat × Nat) : Bool :=
    prims.getD q.1 0 == prims.getD q.2 0 ||
      (edgeTest (leaf q.1) (leaf q.2) &&
        normalTest (ppbNum p 384) (leafNormal node (leaf q.1)) (leafNormal node (leaf q.2)) &&
        depthTest (ppbNum p 416) (depth q.1) (depth q.2))
  if instOk node && leaves.all leafOk && mesh && [(0, 1), (2, 3), (0, 2), (1, 3)].all pair then 1 else 2

/-- Reads of a quad's fusion tests: any other code makes it SPLIT, and a page fault is served (R339). -/
def State.fuseRead (s : State) (l : Launch) (p : DWord) (n al : Nat) : State × Except QStop (Option (List Byte)) :=
  if p.toNat % al != 0 then (s, .ok none)
  else
    match s.dread l 8 p n with
    | (s, .ok bs) => (s, .ok (some bs))
    | (s, .code _ _) => (s, .ok none)
    | (s, .failed a c) => (s, .error (.freeze (bareReport (s.now 0) l.ctx (faultCause c a true))))
    | (s, .wait) => (s, .error .wait)

/-- The class of a quad from the records of its members (R339): 0 WHOLE, 1 FUSED, 2 SPLIT. -/
def State.classify (s : State) (l : Launch) (ppb : BitVec 2048) (rs : List VisRec) (px : List (Nat × Nat)) :
    State × Except QStop Nat :=
  let r0 := rs.getD 0 ⟨0#32, 0#32, false, 0, 0⟩
  if rs.all fun r => r.w0 == r0.w0 && r.w1 == r0.w1 then (s, .ok 0)
  else if !(rs.all fun r => r.hit && r.inst == r0.inst) || (!ppb.getLsbD 194 && r0.inst == 127) then (s, .ok 2)
  else
    match s.fuseRead l (ppbInst ppb + BitVec.ofNat 64 (8 * r0.inst)) 8 8 with
    | (s, .error e) => (s, .error e)
    | (s, .ok none) => (s, .ok 2)
    | (s, .ok (some tab)) =>
      match s.fuseRead l (leWord tab) 128 64 with
      | (s, .error e) => (s, .error e)
      | (s, .ok none) => (s, .ok 2)
      | (s, .ok (some node)) =>
        let base := recDWord node 7
        let out := rs.foldl (fun (a : State × Except QStop (Option (List (List Byte)))) r =>
          match a.2 with
          | .ok (some ls) =>
            match a.1.fuseRead l (base + BitVec.ofNat 64 (48 * r.prim)) 48 16 with
            | (s, .ok (some b)) => (s, .ok (some (ls ++ [b])))
            | (s, .ok none) => (s, .ok none)
            | (s, .error e) => (s, .error e)
          | _ => a) (s, .ok (some []))
        match out with
        | (s, .error e) => (s, .error e)
        | (s, .ok none) => (s, .ok 2)
        | (s, .ok (some ls)) => (s, .ok (fuseClass ppb node ls (rs.map VisRec.prim) px))

/-- What a pixel-shading thread starts with: its V0 to V5, its name, and whether it is a helper (R338, R340, R343). -/
structure PixelStart where
  tix    : Nat
  v      : List Word
  name   : BitVec 128
  helper : Bool

/-- The start of a member of a quad. -/
def pixelStart (ppb : BitVec 2048) (tix cls : Nat) (px : Nat × Nat) (helper : Bool) (r : VisRec) : PixelStart :=
  let v4 := cls + (if helper then 4 else 0) + (if r.hit then 8 else 0)
  let flags : BitVec 8 := (if helper then 2#8 else 0#8) ||| (if cls == 1 then 16#8 else 0#8)
  { tix := tix
    v := [r.w0, r.w1, BitVec.ofNat 32 px.1, BitVec.ofNat 32 px.2, BitVec.ofNat 32 v4, BitVec.ofNat 32 (ppbShs ppb)]
    name := pixelName ppb r.prim r.inst px.1 px.2 (ppbShs ppb) (if helper then 4#3 else 1#3) flags
    helper := helper }

/-- The report of a visibility record that cannot be read (R340). -/
def State.visReport (s : State) (l : Launch) (core tile i : Nat) (c : Cause) : BitVec 512 :=
  let px := tilePixel (tile % l.gx) (tile / l.gx) i
  let sl := i / 32 % 8
  let used := (s.x.groups.filter fun g => g.core == core && g.slice == sl && s.resident g).map Group.slot
  let slot := ((List.range 8).find? fun k => !used.contains k).getD 0
  mkReport (s.formName l.ctx (pixelName l.ppb 0x1FFFFFF 0xFFFFF px.1 px.2 (ppbShs l.ppb) 1#3 0#8)) 0#64 c.addr 0#64 (s.now (coreDie core)) c
    core sl (i % 32) slot l.ctx 0 true (BitVec.ofNat 32 tile) i

/-- The records of the on-screen members of a quad, helpers taking that of the (0, 0) member (R338, R340). -/
def State.quadRecs (s : State) (l : Launch) (core tile q : Nat) : State × Except QStop (List VisRec) :=
  let px (k : Nat) : Nat × Nat := tilePixel (tile % l.gx) (tile / l.gx) (4 * q + k)
  (List.range 4).foldl (fun (a : State × Except QStop (List VisRec)) k =>
    match a.2 with
    | .error _ => a
    | .ok rs =>
      if !onScreen l.ppb (px k) then (a.1, .ok (rs ++ [rs.headD ⟨0#32, 0#32, false, 0, 0⟩]))
      else
        let p := visAddr l.ppb (px k).1 (px k).2 (ppbShs l.ppb)
        let stop (s : State) (c : Cause) : State × Except QStop (List VisRec) :=
          (s, .error (.freeze (s.visReport l core tile (4 * q + k) c)))
        match a.1.dread l 8 p (ppbRs l.ppb) with
        | (s, .ok bs) => (s, .ok (rs ++ [visOf l.ppb bs]))
        | (s, .code c _) => stop s ⟨c, 0#8, p, true, false⟩
        | (s, .failed _ c) => stop s ⟨.pageFault, c.val, p, true, false⟩
        | (s, .wait) => (s, .error .wait)) (s, .ok [])

/-- The threads of a tile's team (R338 to R340). -/
def State.pixelTeam (s : State) (l : Launch) (core tile : Nat) : State × Except QStop (List PixelStart) :=
  let quads := (List.range 64).filter fun q => (l.members tile).contains (4 * q)
  quads.foldl (fun (a : State × Except QStop (List PixelStart)) q =>
    match a.2 with
    | .error _ => a
    | .ok ts =>
      match a.1.quadRecs l core tile q with
      | (s, .error e) => (s, .error e)
      | (s, .ok rs) =>
        let px := (List.range 4).map fun k => tilePixel (tile % l.gx) (tile / l.gx) (4 * q + k)
        match s.classify l l.ppb rs px with
        | (s, .error e) => (s, .error e)
        | (s, .ok c) =>
          let mk (k : Nat) : PixelStart :=
            pixelStart l.ppb (4 * q + k) c (px.getD k (0, 0)) (!onScreen l.ppb (px.getD k (0, 0)))
              (rs.getD k ⟨0#32, 0#32, false, 0, 0⟩)
          (s, .ok (ts ++ (List.range 4).map mk))) (s, .ok [])

end Sys2Proof.Machine
end

