-- ==== Sys2Proof/Machine/Place.lean ====
section
/-! DEFINITION. New teams (R28, R30, R43, R70, R71, R307, R318). -/

namespace Sys2Proof.Machine

/-- How a thread of a new team starts: its index, V registers, name, kind and whether it is a helper. -/
structure Start where
  tix    : Nat
  v      : List Word
  name   : BitVec 128
  kind   : ThreadKind
  helper : Bool

/-- The threads of a team of a KIND 0 launch (R30). -/
def Launch.computeStarts (l : Launch) (logical : Nat) : List Start :=
  (List.range (lrTeam l.record)).map fun i => ⟨i, [], computeName logical i, .team, false⟩

/-- The threads of a tile's team (R340). -/
def pixelStarts (ps : List PixelStart) : List Start := ps.map fun p => ⟨p.tix, p.v, p.name, .team, p.helper⟩

/-- Team registers at team start (R307): W2 and W3 are the tile counts for KIND 2 and the record's fields otherwise. -/
def Launch.wStart (l : Launch) : List Word :=
  let a := lrArgs l.record
  let n : Nat × Nat := if l.isReplay then (lrGx l.record, lrGy l.record) else (l.gx, l.gy)
  [a.extractLsb' 0 32, a.extractLsb' 32 32, BitVec.ofNat 32 n.1, BitVec.ofNat 32 n.2, BitVec.ofNat 32 l.cs] ++
    List.replicate 59 0#32

/-- Adds the groups of a team on a core, each in the lowest free slot of its slice (R28). -/
def State.addGroups (s : State) (core team lid : Nat) (weight : Nat) (ords : List Nat) : State :=
  ords.foldl (fun s g =>
    let u := s.x.nextUid
    let slot := (s.freeSlot core (g % 8)).getD 0
    let grp : Group := ⟨u, core, g % 8, slot, g, some team, lid, weight, 0, false, 0, false⟩
    { s with x := { s.x with nextUid := u + 1, groups := s.x.groups ++ [grp] } }) s

/-- Adds the threads of a team; their names are matched against the watches as they are formed (R344), but for those of a
replay (R433). -/
def State.addThreads (s : State) (l : Launch) (core team : Nat) (sts : List Start) : State :=
  sts.foldl (fun s st =>
    let u := s.x.nextUid
    let g := s.x.groups.find? fun g => g.team == some team && g.ordinal == st.tix / 32
    let name := if l.isReplay then st.name else s.formName l.ctx st.name
    let t := (mkThread u core (st.tix / 32 % 8) (st.tix % 32) ((g.map Group.slot).getD 0) ((g.map Group.uid).getD 0)
      (some team) st.tix l.uid l.ctx st.kind (lrRegb l.record) (lrEntry l.record) name).setRun 0 st.v
    let th : Thread := { t with helper := st.helper }
    { s with x := { s.x with nextUid := u + 1, threads := s.x.threads ++ [th] } }) s

/-- A team is placed on a core (R28, R43, R71, R307, R314): the result names it. -/
def State.placeTeam (s : State) (l : Launch) (core cluster rank : Nat) (sts : List Start) (shadowOf : Option Nat) :
    State × Nat :=
  let u := s.x.nextUid
  let tm : Team :=
    { uid := u, launch := l.uid, ctx := l.ctx, core := core, logical := l.cs * cluster + rank, cluster := cluster,
      rank := rank, size := l.teamSize cluster, w := l.wStart, k := List.replicate 16 ConvReg.zero,
      d := List.replicate 32 0#256, tiles := List.replicate (lrAcc l.record) [], tpoison := [], spad := [],
      ssize := 1024 * kib (lrScratch l.record), spoison := [], pend := [], digest := 0#256, stream := [], spilled := [],
      swapped := none, left := 0, latch := none, spillTrap := false, shadowOf := shadowOf, isolated := [], since := s.x.clk,
      stopping := false }
  let s1 : State := { s with x := { s.x with nextUid := u + 1, teams := s.x.teams ++ [tm] } }
  let s2 := (s1.addGroups core u l.uid (eclassWeight (lrEclass l.record)) l.ordinals).addThreads l core u sts
  ((s2.raiseDivision core).shrinkL1 core, u)

/-! Sampling (R318) -/

/-- A logical team is sampled. -/
def Launch.sampled (l : Launch) (logical : Nat) : Bool :=
  lrDet l.record && (sha3 (natBytes 8 (lrSeed l.record).toNat ++ natBytes 4 logical)).extractLsb' 0 10 == 0#10

/-- The core on which a shadow of a team is placed: one of another die where there is one, the lowest index first. -/
def State.shadowCore (s : State) (l : Launch) (core cluster : Nat) : Option Nat :=
  let n := l.need cluster
  let all := List.range 144
  let far := all.filter fun c => coreDie c != coreDie core
  let near := all.filter fun c => coreDie c == coreDie core
  (far ++ near).find? fun c => !s.reservedFrom l c && s.fits c n

/-- The sampled teams of a cluster get their shadows, or are skipped where no core admits one (R318). -/
def State.addShadows (s : State) (l : Launch) (cluster : Nat) (sts : Nat → List Start) (tms : List (Nat × Nat × Nat)) : State :=
  tms.foldl (fun s t =>
    let logical := l.cs * cluster + t.1
    if !l.sampled logical then s
    else
      let s := s.updLaunch l.uid fun l => l.detAdd 0
      match s.shadowCore l t.2.1 cluster with
      | none => s.updLaunch l.uid fun l => l.detAdd 3
      | some c => (s.placeTeam l c cluster t.1 (sts t.1) (some t.2.2)).1) s

/-- A cluster is placed on the cores of a rectangle, all of its teams at once (R314); `sts` gives the threads of a rank. The
result names the teams: rank, core and uid. -/
def State.placeOn (s : State) (l : Launch) (cluster : Nat) (sts : Nat → List Start) (r : List Nat) :
    State × List (Nat × Nat × Nat) :=
  r.zipIdx.foldl (fun (a : State × List (Nat × Nat × Nat)) c =>
    let p := a.1.placeTeam l c.1 cluster c.2 (sts c.2) none
    (p.1, a.2 ++ [(c.2, c.1, p.2)])) (s, [])

/-- Clusters are placed at one moment, each on its rectangle, and then the shadows of their sampled teams on what room is left
(R314, R318, R320). -/
def State.placeAll (s : State) (l : Launch) (cs : List (Nat × List Nat)) (sts : Nat → Nat → List Start) : State :=
  let out := cs.foldl (fun (a : State × List (Nat × List (Nat × Nat × Nat))) c =>
    let p := a.1.placeOn l c.1 (sts c.1) c.2
    (p.1, a.2 ++ [(c.1, p.2)])) (s, [])
  out.2.foldl (fun s c => s.addShadows l c.1 (sts c.1) c.2) out.1

end Sys2Proof.Machine
end

