-- ==== Sys2Proof/Machine/Preempt.lean ====
section
/-! DEFINITION. Pre-emption, swapping and restoring of teams (R27, R51, R253, R313, R321 to R324, R351, R384 to R388,
R453). -/

namespace Sys2Proof.Machine

/-! What may stay in flight across a pre-emption (R385) -/

/-- A flight that is saved with its team (R385): a wait in a monitor, a section, a barrier or a convergence set, a
SLEEPN, a SHADOW that the unit has accepted, and the waits that are abandoned. -/
def Flight.savable (f : Flight) (t : Thread) : Bool :=
  match f.op with
  | .waitc .. => t.status == .parkedMon
  | .osenter .. => t.status == .parkedSec
  | .sleep _ => true
  | .bar _ begun => begun
  | .matrix _ => match t.status with
    | .held (.matrix _ _) => true
    | _ => false
  | .shadow _ => f.posted
  | .trwait _ _ => true
  | .collw _ _ begun => !begun
  | .waitk _ _ _ => true
  | _ => false

/-- A wait of R385 that pre-emption abandons: TRWAIT or COLLW of a thread at a boundary, or a WAITK that holds its
thread. -/
def Flight.abandoned (f : Flight) (t : Thread) : Bool :=
  match f.op with
  | .trwait _ _ => t.status == .boundary
  | .collw _ _ begun => !begun && t.status == .boundary
  | .waitk _ _ _ => t.status == .boundary || (match t.status with
    | .held (.waitk _ _) => true
    | _ => false)
  | _ => false

/-- Nothing keeps a team from being saved (R322, R384, R385): its threads stand at boundaries, what must complete has
completed, and its copies and passes have ended. -/
def State.canSave (s : State) (tm : Team) : Bool :=
  let ts := s.x.threads.filter fun t => t.team == some tm.uid
  let us := ts.map Thread.uid
  (ts.all fun t => t.status != .issued && !t.freshTrap &&
    (s.x.flights.filter fun f => f.thread == t.uid).all fun f => f.savable t)
    && !(s.e.copies.any fun k => us.contains k.thread) && !(s.e.passes.any fun p => p.team == tm.uid)

/-- The waits of a thread that pre-emption abandons: the thread stands at the first of them, to issue it again (R385). -/
def State.abandonWaits (s : State) (u : Nat) : State :=
  match s.thread? u with
  | none => s
  | some t =>
    if t.trap.isSome then s
    else
      match s.x.flights.filter fun f => f.thread == u && f.abandoned t with
      | [] => s
      | f :: fs =>
        let s := (f :: fs).foldl (fun s g => s.finish g) s
        s.updThread u fun t =>
          { t with pc := f.site.pc, hdr := f.site.hdr, count := f.site.count, mid := true, status := .boundary }

/-- A team leaves its core for its save area (R253, R309, R322). The scratchpad of its core stays as large as it is, for no team
has ended (R70). The dirty bytes of its context leave the core with it: wherever it is restored, its threads read their own
stores there, and their releases reach them (R83, R94). DEDUCED (log 75). -/
def State.saveTeam (s : State) (tm : Team) : State :=
  let us := (s.x.threads.filter fun t => t.team == some tm.uid).map Thread.uid
  let s := us.foldl State.abandonWaits s
  let latch := match sget s.e.latches tm.core with
    | some (o, k, rows) => if o == tm.uid then some (k, rows) else none
    | none => none
  let stamp := s.x.nextUid
  let s1 : State := { s with
    x := { s.x with nextUid := stamp + 1 }
    e := { s.e with
      latches := if latch.isSome then sdel s.e.latches tm.core else s.e.latches
      rays := s.e.rays.map fun r => if us.contains r.thread && r.stage == .flying then { r with restart := true } else r } }
  let s2 := s1.updTeam tm.uid fun t =>
    { t with swapped := some stamp, left := s.now (coreDie tm.core), latch := latch, stopping := false, since := s.x.clk }
  let s2 := (s2.releaseCore tm.core tm.ctx).1
  match s.launch? tm.launch with
  | none => s2
  | some l =>
    (s2.areaWrite tm.core tm.ctx (lrSave l.record + BitVec.ofNat 64 (tm.logical * lrSavesz l.record)) (lrSavesz l.record)).1

/-- The teams that are pre-empted with a team: a cooperative launch's all together (R320). -/
def State.together (s : State) (tm : Team) : List Team :=
  if (s.launch? tm.launch).any fun l => l.coop then
    s.x.teams.filter fun t => t.launch == tm.launch && t.shadowOf.isNone && t.swapped.isNone
  else [tm]

/-- A team may be pre-empted (R321, R388): its launch has a save area, and it is no shadow, which has none. -/
def State.savable (s : State) (tm : Team) : Bool :=
  tm.swapped.isNone && tm.shadowOf.isNone && (s.launch? tm.launch).any fun l => lrSave l.record != 0#64

/-- The Couching-buffer entries of a team fit its spill area (R322, R387). -/
def State.spillFits (s : State) (tm : Team) : Bool := (s.spillTeam tm).2

/-- A pre-emption of a team is asked for; one whose couched entries do not fit runs on to its next flush point (R387). -/
def State.askPreempt (s : State) (tm : Team) : State :=
  if s.savable tm && (s.together tm).all s.spillFits then
    (s.together tm).foldl (fun s t => s.updTeam t.uid fun t => { t with stopping := true }) s
  else s

/-- PREEMPT_TEAM (R322): a team that has been asked to stop is saved once nothing keeps it, with the rest of a cooperative
launch. If its spill area cannot hold its couched entries it runs on; for CTXSAVE it raises COUCH_SPILL_FULL (R387). -/
def execPreemptTeam (team : Nat) (s : State) : Out :=
  .next (match s.team? team with
    | none => s
    | some tm =>
      let ts := s.together tm
      if !tm.stopping || !ts.all s.canSave then s
      else if !ts.all s.spillFits then
        let s1 := ts.foldl (fun s t => s.updTeam t.uid fun t => { t with stopping := false }) s
        if (s.ctx tm.ctx).saved then
          (ts.filter fun t => !s.spillFits t).foldl (fun s t => s.couchTrap t) s1
        else s1
      else
        ts.foldl (fun s t =>
          match s.team? t.uid with
          | none => s
          | some t =>
            let s := (s.spillTeam t).1
            match s.team? t.uid with
            | some t => s.saveTeam t
            | none => s) s)

/-! Restoring (R27, R313, R324) -/

/-- A thread of a swapped team could go on once restored (R51, R324). -/
def State.wakes (s : State) (t : Thread) : Bool :=
  if t.trap.any fun r => r.handler.isSome then false
  else
  match t.status with
  | .exited => false
  | .parkedMem _ => t.fail.isSome
  | .held (.matrix _ _) => true
  | .held _ => false
  | .parkedMon => s.x.flights.any fun f => f.thread == t.uid && (s.wokenOf f.uid).isSome
  | .parkedSec => s.x.flights.any fun f => f.thread == t.uid && (match f.op with
    | .osenter _ _ _ g => g
    | _ => false)
  | _ => true

/-- A swapped team may be restored (R287, R324, R378): a wake-up of it has been recorded, or it is Ready. A context that HALT has
marked places no further team; that a team of it that was placed before is restored all the same is a DESIGN CHOICE (log 77). -/
def State.restorable (s : State) (tm : Team) : Bool :=
  let c := s.ctx tm.ctx
  tm.swapped.isSome && !c.saved && !c.frozen && s.x.threads.any fun t => t.team == some tm.uid && s.wakes t

/-- The slots that a swapped team held on its core are free (R27). -/
def State.ownSlotsFree (s : State) (tm : Team) : Bool :=
  (s.x.groups.filter fun g => g.team == some tm.uid).all fun g =>
    !(s.x.groups.any fun k => k.core == g.core && k.slice == g.slice && k.slot == g.slot && s.resident k)

/-- A swapped team fits on a core: on its own only in the positions it had (R27), under DET on its die (R317), and only where
device time has come as far as it had when the team left (R24). -/
def State.restoreFits (s : State) (tm : Team) (core : Nat) : Bool :=
  decide (core < 144) && s.fits core (s.needOf tm) && (core != tm.core || s.ownSlotsFree tm)
    && decide (tm.left ≤ s.now (coreDie core)) &&
    (match s.launch? tm.launch with
      | some l => !s.reservedFrom l core && (!lrDet l.record || coreDie core == coreDie tm.core)
      | none => true)

/-- Priority of a team's launch. -/
def State.teamPrio (s : State) (tm : Team) : Nat := ((s.launch? tm.launch).map Launch.prio).getD 0

/-- A team that may be restored too was swapped before it: swapped teams have one order (R324). -/
def State.restoreBefore (s : State) (tm : Team) : Bool :=
  s.x.teams.any fun k => k.uid != tm.uid && s.restorable k && decide (k.swapped.getD 0 < tm.swapped.getD 0)

/-- Core clocks for which the next cluster of a launch has not fitted. -/
def State.starved (s : State) (l : Launch) : Nat := (s.x.clk - l.starve) / 2

/-- Work of a launch's priority and context that left the cores at a clock has made room for a Placing launch: by priority
(R321), or by time slicing (R351), where that launch has waited since then. -/
def State.madeRoomFor (s : State) (prio ctx left : Nat) (k : Launch) : Bool :=
  s.mayPlace k && ((decide (prio < k.prio) && decide (8192 ≤ s.starved k)) ||
    (k.ctx != ctx && (s.ctx k.ctx).enabled && (s.ctx ctx).tslice != 0 && decide (k.starve ≤ left)))

/-- A team takes up its state on a core (R27, R253, R324): on its own in the slots it had. On another core its threads' clean
copies there are dropped, for they may be older than what they have read (R83; log 75). A saved A latch takes the place of one
that another team holds on the core: DESIGN CHOICE (log 78). -/
def State.restoreOn (s : State) (tm : Team) (core : Nat) : State :=
  let gs := (s.x.groups.filter fun g => g.team == some tm.uid).map Group.uid
  let s1 := gs.foldl (fun s u =>
    match s.group? u with
    | none => s
    | some g =>
      let slot := if core == tm.core then g.slot else (s.freeSlot core g.slice).getD 0
      let s := s.updGroup u fun g => { g with core := core, slot := slot }
      s.mapThreads fun t => if t.group == u then { t with core := core, slot := slot } else t) s
  let s2 := s1.updTeam tm.uid fun t => { t with core := core, swapped := none, latch := none, since := s.x.clk }
  let s3 : State := match tm.latch with
    | some l => { s2 with e := { s2.e with latches := sput s2.e.latches core (tm.uid, l.1, l.2) } }
    | none => s2
  let s3 := if core == tm.core then s3 else s3.refresh core tm.ctx
  let s4 := (s3.raiseDivision core).shrinkL1 core
  ((List.range 16).foldl (fun s k => s.kTry tm.uid k []) s4).failKept tm.uid

/-- Restores the other teams of a cooperative launch on the lowest cores with room, or none of them. -/
def State.restoreRest (s : State) (tms : List Team) : Option State :=
  tms.foldl (fun a t =>
    match a with
    | none => none
    | some s => ((List.range 144).find? fun c => s.restoreFits t c).map fun c => s.restoreOn t c) (some s)

/-- RESTORE_TEAM (R313, R324): a swapped team that may be restored takes up its state on a core with room, in the order
of swapping; a cooperative launch's all together (R320). -/
def execRestoreTeam (team core : Nat) (s : State) : Out :=
  .next (match s.team? team with
    | none => s
    | some tm =>
      if !s.restorable tm || !s.restoreFits tm core || s.restoreBefore tm then s
      else if (s.launch? tm.launch).any fun l => l.coop then
        let rest := s.x.teams.filter fun t => t.launch == tm.launch && t.uid != tm.uid && t.shadowOf.isNone
        if rest.all fun t => t.swapped.isSome then ((s.restoreOn tm core).restoreRest rest).getD s else s
      else s.restoreOn tm core)

/-! Why teams are pre-empted (R321, R323, R351, R453) -/

/-- PLACEMENT_RESERVATION (R453): a cluster that has not fitted for 65,536 core clocks reserves the rectangle whose cores
hold the fewest teams. -/
def execPlacementReservation (lid : Nat) (s : State) : Out :=
  .next (match s.launch? lid with
    | none => s
    | some l =>
      match l.next with
      | none => s
      | some (_, p) =>
        if l.state != .placing || !l.resv.isEmpty || s.nextFits l || s.starved l < 65536 then s
        else
          let free (r : List Nat) : Bool := r.all fun c => !(s.d.launches.any fun k =>
            k.uid != lid && decide (l.prio ≤ k.prio) && k.resv.contains c)
          let count (r : List Nat) : Nat := (r.map fun c => (s.teamsOn c).length).sum
          let best := ((l.rects p).filter free).foldl (fun a r => match a with
            | none => some r
            | some b => if count r < count b then some r else some b) (none : Option (List Nat))
          match best with
          | none => s
          | some r =>
            let yield (k : Launch) : Launch :=
              if k.uid != lid && decide (k.prio < l.prio) && k.resv.any (fun c => r.contains c) then { k with resv := [] } else k
            let s : State := { s with d := { s.d with launches := s.d.launches.map yield } }
            s.updLaunch lid fun l => { l with resv := r })

/-- The teams on a core that a launch may pre-empt, the lowest priority first (R321). -/
def State.victims (s : State) (l : Launch) (core : Nat) : List Team :=
  let ts := (s.teamsOn core).filter fun t => s.savable t && decide (s.teamPrio t < l.prio)
  (List.range 4).flatMap fun p => ts.filter fun t => s.teamPrio t == p

/-- The teams whose pre-emption makes room for a cluster on a core: the fewest, the lowest priority first; none where
even all of them do not. -/
def State.coreVictims (s : State) (l : Launch) (cluster core : Nat) : Option (List Nat) :=
  let vs := (s.victims l core).map Team.uid
  ((List.range (vs.length + 1)).find? fun k => (s.without (vs.take k)).rectFits l cluster [core]).map fun k => vs.take k

/-- The rectangle that needs the fewest teams pre-empted for a cluster, ties to the lowest core index, with those teams. -/
def State.rectVictims (s : State) (l : Launch) (cluster p : Nat) : Option (List Nat × List Nat) :=
  let options := ((l.rects p).filter fun r => r.all fun k => !s.reservedFrom l k).filterMap fun r =>
    (r.foldl (fun a k => match a, s.coreVictims l cluster k with
      | some us, some vs => some (us ++ vs)
      | _, _ => none) (some ([] : List Nat))).map fun us => (r, us)
  options.foldl (fun a r => match a with
    | none => some r
    | some b => if r.2.length < b.2.length then some r else some b) none

/-- The teams whose pre-emption makes room for the whole grid of a cooperative launch, the lowest priority first, none of
them without need (R320). -/
def State.gridVictims (s : State) (l : Launch) : Option (List Nat) :=
  let vs := ((List.range 144).flatMap (s.victims l)).map fun t => (s.teamPrio t, t.uid)
  let us := (List.range 4).flatMap fun p => (vs.filter fun v => v.1 == p).map Prod.snd
  let fits (us : List Nat) : Bool := (s.without us).nextFits l
  ((List.range (us.length + 1)).find? fun k => fits (us.take k)).map fun k =>
    (us.take k).reverse.foldl (fun us u => if fits (us.filter (· != u)) then us.filter (· != u) else us) (us.take k)

/-- Tile jobs of launches of lower priority are away: each finishes, and no further tile comes (R332). -/
def State.withoutTiles (s : State) (prio : Nat) : State :=
  { s with e := { s.e with
    tiles := s.e.tiles.filter fun k => !((s.launch? k.launch).any fun l => decide (l.prio < prio)) } }

/-- KIND 1 launches are pre-empted by way of their tile jobs (R332). -/
def State.holdTiles (s : State) (hit : Tile → Launch → Bool) : State :=
  { s with d := { s.d with
    launches := s.d.launches.map fun l =>
      if l.tileJobs && l.held.isNone && s.e.tiles.any (fun k => k.launch == l.uid && hit k l) then { l with held := some s.x.clk }
      else l } }

/-- Pre-empted KIND 1 launches are restored once no launch is left for which they have made room (R332). -/
def State.freeTiles (s : State) : State :=
  { s with d := { s.d with
    launches := s.d.launches.map fun l =>
      match l.held with
      | none => l
      | some c => if s.d.launches.any (s.madeRoomFor l.prio l.ctx c) then l else { l with held := none } } }

/-- Pre-emption of several teams is asked for. -/
def State.askAll (s : State) (us : List Nat) : State :=
  us.foldl (fun s u => match s.team? u with
    | some t => if t.stopping then s else s.askPreempt t
    | none => s) s

/-- PRIORITY_PREEMPT (R321, R332): a cluster that has not fitted for 8192 core clocks pre-empts work of lower priority: the
teams on the rectangle that needs the fewest, ties to the lowest core index, and the launches with tile jobs there; for a
cooperative launch, what its whole grid needs (R320). -/
def execPriorityPreempt (lid : Nat) (s : State) : Out :=
  .next (match s.launch? lid with
    | none => s
    | some l =>
      match l.next with
      | none => s
      | some (c, p) =>
        if !s.mayPlace l || s.nextFits l || s.starved l < 8192 then s
        else
          let going := (s.x.teams.filter fun t => t.stopping).map Team.uid
          let bare := (s.without going).withoutTiles l.prio
          let best := if l.coop then (bare.gridVictims l).map fun us => (List.range 144, us) else bare.rectVictims l c p
          match best with
          | none => s
          | some (r, us) => (s.holdTiles fun k m => r.contains k.core && decide (m.prio < l.prio)).askAll us)

/-- A team is swappable (R323). -/
def State.swappable (s : State) (tm : Team) : Bool :=
  s.savable tm && (s.x.threads.filter fun t => t.team == some tm.uid && t.status != .exited).all fun t =>
    t.status == .parkedMon || t.status == .parkedSec

/-- SWAP_OUT (R323): a swappable team of a starving launch, on its reserved rectangle, the latest in its order first, is
asked to leave, until the cluster fits. -/
def execSwapOut (lid : Nat) (s : State) : Out :=
  .next (match s.launch? lid with
    | none => s
    | some l =>
      match l.next with
      | none => s
      | some (c, _) =>
        let going := (s.x.teams.filter fun t => t.stopping).map Team.uid
        if l.state != .placing || l.resv.isEmpty || s.starved l < 65536 ||
            (s.without going).rectFits l c l.resv then s
        else
          let mine := s.x.teams.filter fun t => t.launch == lid && !t.stopping && l.resv.contains t.core && s.swappable t
          let order := l.teamOrder
          let pos (t : Team) : Nat := order.findIdx fun k => k == t.logical
          let last := mine.foldl (fun a t => match a with
            | none => some t
            | some b => if pos b < pos t then some t else some b) (none : Option Team)
          match last with
          | some t => s.askPreempt t
          | none => s)

/-- TIME_SLICE_PREEMPT (R332, R351): the teams and the tile jobs' launches of a context that have been resident for its slice
are pre-empted while another enabled context has a Placing launch that does not fit. -/
def execTimeSlicePreempt (ctx : Nat) (s : State) : Out :=
  .next (
    let k := s.ctx ctx
    let other := s.d.launches.any fun l => l.ctx != ctx && (s.ctx l.ctx).enabled && s.mayPlace l && !s.nextFits l
    if k.tslice == 0 || !other then s
    else
      let due (since : Nat) : Bool := decide (2 ^ (k.tslice + 10) ≤ (s.x.clk - since) / 2)
      (s.holdTiles fun t l => l.ctx == ctx && due t.since).askAll
        ((s.x.teams.filter fun t => t.ctx == ctx && t.swapped.isNone && due t.since).map Team.uid))

end Sys2Proof.Machine
end

