-- ==== Sys2Proof/Machine/System.lean ====
section
/-! DEFINITION. The system instructions (R67, R283 to R289, R375). -/

namespace Sys2Proof.Machine

/-- One lane of a privileged instruction (R283, R390): the context's privileged bit, then the register blocks. -/
def State.privLane (s : State) (t : Thread) (runs : List (VReg × Nat)) (k : Res State) : Res State :=
  if !(s.ctx t.ctx).priv then .error (Cause.of .privileged)
  else if !t.inBlocks runs then .error (Cause.of .registerBlock)
  else k

/-! Special registers (R284) -/

/-- GETSR (R284): number 12 reads device time once, into a pair. A reserved number raises ILLEGAL_OPERAND; that it does so after
REGISTER_BLOCK where the number is an S8 immediate too, as the value of an operand and no encoding, is a DESIGN CHOICE (log 72):
R390 and R398 do not say which it is. -/
def execGetsr (c : Ctl) (d : VReg) (b : SrcB) (s : State) : Out :=
  .next (s.lanes c.grd ((d, 1) :: bRuns b 1) fun s t => do
    let y ← s.srcI t b
    match if 255 < y.toNat then none else SReg.ofCode (y.setWidth 8) with
    | none => illop
    | some .time =>
      if d.toNat % 2 != 0 then illop
      else
        let now : DWord := BitVec.ofNat 64 (s.timeOf t)
        .ok (s.launchFlight t c (.write [(d.toNat, now.extractLsb' 0 32), (d.toNat + 1, now.extractLsb' 32 32)] []))
    | some r => .ok (s.launchFlight t c (.write [(d.toNat, s.srval t r)] [])))

/-- SETSR (R284). -/
def execSetsr (c : Ctl) (n : Bool) (b : SrcB) (s : State) : Out :=
  .next (s.lanes c.grd (bRuns b 1) fun s t => do
    let y ← s.srcI t b
    .ok (s.launchFlight t c (.setsr n y)))

/-- Completion of SETSR (R284, R344), in issue order: the name changes, and is matched against the watches. -/
def State.doneSetsr (s : State) (f : Flight) (n : Bool) (v : Word) : State :=
  if (s.earlier f).any fun g => (match g.op with | .setsr _ _ => true | _ => false) then s
  else
    match s.thread? f.thread with
    | none => s.finish f
    | some t =>
      let name := if n then setBounce t.name (v.setWidth 5) else setChild t.name (v.setWidth 6)
      (s.updThread t.uid fun u => { u with name := if t.isReplay then name else s.formName t.ctx name }).finish f

/-! Traps (R285, R375) -/

/-- TRAP (R285). -/
def execTrap (c : Ctl) (b : SrcB) (s : State) : Out :=
  .next (s.lanes c.grd (bRuns b 1) fun s t => do
    let y ← s.srcI t b
    .error ⟨.trap, y.setWidth 8, 0#64, false, false⟩)

/-- BKPT (R285). -/
def execBkpt (c : Ctl) (s : State) : Out :=
  .next (s.lanes c.grd [] fun _ _ => .error ⟨.trap, 0#8, 0#64, false, true⟩)

/-- A trap handler returns (R375): it ends, and the thread it serves becomes Ready at a boundary. A launch trap's handler ends
alone (R376). -/
def State.returnTrap (s : State) (u : Nat) (target : DWord) : State :=
  match s.thread? u with
  | none => s
  | some h =>
    match h.kind with
    | .handler x =>
      let free (t : Thread) : Thread := if t.status == .exited then t else t.release target
      ((s.exitOne u).updThread x free).reap
    | .launchTrap _ => (s.exitOne u).reap
    | _ => s

/-- RETT (R285, R375): it takes effect when every instruction of the handler in flight has completed. A misaligned target
raises BAD_CLAUSE on the handler, at issue (R146, R389); that of a launch trap's handler is not read (R376). -/
def execRett (c : Ctl) (b : VReg) (s : State) : Out :=
  .next (s.lanes c.grd [(b, 2)] fun s t =>
    let a := t.pair b.toNat
    match t.kind with
    | .handler _ => if targetOk a then .ok (s.launchFlight t c (.rett a)) else .error (Cause.of .badClause)
    | .launchTrap _ => .ok (s.launchFlight t c (.rett a))
    | _ => illop)

/-- Completion of RETT. -/
def State.doneRett (s : State) (f : Flight) (target : DWord) : State :=
  if (s.earlier f).any Flight.busy then s else (s.finish f).returnTrap f.thread target

/-! Translations (R67, R286) -/

/-- TLBINV (R286). With b = 0 the VA plays no part, and a misaligned one raises nothing: DESIGN CHOICE (log 84), since the rule puts
the alignment on the other branch and the code in a sentence of its own. -/
def execTlbinv (c : Ctl) (a : VReg) (b : SrcB) (x : VReg) (s : State) : Out :=
  .next (s.lanes c.grd [] fun s t => s.privLane t ([(a, 2), (x, 1)] ++ bRuns b 1) (do
    let n ← s.srcI t b
    let k := t.vget x.toNat
    let va := ptrVa (t.pair a.toNat)
    if 63 < k.toNat then illop
    else if n != 0#32 && va % 65536 != 0 then .error (Cause.at .align (t.pair a.toNat))
    else .ok (s.launchFlight t c (.tlbinv va n.toNat k.toNat))))

/-- A translation is one that TLBINV drops: `n` pages of 64 KiB from `va`, or all of a context with `n` zero. -/
def TlbEntry.hit (e : TlbEntry) (ctx va n : Nat) : Bool :=
  e.ctx == ctx && (n == 0 || (decide (e.x.base < va + 65536 * n) && decide (va < e.x.base + e.x.size)))

/-- Completion of TLBINV (R67): every TLB has dropped the entries and every last-page register has been swept. -/
def State.doneTlbinv (s : State) (f : Flight) (va n ctx : Nat) : State :=
  let drop (m : Sparse (List TlbEntry)) : Sparse (List TlbEntry) :=
    (m.map fun e => (e.1, e.2.filter fun x => !x.hit ctx va n)).filter fun e => !e.2.isEmpty
  ({ s with m := { s.m with
    coreTlb := drop s.m.coreTlb
    sectorTlb := drop s.m.sectorTlb
    lastPage := s.m.lastPage.filter fun e => !e.2.hit ctx va n } }).finish f

/-- LPSWEEP (R286). -/
def execLpsweep (c : Ctl) (b : SrcB) (s : State) : Out :=
  .next (s.lanes c.grd [] fun s t => s.privLane t (bRuns b 1) (do
    let k ← s.srcI t b
    if 63 < k.toNat then illop else .ok (s.launchFlight t c (.lpsweep k.toNat))))

/-- Completion of LPSWEEP (R286): every last-page register that holds the context is clear. -/
def State.doneLpsweep (s : State) (f : Flight) (ctx : Nat) : State :=
  ({ s with m := { s.m with lastPage := s.m.lastPage.filter fun e => e.2.ctx != ctx } }).finish f

/-! DIGEST (R288) -/

/-- DIGEST (R288): zeros outside a deterministic launch. -/
def execDigest (c : Ctl) (d : VReg) (s : State) : Out :=
  .next (s.lanes c.grd [(d, 8)] fun s t =>
    let v := match s.teamOf t with
      | some tm => if s.det t then tm.digest else 0#256
      | none => 0#256
    .ok (s.launchFlight t c (.write ((List.range 8).map fun i => (d.toNat + i, v.extractLsb' (32 * i) 32)) [])))

/-! Contexts (R287) -/

/-- The context that CTXSAVE or CTXLOAD names: not the issuer's own. -/
def State.ctxOperand (s : State) (t : Thread) (b : SrcB) : Res Nat := do
  let k ← s.srcI t b
  if 63 < k.toNat || k.toNat == t.ctx then illop else .ok k.toNat

/-- CTXSAVE (R287). -/
def execCtxsave (c : Ctl) (b : SrcB) (s : State) : Out :=
  .next (s.lanes c.grd [] fun s t => s.privLane t (bRuns b 1) (do
    let k ← s.ctxOperand t b
    .ok (s.launchFlight t c (.ctxsave k false))))

/-- CTXSAVE goes on (R287, R321, R386, R387): no team of the context is placed again, its teams are asked to stop, and it
completes when each is swapped or has ended, and its groups of no team and tile jobs have ended. A team whose couched
entries do not fit raises COUCH_SPILL_FULL. -/
def State.doneCtxsave (s : State) (f : Flight) (ctx : Nat) (begun : Bool) : State :=
  let tms := s.x.teams.filter fun t => t.ctx == ctx && t.swapped.isNone
  let loose := s.x.threads.any fun t => t.ctx == ctx && t.team.isNone
  let tiles := s.e.tiles.any fun k => (s.launch? k.launch).any fun l => l.ctx == ctx
  if !begun then
    (s.updCtx ctx fun k => { k with saved := true }).updFlight f.uid fun g => { g with op := .ctxsave ctx true }
  else if tms.isEmpty && !loose && !tiles then s.finish f
  else
    tms.foldl (fun s t =>
      match s.team? t.uid with
      | none => s
      | some t =>
        if t.stopping || !s.savable t then s
        else if !s.spillFits t then s.couchTrap t
        else s.askPreempt t) s

/-- CTXLOAD (R287). -/
def execCtxload (c : Ctl) (b : SrcB) (s : State) : Out :=
  .next (s.lanes c.grd [] fun s t => s.privLane t (bRuns b 1) (do
    let k ← s.ctxOperand t b
    .ok (s.launchFlight t c (.ctxload k))))

/-- Completion of CTXLOAD (R287). -/
def State.doneCtxload (s : State) (f : Flight) (ctx : Nat) : State :=
  (s.updCtx ctx fun k => { k with saved := false }).finish f

/-- HALT (R287): its context is marked halted, and the thread ends as with EXIT. -/
def execHalt (c : Ctl) (s : State) : Out :=
  .next ((s.lanes c.grd [] fun s t => s.privLane t [] (
    let s := s.updCtx t.ctx fun k => { k with halted := true }
    .ok (if s.busyThread t.uid then s.launchFlight t c (.exit true) else s.exitBoth t.uid))).reap)

/-- HALT_MARK_CLEAR (R287): the host clears a context's halted mark. -/
def execHaltMarkClear (ctx : Nat) (s : State) : Out := .next (s.updCtx ctx fun k => { k with halted := false })

end Sys2Proof.Machine
end

