-- ==== Sys2Proof/Machine/Cache.lean ====
section
/-! DEFINITION. What the caches do on their own: writing back old stores, eviction, and the end of a lease (R74, R76,
R90, R92, R95, R97). -/

namespace Sys2Proof.Machine

/-- Every masked byte of an L1 copy goes home. -/
def State.sendHome (s : State) (c : Copy) : State :=
  (s.writeBack c fun _ => true).1

/-- The clock by which the masked bytes of an L1 copy leave: 65,536 core clocks after the first of them (R92, R97). -/
def Copy.due (c : Copy) : Option Nat :=
  match c.place with
  | .l1 _ => if c.mask.isEmpty then none else some (c.since + 2 * 65536)
  | _ => none

/-- The L1 copies of a choice whose masked bytes are due go home (R92, R97). -/
def State.sendDue (s : State) (sel : Copy → Bool) : State :=
  (s.m.copies.filter fun c => sel c && c.due.any fun d => decide (d ≤ s.x.clk)).foldl State.sendHome s

/-- STORE_WRITEBACK_TIMEOUT (R92, R97): 65,536 core clocks after the first masked byte of the line. -/
def execStoreWritebackTimeout (core line : Nat) (s : State) : Out :=
  .next (s.sendDue fun c => c.place == .l1 core && c.line == line)

/-- LINE_EVICTION (R74, R76): from L1, masked bytes and an owned line go home; from the home slice, masked bytes go to
DRAM; a local copy or a Selvedge copy is clean and is dropped. -/
def execLineEviction (place : Place) (line : Nat) (s : State) : Out :=
  .next (match place with
    | .home => (s.recall line).evictHome line
    | p => (s.m.copies.filter fun c => c.place == p && c.line == line).foldl State.evict s)

/-- Die of a place that holds leased copies. -/
def Place.die : Place → Nat
  | .l1 core => coreDie core
  | .localSlice n => n / 24
  | .selvedge p => p / 3
  | .home => 0

/-- LEASE_EXPIRY (R90): from the moment the holder's device time reaches the expiry the copy is a miss; masked bytes
stay. -/
def execLeaseExpiry (place : Place) (line : Nat) (s : State) : Out :=
  .next ((s.m.copies.filter fun c => c.place == place && c.line == line && c.own.isNone &&
    decide (c.expiry ≤ s.now (Place.die place))).foldl (fun s c => s.putCopy { c with sectors := [] }) s)

end Sys2Proof.Machine
end

