-- ==== Sys2Proof/Machine/Complete.lean ====
section
/-! DEFINITION. INSTRUCTION_COMPLETE: what each instruction in flight does when it completes (R36, R81). -/

namespace Sys2Proof.Machine

/-- An instruction in flight goes on by one moment: it performs, completes, or is not yet able to (R36). What a copy, a
matrix pass or a SLEEPN waits for has an event of its own. -/
def State.completeOp (s : State) (f : Flight) : State :=
  match f.op with
  | .write regs preds => s.doneWrite f regs preds
  | .sampled regs _ => s.doneWrite f regs []
  | .gather what d parts _ => s.doneGather f what d parts
  | .load a w _ _ ps => s.doneLoad f a w ps
  | .store _ bs => s.doneStore f bs
  | .loadS team off ea w _ _ ps => s.doneLoadS f team off ea w ps
  | .storeS team off bs scope => s.doneStoreS f team off bs scope
  | .pref a => s.donePref f a
  | .tagst _ _ => s.doneTagst f
  | .tagld _ _ => s.doneTagld f
  | .dload a dn ps => s.doneDload f a dn ps
  | .atom _ _ _ _ _ => s.doneAtom f
  | .atomc _ _ _ _ _ => s.doneAtom f
  | .red _ _ _ _ => s.doneRed f
  | .waitc _ w64 _ _ _ d p => s.doneWaitc f w64 d p
  | .fence kind scope begun => s.doneFence f kind scope begun
  | .time d => s.doneTime f d
  | .cacheop op va len _ => s.doneCacheop f op va len
  | .disct t => s.doneDisct f t
  | .dqry d w => s.doneWrite f [(d, w)] []
  | .copyEnd _ => s
  | .osenter key _ p granted => s.doneOsenter f key p granted
  | .osend key abort begun => s.doneOsend f key abort begun
  | .osstat key clrp d => s.doneOsstat f key clrp d
  | .launch parts q begun => s.doneLaunch f parts q begun
  | .amsend msg begun => s.doneAmsend f msg begun
  | .amdone begun => s.doneAmdone f begun
  | .accz _ => s.doneAcc f
  | .accld _ _ _ _ => s.doneAcc f
  | .accst _ _ _ _ _ => s.doneAcc f
  | .accrd _ _ _ _ => s.doneAcc f
  | .accwr _ _ _ _ => s.doneAcc f
  | .matrix _ => s
  | .kdecl k gm mm => s.doneKdecl f k gm mm
  | .sign k d => s.doneSign f k d
  | .waitk k g moved => s.doneWaitk f k g moved
  | .bar _ _ => s.doneBar f
  | .eqv req => s.doneEqv f req
  | .trace _ d ticket => s.doneTrace f d ticket
  | .trwait ticket d => s.doneTrwait f ticket d
  | .trret v => s.doneTrret f v
  | .shadow ray => s.doneShadow f ray
  | .coll coll d ticket begun => s.doneColl f coll d ticket begun
  | .collw ticket d begun => s.doneCollw f ticket d begun
  | .shaderEnd ray => s.doneShaderEnd f ray
  | .resid id parts va len wct => s.doneResid f id parts va len wct
  | .sleep _ => s
  | .setsr n v => s.doneSetsr f n v
  | .tlbinv va pages ctx => s.doneTlbinv f va pages ctx
  | .lpsweep ctx => s.doneLpsweep f ctx
  | .ctxsave ctx begun => s.doneCtxsave f ctx begun
  | .ctxload ctx => s.doneCtxload f ctx
  | .exit _ => s.doneExit f
  | .rett target => s.doneRett f target

/-- An instruction in flight can go on: its team is on its core, and it does not wait for an error record (R50, R444). -/
def State.mayComplete (s : State) (f : Flight) : Bool :=
  f.stalled.isNone && match s.thread? f.thread with
    | some t => !s.swappedOut t
    | none => true

/-- INSTRUCTION_COMPLETE (R36). -/
def execInstructionComplete (flight : Nat) (s : State) : Out :=
  .next (match s.flight? flight with
    | some f => if s.mayComplete f then s.completeOp f else s
    | none => s)

end Sys2Proof.Machine
end

