-- ==== Sys2Proof/Machine/Issue.lean ====
section
/-! DEFINITION. Eligibility, bundles, fetch and CLAUSE_ISSUE; the starvation counts (R33 to R42, R48, R133 to R138,
R192, R389, R393 to R396). -/

namespace Sys2Proof.Machine

/-! What holds a word back (R37, R75, R83, R93, R101, R195, R429) -/

/-- Opcodes that access memory for their thread, or have an engine access it: none issues before a fence of its thread
has completed (R93). -/
def opAccess (op : BitVec 8) : Bool :=
  let n := op.toNat
  (decide (0x70 ≤ n) && decide (n ≤ 0x7B) && n != 0x78) || n == 0x7D || n == 0x7E || (decide (0x80 ≤ n) && decide (n ≤ 0x83))
    || (decide (0x88 ≤ n) && decide (n ≤ 0x8B)) || n == 0x8E || (decide (0x93 ≤ n) && decide (n ≤ 0x98))
    || n == 0xA1 || n == 0xA3 || n == 0xA4 || n == 0xA8 || (decide (0xB0 ≤ n) && decide (n ≤ 0xB8))
    || (decide (0xBB ≤ n) && decide (n ≤ 0xBE)) || n == 0xC0 || n == 0xC2

/-- Opcodes that read memory at issue, a texture's header or a collective's record among it: those reads follow the thread's
earlier accesses (R83). -/
def opReads (op : BitVec 8) : Bool :=
  let n := op.toNat
  (decide (0x80 ≤ n) && decide (n ≤ 0x83)) || n == 0xB8 || n == 0xBE || n == 0xC0

/-- An instruction in flight that later accesses of its thread wait for: a fence, or what acts as one (R89, R93, R101,
R105, R197, R198, R280). -/
def Flight.fences (f : Flight) : Bool :=
  f.busy && match f.op with
    | .fence .. | .osenter .. | .waitc .. | .trwait .. | .collw .. | .sign .. | .waitk .. => true
    | _ => false

/-- A thread's accesses wait. Watches hold none back (R344, R429). -/
def State.blocked (s : State) (t : Thread) : Bool := s.x.flights.any fun f => f.thread == t.uid && f.fences

/-- A thread has earlier accesses to memory, or SHADOW additions, still to perform. -/
def State.reaching (s : State) (t : Thread) : Bool :=
  (s.x.flights.any fun f => f.thread == t.uid && !f.op.ranges.isEmpty) ||
    (s.e.rays.any fun r => r.thread == t.uid && r.ticket.isNone && r.stage == .flying && !r.none)

/-- The 64-B sectors that an instruction in flight asks for (R75): a prefetch asks for its line. -/
def FlightOp.sectors (op : FlightOp) : List Nat :=
  match op with
  | .sampled _ ks => ks
  | .gather _ _ ps ks => ks ++ (partsLeft ps).flatMap fun a => sectorsOf a.1.pa a.2
  | .launch ps _ begun => if begun then (partsLeft ps).flatMap fun a => sectorsOf a.1.pa a.2 else []
  | .pref (some a) => (List.range 4).map fun k => a.pa / 256 * 4 + k
  | op => op.accs.flatMap fun a => sectorsOf a.1.pa a.2

/-- Entries of the request table of a core in use (R75): the lanes of one word share one for each sector. DESIGN CHOICE (log 87):
the spec does not say when the entry of a WAITC frees; it is kept for as long as the thread is parked on its monitor. -/
def State.requests (s : State) (core : Nat) : Nat :=
  ((s.x.flights.flatMap fun f =>
    if f.busy && (s.thread? f.thread).any fun t => t.core == core then f.op.sectors.map fun k => (f.stamp, k) else []).eraseDups).length

/-- A word waits for a thread whose guard holds. -/
def State.wordWaits (s : State) (paired : Bool) (w : DWord) (t : Thread) : Bool :=
  let op := bits w 56 8
  (s.x.flights.any fun f => f.thread == t.uid && f.busy && f.window == 0 && (match f.op with | .sleep _ => false | _ => true)) ||
    (!paired && t.guard (wordGuard w) &&
      ((opAccess op && s.blocked t) || (opReads op && s.reaching t) || (op == 0x6D#8 && s.busyThread t.uid)
        || (op == 0x98#8 && s.x.flights.any fun f => f.thread == t.uid && f.op.spad)))

/-! Fetch (R74, R395, R396) -/

/-- Which of two values a word decodes as, where a store has changed one that a core has fetched (R396). -/
def State.pickWord (s : State) (k : Nat) (old : Option DWord) (new : DWord) : DWord :=
  match old with
  | some v => if v == new || Config.freeNat (s.freeCtr + k) % 2 == 0 then v else new
  | none => new

/-- A word that a core has fetched. -/
def State.fetchedWord (s : State) (core ctx : Nat) (a : DWord) : Option DWord :=
  (s.m.fetched.find? fun f => f.core == core && f.ctx == ctx && f.addr == ptrVa a).map Fetched.word

/-- Why a word cannot be fetched (R395, R444). -/
inductive FetchStop where
  | code (c : Code)
  | fault (c : PfCause)
  | poison (pa : Nat)
deriving DecidableEq, Repr

/-- Fetches one word through L1, with the checks of R395. -/
def State.fetchWord (s : State) (core ctx : Nat) (a : DWord) (k : Nat) : State × Except FetchStop DWord :=
  match s.pageCheck core none ctx a 8 false true true 0#12 1 with
  | (s, .code c) => (s, .error (.code c))
  | (s, .fault c) => (s, .error (.fault c))
  | (s, .go acc) =>
    if s.poisonSeen core ctx acc.pa 8 acc.atHome then (s, .error (.poison acc.pa))
    else
      let r := if isWindow acc.pa then (s, s.winLoad acc.pa 8)
        else (let g := s.loadCore core ctx 0#12 acc.atHome acc.pa 8; (g.1, g.2.bytes))
      (r.1, .ok (s.pickWord k (s.fetchedWord core ctx a) (leWord r.2)))

/-- Address of word `i` of a clause. -/
def wordAddr (hdr : DWord) (i : Nat) : DWord := hdr + BitVec.ofNat 64 (8 * (i + 1))

/-- A fetched clause: its header, and the words from a position on. -/
structure Fetch where
  header : DWord
  words  : List DWord
deriving DecidableEq, Repr

/-- Where a fetch stopped: why, the address, and the header where it was fetched. -/
structure FetchFail where
  why    : FetchStop
  addr   : DWord
  header : Option DWord
deriving DecidableEq, Repr

/-- Fetches a clause's header and its words from position `i` on. DESIGN CHOICE (log 80): every word is fetched before the header
is decoded, so that of a header that fails R135 and a later word that cannot be fetched, the fetch fault is raised; R389 puts
both at one point, with no order. -/
def State.fetchClause (s : State) (core ctx : Nat) (hdr : DWord) (i : Nat) : State × Except FetchFail Fetch :=
  match s.fetchWord core ctx hdr 0 with
  | (s, .error e) => (s, .error ⟨e, hdr, none⟩)
  | (s, .ok h) =>
    let c := s.freeCtr
    let r := (List.range (hdrCount h)).foldl (fun (a : State × Except FetchFail Fetch) j =>
      match a.2 with
      | .error _ => a
      | .ok f =>
        if j < i then (a.1, .ok { f with words := f.words ++ [0#64] })
        else
          match a.1.fetchWord core ctx (wordAddr hdr j) (j + 1) with
          | (s, .error e) => (s, .error ⟨e, wordAddr hdr j, some h⟩)
          | (s, .ok w) => (s, .ok { f with words := f.words ++ [w] })) (s, .ok ⟨h, []⟩)
    ({ r.1 with freeCtr := c }, r.2)

/-- The words that a fetch has decoded stay with the core until CACHEOP ICINV drops them (R216, R396). -/
def State.keepFetched (s : State) (core ctx : Nat) (hdr : DWord) (i : Nat) (f : Fetch) : State :=
  let new := (0, hdr, f.header) :: ((f.words.zipIdx.filter fun w => decide (i ≤ w.2)).map fun w => (w.2 + 1, wordAddr hdr w.2, w.1))
  let mixed := new.any fun n => (s.fetchedWord core ctx n.2.1).any fun v => v != n.2.2
  let rest := s.m.fetched.filter fun w => !(w.core == core && w.ctx == ctx && new.any fun n => ptrVa n.2.1 == w.addr)
  { s with
    freeCtr := if mixed then s.freeCtr + 17 else s.freeCtr
    m := { s.m with fetched := rest ++ new.map fun n => ⟨core, ctx, ptrVa n.2.1, n.2.2⟩ } }

/-! Eligibility (R35, R37, R39) -/

/-- Header of the clause that a thread stands at or in, and the position of its next word there. -/
def Thread.stand (t : Thread) : DWord × Nat := if t.mid then (t.hdr, (t.pc - t.hdr).toNat / 8 - 1) else (t.pc, 0)

/-- A re-created thread issues no further word until the entry of its last is complete, nor once its trace is full or
cannot be written (R438, R439). -/
def State.traceHolds (s : State) (t : Thread) : Bool :=
  t.isReplay && ((s.launch? t.launch).bind Launch.replay).any fun r =>
    r.full || r.dead || r.pend.any fun e => e.thread == t.uid && e.done.isNone && !e.parked

/-- The thread may join a bundle but for the waits of its clause. -/
def State.free (s : State) (t : Thread) : Bool :=
  !s.traceHolds t && t.status == .boundary && t.trap.isNone && !(s.ctx t.ctx).frozen
    && (match s.teamOf t with | some tm => tm.swapped.isNone && !tm.stopping | none => true)
    && !(s.x.flights.any fun f => f.thread == t.uid && (match f.op with | .exit _ | .rett _ => true | _ => false))

/-- The clause lets a thread in (R35, R37): the counters of its wait mask are zero, no counter would pass 63, every
lookahead window covers its words, and no access in it must wait for a fence in flight. -/
def State.clauseReady (s : State) (t : Thread) (f : Fetch) (i : Nat) : Bool :=
  let n := hdrCount f.header - i
  let incs (q : Nat) : Nat := ((f.words.zipIdx.filter fun w => decide (i ≤ w.2)).filter fun w =>
    wordQ (hdrPair f.header w.2) w.1 == some q).length
  ((List.range 8).all fun q => !(hdrWait f.header).getLsbD q || t.q.getD q 0 == 0)
    && ((List.range 8).all fun q => decide (t.q.getD q 0 + incs q ≤ 63))
    && ((s.x.flights.filter fun g => g.thread == t.uid && g.busy).all fun g =>
      (match g.op with | .sleep _ => true | _ => false) || decide (n ≤ g.window))
    && !(s.blocked t && f.words.zipIdx.any fun w => decide (i ≤ w.2) && !hdrPair f.header w.2 && opAccess (bits w.1 56 8))

/-- A thread is eligible (R39). One whose clause cannot be fetched has nothing to wait for: its fetch faults. -/
def State.eligible (s : State) (t : Thread) : Bool :=
  s.free t &&
    let p := t.stand
    match (s.fetchClause t.core t.ctx p.1 p.2).2 with
    | .ok f => s.clauseReady t f p.2
    | .error _ => true

/-! Bundles (R39, R40) -/

/-- Two threads stand at the same place: the same word, of the same clause. -/
def Thread.with_ (t u : Thread) : Bool := t.pc == u.pc && t.stand == u.stand && t.mid == u.mid

/-- The thread that sets a group's candidate program counter (R39): an overriding one with the highest count, else one
with the least program counter; ties go to the lowest lane. -/
def candidate (es : List Thread) (g : Nat) : Option Thread :=
  let mine := es.filter fun t => t.group == g
  let better (a b : Thread) : Bool :=
    if a.fair != b.fair then a.fair
    else if a.fair then decide (b.starve < a.starve) || (a.starve == b.starve && decide (a.lane < b.lane))
    else decide (a.pc.toNat < b.pc.toNat) || (a.pc == b.pc && decide (a.lane < b.lane))
  mine.foldl (fun m t => match m with
    | none => some t
    | some b => if better t b then some t else m) none

/-- The leading group (R40, R192) among groups that have a candidate. -/
def leading (gs : List Group) : Option Group :=
  let calm := gs.filter fun g => !g.yielded
  let gs := if calm.isEmpty then gs else calm
  let flagged := gs.filter Group.flag
  let better (a b : Group) : Bool :=
    if flagged.isEmpty then decide (a.last < b.last) || (a.last == b.last && decide (a.slot < b.slot))
    else decide (b.starve < a.starve) || (a.starve == b.starve && decide (a.slot < b.slot))
  (if flagged.isEmpty then gs else flagged).foldl (fun m g => match m with
    | none => some g
    | some b => if better g b then some g else m) none

/-- The bundle of a slice (R40): the leading thread and every member. -/
def State.bundle (s : State) (core slice : Nat) : Option (Thread × List Thread) := do
  let es := s.x.threads.filter fun t => t.core == core && t.slice == slice && s.eligible t
  let gs := s.x.groups.filter fun g => g.core == core && g.slice == slice && (candidate es g.uid).isSome
  let lead ← leading gs
  let head ← candidate es lead.uid
  let own := es.filter fun t => t.group == lead.uid && t.with_ head
  let donors := (List.range 8).flatMap fun slot => (gs.filter fun g => g.slot == slot && g.uid != lead.uid &&
    g.launch == lead.launch && (candidate es g.uid).any fun t => t.with_ head).flatMap fun g =>
      es.filter fun t => t.group == g.uid && t.with_ head
  let ms := donors.foldl (fun ms t => if ms.any fun u => u.lane == t.lane then ms else ms ++ [t]) own
  some (head, ms)

/-- A thread's starvation count has reached 256 (R41). -/
def Thread.override (t : Thread) : Thread := if 256 ≤ t.starve then { t with fair := true } else t
/-- A group's starvation count has reached 1024 (R42). -/
def Group.raise (g : Group) : Group := if 1024 ≤ g.starve then { g with flag := true } else g

/-- The counts after a bundle has formed (R41, R42, R192). -/
def State.count (s : State) (core slice : Nat) (ms : List Thread) : State :=
  let stamp := s.x.nextUid
  let inB (u : Nat) : Bool := ms.any fun m => m.uid == u
  let gave (g : Nat) : Bool := ms.any fun m => m.group == g
  let thread (t : Thread) : Thread :=
    if inB t.uid then { t with starve := 0, fair := false, status := .issued }
    else if gave t.group && s.eligible t then { t with starve := t.starve + 1 }
    else t
  let group (g : Group) : Group :=
    if g.core == core && g.slice == slice then
      (if gave g.uid then { g with starve := 0, flag := false, last := stamp, yielded := false } else { g with yielded := false })
    else g
  { s with x := { s.x with nextUid := stamp + 1, threads := s.x.threads.map thread, groups := s.x.groups.map group } }

/-! CLAUSE_ISSUE -/

/-- Every member of a bundle raises a code found before a word of its clause issues (R135, R389, R392). -/
def State.bundleTrap (s : State) (ms : List Nat) (p : Site) (fall : DWord) (c : Cause) : State :=
  (s.mapThreads fun t => if ms.contains t.uid then t.trapAt (s.reportOf t p c) fall c.code.freezing else t).settle

/-- A fetch that stops (R395, R444): a code on every member; or every member parks where it stands, on the page, or on
poison under one error record. A fault is filed under the page that faulted, and its record shows the header's address (R404). -/
def State.fetchFails (s : State) (core ctx : Nat) (hdr : DWord) (ms : List Nat) (e : FetchFail) : State :=
  let n := (e.header.map hdrCount).getD 1
  let p : Site := ⟨hdr, hdr, 0, n⟩
  let fall := if e.header.isSome then p.fall else hdr
  let s := s.mapThreads fun t => if ms.contains t.uid then { t with hdr := hdr, count := n } else t
  let park (s : State) (u : Nat) (why : ParkWhy) : State := s.updThread u fun t => { t with status := .parkedMem why }
  match e.why with
  | .code c => s.bundleTrap ms p fall (Cause.at c e.addr)
  | .fault c =>
    if !s.faultWaits ctx e.addr (coreSector core) then s.bundleTrap ms p fall (faultCause c e.addr false)
    else ms.foldl (fun s u =>
      let r := s.addFaultAs ctx hdr e.addr c 3 (coreSector core) (.fetch u)
      park r.1 u (.page r.2)) s
  | .poison pa =>
    let r := s.addError (pa / 64 * 64) .uncorrectable (paUnit pa).1 (paUnit pa).2 ctx true false false 0 (coreDie core) e.addr
    ms.foldl (fun s u => park s u (.poison r.2)) r.1

/-- The clause of a bundle opens (R34), or fails decode (R135, R393); its lineage marks are recorded (R138). -/
def State.openClause (s : State) (core slice : Nat) (hdr : DWord) (i : Nat) (ms : List Nat) (f : Fetch) : State :=
  let n := hdrCount f.header
  let s := s.mapThreads fun t => if ms.contains t.uid then { t with hdr := hdr, count := n } else t
  let bad := if headerOk f.header then (firstBadWord f.header f.words).filter fun j => decide (i ≤ j) else none
  if !headerOk f.header then
    let p : Site := ⟨hdr, hdr, 0, n⟩
    s.bundleTrap ms p p.fall (Cause.of .badClause)
  else
    match bad with
    | some j =>
      let p : Site := ⟨wordAddr hdr j, hdr, j, n⟩
      s.bundleTrap ms p p.fall (Cause.of .badClause)
    | none =>
      let s := if hdrLmark f.header then
          (List.range 32).foldl (fun s l =>
            match s.x.threads.find? fun t => ms.contains t.uid && t.lane == l && lnWatched t.name with
            | some t => s.recordEvent t 6 hdr [] false
            | none => s) s
        else s
      { s with x := { s.x with
        cur := (core, slice)
        issues := s.x.issues ++ [⟨core, slice, hdr, f.header, f.words, i, s.x.nextUid⟩] } }

/-- The open clause of a slice. -/
def State.issue? (s : State) (core slice : Nat) : Option Issue :=
  s.x.issues.find? fun i => i.core == core && i.slice == slice

/-- CLAUSE_ISSUE (R40): the slice forms a bundle, and fetches and decodes its clause. Its words issue in the steps that
follow, one at a time. That a bundle counts as issued for R40 and R42 though its fetch faults or its words fail to decode, so that
no word issues, is a DESIGN CHOICE (log 74): the spec is silent. -/
def execClauseIssue (core slice : Nat) (s : State) : Out :=
  .next (
    if (s.issue? core slice).isSome then s
    else
      let here : State := { s with x := { s.x with
        threads := s.x.threads.map fun t => if t.core == core && t.slice == slice then t.override else t
        groups := s.x.groups.map fun g => if g.core == core && g.slice == slice then g.raise else g } }
      match here.bundle core slice with
      | none => s
      | some (head, ms) =>
        let us := ms.map Thread.uid
        let p := head.stand
        let r := (here.count core slice ms).fetchClause core head.ctx p.1 p.2
        match r.2 with
        | .error e => r.1.fetchFails core head.ctx p.1 us e
        | .ok f => (r.1.keepFetched core head.ctx p.1 p.2 f).openClause core slice p.1 p.2 us f)

/-- FAIRNESS_OVERRIDE (R41). -/
def execFairnessOverride (thread : Nat) (s : State) : Out := .next (s.updThread thread Thread.override)

/-- STARVATION_FLAG (R42). -/
def execStarvationFlag (group : Nat) (s : State) : Out := .next (s.updGroup group Group.raise)

/-- Core clocks pass: the groups that have an eligible thread and contribute to no bundle starve (R42). -/
def State.starveGroups (s : State) (k : Nat) : State :=
  if k == 0 then s
  else
    { s with x := { s.x with groups := s.x.groups.map fun g =>
      let ts := s.x.threads.filter fun t => t.group == g.uid
      if (ts.any fun t => t.status == .issued) || !(ts.any s.eligible) then g else { g with starve := g.starve + k } } }

end Sys2Proof.Machine
end

