-- ==== Sys2Proof/Machine/Replay.lean ====
section
/-! DEFINITION. Isolated replay: the thread a name bears, what a re-created thread's words do, and the trace (R430 to
R440). -/

namespace Sys2Proof.Machine

/-! The name (R432) -/

/-- Fields of a name: INST, PRIM and SAMPLE. -/
def lnInst (n : BitVec 128) : Nat := (n.extractLsb' 76 20).toNat
/-- PRIM of a name. -/
def lnPrim (n : BitVec 128) : Nat := (n.extractLsb' 51 25).toNat
/-- SAMPLE of a name. -/
def lnSample (n : BitVec 128) : Nat := (n.extractLsb' 22 3).toNat
/-- Team that a name of KIND 0 bears (R30). -/
def lnTeam (n : BitVec 128) : Nat := lnInst n * 2 ^ 25 + lnPrim n
/-- A name without the fields that SETSR and the watches change: BOUNCE, CHILD and FLAGS (R432). -/
def lnBorn (n : BitVec 128) : BitVec 128 := setKind (setChild (setBounce n 0#5) 0#6) (n.extractLsb' 8 3) 0#8

/-- The name of a replay's request bears a thread or a ray of the original launch (R432). -/
def Launch.nameFound (l : Launch) (r : Replay) : Bool :=
  let n := rqName r.request
  if rqKind r.request == 0 then
    decide (lnTid n < lrTeam l.record) && decide (lnTeam n < lrGx l.record * lrGy l.record * l.cs) &&
      computeName (lnTeam n) (lnTid n) == lnBorn n
  else
    lnKind n == 1 && n.extractLsb' 96 32 == pf r.ppb 208 12 ++ pf r.ppb 220 6 ++ pf r.ppb 226 14 &&
      onScreen r.ppb (lnX n, lnY n) && decide (lnSample n < 2 ^ ppbSpp r.ppb)

/-- The replay runs (R432). -/
def Launch.replayRuns (l : Launch) (r : Replay) : Bool := l.nameFound r && (lrDet l.record || rqAllow r.request)

/-- STATUS of a replay (R432). -/
def Launch.replayStatus (l : Launch) (r : Replay) : BitVec 8 :=
  if !l.nameFound r then 5#8
  else if !lrDet l.record && !rqAllow r.request then 4#8
  else if r.full then 6#8
  else if !lrDet l.record then 4#8
  else if r.missing != 0#8 then 3#8
  else if r.used.getLsbD 1 then 2#8
  else if r.used.getLsbD 0 then 1#8
  else 0#8

/-! Writes of the dispatcher (R312, R318, R439) -/

/-- What a write of the dispatcher gives: its write completion time, a code, a page fault answered FAIL, or a wait. -/
inductive DWrite where
  | ok (wct : Sparse Nat)
  | code (c : Code) (a : DWord)
  | failed (a : DWord) (c : PfCause)
  | wait
deriving DecidableEq, Repr

/-- The dispatcher writes for a launch; a page fault is served (R403, R439). -/
def State.dwrite (s : State) (l : Launch) (p : DWord) (bs : List Byte) : State × DWrite :=
  match s.d.dfails.find? fun f => f.1 == l.uid && inRange p f.2.1 bs.length with
  | some f => (s, .failed f.2.1 f.2.2)
  | none =>
    if s.h.faults.any fun f => f.waiters.any fun w => w.1 == .launch l.uid && inRange p w.2 bs.length then (s, .wait)
    else
      match s.engStore 0 l.ctx 0#12 p bs false with
      | (s, .ok w) => (s, .ok w)
      | (s, .error (.code c a)) => (s, .code c a)
      | (s, .error (.fault c a)) => ((s.addFault l.ctx a c 1 0 (.launch l.uid)).1, .wait)

/-! The threads that a replay re-creates (R433, R434) -/

/-- The name of a re-created thread: kind 6, flag bit 2, a neighbour's flag bit 1, and no watched flag. -/
def replayName (n : BitVec 128) (named : Bool) : BitVec 128 :=
  setKind n 6#3 ((n.extractLsb' 0 8 &&& 0xFE#8) ||| (if named then 4#8 else 6#8))

/-- The record that a name implies, with DIST zero for VB64 (R434). -/
def impliedRec (p : BitVec 2048) (n : BitVec 128) : VisRec :=
  visOf p (if p.getLsbD 194 then natBytes 8 (lnPrim n * 2 ^ 39 + lnInst n * 2 ^ 19)
    else natBytes 4 (lnPrim n * 2 ^ 7 + min (lnInst n) 127))

/-- A record agrees with the PRIM and INST of a name (R434). -/
def recAgrees (p : BitVec 2048) (n : BitVec 128) (r : VisRec) : Bool :=
  r.prim == lnPrim n && r.inst == (if p.getLsbD 194 then lnInst n else min (lnInst n) 127)

/-- The pixels of the quad of a name, in the order of R328. -/
def quadPixels (n : BitVec 128) : List (Nat × Nat) :=
  (List.range 4).map fun k => tilePixel (lnX n / 16) (lnY n / 16) (lnMorton n / 4 * 4 + k)

/-- The records of a quad's on-screen members as memory holds them, or a wait. A record that cannot be read is none. -/
def State.replayReads (s : State) (l : Launch) (p : BitVec 2048) (px : List (Nat × Nat)) :
    State × Option (List (Option VisRec)) :=
  px.foldl (fun (a : State × Option (List (Option VisRec))) q =>
    match a.2 with
    | none => a
    | some rs =>
      if !onScreen p q then (a.1, some (rs ++ [none]))
      else
        match a.1.dread l 8 (visAddr p q.1 q.2 (ppbShs p)) (ppbRs p) with
        | (s, .ok bs) => (s, some (rs ++ [some (visOf p bs)]))
        | (s, .wait) => (s, none)
        | (s, _) => (s, some (rs ++ [none]))) (s, some [])

/-- The re-created threads of a quad (R433, R434), and what their records add to the masks; none while a read waits. -/
def State.replayQuad (s : State) (l : Launch) (r : Replay) : State × Option (List Start × Replay) :=
  let n := rqName r.request
  let p := r.ppb
  let px := quadPixels n
  let me := lnMorton n % 4
  match s.replayReads l p px with
  | (s, none) => (s, none)
  | (s, some rs) =>
    let good := ((rs.getD me none).map fun x => recAgrees p n x).getD false
    let on := (List.range 4).filter fun k => onScreen p (px.getD k (0, 0))
    let miss := on.filter fun k => !good || (rs.getD k none).isNone
    let recOf (k : Nat) : VisRec := if good then ((rs.getD k none).getD (impliedRec p n)) else impliedRec p n
    let all := (List.range 4).map fun k => recOf (if on.contains k then k else 0)
    match s.classify l p all px with
    | (s, .error .wait) => (s, none)
    | (s, c) =>
      let cls := match c with
        | .ok c => c
        | _ => 2
      let starts := on.map fun k =>
        let q := pixelStart p (lnMorton n / 4 * 4 + k) cls (px.getD k (0, 0)) false (all.getD k (impliedRec p n))
        (⟨q.tix, q.v, replayName q.name (k == me), .replay k (k == me), false⟩ : Start)
      (s, some (starts, { r with
        used := if decide (1 < on.length) then r.used ||| 1#8 else r.used
        missing := miss.foldl (fun m k => m ||| (1#8 <<< k)) r.missing }))

/-! What a word of a re-created thread does (R435) -/

/-- V registers that a word writes: the first and how many (R200 to R203, R154). -/
def wordRes (paired : Bool) (w : DWord) : Nat × Nat :=
  let op := (bits w 56 8).toNat
  let d := (bits w 35 8).toNat
  let wide := match Width.ofCode (bits w 53 3) with
    | some k => widthRegs k
    | none => 1
  let fmt (lo : Nat) : Nat := ((Fmt.ofCode (bits w lo 4)).map Fmt.pack).getD 1
  if paired then ((bits w 44 8).toNat, 1)
  else if [0x0F, 0x10, 0x22, 0x63, 0x64, 0x8D, 0x96].contains op then (d, 2)
  else if op == 0x4A || op == 0x4C then (d, fmt 23)
  else if op == 0x21 then (d, if (bits w 55 1) == 0#1 then 1 else 0)
  else if op == 0x59 then (d, if bits w 54 2 == 2#2 then 1 else 0)
  else if [0x70, 0x72, 0x74, 0x76].contains op then (d, wide)
  else if [0x80, 0x81, 0x82, 0xBD].contains op then (d, 4)
  else if op == 0x88 || op == 0x89 || op == 0x8B then (d, if bits w 55 1 == 1#1 then 2 else 1)
  else if op == 0xA5 then (d, 4)
  else if [0xB9, 0xBB, 0xBC, 0xE7].contains op || (op == 0xBA && bits w 55 1 == 0#1) then (d, 4)
  else if op == 0xBF then (d, min 4 ((bits w 53 3).toNat + 1))
  else if (decide (1 ≤ op) && decide (op ≤ 0x1F) && op != 3 && op != 0x0D) || (decide (0x30 ≤ op) && decide (op ≤ 0x3F) && op != 0x36)
      || [0x40, 0x41, 0x42, 0x44, 0x48, 0x49, 0x4B, 0x50, 0x51, 0x52, 0x58, 0x5A, 0x5B, 0x5C, 0x5E, 0x69, 0x6E, 0x7E, 0x8F,
        0xA7, 0xB0, 0xB1, 0xB2, 0xB3, 0xB4, 0xB8, 0xC0, 0xC1, 0xE0].contains op then (d, 1)
  else (d, 0)

/-- The instructions that a replay's threads perform nothing of (R435), with the predicate that reads false. -/
def quietIns (i : Instr) (t : Thread) : Option (Option Nat) :=
  match i with
  | .waitc _ _ _ _ data _ _ _ => some (some ((t.vget (data.toNat + 3)).toNat % 64))
  | .osstat .. | .eqopen .. | .unite .. | .find .. | .eqsize .. | .relabel .. | .eqsnap .. | .equndo .. | .eqclose ..
  | .mma .. | .mmac .. | .accz .. | .accld .. | .accst .. | .accrd .. | .accwr .. | .mperm .. | .fmtq ..
  | .coll .. | .collw .. | .resid .. => some none
  | _ => none

/-- Runs of registers that a quiet word would write in full. -/
def quietRegs (i : Instr) (w : DWord) : Nat × Nat :=
  match i with
  | .accrd _ d _ _ => (d.toNat, 16)
  | _ => wordRes false w

/-- A word whose members are threads of a replay, where R435 gives it an effect of its own: LAUNCH and AMSEND do nothing;
the others perform nothing, their results read zero, and MISSING bit 5 is set. -/
def State.replayWord (s : State) (i : Instr) (w : DWord) : Option State :=
  let ms := s.members.filterMap s.thread?
  if !ms.any Thread.isReplay then none
  else
    match i with
    | .launch .. => some s
    | .amsend .. => some s
    | _ =>
      if ms.any fun t => (quietIns i t).isSome then
        let g : Grd := ⟨bits w 44 6, w.getLsbD 43⟩
        let r := quietRegs i w
        some (s.lanes g [(BitVec.ofNat 8 r.1, r.2)] fun s t =>
          match quietIns i t with
          | none => .ok s
          | some p =>
            .ok ((s.note t 0#8 0x20#8).updThread t.uid fun u =>
              let u := u.setRun r.1 (List.replicate r.2 0#32)
              match p with
              | some p => u.pset p false
              | none => u))
      else none

/-! Trace entries (R438) -/

/-- The effective address of a thread's access (R438). -/
def State.effAddr (s : State) (t : Thread) (i : Instr) : DWord :=
  let desc (dn : DReg) (ix : VReg) : DWord :=
    let d := ((s.teamOf t).map fun k => k.d.getD dn.toNat 0#256).getD 0#256
    descBase d + ((t.vget ix.toNat).zeroExtend 64 <<< descEsize d)
  let mem (ad : MAddr) : DWord := match ad with
    | .ptr a o => ptrAddr t a o
    | .desc dn ix => desc dn ix
  match i with
  | .ld _ _ _ _ a o _ => ptrAddr t a o
  | .st _ _ _ a o _ => ptrAddr t a o
  | .ldb _ _ _ _ dn ix _ => desc dn ix
  | .stb _ _ _ dn ix _ => desc dn ix
  | .lds _ _ _ _ a o _ => (spadAddr t a o).zeroExtend 64
  | .sts _ _ _ a o _ => (spadAddr t a o).zeroExtend 64
  | .ldc _ _ _ _ a o _ => (spadAddr t a o).zeroExtend 64
  | .stc _ _ _ a o _ => (spadAddr t a o).zeroExtend 64
  | .pref _ a o => ptrAddr t a o
  | .tagst _ _ a o _ => ptrAddr t a o
  | .tagld _ _ a o _ => ptrAddr t a o
  | .dload _ _ a o _ => ptrAddr t a o
  | .waitc _ _ _ _ _ a o _ => ptrAddr t a o
  | .atom _ _ _ _ ad _ => mem ad
  | .atomc _ _ _ ad _ => mem ad
  | .red _ _ _ _ ad _ => mem ad
  | .boxt _ _ _ b => t.pair b.toNat
  | .trit _ _ _ _ _ b => t.pair b.toNat
  | .xform _ _ _ b => t.pair b.toNat
  | .shadow _ _ _ b _ => t.pair (b.toNat + 2)
  | _ => 0#64

/-- The data of a store (R438). -/
def storeData (t : Thread) (i : Instr) : Option (BitVec 128 × Nat) :=
  let of (w : Width) (d : VReg) : Option (BitVec 128 × Nat) :=
    some (BitVec.ofNat 128 (leNat (regBytes t d.toNat (widthBytes w))), widthRegs w)
  match i with
  | .st _ w d _ _ _ => of w d
  | .stb _ w d _ _ _ => of w d
  | .sts _ w d _ _ _ => of w d
  | .stc _ w d _ _ _ => of w d
  | .tagst _ d _ _ _ => some (((t.vget d.toNat).extractLsb' 0 4).zeroExtend 128, 1)
  | _ => none

/-- The results of a word where the value of an operand decides their number: GETSR of device time writes two (R284). -/
def State.resultsOf (s : State) (t : Thread) (i : Option Instr) (paired : Bool) (w : DWord) : Nat × Nat :=
  match i with
  | some (.getsr _ d b) => (d.toNat, match s.srcI t b with
    | .ok 12#32 => 2
    | _ => 1)
  | _ => wordRes paired w

/-- The guard of a word: a pair with ISEL has none, and G selects (R142, R150). -/
def guardOf (paired : Bool) (w : DWord) : Grd :=
  if !paired then wordGuard w
  else if bits w 52 4 == 9#4 || bits w 24 4 == 9#4 then ⟨63#6, false⟩
  else ⟨bits w 58 6, w.getLsbD 57⟩

/-- The 64 bytes of a trace entry (R438). -/
def TraceEnt.pack (e : TraceEnt) (t : Thread) (event code : BitVec 8) : BitVec 512 :=
  let n := min e.count 4
  let regs := match e.second with
    | some y => [t.vget e.first, t.vget y]
    | none => t.run e.first n
  let v : BitVec 128 × Nat := match e.data with
    | some d => d
    | none => (BitVec.ofNat 128 (leNat (regs.flatMap fun w => natBytes 4 w.toNat)), regs.length)
  let v := if event == 0#8 then v else (0#128, 0)
  e.pc ++ e.word ++ v.1 ++ e.addr ++ (t.p ||| 0x8000000000000000#64) ++ event ++ code ++ BitVec.ofNat 2 e.member ++ BitVec.ofBool e.named
    ++ BitVec.ofBool e.given ++ BitVec.ofNat 3 v.2 ++ 0#105

/-- Puts an entry in the pending list: a word that a parked thread issues again keeps its place. -/
def Replay.push (r : Replay) (e : TraceEnt) : Replay :=
  match r.pend.findIdx? fun k => k.thread == e.thread && k.done.isNone && k.parked with
  | some i => { r with pend := r.pend.set i e }
  | none => { r with pend := r.pend ++ [e] }

/-- W register that a word's source B reads (R144). -/
def wordW (i : Instr) : Option Nat :=
  match i.layout with
  | some (.std r) => if r.kind == 1#3 then some (r.sb.toNat % 64) else none
  | _ => none

/-- What issuing a word adds to a replay's trace (R438, R432): `us` are the members as they stood before it, `u0` the next
uid then. A member that has parked issues the word again. -/
def State.traceWord (s : State) (us : List Thread) (i : Option Instr) (paired : Bool) (w : DWord) (u0 : Nat) : State :=
  us.foldl (fun s t =>
    match s.thread? t.uid with
    | none => s
    | some now =>
      match now.kind with
      | .replay m named =>
        let on := t.guard (guardOf paired w)
        let stored := s.x.flights.findSome? fun f =>
          if f.thread == t.uid && decide (u0 ≤ f.uid) then (match f.op with
            | .store a bs => some (a.va, BitVec.ofNat 128 (leNat bs), (bs.length + 3) / 4)
            | _ => none) else none
        let res := s.resultsOf t i paired w
        let given := ((s.launch? t.launch).bind Launch.replay).any fun r => r.given
        let e : TraceEnt :=
          { thread := t.uid, named := named, member := m, pc := t.pc, word := w, event := if on then 0#8 else 1#8,
            code := 0#8, first := res.1, count := res.2,
            second := if paired then some (bits w 16 8).toNat else none,
            data := (i.bind (storeData t)).or (stored.map fun x => (x.2.1, x.2.2)),
            addr := if on then (stored.map fun x => x.1).getD ((i.map (s.effAddr t)).getD 0#64) else 0#64,
            given := named && given, flight := u0,
            parked := (match now.status with | .parkedMem _ | .copyWait .. => true | _ => false), done := none }
        let s := s.updReplay t.launch fun r => r.push e
        let s := match i.bind wordW with
          | some n =>
            if on && decide (4 < n) && !(((s.launch? t.launch).bind Launch.replay).any fun r => r.wset.contains n) then
              s.note t 0#8 0x40#8
            else s
          | none => s
        match i with
        | some (.movw _ n _) => if on then s.updReplay t.launch fun r => { r with wset := n.toNat :: r.wset } else s
        | _ => s
      | _ => s) s

/-- The words of a replay's bundle forget which record was taken before. -/
def State.traceBegin (s : State) (us : List Thread) : State :=
  us.foldl (fun s t => if t.isReplay then s.updReplay t.launch fun r => { r with given := false } else s) s

/-- A pending entry is complete once nothing of its word is left to do (R36, R438). -/
def State.resolveEnt (s : State) (e : TraceEnt) : TraceEnt :=
  if e.done.isSome then e
  else
    match s.thread? e.thread with
    | none => { e with done := some (e.pc ++ e.word ++ 0#384) }
    | some t =>
      let busy := e.parked || (s.x.flights.any fun f => f.thread == t.uid && decide (e.flight ≤ f.uid)) ||
        (match t.status with | .held _ | .parkedMem _ | .copyWait .. => true | _ => false)
      if busy then e else { e with done := some (e.pack t e.event 0#8) }

/-- A re-created thread has raised a code (R435): it is written as its word's entry, or as one of its own where no word has
issued, and the thread is treated as exited. -/
def State.traceTrap (s : State) (t : Thread) : State :=
  match t.trap, t.kind with
  | some tr, .replay m named =>
    let code := reportCode tr.report
    let pc := tr.report.extractLsb' 320 64
    let mark (r : Replay) : Replay :=
      match r.pend.findIdx? fun e => e.thread == t.uid && e.done.isNone && e.pc == pc with
      | some i => { r with pend := r.pend.modify i fun e => { e with done := some (e.pack t 2#8 code) } }
      | none =>
        let e : TraceEnt :=
          { thread := t.uid, named := named, member := m, pc := pc, word := (s.fetchedWord t.core t.ctx pc).getD 0#64,
            event := 2#8, code := code, first := 0, count := 0, second := none, data := none, addr := 0#64, given := false,
            flight := 0, parked := false, done := none }
        { r with pend := r.pend ++ [{ e with done := some (e.pack t 2#8 code) }] }
    (s.updReplay t.launch mark).exitBoth t.uid
  | _, _ => s

/-! The end of a replay (R437, R439) -/

/-- Entries that the trace buffer holds. -/
def rqRoom (r : BitVec 512) : Nat := rqTrsize r / 64 - 1

/-- The trace header (R437). -/
def Launch.traceHeader (l : Launch) (r : Replay) : BitVec 512 :=
  rqName r.request ++ 0#256 ++ r.finalPc ++ l.replayStatus r ++ r.used ++ r.missing ++ 0#8 ++ BitVec.ofNat 32 r.entries

/-- The threads of a replay that have not exited. -/
def State.replayLive (s : State) (l : Launch) : List Thread :=
  s.x.threads.filter fun t => t.launch == l.uid && t.isReplay && t.status != .exited

/-- A write of the trace is refused (R439): the context freezes, and the replay ends. -/
def State.traceRefused (s : State) (l : Launch) (c : Cause) : State :=
  let named := s.x.threads.find? fun t => t.launch == l.uid && t.isNamed
  let r := match named with
    | some t => mkReport t.name 0#64 c.addr 0#64 (s.timeOf t) c t.core t.slice t.lane t.slot t.ctx 0 true (s.srTeam t) t.srTid
    | none => bareReport (s.now 0) l.ctx c
  let s := s.updReplay l.uid fun r => { r with dead := true, pend := [], headerDone := true }
  (s.replayLive l).foldl (fun s t => s.exitBoth t.uid) (s.freeze l.ctx r true)

/-- A thread of a full trace stops (R439): a word that it was held at, waited for, or would issue again after its park counts as
it stands. -/
def State.traceStop (s : State) (t : Thread) : State :=
  let as (e : TraceEnt) : TraceEnt :=
    if e.thread == t.uid && e.done.isNone then { e with done := some (e.pack t e.event 0#8) } else e
  let s := s.updReplay t.launch fun r => { r with pend := r.pend.map as }
  let waits (f : Flight) : Bool := f.thread == t.uid && (match f.op with
    | .bar .. | .waitk .. => true
    | _ => false)
  let s : State := { s with x := { s.x with flights := s.x.flights.filter fun f => !waits f } }
  s.exitBoth t.uid

/-- Writes the complete entries at the front of the list, in order. -/
def State.traceFlush (s : State) (lid : Nat) : Nat → State
  | 0 => s
  | k + 1 =>
    match s.launch? lid with
    | none => s
    | some l =>
      match l.replay with
      | none => s
      | some r =>
        match r.pend with
        | [] => s
        | e :: rest =>
          match e.done with
          | none => s
          | some b =>
            let p := rqTrbase r.request + BitVec.ofNat 64 (64 * (r.entries + 1))
            match s.dwrite l p (natBytes 64 b.toNat) with
            | (s, .wait) => s
            | (s, .code c a) => s.traceRefused l ⟨c, 0#8, a, true, false⟩
            | (s, .failed a c) => s.traceRefused l (faultCause c a true)
            | (s, .ok w) =>
              let s := s.updReplay lid fun r => { r with
                entries := r.entries + 1, pend := rest, finalPc := if e.named then e.pc else r.finalPc }
              (s.updLaunch lid fun l => { l with wct := wctJoin l.wct w }).traceFlush lid k

/-- A replay goes on between its words: codes become entries, entries complete and are written, a full trace stops its
threads, and the header is written last (R435, R438, R439). -/
def State.replayTick (s : State) (lid : Nat) : State :=
  match s.launch? lid with
  | none => s
  | some l =>
    match l.replay with
    | none => s
    | some r0 =>
      if r0.headerDone || l.placed == 0 then s
      else
        let s := ((s.replayLive l).filter fun t => t.trap.isSome && !t.freshTrap).foldl State.traceTrap s
        let s := s.updReplay lid fun r => { r with pend := r.pend.map s.resolveEnt }
        let s := s.updReplay lid fun r =>
          let room := rqRoom r.request - r.entries
          if decide (room < r.pend.length) then { r with full := true, pend := r.pend.take room } else r
        match (s.launch? lid).bind Launch.replay with
        | none => s
        | some r =>
          let ends (t : Thread) : Bool := (match t.status with | .held _ | .parkedMem _ | .copyWait .. => true | _ => false) ||
            !(r.pend.any fun e => e.thread == t.uid && e.done.isNone && !e.parked)
          let stop := if r.full then (s.replayLive l).filter ends else []
          let s := stop.foldl State.traceStop s
          let s := s.traceFlush lid (r.pend.length + 1)
          match s.launch? lid with
          | none => s
          | some l =>
            match l.replay with
            | none => s
            | some r =>
              if r.headerDone || !r.pend.isEmpty || !(s.replayLive l).isEmpty then s
              else
                match s.dwrite l (rqTrbase r.request) (natBytes 64 (l.traceHeader r).toNat) with
                | (s, .wait) => s
                | (s, .code c a) => s.traceRefused l ⟨c, 0#8, a, true, false⟩
                | (s, .failed a c) => s.traceRefused l (faultCause c a true)
                | (s, .ok w) =>
                  (s.updReplay lid fun r => { r with headerDone := true }).updLaunch lid fun l => { l with wct := wctJoin l.wct w }

end Sys2Proof.Machine
end

