-- ==== Sys2Proof/Machine/Launch.lean ====
section
/-! DEFINITION. The dispatcher's events: placing clusters, tile jobs, the completion of launches, and ORDERED_STALL (R311 to
R320, R327 to R332, R414, R430 to R434). -/

namespace Sys2Proof.Machine

/-! PLACE_CLUSTER -/

/-- A swapped team to be restored, or a queued message, comes before any new team on a core (R313): the first of the swapped
teams, if it can be restored there. A launch for which teams have been pre-empted comes after them too, until its reservation
keeps them off the core (R453). -/
def State.coreTaken (s : State) (core : Nat) : Bool :=
  (s.x.teams.any fun tm => s.restorable tm && !s.restoreBefore tm && s.restoreFits tm core) ||
    s.e.msgs.any fun m => m.queued && m.group.isNone && m.target == core && !(s.ctx m.ctx).frozen &&
      (match s.msgEntry m.launch m.handler with
        | some e => (List.range 8).any fun sl =>
            (s.groupFits core sl (e.extractLsb' 128 8).toNat (s.lweight m.launch)).isSome
        | none => false)

/-- The clusters that a placement at a core places, each with its rectangle: the next one where its rectangle's top-left
core is that core, or every cluster of a cooperative launch (R314, R317, R320). -/
def State.placeSpot (s : State) (l : Launch) (core : Nat) : List (Nat × List Nat) :=
  if l.coop then
    match s.packAll l fun c => !s.reservedFrom l c with
    | some rs => if (rs.headD []).headD 144 == core then l.clusterOrder.zip rs else []
    | none => []
  else
    match l.next with
    | none => []
    | some (c, _) => ((s.spots l).find? fun r => r.headD 144 == core).toList.map fun r => (c, r)

/-- A launch has placed more of its clusters; one that has placed them all runs, and its record leaves its queue (R311,
R313, R453). -/
def State.placedMore (s : State) (lid n : Nat) : State :=
  match s.launch? lid with
  | none => s
  | some l =>
    let all := decide (l.total ≤ l.placed + n)
    let s := s.updLaunch lid fun l =>
      { l with placed := l.placed + n, starve := s.x.clk, resv := [], state := if all then .running else l.state }
    let s : State := { s with d := { s.d with
      rot := sput (sput s.d.rot l.prio l.ctx) (4 + 64 * l.prio + l.ctx) l.queue } }
    if all then s.setQueue l.ctx l.queue ((s.queue l.ctx l.queue).filter fun q => q.uid != lid) else s

/-- A launch's own reads have stopped it (R340): the context freezes; the reads are made again after RESUME. -/
def State.placeStop (s : State) (l : Launch) (x : QStop) : State :=
  match x with
  | .wait => s
  | .freeze r =>
    ({ s with d := { s.d with dfails := s.d.dfails.filter fun f => f.1 != l.uid } } : State).freeze l.ctx r true

/-- The threads of every rank of the clusters to be placed. -/
def State.placeStarts (s : State) (l : Launch) (cs : List (Nat × List Nat)) :
    State × Except QStop (List (Nat × List Nat × List PixelStart)) :=
  cs.foldl (fun (a : State × Except QStop (List (Nat × List Nat × List PixelStart))) c =>
    match a.2 with
    | .error _ => a
    | .ok xs =>
      if lrKind l.record != 2 then (a.1, .ok (xs ++ [(c.1, c.2, [])]))
      else
        match a.1.pixelTeam l (c.2.headD 0) c.1 with
        | (s, .ok ps) => (s, .ok (xs ++ [(c.1, c.2, ps)]))
        | (s, .error e) => (s, .error e)) (s, .ok [])

/-- A read for quad fusion or of a visibility record whose page fault has been answered FAIL freezes its context at once (R340,
R405): the reads are made again for the clusters that come next, and the report is that of the one that stops; where none has
room yet, that of a team on core 0 (log 81). -/
def State.placeFails (s : State) : State :=
  let hit (l : Launch) : Bool :=
    l.state == .placing && lrKind l.record == 2 && !l.isReplay && s.d.dfails.any fun f => f.1 == l.uid
  (s.d.launches.filter hit).foldl (fun s l =>
    match s.d.dfails.find? fun f => f.1 == l.uid with
    | none => s
    | some f =>
      let core := ((List.range 144).find? fun c => !(s.placeSpot l c).isEmpty).getD 0
      let cs := match s.placeSpot l core with
        | [] => (if l.coop then l.clusterOrder else l.next.toList.map Prod.fst).map fun c => (c, [core])
        | cs => cs
      s.placeStop l (match (s.placeStarts l cs).2 with
        | .error (.freeze r) => .freeze r
        | _ => .freeze (bareReport (s.now 0) l.ctx (faultCause f.2.2 f.2.1 true)))) s

/-- A tile job starts on a core (R332). -/
def State.addTile (s : State) (l : Launch) (core index : Nat) : State :=
  let u := s.x.nextUid
  { s with
    x := { s.x with nextUid := u + 1 }
    e := { s.e with tiles := s.e.tiles ++ [⟨u, l.uid, core, index, s.x.clk, none, 0#128, []⟩] } }

/-- A replay of a KIND 1 ray (R433): the ray is formed and traced again, and the trace takes one entry. A code that it meets
is the entry's. -/
def State.replayRay (s : State) (l : Launch) (r : Replay) (core : Nat) : State × Option TraceEnt :=
  let n := rqName r.request
  let t := mkThread 0 core 0 0 0 0 none 0 l.uid l.ctx .team 1 0#64 n
  let ent (code : BitVec 8) (bs : List Byte) : TraceEnt :=
    let k := (bs.length + 3) / 4
    let b : BitVec 512 := 0#128 ++ BitVec.ofNat 128 (leNat bs) ++ 0#128 ++ (if code == 0#8 then 0#8 else 2#8) ++ code ++ 0#4
      ++ BitVec.ofNat 3 k ++ 0#105
    { thread := 0, named := false, member := 0, pc := 0#64, word := 0#64, event := 0#8, code := code, first := 0, count := 0,
      second := none, data := none, addr := 0#64, given := false, flight := 0, parked := false, done := some b }
  let p := r.ppb
  match s.travRun [] none (travRoot t (camFlags p) (ppbRoot p) (camRay p (lnX n) (lnY n) (lnSample n))) with
  | (s, _, .ok (hs, _)) => (s, some (ent 0#8 (visBytes p (closest hs))))
  | (s, _, .error (.code c _)) => (s, some (ent c.val []))
  | (s, _, .error (.fault c a)) =>
    match s.d.dfails.find? fun f => f.1 == l.uid && ptrVa f.2.1 / 65536 == ptrVa a / 65536 with
    | some _ => (s, some (ent Code.pageFault.val []))
    | none => ((s.addFault l.ctx a c 8 (coreSector core) (.launch l.uid)).1, none)

/-- A replay is placed (R430, R432, R433): its threads as one team, a ray alone, or nothing where it does not run. -/
def State.placeReplay (s : State) (l : Launch) (r : Replay) (core : Nat) : State :=
  let n := rqName r.request
  let alone (s : State) (es : List TraceEnt) : State :=
    (s.updLaunch l.uid fun l =>
      { l with ended := [0], replay := l.replay.map fun r => { r with pend := es } }).placedMore l.uid 1
  if !l.replayRuns r then alone s []
  else if rqKind r.request == 1 then
    match s.replayRay l r core with
    | (s, some e) => alone s [e]
    | (s, none) => s
  else
    let go (s : State) (cluster rank : Nat) (sts : List Start) : State :=
      (s.placeTeam l core cluster rank sts none).1.placedMore l.uid 1
    if rqKind r.request == 0 then
      let team := lnTeam n
      go s (team / l.cs) (team % l.cs)
        [⟨lnTid n, [], replayName (computeName team (lnTid n)) true, .replay 0 true, false⟩]
    else
      match s.replayQuad l r with
      | (s, none) => s
      | (s, some (sts, r')) =>
        go (s.updReplay l.uid fun _ => r') (lnY n / 16 * l.gx + lnX n / 16) 0 sts

/-- PLACE_CLUSTER (R313, R314, R316 to R318, R320): the next cluster of a launch, or every cluster of a cooperative one, is
placed on the rectangle whose top-left core is given, if it is that launch's turn and the cores have room. -/
def execPlaceCluster (lid core : Nat) (s : State) : Out :=
  .next (match s.launch? lid with
    | none => s
    | some l =>
      let before := s.d.launches.any fun k => k.uid != lid && s.mayPlace k && s.ahead k l && s.nextFits k
      if !s.mayPlace l || before || s.launchWaits l then s
      else
        let cs := s.placeSpot l core
        if cs.isEmpty || (cs.flatMap Prod.snd).any s.coreTaken then s
        else if l.tileJobs then
          (cs.foldl (fun s c => s.addTile l (c.2.headD 0) c.1) s).placedMore lid cs.length
        else
          match l.replay with
          | some r => s.placeReplay l r core
          | none =>
            match s.placeStarts l cs with
            | (s, .error e) => s.placeStop l e
            | (s, .ok xs) =>
              let sts (cluster rank : Nat) : List Start :=
                match xs.find? fun x => x.1 == cluster with
                | some x => if lrKind l.record == 2 then pixelStarts x.2.2 else l.computeStarts (l.cs * cluster + rank)
                | none => []
              (s.placeAll l cs sts).placedMore lid cs.length)

/-! TILE_JOB (R327 to R332) -/

/-- The rays of a tile: pixel and sample (R327, R329). -/
def tileRays (l : Launch) (index : Nat) : List (Nat × Nat × Nat) :=
  ((List.range 256).map fun i => tilePixel (index % l.gx) (index / l.gx) i).filter (onScreen l.ppb) |>.flatMap fun q =>
    (List.range (2 ^ ppbSpp l.ppb)).map fun k => (q.1, q.2, k)

/-- The name of a camera ray (R343). -/
def rayName (p : BitVec 2048) (h : Option TriHit) (q : Nat × Nat × Nat) : BitVec 128 :=
  match h with
  | some h => pixelName p h.prim h.inst q.1 q.2.1 q.2.2 1#3 0#8
  | none => pixelName p 0x1FFFFFF 0xFFFFF q.1 q.2.1 q.2.2 1#3 0#8

/-- A tile job ends (R332). -/
def State.endTile (s : State) (k : Tile) (w : Sparse Nat) : State :=
  ({ s with e := { s.e with tiles := s.e.tiles.filter fun t => t.uid != k.uid } } : State).updLaunch k.launch fun l =>
    { l with ended := k.index :: l.ended, wct := wctJoin l.wct w }

/-- Changes a tile job. -/
def State.updTile (s : State) (u : Nat) (f : Tile → Tile) : State :=
  { s with e := { s.e with tiles := s.e.tiles.map fun t => if t.uid == u then f t else t } }

/-- An access of a tile job has stopped at a ray (R332, R405): a page fault is served and the job resumes, or is answered FAIL
and freezes the context; any other code freezes it at once. -/
def State.tileStop (s : State) (l : Launch) (k : Tile) (name : BitVec 128) (x : Stop) : State :=
  match x with
  | .code c a => s.tileFreeze k l.ctx name ⟨c, 0#8, a, true, false⟩
  | .fault c a =>
    ((s.updTile k.uid fun t => { t with stalled := some 0, name := name }).addFault l.ctx a c 8 (coreSector k.core) (.tile k.uid)).1

/-- Traces the rays of a tile in order, from where the job stands, with so many more reads: what it has read, and each ray with
its hit and whether it read poison, or the name of the ray that stopped (R337, R343, R344). -/
def State.tileTrace (s : State) (l : Launch) (k : Tile) (more : Option Nat) :
    State × List (List Byte × Bool) × Except (BitVec 128 × Stop) (List ((Nat × Nat × Nat) × Option TriHit × Bool)) :=
  let t := mkThread 0 k.core 0 0 0 0 none 0 l.uid l.ctx .team 1 0#64 0#128
  let p := l.ppb
  let r := (tileRays l k.index).foldl
    (fun (a : State × TravSt × Except (BitVec 128 × Stop) (List ((Nat × Nat × Nat) × Option TriHit × Bool))) q =>
      match a.2.2 with
      | .error _ => a
      | .ok xs =>
        match a.1.travSt a.2.1 (travRoot t (camFlags p) (ppbRoot p) (camRay p q.1 q.2.1 q.2.2)) with
        | (s, st, .ok hs) =>
          let bad := (st.read.take (st.read.length - a.2.1.read.length)).any Prod.snd
          (s, st, .ok (xs ++ [(q, closest hs, bad)]))
        | (s, st, .error x) => (s, st, .error (s.formName l.ctx (rayName p none q), x)))
    (s, (⟨k.log, [], more, false⟩ : TravSt), .ok [])
  (r.1, r.2.1.read.reverse, r.2.2)

/-- A tile job reads one more node, and stands there (R337). -/
def State.tileNode (s : State) (u : Nat) : State :=
  match s.e.tiles.find? fun k => k.uid == u with
  | none => s
  | some k =>
    match s.launch? k.launch with
    | none => s
    | some l =>
      if k.stalled.isSome then s
      else
        match s.tileTrace l k (some 1) with
        | (s, log, .ok _) => s.updTile u fun t => { t with log := log }
        | (s, log, .error e) => (s.updTile u fun t => { t with log := log }).tileStop l k e.1 e.2

/-- Writes a ray's visibility record, and its contributor record where its name is watched (R331, R332, R344, R426). -/
def State.tileWrite (s : State) (l : Launch) (k : Tile) (q : Nat × Nat × Nat) (h : Option TriHit) (bad : Bool) :
    State × Except (BitVec 128 × Stop) (Sparse Nat) :=
  let p := l.ppb
  let bs := visBytes p h
  let va := visAddr p q.1 q.2.1 q.2.2
  let name := s.formName l.ctx (rayName p h q)
  match s.engStore k.core l.ctx 0#12 va bs bad with
  | (s, .error x) => (s, .error (name, x))
  | (s, .ok w) =>
    if lnWatched name then
      (s.pushRecord (mkRecord name (BitVec.ofNat 128 (leNat bs)) 0#64 (s.now (coreDie k.core)) 0#32 va k.core l.ctx
        (s.watchMask l.ctx name (some (va, bs.length))) false bs.length 0 0 0 false 3), .ok w)
    else (s, .ok w)

/-- The checks of every record write of a tile, before the first is made. -/
def State.tileChecks (s : State) (l : Launch) (k : Tile) (xs : List ((Nat × Nat × Nat) × Option TriHit × Bool)) :
    State × Except (BitVec 128 × Stop) Unit :=
  xs.foldl (fun (a : State × Except (BitVec 128 × Stop) Unit) x =>
    match a.2 with
    | .error _ => a
    | .ok _ =>
      match a.1.engCheck k.core l.ctx (visAddr l.ppb x.1.1 x.1.2.1 x.1.2.2) (ppbRs l.ppb) true 0#12 with
      | (s, .ok _) => (s, .ok ())
      | (s, .error e) => (s, .error (s.formName l.ctx (rayName l.ppb x.2.1 x.1), e))) (s, .ok ())

/-- TILE_JOB (R327 to R332): the tile's camera rays are traced and their records written. A frozen context's tile in flight
finishes (R378). -/
def execTileJob (tile : Nat) (s : State) : Out :=
  .next (match s.e.tiles.find? fun k => k.uid == tile with
    | none => s
    | some k =>
      match s.launch? k.launch with
      | none => s
      | some l =>
        if k.stalled.isSome then s
        else
          match s.tileTrace l k none with
          | (s, log, .error e) => (s.updTile tile fun t => { t with log := log }).tileStop l k e.1 e.2
          | (s, log, .ok xs) =>
            let s := s.updTile tile fun t => { t with log := log }
            match s.tileChecks l k xs with
            | (s, .error e) => s.tileStop l k e.1 e.2
            | (s, .ok _) =>
              let r := xs.foldl (fun (a : State × Except (BitVec 128 × Stop) (Sparse Nat)) x =>
                match a.2 with
                | .error _ => a
                | .ok w =>
                  match a.1.tileWrite l k x.1 x.2.1 x.2.2 with
                  | (s, .ok v) => (s, .ok (wctJoin w v))
                  | (s, .error e) => (s, .error e)) (s, .ok [])
              match r with
              | (s, .error e) => s.tileStop l k e.1 e.2
              | (s, .ok w) => s.endTile k w)

/-! LAUNCH_COMPLETE (R312, R318, R319) -/

/-- Nothing of a launch is left to run, and nothing of its teams is left to reach memory (R312). -/
def State.launchOver (s : State) (l : Launch) : Bool :=
  l.state == .running
    && decide (l.total * (if l.tileJobs || l.isReplay then 1 else l.cs) ≤ l.ended.length)
    && !(s.x.teams.any fun t => t.launch == l.uid) && !(s.e.tiles.any fun t => t.launch == l.uid)
    && !(s.y.sent.any fun q => q.launch == l.uid) && !(s.y.couch.any fun q => q.2.any fun e => e.launch == l.uid)
    && (s.e.rays.all fun r => r.launch != l.uid || r.stage == .done)
    && (l.replay.all fun r => r.headerDone)

/-- The summary of sampling is written (R318): teams sampled, matched, mismatched and skipped. False while the write waits on
a page fault. -/
def State.detSummary (s : State) (l : Launch) : State × Bool :=
  if !lrDet l.record || lrDetlog l.record == 0#64 then (s, true)
  else
    match s.dwrite l (lrDetlog l.record) ((List.range 4).flatMap fun i => natBytes 8 (l.det.getD i 0)) with
    | (s, .wait) => (s, false)
    | (s, .ok w) => (s.updLaunch l.uid fun l => { l with wct := wctJoin l.wct w }, true)
    | (s, _) => (s, true)

/-- The release work of level 7 for a launch's stores (R94, R312). -/
def State.launchRelease (s : State) (l : Launch) : State :=
  let r := (List.range 144).foldl (fun (a : State × Sparse Nat) c =>
    let r := a.1.releaseCore c l.ctx
    (r.1, wctJoin a.2 r.2)) (s, [])
  r.1.updLaunch l.uid fun l => { l with wct := wctJoin l.wct r.2, released := true }

/-- SIGVAL is added to the SIGNAL counter (R312); an atomic does not act on the window (R228; log 33). -/
def State.signal (s : State) (l : Launch) : State × DWrite :=
  let p := lrSignal l.record
  if p == 0#64 then (s, .ok [])
  else
    match s.d.dfails.find? fun f => f.1 == l.uid && inRange p f.2.1 8 with
    | some f => (s, .failed f.2.1 f.2.2)
    | none =>
      if s.h.faults.any fun f => f.waiters.any fun w => w.1 == .launch l.uid && inRange p w.2 8 then (s, .wait)
      else
        match s.engCheck 0 l.ctx p 8 true 0#12 with
        | (s, .error (.code c a)) => (s, .code c a)
        | (s, .error (.fault c a)) => ((s.addFault l.ctx a c 2 0 (.launch l.uid)).1, .wait)
        | (s, .ok segs) =>
          let pa := (segs.headD (0, 0)).1
          if isWindow pa then (s, .ok [])
          else
            let r := s.rmwHome none l.ctx 0#12 pa 8 (fun old => some (old + lrSigval l.record)) false
            (r.1, .ok (wctAdd [] (homeDie pa) r.2.2))

/-- A completed launch's section entries, bindings and failed reads are dropped (R235, R261, R312). -/
def State.dropLaunch (s : State) (l : Launch) : State :=
  ({ s with
    y := { s.y with
      keys := s.y.keys.filter fun k => k.launch != l.uid
      backing := s.y.backing.filter fun k => k.launch != l.uid }
    e := { s.e with bindings := s.e.bindings.filter fun b => b.launch != l.uid }
    d := { s.d with dfails := s.d.dfails.filter fun f => f.1 != l.uid } } : State).updLaunch l.uid fun l =>
      { l with state := .done }

/-- LAUNCH_COMPLETE (R312): once every team has ended, the sampling summary and the release work of level 7; once that is
done, the signal, and the launch's entries and bindings go. A signal that cannot be added freezes the context; the launch
has completed all the same. -/
def execLaunchComplete (lid : Nat) (s : State) : Out :=
  .next (match s.launch? lid with
    | none => s
    | some l =>
      if !s.launchOver l then s
      else if !l.released then
        match s.detSummary l with
        | (s, false) => s
        | (s, true) => s.launchRelease l
      else if !s.allPassed l.wct then s
      else
        let bad (s : State) (c : Code) (arg : BitVec 8) : State :=
          s.freeze l.ctx (bareReport (s.now 0) l.ctx ⟨c, arg, lrSignal l.record, false, false⟩) true
        match s.signal l with
        | (s, .wait) => s
        | (s, .ok _) => s.dropLaunch l
        | (s, .code c _) => (bad s c 0#8).dropLaunch l
        | (s, .failed _ c) => (bad s .pageFault c.val).dropLaunch l)

/-- A launch that is done is forgotten once nothing refers to it. -/
def State.forgetLaunches (s : State) : State :=
  let dead (l : Launch) : Bool := l.state == .done && l.traps.isEmpty && !(s.x.threads.any fun t => t.launch == l.uid)
    && !(s.x.groups.any fun g => g.launch == l.uid) && !(s.e.msgs.any fun m => m.launch == l.uid)
    && !(s.e.rays.any fun r => r.launch == l.uid && r.stage != .done) && !(s.x.ghosts.any fun t => t.launch == l.uid)
  if s.d.launches.any dead then
    let gone := (s.d.launches.filter dead).map Launch.uid
    { s with
      d := { s.d with launches := s.d.launches.filter fun l => !dead l }
      e := { s.e with rays := s.e.rays.filter fun r => !gone.contains r.launch } }
  else s

/-! ORDERED_STALL (R414) -/

/-- The threads of a launch that the detector watches: those of its teams, shader groups and message-handler groups. -/
def State.stallThreads (s : State) (l : Launch) : List Thread :=
  s.x.threads.filter fun t => t.launch == l.uid && t.status != .exited && !t.isHandler && !t.isReplay

/-- A thread is Parked on section and has not been granted. -/
def State.waitsSection (s : State) (t : Thread) : Bool :=
  t.status == .parkedSec && !(s.x.flights.any fun f => f.thread == t.uid && (match f.op with
    | .osenter _ _ _ g => g
    | _ => false))

/-- A thread is Parked on monitor with no timeout pending, and has not been woken. -/
def State.waitsForever (s : State) (t : Thread) : Bool :=
  t.status == .parkedMon && (s.y.monitors.any fun m => (s.flight? m.flight).any (fun f => f.thread == t.uid) &&
    m.deadline.isNone && m.woken.isNone)

/-- A watched thread stands stalled: Parked on section, Held, or Parked on monitor with no timeout pending (R414). -/
def State.stalled (s : State) (t : Thread) : Bool :=
  t.trap.isNone && (s.waitsSection t || s.waitsForever t || (match t.status with
    | .held _ => true
    | _ => false))

/-- The condition of R414 but for trap handlers: every watched thread stands stalled, and one waits for a section. -/
def State.stalledNow (s : State) (l : Launch) : Bool :=
  let ts := s.stallThreads l
  ts.any s.waitsSection && ts.all s.stalled

/-- A watched thread waits to be granted, woken or resumed: for a section, on a monitor, Held, or Parked on memory. -/
def State.awaits (s : State) (t : Thread) : Bool :=
  s.waitsSection t || (match t.status with
    | .held _ | .parkedMem _ => true
    | .parkedMon => s.y.monitors.any fun m => (s.flight? m.flight).any (fun f => f.thread == t.uid) && m.woken.isNone
    | _ => false)

/-- Sections that a thread has been granted. -/
def State.grants (s : State) (t : Thread) : Nat :=
  t.secs.length + (s.x.flights.filter fun f => f.thread == t.uid && (match f.op with
    | .osenter _ _ _ g => g
    | _ => false)).length

/-- The watched threads of a launch, each with whether it waits, and how many sections it has been granted. -/
def State.stallList (s : State) (l : Launch) : List (Nat × Bool × Nat) :=
  (s.stallThreads l).map fun t => (t.uid, s.awaits t, s.grants t)

/-- Between two looks at its watched threads, one has exited, has been woken or resumed, or has been granted a section. -/
def stallMoved (old now : List (Nat × Bool × Nat)) : Bool :=
  (old.any fun w => !now.any fun n => n.1 == w.1 && (n.2.1 || !w.2.1) && decide (n.2.2 ≤ w.2.2)) ||
    now.any fun n => decide (0 < n.2.2) && !old.any fun w => w.1 == n.1

/-- Keeps the clock since which each launch has stood stalled. An episode ends when any watched thread is granted, woken,
resumed or exits (R414). -/
def State.watchStall (s : State) : State :=
  let upd (l : Launch) : Launch :=
    let now := s.stallList l
    let l := if !l.stallFired then l else if stallMoved l.watched now then l.endEpisode else { l with watched := now }
    let handled := s.x.threads.any fun t => t.launch == l.uid && t.isHandler && t.status != .exited
    { l with stallSince := if s.stalledNow l && !handled then l.stallSince.or (some s.x.clk) else none }
  { s with d := { s.d with launches := s.d.launches.map upd } }

/-- The waiters of a launch's sections: thread, key, sequence and registration time. -/
def State.sectionWaiters (s : State) (l : Launch) : List (Thread × DWord × Word × Nat) :=
  (s.y.keys.filter fun k => k.launch == l.uid).flatMap fun k => k.waiters.filterMap fun w =>
    ((s.flight? w.1).bind fun f => s.thread? f.thread).bind fun t =>
      if s.waitsSection t then some (t, k.key, w.2.1, w.2.2) else none

/-- Order of waiters (R414): registration time, the slice of the key, then position. -/
def waiterBefore (a b : Thread × DWord × Word × Nat) : Bool :=
  if a.2.2.2 != b.2.2.2 then decide (a.2.2.2 < b.2.2.2)
  else if keySlice a.2.1 != keySlice b.2.1 then decide (keySlice a.2.1 < keySlice b.2.1)
  else decide (a.1.posKey < b.1.posKey)

/-- The report of ORDERED_STALL (R376): the oldest waiter, its sequence and its key. -/
def State.stallReport (s : State) (l : Launch) : BitVec 512 :=
  let oldest := (s.sectionWaiters l).foldl (fun a w => match a with
    | none => some w
    | some b => if waiterBefore w b then some w else some b) (none : Option (Thread × DWord × Word × Nat))
  match oldest with
  | none => bareReport (s.now 0) l.ctx (Cause.of .orderedStall)
  | some (t, key, seq, _) =>
    mkReport t.name (seq.zeroExtend 64) key 0#64 (s.timeOf t) (Cause.at .orderedStall key) t.core t.slice t.lane t.slot t.ctx
      0 false (s.srTeam t) t.srTid

/-- ORDERED_STALL (R414): a launch that has stood stalled for 2^20 fabric clocks raises the launch trap once; where the
episode outlasts the end of its handler by as long, the context freezes. -/
def execOrderedStall (lid : Nat) (s : State) : Out :=
  .next (match s.launch? lid with
    | none => s
    | some l =>
      if l.stallFired then
        match l.stallEnd with
        | some c =>
          if c + 2 ^ 20 ≤ s.x.clk then
            (s.updLaunch lid fun l => { l with stallEnd := none }).freeze l.ctx (s.stallReport l) true
          else s
        | none => s
      else
        match l.stallSince with
        | some c =>
          if c + 2 ^ 20 ≤ s.x.clk then
            (s.updLaunch lid fun l => { l with stallFired := true, watched := s.stallList l }).launchTrap lid (s.stallReport l)
          else s
        | none => s)

end Sys2Proof.Machine
end

