-- ==== Sys2Proof/Machine/Board.lean ====
section
/-! DEFINITION. Time agreement, scrubbing, health monitors, the host and peer sides of memory, links, and boot (R97 to R100,
R345, R350, R354 to R356, R409, R410, R443 to R448). -/

namespace Sys2Proof.Machine

/-! Agreement of device time (R98, R409, R410) -/

/-- Drops every clean leased sector of the lines homed on a guarded die, at every place (R409). -/
def State.dropGuarded (s : State) : State :=
  let keep (c : Copy) : Option Copy :=
    if c.own.isSome || !s.guarded (homeDie (256 * c.line)) then some c
    else if c.mask.isEmpty then none
    else some { c with sectors := [] }
  { s with m := { s.m with copies := s.m.copies.filterMap keep } }

/-- Port of a die toward another die (R16). -/
def diePort (d e : Nat) : Nat := 3 * d + (e + 3 - d) % 4

/-- One die's part of the comparison (R98, R409, R410). -/
def State.dieAgreement (s : State) (peers : List Int) (d : Nat) : State :=
  let dies := (List.range 4).map fun e => max (s.now d) (s.now e) - min (s.now d) (s.now e)
  let links := (List.range 3).map fun j =>
    if s.b.links.getLsbD (3 * d + j) then (peers.getD (3 * d + j) 0).natAbs else 0
  let big := (dies ++ links).foldl max 0
  let off := (dies.any fun x => decide (1 < x)) || links.any fun x => decide (20 < x)
  let overDie := (List.range 4).find? fun e => decide (2 < dies.getD e 0)
  let overLink := (List.range 3).find? fun j => decide (40 < links.getD j 0)
  let upd (l : LeaseClock) : LeaseClock :=
    { l with
      skew := BitVec.ofNat 32 (max l.skew.toNat (min big 0xFFFFFFFF))
      die := BitVec.ofNat 4 ((List.range 4).foldl (fun n e => if 1 < dies.getD e 0 then n + 2 ^ e else n) 0)
      link := BitVec.ofNat 3 ((List.range 3).foldl (fun n j => if 20 < links.getD j 0 then n + 2 ^ j else n) 0)
      event := l.event || overDie.isSome || overLink.isSome
      guard := l.guard || off
      calm := if off then s.now d else l.calm }
  let was := (s.h.lc.getD d LeaseClock.reset).event
  let s1 : State := { s with h := { s.h with lc := updAt s.h.lc d upd } }
  if was then s1
  else
    match overDie, overLink with
    | some e, _ => (s1.addError 0 .leaseClock 12 (diePort d e) 0 false false false 0 d).1
    | none, some j => (s1.addError 0 .leaseClock 11 (3 * d + j) 0 false false false 0 d).1
    | none, none => s1

/-- The hubs compare device time (R409). -/
def State.agreement (s : State) (peers : List Int) : State :=
  ((List.range 4).foldl (fun s d => s.dieAgreement peers d) s).dropGuarded

/-- TIME_AGREEMENT_CHECK (R8, R98, R409, R410): `peers` holds, for each device link, the peer's device time less this
device's. The hubs keep it for the comparisons that follow, in which the peers count as this device does (log 15). -/
def execTimeAgreementCheck (peers : List Int) (s : State) : Out :=
  .next (({ s with b := { s.b with peers := (List.range 12).map fun n => peers.getD n 0 } } : State).agreement peers)

/-- How far the linked devices are ahead, where that is more than the bound of R409: a die that so lags is advanced (R410). Dies
of one device stop and start together, so that all are advanced alike (R450). -/
def State.peerLead (s : State) : Nat :=
  let ahead := (List.range 12).filterMap fun n =>
    let v := s.b.peers.getD n 0
    if s.b.links.getLsbD n && (s.h.lc.getD (n / 3) LeaseClock.reset).link.getLsbD (n % 3) && decide (20 < v) then some v.toNat else none
  ahead.foldl max 0

/-- A die leaves the guard state 1,000,000 ns after its last disagreement (R410). -/
def State.guardExit (s : State) (die : Nat) : State :=
  let l := s.h.lc.getD die LeaseClock.reset
  if l.guard && decide (l.calm + 1000000 ≤ s.now die) then
    { s with h := { s.h with lc := updAt s.h.lc die fun l => { l with guard := false } } }
  else s

/-- GUARD_EXIT (R410). -/
def execGuardExit (die : Nat) (s : State) : Out := .next (s.guardExit die)

/-! Scrubbing and health (R356, R443) -/

/-- A scrub of one 64-B sector of DRAM (R443): a corrected error is written back and counted, an uncorrectable one poisons
the sector. -/
def State.scrub (s : State) (sector : Nat) (check : EccCheck) : State :=
  let pa := 64 * sector
  let u := paUnit pa
  if !s.isDram pa then s
  else
    match check with
    | .clean => s
    | .corrected =>
      let s1 : State := { s with h := { s.h with corr := updAt s.h.corr (homeDie pa) satInc } }
      (s1.addError pa .softErrorCorrected u.1 u.2 0 false false false 0 (homeDie pa)).1
    | .uncorrectable => ((s.setPoison pa true).addError pa .uncorrectable u.1 u.2 0 false false false 0 (homeDie pa)).1

/-- DRAM_SCRUB (R443). -/
def execDramScrub (sector : Nat) (check : EccCheck) (s : State) : Out := .next (s.scrub sector check)

/-- One sample reaches a health monitor (R356). -/
def Health.sample (h : Health) (v : Word) : Health :=
  let en := (h.ctl.extractLsb' 0 2).toNat
  let base := (h.ctl.extractLsb' 32 32).toNat
  let bin := Nat.min 31 ((v.toNat - base) / 2 ^ (h.ctl.extractLsb' 11 5).toNat)
  let take := en == 1 || (en == 2 && h.seen % 256 == 0) || (en == 3 && h.seen % 65536 == 0)
  let h1 : Health := { h with seen := h.seen + 1 }
  if !take then h1
  else
    { h1 with
      min := if v.toNat < h.min.toNat then v else h.min
      max := if h.max.toNat < v.toNat then v else h.max
      count := satInc h.count
      bins := updAt h.bins bin satInc }

/-- HEALTH_SAMPLE (R356). -/
def execHealthSample (die mon : Nat) (value : BitVec 32) (s : State) : Out :=
  .next { s with h := { s.h with health := updAt s.h.health (16 * die + mon) fun h => h.sample value } }

/-! Host memory accesses (R99, R345, R444) -/

/-- A read from outside reaches device memory at home: its bytes, and whether any is poisoned (R444); none where the address
is absent (R350). -/
def State.outsideRead (s : State) (pa n : Nat) : State × Option (List Byte × Bool) :=
  if s.isDram pa then
    let r := s.readHome pa n
    (r.1, some (r.2, (sectorsOf pa n).any fun k => r.1.poisoned (64 * k)))
  else (s, none)

/-- A write from outside reaches device memory at home; poisoned data poisons the sectors it writes (R444). Where the address
is absent nothing is written (R350). -/
def State.outsideWrite (s : State) (pa : Nat) (bytes : List Byte) (poison : Bool) : State :=
  let s1 := s.physWrite pa bytes
  if poison && s.isDram pa then (sectorsOf pa bytes.length).foldl (fun s k => s.setPoison (64 * k) true) s1 else s1

/-- HOST_APERTURE_ACCESS (R345): an access through BAR2, 64 GiB from APBASE. A read completes with the bytes and the poisoned-data
indication (R444), or as an Unsupported Request where the address is absent (R350). -/
def execHostApertureAccess (off : Nat) (acc : HostAcc) (s : State) : Out :=
  .next (if off < 2 ^ 36 then
      let pa := s.h.apbase.toNat % 2 ^ 48 + off
      match acc with
      | .read n =>
        let r := s.outsideRead pa n
        { r.1 with h := { r.1.h with hostRead := r.2 } }
      | .write bytes poison => s.outsideWrite pa bytes poison
    else s)

/-- The last instant at which a lease granted on a line can still serve a load (R91, R99). -/
def State.leaseEnd (s : State) (pa : Nat) : Nat :=
  let h := homeDie pa
  let l := s.homeLine (pa / 256)
  let g (e k : Nat) : Nat := if e == 0 then 0 else e + (if s.guarded h then 40 else k)
  max (g l.expDie 0) (max (g l.expDev 2) (g l.expPeer 40))

/-- HOST_SNOOP (R99): the host takes a line of its memory once every lease on it has expired, and leaves the bytes it
then writes. -/
def execHostSnoop (line : Nat) (bytes : List (Nat × Byte)) (s : State) : Out :=
  .next (
    let pa := 256 * line
    let e := s.leaseEnd pa
    if !isHostMem pa || !(e == 0 || decide (e < s.now (homeDie pa))) then s
    else
      let s1 := (s.recall line).flushHome line
      let s2 := (bytes.filter fun b => decide (b.1 < 256)).foldl (fun s b => s.setDram (pa + b.1) b.2) s1
      let s3 : State := { s2 with m := { s2.m with hostLines := sdel s2.m.hostLines line } }
      s3.wakeLine line none)

/-! Peers and links (R100, R354, R445, R446) -/

/-- The range that a link admits holds an access (R354); one to absent memory lies outside (R350). -/
def State.linkAdmits (s : State) (link pa n : Nat) : Bool :=
  let w := s.h.linkwin.getD link 0#128
  let base := (w.extractLsb' 0 48).toNat
  decide (base ≤ pa) && decide (pa + n ≤ base + (w.extractLsb' 64 48).toNat) && s.isDram pa && s.isDram (pa + n - 1)

/-- Leases of a peer's read on the lines it covers (R100): the 40 ns class, for the lease length of reset (log 35). -/
def State.peerLease (s : State) (pa n : Nat) : State :=
  ((List.range ((pa % 256 + n + 255) / 256)).map fun i => pa / 256 + i).foldl (fun s l =>
    let h := homeDie (256 * l)
    if s.guarded h then s else s.updHome l fun k => { k with expPeer := max k.expPeer (s.now h + 512) }) s

/-- PEER_REQUEST (R100, R354, R445): a request within the window reads or writes; a poisoned flit is recorded, and poisons what it
writes (R444). -/
def execPeerRequest (link pa : Nat) (acc : HostAcc) (s : State) : Out :=
  .next (if !s.b.links.getLsbD link then s
    else
      let n := match acc with
        | .read n => n
        | .write bs _ => bs.length
      if !s.linkAdmits link pa n then (s.addError 0 .linkError 11 link 0 false false false 2 (link / 3)).1
      else
        let s1 : State := { s with b := { s.b with resends := updAt s.b.resends link fun _ => 0 } }
        match acc with
        | .read n => (s1.readHome pa n).1.peerLease pa n
        | .write bs poison =>
          let s2 := s1.outsideWrite pa bs poison
          if poison then (s2.addError (pa / 64 * 64) .linkError 11 link 0 false false false 3 (link / 3)).1 else s2)

/-- A collective of this device needs a link (R279, R445). -/
def State.collUses (s : State) (k : CollJob) (link : Nat) : Bool :=
  let e := (s.groupEntry (collGroup k.record)).2
  (e.extractLsb' 8 8) != 0#8 && ((e.extractLsb' 24 4).toNat == link || (e.extractLsb' 28 4).toNat == link)

/-- A device link is down (R445): its collectives in flight end with status 3. -/
def State.linkDown (s : State) (link cause : Nat) : State :=
  if !s.b.links.getLsbD link then s
  else
    let ks := s.e.colls.filter fun k => k.entered && k.status.isNone && s.collUses k link
    let s1 : State := { s with b := { s.b with
      links := s.b.links &&& ~~~(1#12 <<< link)
      resends := updAt s.b.resends link fun _ => 0 } }
    let s2 := ks.foldl (fun s k => (s.collScramble k).collClose k 3 []) s1
    (s2.addError 0 .linkError 11 link 0 false false false cause (link / 3)).1

/-- LINK_DOWN (R445): cause 1 is lost training. -/
def execLinkDown (link : Nat) (cause : Bool) (s : State) : Out := .next (s.linkDown link (if cause then 1 else 0))

/-- A die-to-die port has failed (R445): the device is fatal, every context freezes at once, and leases are trusted no more:
the copies held under them leave, and no home grants another. -/
def State.portFailure (s : State) (port : Nat) : State :=
  if !s.b.ports.getLsbD port then s
  else
    let s1 : State := { s with b := { s.b with ports := s.b.ports &&& ~~~(1#12 <<< port), fatal := true } }
    let s2 := (List.range 64).foldl (fun s c => s.freeze c (bareReport (s.now 0) c (Cause.of .uncorrectable)) true) s1.dropGuarded
    (s2.addError 0 .uncorrectable 12 port 0 false true false 0 (port / 3)).1

/-- PORT_FAILURE (R445). -/
def execPortFailure (port : Nat) (s : State) : Out := .next (s.portFailure port)

/-- One more resend on a die's links (R448), saturating. -/
def State.countResend (s : State) (die : Nat) : State :=
  { s with h := { s.h with linkerr := updAt s.h.linkerr die fun n => if n == 0xFFFF#16 then n else n + 1#16 } }

/-- FLIT_CRC_FAIL (R445, R448): a flit has failed its check, and is sent again; once sixteen resends of one flit have failed, the
link or the port is down. -/
def execFlitCrcFail (unit : Wire) (s : State) : Out :=
  .next (match unit with
    | .link n =>
      if !s.b.links.getLsbD n then s
      else
        let k := s.b.resends.getD n 0
        if 16 ≤ k then s.linkDown n 0
        else
          let s1 := s.countResend (n / 3)
          { s1 with b := { s1.b with resends := updAt s1.b.resends n fun _ => k + 1 } }
    | .port n =>
      if !s.b.ports.getLsbD n then s
      else
        let k := s.b.presends.getD n 0
        if 16 ≤ k then s.portFailure n
        else
          let s1 := s.countResend (n / 3)
          { s1 with b := { s1.b with presends := updAt s1.b.presends n fun _ => k + 1 } })

/-- A flit passes its check (R445): no resend of it has failed any more. -/
def State.carried (s : State) (unit : Wire) : State :=
  match unit with
  | .link n => { s with b := { s.b with resends := updAt s.b.resends n fun _ => 0 } }
  | .port n => { s with b := { s.b with presends := updAt s.b.presends n fun _ => 0 } }

/-- PCIE_LINK_DOWN (R446). A link that was trained for CXL stays one: what reaches host memory through it meets poison. -/
def execPcieLinkDown (link : Nat) (s : State) : Out :=
  .next { s with b := { s.b with pcie := s.b.pcie &&& ~~~(1#2 <<< link) } }

/-- HOST_LINK_TRAINED (R346, R446). -/
def execHostLinkTrained (link : Nat) (cxl : Bool) (s : State) : Out :=
  .next { s with b := { s.b with
    pcie := s.b.pcie ||| (1#2 <<< link)
    cxl := if cxl then s.b.cxl ||| (1#2 <<< link) else s.b.cxl &&& ~~~(1#2 <<< link) } }

/-! Boot (R355) -/

/-- Measurements of an image and of its stages (R355). -/
def measure (h : BitVec 256) (stages : List (BitVec 256)) : List (BitVec 256) :=
  let m0 := sha3 (List.replicate 32 0#8 ++ natBytes 32 h.toNat)
  let next (m : BitVec 256) (i : Nat) : BitVec 256 := sha3 (natBytes 32 m.toNat ++ natBytes 32 (stages.getD i 0#256).toNat)
  let m1 := next m0 0
  let m2 := next m1 1
  [m0, m1, m2, next m2 2]

/-- The device as boot firmware leaves it (R350, R353 to R355). -/
def State.booted (s : State) (b : BootIn) : State :=
  let r := State.reset
  let h := sha3 b.image
  let r1 := ({ r with h := { r.h with lp := b.lp, meas := measure h b.stages, identity := h } }).plimit 2800
  { r1 with
    agenda := s.agenda
    freeCtr := s.freeCtr
    x := { r1.x with devTime := List.replicate 4 b.time }
    b := { s.b with
      booted := true, failed := false, fatal := false, links := b.links, ports := 0xFFF#12, pcie := b.pcie, cxl := b.cxl
      resends := List.replicate 12 0, presends := List.replicate 12 0, peers := List.replicate 12 0 } }

/-- BOOT (R355): out of reset, or after a fatal error (R445). An image that does not verify leaves every die in reset. -/
def execBoot (b : BootIn) (s : State) : Out :=
  .next (if s.b.booted && !s.b.fatal then s
    else if b.verified then s.booted b
    else { State.reset with agenda := s.agenda, freeCtr := s.freeCtr, b := { s.b with booted := false, failed := true } })

end Sys2Proof.Machine
end

