-- ==== Sys2Proof/Machine/Chain.lean ====
section
/-! DEFINITION. The state elements that the debug port's chains hold (R449): every field of the machine's state but the schedule,
the counter of free values and the port's own data register, each as words of 64 bits. -/

namespace Sys2Proof.Machine

/-- A bit vector as elements: its words of 64 bits, the lowest first. -/
def wordsOf {n : Nat} (v : BitVec n) : List DWord := (List.range ((n + 63) / 64)).map fun i => v.extractLsb' (64 * i) 64
/-- A number as an element. -/
def numEl (n : Nat) : List DWord := [BitVec.ofNat 64 n]
/-- A flag as an element. -/
def flagEl (b : Bool) : List DWord := [(BitVec.ofBool b).zeroExtend 64]
/-- A signed number as elements. -/
def intEl (n : Int) : List DWord := flagEl (decide (n < 0)) ++ numEl n.natAbs
/-- A fraction as elements. -/
def ratEl (q : Rat) : List DWord := intEl q.num ++ numEl q.den
/-- A value that may be absent. -/
def optEl {α : Type} (f : α → List DWord) (x : Option α) : List DWord :=
  match x with
  | none => flagEl false
  | some a => flagEl true ++ f a
/-- A list: its length, and its members. -/
def listEl {α : Type} (f : α → List DWord) (xs : List α) : List DWord := numEl xs.length ++ xs.flatMap f
/-- A pair. -/
def pairEl {α β : Type} (f : α → List DWord) (g : β → List DWord) (x : α × β) : List DWord := f x.1 ++ g x.2
/-- An instruction that the machine holds: its word. -/
def insEl (i : Instr) : List DWord := optEl wordsOf (encode i)
/-- Elements of a place that holds copies. -/
def placeEl (x : Place) : List DWord :=
  numEl x.ctorIdx ++ match x with
  | .l1 a0 => numEl a0
  | .localSlice a0 => numEl a0
  | .selvedge a0 => numEl a0
  | .home => []

/-- Elements of `Cause`. -/
def Cause.elements (x : Cause) : List DWord :=
  wordsOf x.code.val ++ wordsOf x.arg ++ wordsOf x.addr ++ flagEl x.engine ++ flagEl x.bkpt

/-- Elements of `Xlat`. -/
def Xlat.elements (x : Xlat) : List DWord :=
  numEl x.base ++ numEl x.size ++ numEl x.frame ++ flagEl x.ro ++ flagEl x.xn ++ flagEl x.tagged ++ wordsOf x.mt
    ++ flagEl x.dup ++ listEl (optEl numEl) x.frames

/-- Elements of `TlbEntry`. -/
def TlbEntry.elements (x : TlbEntry) : List DWord :=
  numEl x.ctx ++ x.x.elements

/-- Elements of `HomeLine`. -/
def HomeLine.elements (x : HomeLine) : List DWord :=
  optEl numEl x.ctx ++ wordsOf x.tensor ++ listEl (pairEl numEl wordsOf) x.bytes ++ numEl x.expDie ++ numEl x.expDev
    ++ numEl x.expPeer ++ optEl numEl x.owner

/-- Elements of `SectorData`. -/
def SectorData.elements (x : SectorData) : List DWord :=
  listEl wordsOf x.bytes ++ wordsOf x.tag ++ flagEl x.poison

/-- Elements of `Copy`. -/
def Copy.elements (x : Copy) : List DWord :=
  placeEl x.place ++ numEl x.line ++ numEl x.ctx ++ wordsOf x.tensor ++ numEl x.expiry
    ++ listEl (pairEl numEl SectorData.elements) x.sectors ++ listEl (pairEl numEl wordsOf) x.mask ++ numEl x.since
    ++ optEl numEl x.own

/-- Elements of `Lock`. -/
def Lock.elements (x : Lock) : List DWord :=
  numEl x.owner ++ numEl x.ctx ++ numEl x.lo ++ numEl x.hi ++ flagEl x.dest

/-- Elements of `Fetched`. -/
def Fetched.elements (x : Fetched) : List DWord :=
  numEl x.core ++ numEl x.ctx ++ numEl x.addr ++ wordsOf x.word

/-- Elements of `MemState`. -/
def MemState.elements (x : MemState) : List DWord :=
  listEl (pairEl numEl wordsOf) x.dram ++ listEl (pairEl numEl wordsOf) x.tags
    ++ listEl (pairEl numEl (fun _ => [])) x.poison ++ listEl (pairEl numEl HomeLine.elements) x.home
    ++ listEl Copy.elements x.copies ++ listEl Fetched.elements x.fetched
    ++ listEl (pairEl numEl TlbEntry.elements) x.lastPage
    ++ listEl (pairEl numEl (listEl TlbEntry.elements)) x.coreTlb
    ++ listEl (pairEl numEl (listEl TlbEntry.elements)) x.sectorTlb ++ listEl Lock.elements x.locks
    ++ listEl (pairEl numEl flagEl) x.hostLines

/-- Elements of `ThreadKind`: which it is, and what it carries. -/
def ThreadKind.elements (x : ThreadKind) : List DWord :=
  numEl x.ctorIdx ++ match x with
  | .team => []
  | .handler a0 => numEl a0
  | .launchTrap a0 => flagEl a0
  | .shader a0 => numEl a0
  | .message a0 => numEl a0
  | .replay a0 a1 => numEl a0 ++ flagEl a1

/-- Elements of `Hold`: which it is, and what it carries. -/
def Hold.elements (x : Hold) : List DWord :=
  numEl x.ctorIdx ++ match x with
  | .join a0 a1 a2 a3 a4 => insEl a0 ++ wordsOf a1 ++ wordsOf a2 ++ wordsOf a3 ++ flagEl a4
  | .matrix a0 a1 => numEl a0 ++ insEl a1
  | .waitk a0 a1 => numEl a0 ++ wordsOf a1
  | .bar a0 a1 => numEl a0 ++ numEl a1
  | .barc => []
  | .barg => []

/-- Elements of `ParkWhy`: which it is, and what it carries. -/
def ParkWhy.elements (x : ParkWhy) : List DWord :=
  numEl x.ctorIdx ++ match x with
  | .page a0 => numEl a0
  | .line a0 a1 => numEl a0 ++ numEl a1
  | .poison a0 => numEl a0

/-- Elements of `Status`: which it is, and what it carries. -/
def Status.elements (x : Status) : List DWord :=
  numEl x.ctorIdx ++ match x with
  | .boundary => []
  | .issued => []
  | .copyWait a0 a1 => numEl a0 ++ listEl numEl a1
  | .held a0 => a0.elements
  | .parkedMem a0 => a0.elements
  | .parkedMon => []
  | .parkedSec => []
  | .exited => []

/-- Elements of `TrapRec`. -/
def TrapRec.elements (x : TrapRec) : List DWord :=
  wordsOf x.report ++ wordsOf x.fall ++ optEl numEl x.handler ++ flagEl x.freezing ++ flagEl x.suppressed
    ++ flagEl x.fresh ++ numEl x.arrival

/-- Elements of `HeldSec`. -/
def HeldSec.elements (x : HeldSec) : List DWord :=
  wordsOf x.key ++ wordsOf x.seq ++ flagEl x.poisoned ++ listEl (pairEl wordsOf (listEl wordsOf)) x.pre

/-- Elements of `Site`. -/
def Site.elements (x : Site) : List DWord :=
  wordsOf x.pc ++ wordsOf x.hdr ++ numEl x.word ++ numEl x.count

/-- Elements of `Thread`. -/
def Thread.elements (x : Thread) : List DWord :=
  numEl x.uid ++ numEl x.core ++ numEl x.slice ++ numEl x.lane ++ numEl x.slot ++ numEl x.group ++ optEl numEl x.team
    ++ numEl x.tix ++ numEl x.launch ++ numEl x.ctx ++ x.kind.elements ++ listEl wordsOf x.v ++ wordsOf x.p
    ++ listEl numEl x.q ++ wordsOf x.pc ++ wordsOf x.hdr ++ numEl x.count ++ flagEl x.mid ++ wordsOf x.name
    ++ x.status.elements ++ numEl x.starve ++ flagEl x.fair ++ listEl (pairEl numEl wordsOf) x.wown
    ++ optEl TrapRec.elements x.trap ++ listEl HeldSec.elements x.secs ++ listEl (pairEl numEl numEl) x.tickets
    ++ listEl (pairEl numEl numEl) x.ctickets ++ numEl x.couch ++ listEl (pairEl numEl numEl) x.wct ++ flagEl x.amdone
    ++ flagEl x.helper ++ listEl (pairEl numEl (optEl (listEl wordsOf))) x.recs
    ++ optEl (pairEl flagEl (pairEl wordsOf (fun e => numEl e.ctorIdx))) x.fail

/-- Elements of `Group`. -/
def Group.elements (x : Group) : List DWord :=
  numEl x.uid ++ numEl x.core ++ numEl x.slice ++ numEl x.slot ++ numEl x.ordinal ++ optEl numEl x.team
    ++ numEl x.launch ++ numEl x.weight ++ numEl x.starve ++ flagEl x.flag ++ numEl x.last ++ flagEl x.yielded

/-- Elements of `ConvReg`. -/
def ConvReg.elements (x : ConvReg) : List DWord :=
  wordsOf x.gmask ++ wordsOf x.mmask ++ listEl (pairEl numEl flagEl) x.signed ++ wordsOf x.gen

/-- Elements of `CouchEntry`. -/
def CouchEntry.elements (x : CouchEntry) : List DWord :=
  numEl x.launch ++ numEl x.pa ++ numEl x.ctx ++ numEl x.op.ctorIdx ++ flagEl x.w64 ++ wordsOf x.operand
    ++ wordsOf x.tensor ++ numEl x.team ++ numEl x.group ++ numEl x.lane ++ numEl x.count ++ flagEl x.poison

/-- Elements of `StreamRec`. -/
def StreamRec.elements (x : StreamRec) : List DWord :=
  numEl x.tix ++ numEl x.ord ++ wordsOf x.va ++ numEl x.width ++ wordsOf x.data

/-- Elements of `Team`. -/
def Team.elements (x : Team) : List DWord :=
  numEl x.uid ++ numEl x.launch ++ numEl x.ctx ++ numEl x.core ++ numEl x.logical ++ numEl x.cluster ++ numEl x.rank
    ++ numEl x.size ++ listEl wordsOf x.w ++ listEl ConvReg.elements x.k ++ listEl wordsOf x.d
    ++ listEl (listEl (pairEl numEl wordsOf)) x.tiles ++ listEl numEl x.tpoison
    ++ listEl (pairEl numEl wordsOf) x.spad ++ numEl x.ssize ++ listEl (pairEl numEl (fun _ => [])) x.spoison
    ++ listEl (pairEl numEl numEl) x.pend ++ wordsOf x.digest ++ listEl StreamRec.elements x.stream
    ++ listEl CouchEntry.elements x.spilled ++ optEl numEl x.swapped ++ numEl x.left
    ++ optEl (pairEl numEl (listEl wordsOf)) x.latch ++ flagEl x.spillTrap ++ optEl numEl x.shadowOf
    ++ listEl (pairEl numEl wordsOf) x.isolated ++ numEl x.since ++ flagEl x.stopping

/-- Elements of `Acc`. -/
def Acc.elements (x : Acc) : List DWord :=
  wordsOf x.va ++ numEl x.pa ++ wordsOf x.mt ++ optEl wordsOf x.tag ++ wordsOf x.tensor ++ numEl x.scope

/-- Elements of `ReadPart`. -/
def ReadPart.elements (x : ReadPart) : List DWord :=
  optEl Acc.elements x.acc ++ numEl x.len ++ listEl (pairEl numEl numEl) x.got

/-- Elements of `Gathered`: which it is, and what it carries. -/
def Gathered.elements (x : Gathered) : List DWord :=
  numEl x.ctorIdx ++ match x with
  | .box a0 => listEl wordsOf a0
  | .tri a0 a1 a2 => flagEl a0 ++ flagEl a1 ++ listEl wordsOf a2
  | .xform a0 => listEl wordsOf a0
  | .blend a0 a1 => numEl a0 ++ listEl ratEl a1
  | .texel a0 => numEl a0

/-- Elements of `FlightOp`: which it is, and what it carries. -/
def FlightOp.elements (x : FlightOp) : List DWord :=
  numEl x.ctorIdx ++ match x with
  | .write a0 a1 => listEl (pairEl numEl wordsOf) a0 ++ listEl (pairEl numEl flagEl) a1
  | .sampled a0 a1 => listEl (pairEl numEl wordsOf) a0 ++ listEl numEl a1
  | .gather a0 a1 a2 a3 => a0.elements ++ numEl a1 ++ listEl ReadPart.elements a2 ++ listEl numEl a3
  | .load a0 a1 a2 a3 a4 => a0.elements ++ numEl a1.ctorIdx ++ flagEl a2 ++ numEl a3 ++ listEl (pairEl numEl numEl) a4
  | .store a0 a1 => a0.elements ++ listEl wordsOf a1
  | .loadS a0 a1 a2 a3 a4 a5 a6 =>
    numEl a0 ++ numEl a1 ++ wordsOf a2 ++ numEl a3.ctorIdx ++ flagEl a4 ++ numEl a5 ++ listEl (pairEl numEl numEl) a6
  | .storeS a0 a1 a2 a3 => numEl a0 ++ numEl a1 ++ listEl wordsOf a2 ++ numEl a3
  | .pref a0 => optEl Acc.elements a0
  | .tagst a0 a1 => a0.elements ++ wordsOf a1
  | .tagld a0 a1 => a0.elements ++ numEl a1
  | .dload a0 a1 a2 => a0.elements ++ numEl a1 ++ listEl (pairEl numEl numEl) a2
  | .atom a0 a1 a2 a3 a4 => a0.elements ++ flagEl a1 ++ numEl a2.ctorIdx ++ wordsOf a3 ++ numEl a4
  | .atomc a0 a1 a2 a3 a4 => a0.elements ++ flagEl a1 ++ wordsOf a2 ++ wordsOf a3 ++ numEl a4
  | .red a0 a1 a2 a3 => a0.elements ++ flagEl a1 ++ numEl a2.ctorIdx ++ wordsOf a3
  | .waitc a0 a1 a2 a3 a4 a5 a6 =>
    a0.elements ++ flagEl a1 ++ numEl a2.ctorIdx ++ flagEl a3 ++ wordsOf a4 ++ numEl a5 ++ numEl a6
  | .fence a0 a1 a2 => wordsOf a0 ++ numEl a1 ++ flagEl a2
  | .time a0 => numEl a0
  | .cacheop a0 a1 a2 a3 => numEl a0 ++ wordsOf a1 ++ numEl a2 ++ flagEl a3
  | .disct a0 => wordsOf a0
  | .dqry a0 a1 => numEl a0 ++ wordsOf a1
  | .copyEnd a0 => numEl a0
  | .osenter a0 a1 a2 a3 => wordsOf a0 ++ wordsOf a1 ++ numEl a2 ++ flagEl a3
  | .osend a0 a1 a2 => wordsOf a0 ++ flagEl a1 ++ flagEl a2
  | .osstat a0 a1 a2 => wordsOf a0 ++ flagEl a1 ++ numEl a2
  | .launch a0 a1 a2 => listEl ReadPart.elements a0 ++ numEl a1 ++ flagEl a2
  | .amsend a0 a1 => numEl a0 ++ flagEl a1
  | .amdone a0 => flagEl a0
  | .accz a0 => numEl a0
  | .accld a0 a1 a2 a3 => numEl a0 ++ numEl a1 ++ numEl a2 ++ listEl (pairEl numEl numEl) a3
  | .accst a0 a1 a2 a3 a4 => numEl a0 ++ numEl a1 ++ numEl a2 ++ flagEl a3 ++ optEl (listEl (pairEl numEl numEl)) a4
  | .accrd a0 a1 a2 a3 => numEl a0 ++ numEl a1 ++ numEl a2 ++ numEl a3
  | .accwr a0 a1 a2 a3 => numEl a0 ++ numEl a1 ++ numEl a2 ++ listEl wordsOf a3
  | .matrix a0 => numEl a0
  | .kdecl a0 a1 a2 => numEl a0 ++ wordsOf a1 ++ wordsOf a2
  | .sign a0 a1 => numEl a0 ++ numEl a1
  | .waitk a0 a1 a2 => numEl a0 ++ wordsOf a1 ++ flagEl a2
  | .bar a0 a1 => a0.elements ++ flagEl a1
  | .eqv a0 => numEl a0
  | .trace a0 a1 a2 => numEl a0 ++ numEl a1 ++ numEl a2
  | .trwait a0 a1 => numEl a0 ++ numEl a1
  | .trret a0 => wordsOf a0
  | .shaderEnd a0 => numEl a0
  | .shadow a0 => numEl a0
  | .coll a0 a1 a2 a3 => numEl a0 ++ numEl a1 ++ numEl a2 ++ flagEl a3
  | .collw a0 a1 a2 => numEl a0 ++ numEl a1 ++ flagEl a2
  | .resid a0 a1 a2 a3 a4 =>
    numEl a0 ++ listEl (pairEl numEl numEl) a1 ++ wordsOf a2 ++ numEl a3 ++ optEl (listEl (pairEl numEl numEl)) a4
  | .sleep a0 => numEl a0
  | .setsr a0 a1 => flagEl a0 ++ wordsOf a1
  | .tlbinv a0 a1 a2 => numEl a0 ++ numEl a1 ++ numEl a2
  | .lpsweep a0 => numEl a0
  | .ctxsave a0 a1 => numEl a0 ++ flagEl a1
  | .ctxload a0 => numEl a0
  | .exit a0 => flagEl a0
  | .rett a0 => wordsOf a0

/-- Elements of `Flight`. -/
def Flight.elements (x : Flight) : List DWord :=
  numEl x.uid ++ numEl x.stamp ++ numEl x.thread ++ x.site.elements ++ optEl numEl x.qc ++ numEl x.window
    ++ x.op.elements ++ flagEl x.posted ++ listEl (pairEl numEl numEl) x.wait ++ optEl numEl x.stalled

/-- Elements of `Issue`. -/
def Issue.elements (x : Issue) : List DWord :=
  numEl x.core ++ numEl x.slice ++ wordsOf x.hdr ++ wordsOf x.header ++ listEl wordsOf x.words ++ numEl x.pos
    ++ numEl x.stamp

/-- Elements of `ExecState`. -/
def ExecState.elements (x : ExecState) : List DWord :=
  numEl x.clk ++ listEl numEl x.devTime ++ numEl x.nextUid ++ pairEl numEl numEl x.cur
    ++ listEl Issue.elements x.issues ++ listEl Thread.elements x.threads ++ listEl Group.elements x.groups
    ++ listEl Team.elements x.teams ++ listEl Flight.elements x.flights ++ listEl Thread.elements x.ghosts

/-- Elements of `KeyEntry`. -/
def KeyEntry.elements (x : KeyEntry) : List DWord :=
  numEl x.launch ++ numEl x.ctx ++ wordsOf x.key ++ wordsOf x.next ++ flagEl x.held ++ flagEl x.poison
    ++ optEl numEl x.holder ++ listEl (pairEl numEl (pairEl wordsOf numEl)) x.waiters
    ++ optEl (pairEl numEl numEl) x.image

/-- Elements of `Monitor`. -/
def Monitor.elements (x : Monitor) : List DWord :=
  numEl x.flight ++ numEl x.slice ++ optEl numEl x.deadline ++ flagEl x.monitor
    ++ optEl (pairEl wordsOf flagEl) x.woken ++ flagEl x.fresh ++ numEl x.last

/-- Elements of `CouchSend`. -/
def CouchSend.elements (x : CouchSend) : List DWord :=
  numEl x.launch ++ numEl x.team ++ listEl CouchEntry.elements x.entries

/-- Elements of `SyncState`. -/
def SyncState.elements (x : SyncState) : List DWord :=
  listEl KeyEntry.elements x.keys ++ listEl KeyEntry.elements x.backing ++ listEl Monitor.elements x.monitors
    ++ listEl (pairEl numEl (listEl CouchEntry.elements)) x.couch ++ listEl CouchSend.elements x.sent

/-- Elements of `CopyEnd`: which it is, and what it carries. -/
def CopyEnd.elements (x : CopyEnd) : List DWord :=
  numEl x.ctorIdx ++ match x with
  | .glob a0 => wordsOf a0
  | .elem a0 a1 a2 a3 => wordsOf a0 ++ wordsOf a1 ++ numEl a2 ++ numEl a3
  | .spad a0 => numEl a0
  | .fill a0 => listEl wordsOf a0

/-- Elements of `CopyPiece`. -/
def CopyPiece.elements (x : CopyPiece) : List DWord :=
  x.src.elements ++ x.dst.elements ++ numEl x.len

/-- Elements of `CopyJob`. -/
def CopyJob.elements (x : CopyJob) : List DWord :=
  numEl x.uid ++ numEl x.thread ++ optEl numEl x.team ++ numEl x.ctx ++ numEl x.core ++ numEl x.flight
    ++ wordsOf x.tensor ++ flagEl x.ro ++ listEl CopyPiece.elements x.pieces ++ listEl (pairEl wordsOf numEl) x.src
    ++ flagEl x.begun ++ listEl (pairEl numEl numEl) x.wait ++ listEl (pairEl numEl numEl) x.landed
    ++ listEl numEl x.bad ++ listEl numEl x.lines ++ listEl (pairEl numEl numEl) x.wct ++ optEl numEl x.stalled
    ++ optEl Cause.elements x.failed

/-- Elements of `Pass`. -/
def Pass.elements (x : Pass) : List DWord :=
  numEl x.uid ++ numEl x.engine ++ numEl x.team ++ numEl x.core ++ numEl x.rank0 ++ listEl numEl x.signers
    ++ numEl x.slot ++ numEl x.tile ++ listEl wordsOf x.rows ++ listEl wordsOf x.b ++ wordsOf x.desc ++ flagEl x.conv
    ++ listEl numEl x.lines ++ numEl x.prio ++ numEl x.stamp ++ numEl x.since ++ x.site.elements
    ++ optEl numEl x.stalled ++ optEl Cause.elements x.failed

/-- Elements of `Binding`. -/
def Binding.elements (x : Binding) : List DWord :=
  numEl x.engine ++ numEl x.slot ++ numEl x.launch ++ numEl x.ctx ++ wordsOf x.parent ++ wordsOf x.size
    ++ wordsOf x.log ++ numEl x.n ++ numEl x.cap ++ numEl x.opens ++ flagEl x.logging ++ numEl x.logN

/-- Elements of `EqReq`. -/
def EqReq.elements (x : EqReq) : List DWord :=
  numEl x.uid ++ numEl x.engine ++ numEl x.thread ++ numEl x.flight ++ insEl x.ins ++ wordsOf x.a ++ wordsOf x.b
    ++ wordsOf x.handle ++ numEl x.d ++ optEl (listEl (pairEl numEl wordsOf)) x.done ++ optEl Cause.elements x.code
    ++ listEl (pairEl numEl numEl) x.wct ++ optEl numEl x.stalled ++ flagEl x.arrived

/-- Elements of `RayStage`: which it is, and what it carries. -/
def RayStage.elements (x : RayStage) : List DWord :=
  numEl x.ctorIdx ++ match x with
  | .flying => []
  | .shader a0 => flagEl a0
  | .running a0 => numEl a0
  | .done => []

/-- Elements of `Ray`. -/
def Ray.elements (x : Ray) : List DWord :=
  numEl x.uid ++ numEl x.thread ++ numEl x.launch ++ numEl x.ctx ++ numEl x.core ++ x.site.elements ++ wordsOf x.name
    ++ listEl wordsOf x.ray ++ wordsOf x.root ++ wordsOf x.flags ++ wordsOf x.user ++ optEl numEl x.ticket
    ++ x.stage.elements ++ listEl wordsOf x.hit ++ wordsOf x.ret ++ flagEl x.ran ++ flagEl x.restart
    ++ optEl Cause.elements x.code ++ listEl (pairEl numEl numEl) x.wct ++ wordsOf x.target ++ listEl wordsOf x.chans
    ++ numEl x.couch ++ flagEl x.none ++ optEl numEl x.stalled ++ numEl x.came
    ++ listEl (pairEl (listEl wordsOf) flagEl) x.log

/-- Elements of `Tile`. -/
def Tile.elements (x : Tile) : List DWord :=
  numEl x.uid ++ numEl x.launch ++ numEl x.core ++ numEl x.index ++ numEl x.since ++ optEl numEl x.stalled
    ++ wordsOf x.name ++ listEl (pairEl (listEl wordsOf) flagEl) x.log

/-- Elements of `CollJob`. -/
def CollJob.elements (x : CollJob) : List DWord :=
  numEl x.uid ++ numEl x.thread ++ numEl x.ctx ++ numEl x.core ++ x.site.elements ++ wordsOf x.record
    ++ optEl wordsOf x.slot ++ wordsOf x.resid ++ optEl numEl x.status ++ flagEl x.entered ++ optEl numEl x.stalled
    ++ listEl (pairEl numEl numEl) x.wct

/-- Elements of `Msg`. -/
def Msg.elements (x : Msg) : List DWord :=
  numEl x.uid ++ numEl x.thread ++ numEl x.launch ++ numEl x.ctx ++ numEl x.target ++ numEl x.handler ++ numEl x.len
    ++ listEl wordsOf x.payload ++ numEl x.sender ++ wordsOf x.senderTeam ++ wordsOf x.name ++ flagEl x.queued
    ++ optEl numEl x.group ++ numEl x.pending

/-- Elements of `EngineState`. -/
def EngineState.elements (x : EngineState) : List DWord :=
  listEl CopyJob.elements x.copies ++ listEl (pairEl numEl (pairEl numEl (pairEl numEl (listEl wordsOf)))) x.latches
    ++ listEl Pass.elements x.passes ++ listEl Binding.elements x.bindings ++ listEl EqReq.elements x.eqReqs
    ++ listEl Ray.elements x.rays ++ listEl Tile.elements x.tiles ++ listEl CollJob.elements x.colls
    ++ listEl (pairEl numEl numEl) x.collSeen ++ listEl (pairEl numEl (pairEl wordsOf numEl)) x.resid
    ++ listEl Msg.elements x.msgs

/-- Elements of `Slot`. -/
def Slot.elements (x : Slot) : List DWord :=
  wordsOf x.record ++ wordsOf x.scaleA ++ wordsOf x.scaleB ++ listEl wordsOf x.ptab ++ flagEl x.valid

/-- Elements of `QRec`. -/
def QRec.elements (x : QRec) : List DWord :=
  numEl x.uid ++ wordsOf x.ptr ++ wordsOf x.record

/-- Elements of `TraceEnt`. -/
def TraceEnt.elements (x : TraceEnt) : List DWord :=
  numEl x.thread ++ flagEl x.named ++ numEl x.member ++ wordsOf x.pc ++ wordsOf x.word ++ wordsOf x.event
    ++ wordsOf x.code ++ numEl x.first ++ numEl x.count ++ optEl numEl x.second ++ optEl (pairEl wordsOf numEl) x.data
    ++ wordsOf x.addr ++ flagEl x.given ++ numEl x.flight ++ flagEl x.parked ++ optEl wordsOf x.done

/-- Elements of `Replay`. -/
def Replay.elements (x : Replay) : List DWord :=
  wordsOf x.request ++ listEl wordsOf x.records ++ wordsOf x.ppb ++ numEl x.entries ++ wordsOf x.used
    ++ wordsOf x.missing ++ wordsOf x.finalPc ++ flagEl x.full ++ flagEl x.dead
    ++ listEl (pairEl numEl wordsOf) x.pendUsed ++ listEl (pairEl numEl wordsOf) x.pendMiss
    ++ listEl (pairEl (pairEl wordsOf (pairEl wordsOf (pairEl wordsOf (pairEl wordsOf numEl)))) numEl) x.supplied
    ++ flagEl x.given ++ listEl numEl x.wset ++ listEl TraceEnt.elements x.pend ++ flagEl x.headerDone

/-- Elements of `Launch`. -/
def Launch.elements (x : Launch) : List DWord :=
  numEl x.uid ++ numEl x.ctx ++ numEl x.queue ++ wordsOf x.record ++ wordsOf x.ptr ++ numEl x.state.ctorIdx
    ++ flagEl x.checked ++ listEl wordsOf x.hitTab ++ listEl wordsOf x.msgTab ++ listEl Slot.elements x.slots
    ++ wordsOf x.ppb ++ numEl x.placed ++ listEl numEl x.ended ++ numEl x.starve ++ optEl numEl x.held
    ++ listEl numEl x.resv ++ listEl (pairEl numEl numEl) x.wct ++ flagEl x.released ++ listEl numEl x.det
    ++ optEl numEl x.stallSince ++ flagEl x.stallFired ++ optEl numEl x.stallEnd
    ++ listEl (pairEl numEl (pairEl flagEl numEl)) x.watched ++ listEl wordsOf x.traps
    ++ optEl Replay.elements x.replay ++ listEl (pairEl numEl (pairEl flagEl wordsOf)) x.digests

/-- Elements of `Ctx`. -/
def Ctx.elements (x : Ctx) : List DWord :=
  flagEl x.enabled ++ numEl x.root ++ numEl x.lease ++ numEl x.tslice ++ flagEl x.priv ++ flagEl x.halted
    ++ flagEl x.saved ++ flagEl x.frozen ++ flagEl x.lost ++ wordsOf x.report ++ flagEl x.killing ++ wordsOf x.rejptr
    ++ wordsOf x.rejstat

/-- Elements of `Bell`. -/
def Bell.elements (x : Bell) : List DWord :=
  numEl x.uid ++ numEl x.ctx ++ numEl x.queue ++ wordsOf x.ptr ++ optEl numEl x.fault

/-- Elements of `DispState`. -/
def DispState.elements (x : DispState) : List DWord :=
  listEl Ctx.elements x.ctxs ++ listEl (pairEl numEl (listEl QRec.elements)) x.queues
    ++ listEl Launch.elements x.launches ++ listEl (pairEl numEl numEl) x.division
    ++ listEl (pairEl numEl numEl) x.rot ++ listEl Bell.elements x.bells
    ++ listEl (pairEl numEl (pairEl wordsOf (fun e => numEl e.ctorIdx))) x.dfails

/-- Elements of `Waiter`: which it is, and what it carries. -/
def Waiter.elements (x : Waiter) : List DWord :=
  numEl x.ctorIdx ++ match x with
  | .thread a0 => numEl a0
  | .fetch a0 => numEl a0
  | .copy a0 => numEl a0
  | .pass a0 => numEl a0
  | .ray a0 => numEl a0
  | .eqv a0 => numEl a0
  | .tile a0 => numEl a0
  | .coll a0 => numEl a0
  | .launch a0 => numEl a0
  | .bell a0 => numEl a0

/-- Elements of `PFault`. -/
def PFault.elements (x : PFault) : List DWord :=
  numEl x.uid ++ optEl wordsOf x.id ++ numEl x.ctx ++ wordsOf x.va ++ numEl x.time ++ numEl x.cause.ctorIdx
    ++ numEl x.access ++ numEl x.sector ++ pairEl numEl numEl x.page
    ++ listEl (pairEl Waiter.elements wordsOf) x.waiters

/-- Elements of `ErrRec`. -/
def ErrRec.elements (x : ErrRec) : List DWord :=
  numEl x.uid ++ optEl wordsOf x.id ++ numEl x.pa ++ numEl x.time ++ wordsOf x.code.val ++ numEl x.unit
    ++ numEl x.index ++ numEl x.ctx ++ flagEl x.parked ++ flagEl x.fatal ++ flagEl x.dropped ++ numEl x.cause
    ++ wordsOf x.addr

/-- Elements of `Health`. -/
def Health.elements (x : Health) : List DWord :=
  wordsOf x.ctl ++ wordsOf x.min ++ wordsOf x.max ++ wordsOf x.count ++ listEl wordsOf x.bins ++ numEl x.seen

/-- Elements of `Watch`. -/
def Watch.elements (x : Watch) : List DWord :=
  wordsOf x.ctl ++ wordsOf x.name ++ wordsOf x.mask ++ wordsOf x.rect ++ wordsOf x.surf ++ wordsOf x.pitch

/-- Elements of `Ring`. -/
def Ring.elements (x : Ring) : List DWord :=
  wordsOf x.base ++ wordsOf x.ctl ++ wordsOf x.head ++ wordsOf x.tail ++ wordsOf x.drop
    ++ listEl (pairEl numEl numEl) x.sent

/-- Elements of `LeaseClock`. -/
def LeaseClock.elements (x : LeaseClock) : List DWord :=
  wordsOf x.skew ++ wordsOf x.link ++ wordsOf x.die ++ flagEl x.event ++ flagEl x.guard ++ numEl x.calm

/-- Elements of `HostState`. -/
def HostState.elements (x : HostState) : List DWord :=
  wordsOf x.ctxbase ++ wordsOf x.apbase ++ wordsOf x.qovf ++ wordsOf x.grpbase ++ wordsOf x.plimit
    ++ listEl wordsOf x.cbudget ++ wordsOf x.lp ++ listEl Health.elements x.health ++ listEl wordsOf x.linkwin
    ++ listEl wordsOf x.meas ++ wordsOf x.nonce ++ flagEl x.quoting
    ++ optEl (pairEl wordsOf (listEl wordsOf)) x.sigKey ++ wordsOf x.identity
    ++ optEl (pairEl (listEl wordsOf) flagEl) x.hostRead ++ x.fq.elements ++ listEl PFault.elements x.faults
    ++ numEl x.nextId ++ x.er.elements ++ listEl ErrRec.elements x.errors ++ listEl Watch.elements x.watches
    ++ x.cb.elements ++ listEl LeaseClock.elements x.lc ++ listEl wordsOf x.corr ++ listEl wordsOf x.linkerr
    ++ listEl (pairEl numEl numEl) x.msix

/-- Elements of `BoardState`. -/
def BoardState.elements (x : BoardState) : List DWord :=
  flagEl x.booted ++ flagEl x.failed ++ flagEl x.fatal ++ wordsOf x.links ++ listEl numEl x.resends
    ++ listEl numEl x.presends ++ listEl intEl x.peers ++ wordsOf x.ports ++ wordsOf x.pcie ++ wordsOf x.cxl
    ++ flagEl x.frozen ++ wordsOf x.ir ++ wordsOf x.chainsel ++ flagEl x.bypass ++ wordsOf x.bsr ++ wordsOf x.pins

/-- The values of the machine's state elements, one after another (R449). -/
def State.elements (s : State) : List DWord :=
  s.x.elements ++ s.m.elements ++ s.y.elements ++ s.e.elements ++ s.d.elements ++ s.h.elements ++ s.b.elements

/-- A bit of the machine's state, by number. -/
def State.elementBit (s : State) (k : Nat) : Bool := (s.elements.getD (k / 64) 0#64).getLsbD (k % 64)

end Sys2Proof.Machine
end

