-- ==== Sys2Proof/Machine/Debug.lean ====
section
/-! DEFINITION. The debug port (R449, R450). The boundary-scan instructions follow IEEE 1149.1: PRESUMED (log 12). -/

namespace Sys2Proof.Machine

/-- The bits of a value, bit 0 first: what a data register shifts out. -/
def scanBits {n : Nat} (v : BitVec n) : List Bool := (List.range n).map fun i => v.getLsbD i

/-- IDCODE (R449). -/
def execIdcode (s : State) : Out := .next { s with b := { s.b with ir := 0x01#8, dr := scanBits 0x0B518F1D#32 } }

/-- DEBUG_FREEZE (R449, R450): the clocks and the device time of all four dies stop on one edge. -/
def execDebugFreeze (s : State) : Out := .next { s with b := { s.b with ir := 0x20#8, dr := [true], frozen := true } }

/-- DEBUG_RELEASE (R449, R450): they go on as if no time had passed. -/
def execDebugRelease (s : State) : Out := .next { s with b := { s.b with ir := 0x20#8, dr := [false], frozen := false } }

/-- CHAINSEL (R449). -/
def execChainsel (value : BitVec 32) (s : State) : Out :=
  .next { s with b := { s.b with ir := 0x21#8, chainsel := value, dr := scanBits value } }

/-- Puts a bit among others of its chain. -/
def chainInsert (k : Nat) (ks : List Nat) : List Nat :=
  match ks with
  | [] => [k]
  | x :: r => if Config.chainKey k ≤ Config.chainKey x then k :: x :: r else x :: chainInsert k r

/-- The bits of the machine's state that lie on a chain, in its order (R449): each bit lies on one chain. Which one, and where,
belongs to each stepping: the chain map is a free value (log 12). -/
def State.chain (s : State) (c : BitVec 32) : List Nat :=
  ((List.range (64 * s.elements.length)).filter fun k => Config.chainOf k == c).foldr chainInsert []

/-- CHAINRD (R449): the selected chain from bit 0; zeros unless the device is frozen. -/
def execChainrd (bits : Nat) (s : State) : Out :=
  .next { s with b := { s.b with
    ir := 0x22#8
    dr := (List.range bits).map fun i => s.b.frozen &&
      (match (s.chain s.b.chainsel)[i]? with
        | some k => s.elementBit k
        | none => Config.chainPast i) } }

/-- BYPASS (R449): the one-bit register captures 0 and takes the bit shifted in. A code of the table, or one that the standard
assigns, selects its own instruction. -/
def execBypass (code : BitVec 8) (tdi : Bool) (s : State) : Out :=
  .next (if [0x01#8, 0x20#8, 0x21#8, 0x22#8, Config.sampleCode, Config.extestCode].contains code then s
    else { s with b := { s.b with ir := code, dr := [false], bypass := tdi } })

/-- SAMPLE/PRELOAD (R449): the pins are captured, and the boundary-scan register is loaded. -/
def execSamplePreload (tdi : BitVec 64) (s : State) : Out :=
  .next { s with b := { s.b with ir := Config.sampleCode, dr := scanBits s.b.pins, bsr := tdi } }

/-- EXTEST (R449): as SAMPLE/PRELOAD, and the boundary-scan register drives the pins. -/
def execExtest (tdi : BitVec 64) (s : State) : Out :=
  .next { s with b := { s.b with ir := Config.extestCode, dr := scanBits s.b.pins, bsr := tdi, pins := tdi } }

end Sys2Proof.Machine
end

