-- ==== Sys2Proof/Machine/Pair.lean ====
section
/-! DEFINITION. Paired words (R150 to R152). -/

namespace Sys2Proof.Machine

/-- Effect of one operation of a pair (R151). -/
def pairVal (op : PairOp) (sel : Bool) (t : Thread) (pd pa pb : VReg) : Word :=
  let a := t.vget pa.toNat
  let b := t.vget pb.toNat
  match op with
  | .fadd => toFp32 ((fp32 a).add (fp32 b))
  | .fmul => toFp32 ((fp32 a).mul (fp32 b))
  | .ffma => toFp32 (((fp32 a).mul (fp32 b)).add (fp32 (t.vget pd.toNat)))
  | .iadd => a + b
  | .and => a &&& b
  | .or => a ||| b
  | .xor => a ^^^ b
  | .shl => a <<< shAmt b
  | .mov => a
  | .isel => if sel then a else b

/-- Registers an operation names: all three fields, but for the PB of MOV. -/
def pRuns (o : POp) : List (VReg × Nat) :=
  if o.op == .mov then [(o.pd, 1), (o.pa, 1)] else [(o.pd, 1), (o.pa, 1), (o.pb, 1)]

/-- A paired word: guarded by G, or unguarded with G as the selection when either operation is ISEL; both read before
either writes (R150). -/
def State.pairOps (s : State) (g : Grd) (x y : POp) : State :=
  let isel := x.op == .isel || y.op == .isel
  s.alu (if isel then ⟨63#6, false⟩ else g) (pRuns x ++ pRuns y) fun t =>
    let sel := t.guard g
    .ok ((t.vset x.pd.toNat (pairVal x.op sel t x.pd x.pa x.pb)).vset y.pd.toNat (pairVal y.op sel t y.pd y.pa y.pb))

/-- A pair led by FADD (R151). -/
def execPairFadd (g : Grd) (d a b : VReg) (y : POp) (s : State) : Out := .next (s.pairOps g ⟨.fadd, d, a, b⟩ y)
/-- A pair led by FMUL (R151). -/
def execPairFmul (g : Grd) (d a b : VReg) (y : POp) (s : State) : Out := .next (s.pairOps g ⟨.fmul, d, a, b⟩ y)
/-- A pair led by FFMA (R151). -/
def execPairFfma (g : Grd) (d a b : VReg) (y : POp) (s : State) : Out := .next (s.pairOps g ⟨.ffma, d, a, b⟩ y)
/-- A pair led by IADD (R151). -/
def execPairIadd (g : Grd) (d a b : VReg) (y : POp) (s : State) : Out := .next (s.pairOps g ⟨.iadd, d, a, b⟩ y)
/-- A pair led by AND (R151). -/
def execPairAnd (g : Grd) (d a b : VReg) (y : POp) (s : State) : Out := .next (s.pairOps g ⟨.and, d, a, b⟩ y)
/-- A pair led by OR (R151). -/
def execPairOr (g : Grd) (d a b : VReg) (y : POp) (s : State) : Out := .next (s.pairOps g ⟨.or, d, a, b⟩ y)
/-- A pair led by XOR (R151). -/
def execPairXor (g : Grd) (d a b : VReg) (y : POp) (s : State) : Out := .next (s.pairOps g ⟨.xor, d, a, b⟩ y)
/-- A pair led by SHL (R151). -/
def execPairShl (g : Grd) (d a b : VReg) (y : POp) (s : State) : Out := .next (s.pairOps g ⟨.shl, d, a, b⟩ y)
/-- A pair led by MOV (R151). -/
def execPairMov (g : Grd) (d a : VReg) (y : POp) (s : State) : Out := .next (s.pairOps g ⟨.mov, d, a, 0#8⟩ y)
/-- A pair led by ISEL (R151). -/
def execPairIsel (g : Grd) (d a b : VReg) (y : POp) (s : State) : Out := .next (s.pairOps g ⟨.isel, d, a, b⟩ y)

end Sys2Proof.Machine
end

