-- ==== Sys2Proof/Machine/Dispatch.lean ====
section
/-! DEFINITION. The dispatch of an instruction to its meaning. -/

namespace Sys2Proof.Machine

/-- The effect of an instruction or of an event of the device, its engines, the host or the debug port. -/
def exec (i : Instr) (s : State) : Host.Outcome State Fault Refusal :=
  match i with
  | .clauseIssue core slice => Sys2Proof.Machine.execClauseIssue core slice s
  | .fairnessOverride thread => Sys2Proof.Machine.execFairnessOverride thread s
  | .starvationFlag group => Sys2Proof.Machine.execStarvationFlag group s
  | .instructionComplete flight => Sys2Proof.Machine.execInstructionComplete flight s
  | .nop _ => Sys2Proof.Machine.execNop s
  | .mov c d b => Sys2Proof.Machine.execMov c d b s
  | .movi g d imm => Sys2Proof.Machine.execMovi g d imm s
  | .movw c w b => Sys2Proof.Machine.execMovw c w b s
  | .iadd c u sat d a b => Sys2Proof.Machine.execIadd c u sat d a b s
  | .isub c u sat d a b => Sys2Proof.Machine.execIsub c u sat d a b s
  | .iaddc c p d a b => Sys2Proof.Machine.execIaddc c p d a b s
  | .imul c u sat d a b => Sys2Proof.Machine.execImul c u sat d a b s
  | .imulh c u d a b => Sys2Proof.Machine.execImulh c u d a b s
  | .imad c u sat d a b x => Sys2Proof.Machine.execImad c u sat d a b x s
  | .imin c u d a b => Sys2Proof.Machine.execImin c u d a b s
  | .imax c u d a b => Sys2Proof.Machine.execImax c u d a b s
  | .iabs c d b => Sys2Proof.Machine.execIabs c d b s
  | .iadd64 c u sat d a b => Sys2Proof.Machine.execIadd64 c u sat d a b s
  | .imad64 c u sat d a b x => Sys2Proof.Machine.execImad64 c u sat d a b x s
  | .lea c sh d a b => Sys2Proof.Machine.execLea c sh d a b s
  | .icmp c cond u cmb d a b => Sys2Proof.Machine.execIcmp c cond u cmb d a b s
  | .isel c p d a b => Sys2Proof.Machine.execIsel c p d a b s
  | .land c d a b => Sys2Proof.Machine.execLand c d a b s
  | .lor c d a b => Sys2Proof.Machine.execLor c d a b s
  | .lxor c d a b => Sys2Proof.Machine.execLxor c d a b s
  | .landn c d a b => Sys2Proof.Machine.execLandn c d a b s
  | .lnot c d b => Sys2Proof.Machine.execLnot c d b s
  | .shl c d a b => Sys2Proof.Machine.execShl c d a b s
  | .shr c d a b => Sys2Proof.Machine.execShr c d a b s
  | .sar c d a b => Sys2Proof.Machine.execSar c d a b s
  | .rot c d a b => Sys2Proof.Machine.execRot c d a b s
  | .bfe c u d a b x => Sys2Proof.Machine.execBfe c u d a b x s
  | .bfi c d a b x => Sys2Proof.Machine.execBfi c d a b x s
  | .popc c d b => Sys2Proof.Machine.execPopc c d b s
  | .clz c d b => Sys2Proof.Machine.execClz c d b s
  | .brev c d b => Sys2Proof.Machine.execBrev c d b s
  | .perm c d a b x => Sys2Proof.Machine.execPerm c d a b x s
  | .plop c p3 d p1 p2 table => Sys2Proof.Machine.execPlop c p3 d p1 p2 table s
  | .pmov c op => Sys2Proof.Machine.execPmov c op s
  | .fadd c na d a b => Sys2Proof.Machine.execFadd c na d a b s
  | .fsub c na d a b => Sys2Proof.Machine.execFsub c na d a b s
  | .fmul c na d a b => Sys2Proof.Machine.execFmul c na d a b s
  | .ffma c na nc d a b x => Sys2Proof.Machine.execFfma c na nc d a b x s
  | .fmin c d a b => Sys2Proof.Machine.execFmin c d a b s
  | .fmax c d a b => Sys2Proof.Machine.execFmax c d a b s
  | .fclamp c d a b x => Sys2Proof.Machine.execFclamp c d a b x s
  | .fcmp c cond cmb d a b => Sys2Proof.Machine.execFcmp c cond cmb d a b s
  | .frnd c rm d b => Sys2Proof.Machine.execFrnd c rm d b s
  | .frcp c d b => Sys2Proof.Machine.execFrcp c d b s
  | .frsq c d b => Sys2Proof.Machine.execFrsq c d b s
  | .fsqrt c d b => Sys2Proof.Machine.execFsqrt c d b s
  | .fex2 c d b => Sys2Proof.Machine.execFex2 c d b s
  | .flg2 c d b => Sys2Proof.Machine.execFlg2 c d b s
  | .fsin c d b => Sys2Proof.Machine.execFsin c d b s
  | .fcos c d b => Sys2Proof.Machine.execFcos c d b s
  | .hadd2 c bf d a b => Sys2Proof.Machine.execHadd2 c bf d a b s
  | .hmul2 c bf d a b => Sys2Proof.Machine.execHmul2 c bf d a b s
  | .hfma2 c bf d a b x => Sys2Proof.Machine.execHfma2 c bf d a b x s
  | .hminmax2 c bf mx d a b => Sys2Proof.Machine.execHminmax2 c bf mx d a b s
  | .hcmp2 c bf cond cmb d a b => Sys2Proof.Machine.execHcmp2 c bf cond cmb d a b s
  | .cvt c d a sf df => Sys2Proof.Machine.execCvt c d a sf df s
  | .cvtpk c d a df => Sys2Proof.Machine.execCvtpk c d a df s
  | .cvtup c d a sf => Sys2Proof.Machine.execCvtup c d a sf s
  | .scaleq c d a df ss => Sys2Proof.Machine.execScaleq c d a df ss s
  | .descale c d a sf ss => Sys2Proof.Machine.execDescale c d a sf ss s
  | .dp4 c sat ua ub d a b x => Sys2Proof.Machine.execDp4 c sat ua ub d a b x s
  | .dp8 c sat ua ub d a b x => Sys2Proof.Machine.execDp8 c sat ua ub d a b x s
  | .dp2h c bf d a b x => Sys2Proof.Machine.execDp2h c bf d a b x s
  | .shfl c mode d a b mm => Sys2Proof.Machine.execShfl c mode d a b mm s
  | .vote c mode d p mm => Sys2Proof.Machine.execVote c mode d p mm s
  | .redl c op d p b mm => Sys2Proof.Machine.execRedl c op d p b mm s
  | .scanl c op excl d p b mm => Sys2Proof.Machine.execScanl c op excl d p b mm s
  | .matchl c w64 d b mm => Sys2Proof.Machine.execMatchl c w64 d b mm s
  | .elect c d mm => Sys2Proof.Machine.execElect c d mm s
  | .actmask c d mm => Sys2Proof.Machine.execActmask c d mm s
  | .bra g imm => Sys2Proof.Machine.execBra g imm s
  | .brp g p imm => Sys2Proof.Machine.execBrp g p imm s
  | .call g d imm => Sys2Proof.Machine.execCall g d imm s
  | .brx c b => Sys2Proof.Machine.execBrx c b s
  | .calli c d b => Sys2Proof.Machine.execCalli c d b s
  | .ret c b => Sys2Proof.Machine.execRet c b s
  | .exit c => Sys2Proof.Machine.execExit c s
  | .yield_ c => Sys2Proof.Machine.execYield c s
  | .sleepn c b => Sys2Proof.Machine.execSleepn c b s
  | .sleepnDeadline flight => Sys2Proof.Machine.execSleepnDeadline flight s
  | .lnmark c b => Sys2Proof.Machine.execLnmark c b s
  | .rbacq c d b => Sys2Proof.Machine.execRbacq c d b s
  | .rbrel c b => Sys2Proof.Machine.execRbrel c b s
  | .rbqry c d => Sys2Proof.Machine.execRbqry c d s
  | .kdecl c k a b => Sys2Proof.Machine.execKdecl c k a b s
  | .sign c d k => Sys2Proof.Machine.execSign c d k s
  | .waitk c k b => Sys2Proof.Machine.execWaitk c k b s
  | .ld c w sx data addr off scope => Sys2Proof.Machine.execLd c w sx data addr off scope s
  | .st c w data addr off scope => Sys2Proof.Machine.execSt c w data addr off scope s
  | .ldb c w sx data dn iv scope => Sys2Proof.Machine.execLdb c w sx data dn iv scope s
  | .stb c w data dn iv scope => Sys2Proof.Machine.execStb c w data dn iv scope s
  | .lds c w sx data addr off scope => Sys2Proof.Machine.execLds c w sx data addr off scope s
  | .sts c w data addr off scope => Sys2Proof.Machine.execSts c w data addr off scope s
  | .ldc c w sx data addr off scope => Sys2Proof.Machine.execLdc c w sx data addr off scope s
  | .stc c w data addr off scope => Sys2Proof.Machine.execStc c w data addr off scope s
  | .pref c addr off => Sys2Proof.Machine.execPref c addr off s
  | .tagst c data addr off scope => Sys2Proof.Machine.execTagst c data addr off scope s
  | .tagld c data addr off scope => Sys2Proof.Machine.execTagld c data addr off scope s
  | .dload c dn addr off scope => Sys2Proof.Machine.execDload c dn addr off scope s
  | .dqry c d dn b => Sys2Proof.Machine.execDqry c d dn b s
  | .cpy c s2g gather esz a b x => Sys2Proof.Machine.execCpy c s2g gather esz a b x s
  | .cpyg c gather esz a b x => Sys2Proof.Machine.execCpyg c gather esz a b x s
  | .cpyt c s2t dn b x => Sys2Proof.Machine.execCpyt c s2t dn b x s
  | .copyRoom thread => Sys2Proof.Machine.execCopyRoom thread s
  | .copyLineLands copy => Sys2Proof.Machine.execCopyLineLands copy s
  | .copyComplete copy => Sys2Proof.Machine.execCopyComplete copy s
  | .disct c b => Sys2Proof.Machine.execDisct c b s
  | .cacheopWb c a b => Sys2Proof.Machine.execCacheopWb c a b s
  | .cacheopWbinv c a b => Sys2Proof.Machine.execCacheopWbinv c a b s
  | .cacheopIcinv c a b => Sys2Proof.Machine.execCacheopIcinv c a b s
  | .texs c d a b dn => Sys2Proof.Machine.execTexs c d a b dn s
  | .texl c d a b dn => Sys2Proof.Machine.execTexl c d a b dn s
  | .texf c d a dn => Sys2Proof.Machine.execTexf c d a dn s
  | .surfst c a b dn => Sys2Proof.Machine.execSurfst c a b dn s
  | .atom c w64 op data ad scope => Sys2Proof.Machine.execAtom c w64 op data ad scope s
  | .atomc c w64 data ad scope => Sys2Proof.Machine.execAtomc c w64 data ad scope s
  | .red c w64 op data ad scope => Sys2Proof.Machine.execRed c w64 op data ad scope s
  | .couchedApply lid => Sys2Proof.Machine.execCouchedApply lid s
  | .waitc c w64 cond u data addr off scope => Sys2Proof.Machine.execWaitc c w64 cond u data addr off scope s
  | .monitorWake thread => Sys2Proof.Machine.execMonitorWake thread s
  | .waitcTimeout thread => Sys2Proof.Machine.execWaitcTimeout thread s
  | .monitorReevaluate thread => Sys2Proof.Machine.execMonitorReevaluate thread s
  | .fenceAcq c scope => Sys2Proof.Machine.execFenceAcq c scope s
  | .fenceRel c scope => Sys2Proof.Machine.execFenceRel c scope s
  | .fenceAr c scope => Sys2Proof.Machine.execFenceAr c scope s
  | .fenceRef c scope => Sys2Proof.Machine.execFenceRef c scope s
  | .time c d => Sys2Proof.Machine.execTime c d s
  | .bar c n b => Sys2Proof.Machine.execBar c n b s
  | .barc c => Sys2Proof.Machine.execBarc c s
  | .barg c => Sys2Proof.Machine.execBarg c s
  | .osenter c d a b => Sys2Proof.Machine.execOsenter c d a b s
  | .osleave c a => Sys2Proof.Machine.execOsleave c a s
  | .osabort c a => Sys2Proof.Machine.execOsabort c a s
  | .osstat c clrp d a => Sys2Proof.Machine.execOsstat c clrp d a s
  | .launch c a b => Sys2Proof.Machine.execLaunch c a b s
  | .amsend c a b => Sys2Proof.Machine.execAmsend c a b s
  | .amdone c => Sys2Proof.Machine.execAmdone c s
  | .messageHandlerSpawn msg slice => Sys2Proof.Machine.execMessageHandlerSpawn msg slice s
  | .mma c f reuse x a b k => Sys2Proof.Machine.execMma c f reuse x a b k s
  | .mmac c f reuse x a b k => Sys2Proof.Machine.execMmac c f reuse x a b k s
  | .matrixPass engine => Sys2Proof.Machine.execMatrixPass engine s
  | .reservationRaise engine entry => Sys2Proof.Machine.execReservationRaise engine entry s
  | .accz c x => Sys2Proof.Machine.execAccz c x s
  | .accld c f x b => Sys2Proof.Machine.execAccld c f x b s
  | .accst c f x b => Sys2Proof.Machine.execAccst c f x b s
  | .accrd c d x b => Sys2Proof.Machine.execAccrd c d x b s
  | .accwr c x a b => Sys2Proof.Machine.execAccwr c x a b s
  | .mperm c f d b => Sys2Proof.Machine.execMperm c f d b s
  | .fmtq c f x b => Sys2Proof.Machine.execFmtq c f x b s
  | .eqopen c d a => Sys2Proof.Machine.execEqopen c d a s
  | .unite c d a b x => Sys2Proof.Machine.execUnite c d a b x s
  | .find c d a x => Sys2Proof.Machine.execFind c d a x s
  | .eqsize c d a x => Sys2Proof.Machine.execEqsize c d a x s
  | .relabel c op d a x => Sys2Proof.Machine.execRelabel c op d a x s
  | .eqsnap c b x => Sys2Proof.Machine.execEqsnap c b x s
  | .equndo c x => Sys2Proof.Machine.execEqundo c x s
  | .eqclose c x => Sys2Proof.Machine.execEqclose c x s
  | .eqvApply request => Sys2Proof.Machine.execEqvApply request s
  | .trace c d a b => Sys2Proof.Machine.execTrace c d a b s
  | .rayComplete ray => Sys2Proof.Machine.execRayComplete ray s
  | .shaderGroupSpawn ray core slice => Sys2Proof.Machine.execShaderGroupSpawn ray core slice s
  | .trwait c d b => Sys2Proof.Machine.execTrwait c d b s
  | .trhitGet c d => Sys2Proof.Machine.execTrhitGet c d s
  | .trhitRet c b => Sys2Proof.Machine.execTrhitRet c b s
  | .boxt c d a b => Sys2Proof.Machine.execBoxt c d a b s
  | .trit c cb cf d a b => Sys2Proof.Machine.execTrit c cb cf d a b s
  | .xform c d a b => Sys2Proof.Machine.execXform c d a b s
  | .shadow c n a b x => Sys2Proof.Machine.execShadow c n a b x s
  | .shadowRayTest ray => Sys2Proof.Machine.execShadowRayTest ray s
  | .rng c n unit d a b => Sys2Proof.Machine.execRng c n unit d a b s
  | .coll c d a => Sys2Proof.Machine.execColl c d a s
  | .collectiveComplete coll peers => Sys2Proof.Machine.execCollectiveComplete coll peers s
  | .collw c d b => Sys2Proof.Machine.execCollw c d b s
  | .resid c a b x => Sys2Proof.Machine.execResid c a b x s
  | .getsr c d b => Sys2Proof.Machine.execGetsr c d b s
  | .setsr c n b => Sys2Proof.Machine.execSetsr c n b s
  | .trap c b => Sys2Proof.Machine.execTrap c b s
  | .bkpt c => Sys2Proof.Machine.execBkpt c s
  | .rett c b => Sys2Proof.Machine.execRett c b s
  | .tlbinv c a b x => Sys2Proof.Machine.execTlbinv c a b x s
  | .lpsweep c b => Sys2Proof.Machine.execLpsweep c b s
  | .digest c d => Sys2Proof.Machine.execDigest c d s
  | .ctxsave c b => Sys2Proof.Machine.execCtxsave c b s
  | .ctxload c b => Sys2Proof.Machine.execCtxload c b s
  | .halt c => Sys2Proof.Machine.execHalt c s
  | .pairFadd g d a b y => Sys2Proof.Machine.execPairFadd g d a b y s
  | .pairFmul g d a b y => Sys2Proof.Machine.execPairFmul g d a b y s
  | .pairFfma g d a b y => Sys2Proof.Machine.execPairFfma g d a b y s
  | .pairIadd g d a b y => Sys2Proof.Machine.execPairIadd g d a b y s
  | .pairAnd g d a b y => Sys2Proof.Machine.execPairAnd g d a b y s
  | .pairOr g d a b y => Sys2Proof.Machine.execPairOr g d a b y s
  | .pairXor g d a b y => Sys2Proof.Machine.execPairXor g d a b y s
  | .pairShl g d a b y => Sys2Proof.Machine.execPairShl g d a b y s
  | .pairMov g d a y => Sys2Proof.Machine.execPairMov g d a y s
  | .pairIsel g d a b y => Sys2Proof.Machine.execPairIsel g d a b y s
  | .handlerSpawn thread core slice => Sys2Proof.Machine.execHandlerSpawn thread core slice s
  | .storeWritebackTimeout core line => Sys2Proof.Machine.execStoreWritebackTimeout core line s
  | .lineEviction place line => Sys2Proof.Machine.execLineEviction place line s
  | .leaseExpiry place line => Sys2Proof.Machine.execLeaseExpiry place line s
  | .launchHeadCheck ctx q => Sys2Proof.Machine.execLaunchHeadCheck ctx q s
  | .launchWaitsHold ctx q => Sys2Proof.Machine.execLaunchWaitsHold ctx q s
  | .placeCluster lid core => Sys2Proof.Machine.execPlaceCluster lid core s
  | .tileJob tile => Sys2Proof.Machine.execTileJob tile s
  | .placementReservation lid => Sys2Proof.Machine.execPlacementReservation lid s
  | .priorityPreempt lid => Sys2Proof.Machine.execPriorityPreempt lid s
  | .swapOut lid => Sys2Proof.Machine.execSwapOut lid s
  | .timeSlicePreempt ctx => Sys2Proof.Machine.execTimeSlicePreempt ctx s
  | .preemptTeam team => Sys2Proof.Machine.execPreemptTeam team s
  | .restoreTeam team core => Sys2Proof.Machine.execRestoreTeam team core s
  | .launchComplete lid => Sys2Proof.Machine.execLaunchComplete lid s
  | .orderedStall lid => Sys2Proof.Machine.execOrderedStall lid s
  | .timeAgreementCheck peerSkews => Sys2Proof.Machine.execTimeAgreementCheck peerSkews s
  | .guardExit die => Sys2Proof.Machine.execGuardExit die s
  | .dramScrub sector check => Sys2Proof.Machine.execDramScrub sector check s
  | .healthSample die mon value => Sys2Proof.Machine.execHealthSample die mon value s
  | .faultRecordWrite fault => Sys2Proof.Machine.execFaultRecordWrite fault s
  | .errorRecordWrite err => Sys2Proof.Machine.execErrorRecordWrite err s
  | .hostApertureAccess off acc => Sys2Proof.Machine.execHostApertureAccess off acc s
  | .hostSnoop line bytes => Sys2Proof.Machine.execHostSnoop line bytes s
  | .peerRequest link pa acc => Sys2Proof.Machine.execPeerRequest link pa acc s
  | .flitCrcFail unit => Sys2Proof.Machine.execFlitCrcFail unit s
  | .linkDown link cause => Sys2Proof.Machine.execLinkDown link cause s
  | .portFailure port => Sys2Proof.Machine.execPortFailure port s
  | .pcieLinkDown link => Sys2Proof.Machine.execPcieLinkDown link s
  | .boot b => Sys2Proof.Machine.execBoot b s
  | .doorbell ctx q ptr => Sys2Proof.Machine.execDoorbell ctx q ptr s
  | .contextEnable ctx => Sys2Proof.Machine.execContextEnable ctx s
  | .contextDisable ctx => Sys2Proof.Machine.execContextDisable ctx s
  | .plimitWrite watts => Sys2Proof.Machine.execPlimitWrite watts s
  | .monitorClear die mon => Sys2Proof.Machine.execMonitorClear die mon s
  | .quote => Sys2Proof.Machine.execQuote s
  | .quoteDone => Sys2Proof.Machine.execQuoteDone s
  | .kill ctx => Sys2Proof.Machine.execKill ctx s
  | .killComplete ctx => Sys2Proof.Machine.execKillComplete ctx s
  | .resume ctx => Sys2Proof.Machine.execResume ctx s
  | .hfrzWrite ctx => Sys2Proof.Machine.execHfrzWrite ctx s
  | .faultRetry id => Sys2Proof.Machine.execFaultRetry id s
  | .faultFail id => Sys2Proof.Machine.execFaultFail id s
  | .faultRingDisable => Sys2Proof.Machine.execFaultRingDisable s
  | .errorRetry id => Sys2Proof.Machine.execErrorRetry id s
  | .errorFreeze id => Sys2Proof.Machine.execErrorFreeze id s
  | .errorRingDisable => Sys2Proof.Machine.execErrorRingDisable s
  | .watchWrite w off value => Sys2Proof.Machine.execWatchWrite w off value s
  | .cbbaseWrite value => Sys2Proof.Machine.execCbbaseWrite value s
  | .lcstatClear die => Sys2Proof.Machine.execLcstatClear die s
  | .errcntClear die => Sys2Proof.Machine.execErrcntClear die s
  | .registerWrite off width value => Sys2Proof.Machine.execRegisterWrite off width value s
  | .idcode => Sys2Proof.Machine.execIdcode s
  | .debugFreeze => Sys2Proof.Machine.execDebugFreeze s
  | .debugRelease => Sys2Proof.Machine.execDebugRelease s
  | .chainsel value => Sys2Proof.Machine.execChainsel value s
  | .chainrd bits => Sys2Proof.Machine.execChainrd bits s
  | .bypass code tdi => Sys2Proof.Machine.execBypass code tdi s
  | .haltMarkClear ctx => Sys2Proof.Machine.execHaltMarkClear ctx s
  | .hostLinkTrained link cxl => Sys2Proof.Machine.execHostLinkTrained link cxl s
  | .samplePreload tdi => Sys2Proof.Machine.execSamplePreload tdi s
  | .extest tdi => Sys2Proof.Machine.execExtest tdi s

end Sys2Proof.Machine
end

