-- ==== Sys2Proof/Machine/Upset.lean ====
section
/-! DEFINITION. Errors that the check codes of the storage arrays find (R443): what a corrected and what an uncorrectable
one does, by array. -/

namespace Sys2Proof.Machine

/-- A corrected error (R443, R447, R448): it is counted and recorded. -/
def State.upsetCorrected (s : State) (pa unit index ctx die : Nat) (dropped : Bool) : State :=
  let s1 : State := { s with h := { s.h with corr := updAt s.h.corr die satInc } }
  (s1.addError pa .softErrorCorrected unit index ctx false false dropped 0 die).1

/-- An error in an array that holds what a context owns (R443): an uncorrectable one freezes the context. -/
def State.upsetOwned (s : State) (corrected : Bool) (unit index ctx die : Nat) : State :=
  if corrected then s.upsetCorrected 0 unit index ctx die false
  else
    let s1 := (s.addError 0 .uncorrectable unit index ctx false false false 0 die).1
    s1.freeze ctx (bareReport (s1.now die) ctx (Cause.of .uncorrectable)) true

/-- An uncorrectable error in data that is no clean copy (R443): its 64-B sector is poisoned, which is recorded. -/
def State.upsetSector (s : State) (corrected : Bool) (pa unit index ctx die : Nat) (poison : State → State) : State :=
  if corrected then s.upsetCorrected pa unit index ctx die false
  else ((poison s).addError pa .uncorrectable unit index ctx false false false 0 die).1

/-- A line leaves a core with the masked bytes of one sector bad (R443, R444): they poison that sector at home, and in the copy
that they pass. -/
def State.evictBad (s : State) (c : Copy) (k : Nat) : State :=
  let s := (s.writeBackOf c (fun o => o / 64 == k) true).1
  match s.copy? c.place c.line c.ctx with
  | some c => s.evict c
  | none => s

/-- An error in a byte of a cached copy (R443): clean bytes are dropped, with their sector, and read again from home, for which a
line that a core owns returns there (R95); a masked byte makes a poisoned sector, which goes home. -/
def State.upsetCopy (s : State) (corrected : Bool) (c : Copy) (b : Nat) : State :=
  let k := b / 64
  let pa := 256 * c.line + 64 * k
  let die := Place.die c.place
  let u : Nat × Nat := match c.place with
    | .l1 core => (2, core)
    | .localSlice n => (7, n)
    | .selvedge p => (7, p)
    | .home => (6, homeSlice pa)
  if (sget c.mask b).isSome then s.upsetSector corrected pa u.1 u.2 c.ctx die fun s => s.evictBad c k
  else if corrected then s.upsetCorrected pa u.1 u.2 c.ctx die false
  else
    (if c.own.isSome then s.evict c else s.putCopy { c with sectors := sdel c.sectors k }).upsetCorrected pa u.1 u.2 c.ctx die true

/-- A check code finds an error in an element (R443). Translations and decoded clauses carry parity alone: the entry is
dropped. An element that does not exist has no error. -/
def State.upset (s : State) (x : Storage) (corrected : Bool) : State :=
  match x with
  | .regs u =>
    match s.thread? u with
    | some t => s.upsetOwned corrected 0 t.core t.ctx (coreDie t.core)
    | none => s
  | .teamRegs u =>
    match s.team? u with
    | some k => s.upsetOwned corrected 4 k.core k.ctx (coreDie k.core)
    | none => s
  | .tiles u =>
    match s.team? u with
    | some k => s.upsetOwned corrected 3 k.core k.ctx (coreDie k.core)
    | none => s
  | .couch core n =>
    match (s.couchBuf core)[n]? with
    | some e => s.upsetOwned corrected 4 core e.ctx (coreDie core)
    | none => s
  | .key n =>
    match s.y.keys[n]? with
    | some k => s.upsetOwned corrected 8 (keySlice k.key) k.ctx (keySlice k.key / 24)
    | none => s
  | .monitor n =>
    match s.y.monitors[n]?.bind fun m => ((s.flight? m.flight).bind fun f => s.thread? f.thread).map fun t => (m, t.ctx) with
    | some m => s.upsetOwned corrected 8 m.1.slice m.2 (m.1.slice / 24)
    | none => s
  | .lastPage n =>
    match s.m.lastPage[n]? with
    | some e =>
      ({ s with m := { s.m with lastPage := sdel s.m.lastPage e.1 } } : State).upsetCorrected 0 5 (e.1 / 256) e.2.ctx
        (coreDie (e.1 / 256)) true
    | none => s
  | .coreTlb core n =>
    let es := (sget s.m.coreTlb core).getD []
    match es[n]? with
    | some e =>
      ({ s with m := { s.m with coreTlb := sput s.m.coreTlb core (es.eraseIdx n) } } : State).upsetCorrected 0 5 core e.ctx
        (coreDie core) true
    | none => s
  | .sectorTlb k n =>
    let es := (sget s.m.sectorTlb k).getD []
    match es[n]? with
    | some e =>
      ({ s with m := { s.m with sectorTlb := sput s.m.sectorTlb k (es.eraseIdx n) } } : State).upsetCorrected 0 5 k e.ctx
        (k / 3) true
    | none => s
  | .decoded n =>
    match s.m.fetched[n]? with
    | some w =>
      ({ s with m := { s.m with fetched := s.m.fetched.eraseIdx n } } : State).upsetCorrected 0 2 w.core w.ctx
        (coreDie w.core) true
    | none => s
  | .copy n b =>
    match s.m.copies[n]? with
    | some c => if b < 256 then s.upsetCopy corrected c b else s
    | none => s
  | .home n =>
    let pa := 64 * n
    match sget s.m.home (pa / 256) with
    | some h => s.upsetSector corrected pa 6 (homeSlice pa) (h.ctx.getD 0) (homeDie pa) fun s => s.setPoison pa true
    | none => s
  | .spad u n =>
    match s.team? u with
    | some k =>
      if 64 * n < k.ssize then
        s.upsetSector corrected 0 1 k.core k.ctx (coreDie k.core) fun s =>
          s.updTeam u fun k => { k with spoison := sput k.spoison n () }
      else s
    | none => s
  | .idle die unit index =>
    if die < 4 then
      if corrected then s.upsetCorrected 0 unit index 0 die false
      else (s.addError 0 .uncorrectable unit index 0 false false false 0 die).1
    else s

end Sys2Proof.Machine
end

