-- ==== Sys2Proof/Machine/Sched.lean ====
section
/-! DEFINITION. What a step does: the next word of an open clause, an event, or the passing of time; and what follows every
step (R34, R37, R38, R142, R389 to R392). The order of independent agents is the schedule's (log 2). -/

namespace Sys2Proof.Machine

/-! A word of an open clause (R34) -/

/-- The thread is a member of the bundle of a slice. -/
def Thread.inSlice (core slice : Nat) (t : Thread) : Bool :=
  t.status == .issued && t.core == core && t.slice == slice && t.trap.isNone

/-- The members of a slice's bundle. -/
def State.sliceMembers (s : State) (core slice : Nat) : List Thread := s.x.threads.filter (Thread.inSlice core slice)

/-- The word that an open clause issues next, and its PAIR bit. -/
def Issue.next (i : Issue) : DWord := i.words.getD i.pos 0#64
/-- PAIR bit of the next word. -/
def Issue.paired (i : Issue) : Bool := hdrPair i.header i.pos

/-- What the next word of an open clause does (R38, R389). -/
inductive WordPlan where
  /-- No member is left, or no word. -/
  | close
  /-- A window, a fence, a full request table or a trace holds the word. -/
  | wait
  /-- A code that every member raises, whatever its guard. -/
  | raiseAll (c : Code)
  /-- ILLEGAL_OPERAND of the encoding: on every member, or on those whose guard holds. -/
  | encoding (onAll : Bool)
  /-- The word issues. -/
  | run (i : Instr)
deriving DecidableEq, Repr

/-- Something holds the next word back (R37, R75, R93, R438). -/
def State.wordHeld (s : State) (c : Issue) (ms : List Thread) : Bool :=
  ms.any (s.wordWaits c.paired c.next) || ms.any s.traceHolds ||
    (!c.paired && opClass (bits c.next 56 8) == some 1 && decide (1024 ≤ s.requests c.core))

/-- The word takes its turn: the position advances, the members stand at the word, and each window of theirs closes by one
(R34, R37). -/
def State.beginWord (s : State) (c : Issue) : State :=
  let mine := Thread.inSlice c.core c.slice
  let us := (s.x.threads.filter mine).map Thread.uid
  { s with x := { s.x with
    cur := (c.core, c.slice)
    nextUid := s.x.nextUid + 1
    issues := s.x.issues.map fun i =>
      if i.core == c.core && i.slice == c.slice then { i with pos := i.pos + 1, stamp := s.x.nextUid } else i
    threads := s.x.threads.map fun t => if mine t then { t with pc := wordAddr c.hdr c.pos } else t
    flights := s.x.flights.map fun f => if us.contains f.thread && f.busy then { f with window := f.window - 1 } else f } }

/-- The word would ask for more sectors than the request table has room for (R17, R75). No word asks for 512, so that only a table
that is half full can hold one. -/
def State.overfull (s : State) (c : Issue) (i : Instr) : Bool :=
  !c.paired && opClass (bits c.next 56 8) == some 1 && decide (512 < s.requests c.core) &&
    (match exec i (s.beginWord c) with
      | .next t => decide (1024 < t.requests c.core)
      | _ => false)

/-- The plan of the next word. -/
def State.wordPlan (s : State) (c : Issue) : WordPlan :=
  let ms := s.sliceMembers c.core c.slice
  if ms.isEmpty || decide (c.words.length ≤ c.pos) then .close
  else
    match decode c.paired c.next with
    | .error .illegalOpcode => .raiseAll .illegalOpcode
    | .error .pairViolation => .raiseAll .pairViolation
    | .error (.illegalOperand all) =>
      if wordLong c.paired c.next && decide (wordLa c.next < c.words.length - c.pos) then .raiseAll .lookaheadHazard
      else if s.wordHeld c ms then .wait
      else .encoding all
    | .ok i =>
      if wordLong c.paired c.next && decide (wordLa c.next < c.words.length - c.pos) then .raiseAll .lookaheadHazard
      else if s.wordHeld c ms || s.overfull c i then .wait
      else .run i

/-- A member that is left at the end of its clause falls through to the boundary after it (R133, R137). -/
def Thread.fallThrough (t : Thread) (a : DWord) : Thread := { t with pc := a, hdr := a, mid := false, status := .boundary }

/-- The clause of a slice ends. -/
def State.closeClause (s : State) (core slice : Nat) : State :=
  match s.issue? core slice with
  | none => s
  | some c =>
    let a := wordAddr c.hdr c.words.length
    { s with x := { s.x with
      issues := s.x.issues.filter fun i => !(i.core == core && i.slice == slice)
      threads := s.x.threads.map fun t =>
        if t.status == .issued && t.core == core && t.slice == slice then t.fallThrough a else t } }

/-- After a word: the clause ends after its last word, or when no member is left. -/
def State.endWord (s : State) (core slice : Nat) : State :=
  match s.issue? core slice with
  | none => s
  | some c =>
    if (s.sliceMembers core slice).isEmpty || decide (c.words.length ≤ c.pos) then s.closeClause core slice else s

/-- What `step` must do after the word's instruction has run: the slice, the members that issued it, and the word. -/
structure WordEnd where
  core    : Nat
  slice   : Nat
  members : List Thread
  ins     : Option Instr
  paired  : Bool
  word    : DWord
  uid     : Nat
deriving DecidableEq, Repr

/-- The trace entries of the word, and the end of its clause (R34, R438). -/
def State.finishWord (s : State) (e : WordEnd) : State :=
  (s.traceWord e.members e.ins e.paired e.word e.uid).endWord e.core e.slice

/-! What a step does -/

/-- What a step does: it ends in a state, it runs an event, or it runs the word of an open clause. -/
inductive Todo where
  | done (s : State)
  | act (i : Instr) (s : State)
  | word (i : Instr) (s : State) (e : WordEnd)
deriving DecidableEq, Repr

/-- A word's turn in an open clause. -/
def State.wordTurn (s : State) (c : Issue) : Todo :=
  let ms := s.sliceMembers c.core c.slice
  let b := (s.beginWord c).traceBegin ms
  let e : WordEnd := ⟨c.core, c.slice, ms.map fun t => { t with pc := wordAddr c.hdr c.pos }, none, c.paired, c.next, s.x.nextUid + 1⟩
  match s.wordPlan c with
  | .close => .done (s.closeClause c.core c.slice)
  | .wait => .done s
  | .raiseAll code =>
    .done (((b.mapThreads fun t => if b.member t then b.trapped t (Cause.of code) else t).settle).closeClause c.core c.slice)
  | .encoding all =>
    let hit (t : Thread) : Bool := all || t.guard (wordGuard c.next)
    .done (((b.mapThreads fun t => if b.member t && hit t then b.trapped t (Cause.of .illegalOperand) else t).settle).finishWord
      e)
  | .run i =>
    let e := { e with ins := some i }
    match b.replayWord i c.next with
    | some t => .done (t.finishWord e)
    | none => .word i b e

/-! Time -/

/-- The clock at which the device itself acts next, if it is to act at all: stores leave L1 (R92, R97), and waiters without a
monitor are evaluated again (R96). -/
def State.nextDue (s : State) : Option Nat :=
  (s.m.copies.filterMap Copy.due ++
    (s.y.monitors.filter fun m => !m.monitor && m.woken.isNone).map fun m : Monitor => m.last + 1024).min?

/-- Clocks that pass before the device itself acts, of those asked for: it compares device time every 64 (R409). -/
def State.mayPass (s : State) (clocks : Nat) : Nat :=
  let k := min clocks (64 - s.x.clk % 64)
  match s.nextDue with
  | some d => min k (d - s.x.clk)
  | none => k

/-- Nanoseconds that so many of the next clocks last, at `part` hundredths of the nominal rate (R7, R8). -/
def State.nanos (s : State) (clocks part : Nat) : Nat := (s.x.clk + clocks) * part / 170 - s.x.clk * part / 170

/-- What the dies gain on the linked devices while so many clocks pass: at most a quarter of the nominal rate (R410, R450). -/
def State.gain (s : State) (clocks : Nat) : Nat := min s.peerLead (s.nanos clocks 25)

/-- A die has been found to lag behind another by more than 1 ns (R409, R410). -/
def State.lags (s : State) (d t : Nat) : Bool :=
  decide (t + 1 < s.x.devTime.foldl max 0) && (s.h.lc.getD d LeaseClock.reset).die != 0#4

/-- Device time once clocks and, on each die, nanoseconds have passed: dies that agree within 2 ns go on agreeing (R8, R24); one
that has been found to lag is advanced at no more than 1.25 times the nominal rate, until it has caught up (R410); and one that
has slipped further counts on, until the next comparison finds it (R409). -/
def State.timeAfter (s : State) (clocks : Nat) (ns : List Nat) : List Nat :=
  let fast := s.nanos clocks 125
  let goal (t : Nat × Nat) : Nat :=
    let n := ns.getD t.2 0
    t.1 + (if s.lags t.2 t.1 then min n fast else if 0 < s.peerLead then min n (s.nanos clocks 100) + s.gain clocks else n)
  let ts := s.x.devTime.zipIdx
  let lead := (ts.map goal).foldl max 0
  let top := s.x.devTime.foldl max 0
  ts.map fun t =>
    if s.lags t.2 t.1 then max (goal t) (min lead (t.1 + fast))
    else if top ≤ t.1 + 2 then max (goal t) (lead - 2)
    else goal t

/-- Fabric clocks and device time pass, as far as the next clock at which the device itself acts (R23, R24, R42, R92, R96, R97,
R409). -/
def State.pass (s : State) (clocks : Nat) (ns : List Nat) : State :=
  let k := s.mayPass clocks
  let ns := if k == clocks then ns else ns.map fun n => n * k / clocks
  let s := s.starveGroups ((s.x.clk + k) / 2 - s.x.clk / 2)
  let check := (s.x.clk + k) / 64 != s.x.clk / 64
  let s : State := { s with
    x := { s.x with clk := s.x.clk + k, devTime := s.timeAfter k ns }
    b := { s.b with peers := s.b.peers.map fun v => v - s.gain k } }
  let s := if check then s.agreement s.b.peers else s
  (s.sendDue fun _ => true).waitSweep

/-- A die's time fails to count some nanoseconds, which the other dies count (R409, R410). -/
def State.slip (s : State) (die ns : Nat) : State :=
  { s with x := { s.x with devTime := s.x.devTime.zipIdx.map fun t => if t.2 == die then t.1 else t.1 + ns } }

/-! Which events may happen -/

/-- The event is the debug port's (R449). -/
def debugEvent (i : Instr) : Bool :=
  match i with
  | .idcode | .debugFreeze | .debugRelease | .chainsel _ | .chainrd _ | .bypass _ _ | .samplePreload _ | .extest _ => true
  | _ => false

/-- The event is BOOT. -/
def bootEvent (i : Instr) : Bool :=
  match i with
  | .boot _ => true
  | _ => false

/-- An event may happen: an instruction issues only as a word of a clause; a device that is frozen hears only its debug
port (R449, R450), and one that has not booted only its board controller (R355). -/
def State.may (s : State) (i : Instr) : Bool :=
  i.layout.isNone && (debugEvent i || (!s.b.frozen && (s.b.booted || bootEvent i)))

/-- Words issue and time passes. -/
def State.alive (s : State) : Bool := s.b.booted && !s.b.frozen

/-- What a choice of the schedule does. A choice that cannot happen does nothing (log 3). -/
def State.choose (s : State) (c : Choice) : Todo :=
  match c with
  | .act i => if s.may i then .act i s else .done s
  | .word core slice =>
    match s.issue? core slice with
    | some c => if s.alive then s.wordTurn c else .done s
    | none => .done s
  | .advance clocks ns => .done (if s.alive then s.pass clocks ns else s)
  | .upset x corrected => .done (if s.alive then s.upset x corrected else s)
  | .slip die ns => .done (if s.alive then s.slip die ns else s)
  | .node job => .done (if s.alive then (s.rayNode job).tileNode job else s)
  | .carried unit => .done (if s.alive then s.carried unit else s)

/-! The default order (log 2) -/

/-- An event that changes the state. -/
def State.happens (s : State) (i : Instr) : Bool :=
  s.may i && (match exec i s with
    | .next t => t != s
    | _ => false)

/-- Stamp of the last bundle of a slice. -/
def State.lastOf (s : State) (p : Nat × Nat) : Nat :=
  (s.x.groups.filter fun g => g.core == p.1 && g.slice == p.2).foldl (fun m g => max m g.last) 0

/-- Puts a slice among others by the stamp of its last bundle. -/
def placeInsert (p : Nat × (Nat × Nat)) (ps : List (Nat × (Nat × Nat))) : List (Nat × (Nat × Nat)) :=
  match ps with
  | [] => [p]
  | q :: r => if p.1 ≤ q.1 then p :: q :: r else q :: placeInsert p r

/-- Slices in which threads stand, the one that issued longest ago first. -/
def State.places (s : State) : List (Nat × Nat) :=
  ((((s.x.threads.map fun t => (t.core, t.slice)).eraseDups).map fun p => (s.lastOf p, p)).foldr placeInsert []).map Prod.snd

/-- Every slice, those with no open clause first. -/
def State.allSlices (s : State) (cores : List Nat) : List (Nat × Nat) :=
  let all := cores.flatMap fun c => (List.range 8).map fun k => (c, k)
  (all.filter fun p => (s.issue? p.1 p.2).isNone) ++ all.filter fun p => (s.issue? p.1 p.2).isSome

/-- Events of the cores and the engines. -/
def State.engineEvents (s : State) : List Instr :=
  (s.x.threads.filter fun t => match t.status with | .copyWait .. => true | _ => false).map (fun t => .copyRoom t.uid)
    ++ (s.x.threads.filter fun t => t.status == .parkedMon).flatMap
      (fun t => [.monitorWake t.uid, .waitcTimeout t.uid, .monitorReevaluate t.uid])
    ++ (s.x.flights.map fun f => .instructionComplete f.uid) ++ (s.x.flights.map fun f => .sleepnDeadline f.uid)
    ++ (s.e.copies.flatMap fun k => [.copyLineLands k.uid, .copyComplete k.uid])
    ++ ((s.e.passes.map Pass.engine).eraseDups.map fun e => .matrixPass e)
    ++ (s.e.eqReqs.map fun r => .eqvApply r.uid) ++ (s.e.rays.flatMap fun r => [.rayComplete r.uid, .shadowRayTest r.uid])
    ++ (s.e.colls.map fun k => .collectiveComplete k.uid ⟨false, []⟩) ++ (s.d.launches.map fun l => .couchedApply l.uid)

/-- Events that place handlers, shaders and message handlers. -/
def State.spawnEvents (s : State) : List Instr :=
  let at_ (cores : List Nat) : List (Nat × Nat) := s.allSlices cores
  ((s.x.threads.filter fun t => t.trap.isSome).flatMap fun t =>
      (at_ (t.core :: List.range 144)).map fun p => .handlerSpawn t.uid p.1 p.2)
    ++ ((s.d.launches.filter fun l => !l.traps.isEmpty).flatMap fun l =>
      (at_ (List.range 144)).map fun p => .handlerSpawn l.uid p.1 p.2)
    ++ ((s.e.rays.filter fun r => match r.stage with | .shader _ => true | _ => false).flatMap fun r =>
      (at_ (r.core :: List.range 144)).map fun p => .shaderGroupSpawn r.uid p.1 p.2)
    ++ ((s.e.msgs.filter fun m => m.queued).flatMap fun m => (List.range 8).map fun k => .messageHandlerSpawn m.uid k)

/-- Events of the dispatcher. -/
def State.dispatchEvents (s : State) : List Instr :=
  let qs := s.d.queues.map fun q => (q.1 / 16, q.1 % 16)
  let lids := s.d.launches.map Launch.uid
  (s.x.teams.map fun k => .preemptTeam k.uid) ++ (qs.flatMap fun q => [.launchHeadCheck q.1 q.2, .launchWaitsHold q.1 q.2])
    ++ (lids.flatMap fun l => (List.range 144).map fun c => .placeCluster l c)
    ++ (s.e.tiles.map fun t => .tileJob t.uid)
    ++ ((s.x.teams.filter fun k => k.swapped.isSome).flatMap fun k => (List.range 144).map fun c => .restoreTeam k.uid c)
    ++ (lids.flatMap fun l => [.launchComplete l, .placementReservation l, .priorityPreempt l, .swapOut l, .orderedStall l])
    ++ ((List.range 64).map fun c => .timeSlicePreempt c)

/-- Records, deadlines and recoveries that come due. -/
def State.dueEvents (s : State) : List Instr :=
  (s.h.faults.map fun f => .faultRecordWrite f.uid) ++ (s.h.errors.map fun e => .errorRecordWrite e.uid)
    ++ ((s.m.copies.filterMap fun c => match c.place with
      | .l1 core => some (.storeWritebackTimeout core c.line)
      | _ => none))
    ++ (s.e.passes.map fun p => .reservationRaise p.engine p.uid)
    ++ ((List.range 64).map fun c => .killComplete c) ++ [.quoteDone] ++ (List.range 4).map fun d => .guardExit d

/-- What boot brings where the schedule does not say: a verified image, LPDDR on every die, no trained link
(log 4). -/
def defaultBoot : BootIn := ⟨[], true, [], 0xF#4, 0, 0#12, 0#2, 0#2⟩

/-- The next choice where the schedule is empty: boot; the next word of an open clause; an event that is enabled; a
clause; none where nothing but time can go on. -/
def State.defaultChoice (s : State) : Option Choice :=
  if !s.b.booted then some (.act (.boot defaultBoot))
  else
    match s.x.issues.find? fun c => s.wordPlan c != .wait with
    | some c => some (.word c.core c.slice)
    | none =>
      ((s.engineEvents ++ s.spawnEvents ++ s.dispatchEvents ++ s.dueEvents ++
        s.places.map fun p => Instr.clauseIssue p.1 p.2).find? s.happens).map fun i => .act i

/-- One fabric clock of 1.7 GHz, at the nominal rates of both counts (R7, R8; log 2). -/
def State.tick (s : State) : Choice :=
  .advance 1 (List.replicate 4 ((s.x.clk + 1) * 10 / 17 - s.x.clk * 10 / 17))

/-- What the machine does next. Where the schedule is empty, a clock passes after each choice of the default order. -/
def State.todo (s : State) : Todo :=
  match s.agenda with
  | c :: rest => ({ s with agenda := rest } : State).choose c
  | [] =>
    match s.defaultChoice with
    | some c => ({ s with agenda := [s.tick] } : State).choose c
    | none => s.choose s.tick

/-! After every step -/

/-- Finished rays whose thread has ended leave: no TRWAIT will ask for them (R269). -/
def State.dropRays (s : State) : State :=
  { s with e := { s.e with rays := s.e.rays.filter fun r => r.stage != .done || (s.thread? r.thread).isSome } }

/-- What follows every step of a device that runs: records that no ring takes, records that are performed, doorbell reads,
reads of the dispatcher that have failed, replays, the end of groups, teams and launches, launches of tiles that were pre-empted, and the watch for stalled launches (R52,
R332, R349, R352, R414, R435, R447). -/
def State.upkeep (s : State) : State :=
  let s := s.errSettle.ringsCount.serveBells.placeFails
  let s := (s.d.launches.map Launch.uid).foldl (fun s l => s.replayTick l) s
  s.reap.dropRays.layGhosts.freeTiles.watchStall.forgetLaunches

/-- What follows every step by itself; a code that the step has raised is then delivered (R379). -/
def State.tidy (s : State) : State := (if s.alive then s.upkeep else s).settle

/-! Placing a word (log 5) -/

/-- The record of the launch that a placed word belongs to: one team of one thread with 16 register blocks, of energy
class 7, with an accumulator store and a scratchpad; the rest zero. -/
def wordRecord : BitVec 4096 :=
  BitVec.ofNat 4096 (0x10000 + 2 ^ 68 * 65536 + 2 ^ 91 * 16 + 2 ^ 96 * 16 + 2 ^ 101 + 2 ^ 105 + 2 ^ 109 + 2 ^ 120 * 7 + 2 ^ 128 +
    2 ^ 160 + 2 ^ 192 * 8)

/-- A word stands as the one word of an open clause of core 0, slice 0, whose bundle is the thread of a new launch of
context 0, which is enabled and privileged; the next step runs it. -/
def State.withWord (s : State) (paired : Bool) (w : DWord) : State :=
  let s := s.closeClause 0 0
  let l : Launch := { mkLaunch ⟨s.x.nextUid, 0#64, wordRecord⟩ 0 0 with state := .running, placed := 1 }
  let c : Ctx := { Ctx.reset with enabled := true, priv := true }
  let s : State := { s with
    agenda := .word 0 0 :: s.agenda
    x := { s.x with nextUid := s.x.nextUid + 1 }
    d := { s.d with ctxs := s.d.ctxs.set 0 c, launches := s.d.launches ++ [l] }
    b := { s.b with booted := true, frozen := false } }
  let r := s.placeTeam l 0 0 0 (l.computeStarts 0) none
  let hdr := lrEntry wordRecord
  let header : DWord := 0xB000000000000000#64 ||| (BitVec.ofNat 64 ((opClass (bits w 56 8)).getD 0) <<< 52) |||
    (if paired then 0x10000#64 else 0#64)
  { r.1 with x := { r.1.x with
    issues := r.1.x.issues ++ [⟨0, 0, hdr, header, [w], 0, r.1.x.nextUid⟩]
    threads := r.1.x.threads.map fun t =>
      if t.team == some r.2 then { t with status := .issued, hdr := hdr, count := 1 } else t } }

end Sys2Proof.Machine
end

