-- ==== Sys2Proof/Machine/Step.lean ====
section
/-! DEFINITION. One step of the machine, and how a word is placed where the next step runs it. -/

namespace Sys2Proof.Machine

/-- One step: what `todo` says, run by `exec`, and what follows every step. -/
def step (s : State) : Host.Outcome State Fault Refusal :=
  match s.todo with
  | .done t => .next t.tidy
  | .act i t =>
    match exec i t with
    | .next u => .next u.tidy
    | o => o
  | .word i t e =>
    match exec i t with
    | .next u => .next (u.finishWord e).tidy
    | o => o

/-- The word `w`, whose bit 64 where given is its PAIR bit, stands as the one word of an open clause of core 0, slice 0,
whose bundle is one thread of a new launch of context 0 (log 5). -/
def State.withFetchWord (s : State) (nbits w : Nat) : State := s.withWord (decide (64 < nbits) && w.testBit 64) (BitVec.ofNat 64 w)

end Sys2Proof.Machine
end

