-- ==== Sys2Proof/Safety.lean ====
section
/-! DEFINITION. The terms in which claims about the machine are stated: canonical memory, a state with no code left to
deliver, the lanes that a word acts on, and the values they read. -/

namespace Sys2Proof.Machine

/-! Memory -/

/-- Offsets of bytes in a line: strictly rising, and below 256. -/
def Memory.lineWf (m : Sparse Byte) : Bool := srising m && m.all fun p => decide (p.1 < 256)

/-- Canonical form: addresses strictly rising, and no entry equal to what an unlisted address reads as; the bytes of a line
at home, and the masked bytes of a copy, lie in their line. -/
def Memory.wf (m : MemState) : Bool :=
  swf 0#8 m.dram && swf 0#4 m.tags && srising m.poison && swf HomeLine.empty m.home &&
    (m.home.all fun h => Memory.lineWf h.2.bytes) && m.copies.all fun c => Memory.lineWf c.mask

/-- A line has room in a core's L1: it stands there for the context, or its set is not full (R73). -/
def State.l1Room (s : State) (core l ctx : Nat) : Prop :=
  (s.copy? (.l1 core) l ctx).isSome = true ∨ (s.l1Set core l).length < 16

/-- A place holds one copy of a line for a context (R73). -/
def State.oneCopy (s : State) : Prop := (s.m.copies.map fun c => (c.place, c.line, c.ctx)).Nodup

/-- The byte of a context that a core's L1 holds with its mask bit set, at a physical address (R74). -/
def State.maskedAt (s : State) (core ctx q : Nat) : Option Byte := (s.copy? (.l1 core) (q / 256) ctx).bind fun c => sget c.mask (q % 256)

/-! Codes -/

/-- No thread has a code that is still to be delivered (R379). Every step ends so. -/
def State.calm (s : State) : Prop := ∀ t ∈ s.x.threads, t.freshTrap = false

/-! Lanes of a word -/

/-- The word acts on the thread: it is in the bundle that is issuing, and its guard holds (R34, R142). -/
def State.active (s : State) (g : Grd) (t : Thread) : Bool := s.member t && t.guard g

/-- Every register that the word names lies below the block limit of each thread that it acts on (R43). -/
def State.regsFit (s : State) (g : Grd) (runs : List (VReg × Nat)) : Prop :=
  ∀ t ∈ s.x.threads, s.active g t = true → t.inBlocks runs = true

/-- Every thread that the word acts on can read source B: a W register needs a team (R32, R241). -/
def State.canRead (s : State) (g : Grd) (b : SrcB) : Prop :=
  ∀ t ∈ s.x.threads, s.active g t = true → ∀ r, b = .w r → (s.teamOf t).isSome = true

/-- The word meets no code: none waits to be delivered, and every thread that it acts on can read source B and holds the
registers that the word names. -/
def State.ready (s : State) (g : Grd) (b : SrcB) (runs : List (VReg × Nat)) : Prop :=
  s.calm ∧ s.canRead g b ∧ s.regsFit g runs

/-- Each thread that the word acts on becomes `r` of itself; every other thread and the rest of the state stay. -/
def State.each (s : State) (g : Grd) (r : Thread → Thread) : State :=
  s.mapThreads fun t => if s.active g t then r t else t

/-- Each thread that the word acts on, in ascending lane order, puts an instruction in flight; the rest of the state
stays. -/
def State.launchEach (s : State) (c : Ctl) (op : Thread → FlightOp) : State :=
  s.members.foldl (fun s u =>
    match s.thread? u with
    | none => s
    | some t => if t.guard c.grd then s.launchFlight t c (op t) else s) s

/-- The word acts on one thread alone. -/
def State.solo (s : State) (g : Grd) (t : Thread) : Prop :=
  s.members = [t.uid] ∧ s.thread? t.uid = some t ∧ t.guard g = true

/-- A code that the thread raises becomes a trap with a handler to come: its launch has one, its context runs, and it
has nothing in flight (R373, R374). -/
def State.quiet (s : State) (t : Thread) : Prop :=
  s.calm ∧ s.traph t ≠ 0#64 ∧ t.isHandler = false ∧ t.isReplay = false ∧ (s.ctx t.ctx).frozen = false ∧
    s.x.flights = [] ∧ ∀ u ∈ s.x.threads, u.uid = t.uid → u = t

/-- The bundle is a join that can end at once (R45, R182): its threads stand at one word of one group and bring one mask,
and each lane that the mask names is one of them. -/
def State.joins (s : State) (mm : VReg) (m : Word) : Prop :=
  s.calm ∧ (s.x.threads.map Thread.uid).Nodup ∧ ∃ g pc,
    (∀ t ∈ s.x.threads, s.member t = true → t.group = g ∧ t.pc = pc ∧ t.lane < 32 ∧ t.vget mm.toNat = m) ∧
    (∀ t ∈ s.x.threads, t.group = g → t.arrival? = none ∧ t.isReplay = false) ∧
    (∀ t ∈ s.x.threads, ∀ u ∈ s.x.threads, t.group = g → u.group = g → t.status ≠ .exited → u.status ≠ .exited →
      t.lane = u.lane → t = u) ∧
    ∀ l, m.getLsbD l = true → ∃ t ∈ s.x.threads, s.member t = true ∧ t.lane = l

/-- The checks of R201 admit an access of a thread: `s1` holds the translation that they filled, `a` is the access, and no
byte that it would read is poisoned (R444). -/
def State.checked (s : State) (t : Thread) (p : DWord) (n : Nat) (modifies reads : Bool) (tensor : BitVec 12) (scope : Nat)
    (s1 : State) (a : Acc) : Prop :=
  p.toNat % n = 0 ∧ s.threadCheck t p n modifies true tensor scope = (s1, .go a) ∧
    (reads = true → s1.poisonSeen t.core t.ctx a.pa n a.atHome = false) ∧ s1.hostDown a.pa = false

/-- A thread of a team of its own launch: no handler, shader, message handler, helper, shadow or replay. -/
def State.plain (s : State) (t : Thread) : Prop :=
  t.kind = .team ∧ t.helper = false ∧ ∃ tm, s.teamOf t = some tm ∧ tm.shadowOf = none

/-! Values read -/

/-- Value that a thread reads from source B of an integer word (R143, R144); 0 where the form cannot be read. -/
def State.valI (s : State) (t : Thread) (b : SrcB) : Word :=
  match s.srcI t b with
  | .ok y => y
  | .error _ => 0#32

/-- Value that a thread reads from source B of an FP32 word (R144). -/
def State.valF (s : State) (t : Thread) (b : SrcB) : Word :=
  match s.srcF t b with
  | .ok y => y
  | .error _ => 0#32

/-- Value that a thread reads from source B of a packed-half word (R144, R175). -/
def State.valH (s : State) (f : Fmt) (t : Thread) (b : SrcB) : Word :=
  match s.srcH f t b with
  | .ok y => y
  | .error _ => 0#32

/-- Value that a thread reads from a 64-bit source B (R160). -/
def State.val64 (s : State) (u : Bool) (t : Thread) (b : SrcB) : DWord :=
  match s.src64 u t b with
  | .ok y => y
  | .error _ => 0#64

end Sys2Proof.Machine
end

