-- ==== Sys2Proof/Certificates/Slice0/Obligations.lean ====
section
/-! DEFINITION. The statements for the provers. -/

open Sys2Proof Sys2Proof.Machine

/-! Register words -/

/-- R159: IADD, ISUB, IMUL and IMAD give `V[d]` the exact sum, difference, product or multiply-add of 32-bit operands,
modulo 2^32 without SAT, clamped to the unsigned or the signed range with it. Nothing else changes.
R159: IMULH gives `V[d]` the upper half of the exact 64-bit product; IADDC gives it the sum with the carry in of `P[p]`,
and `P[p]` the carry out. Nothing else changes.
R160: IADD64 and IMAD64 give the pair at `d` the exact 64-bit result, modulo 2^64 without SAT and clamped with it; LEA
gives it the pair `a` plus the sign-extended `b` shifted by `n`. Nothing else changes. -/
def Obligations.IntegerArithmetic : Prop :=
  (∀ (s : State) (c : Ctl) (u sat : Bool) (d a x : VReg) (b : SrcB), s.ready c.grd b ((x, 1) :: runs3 d a b) →
    ∀ (i : Instr) (w : Word → Word → Word → Word) (z : Int → Int → Int → Int),
      ((i = .iadd c u sat d a b ∧ w = (fun p q _ => p + q) ∧ z = fun p q _ => p + q) ∨
        (i = .isub c u sat d a b ∧ w = (fun p q _ => p - q) ∧ z = fun p q _ => p - q) ∨
        (i = .imul c u sat d a b ∧ w = (fun p q _ => p * q) ∧ z = fun p q _ => p * q) ∨
        (i = .imad c u sat d a b x ∧ w = (fun p q r => p * q + r) ∧ z = fun p q r => p * q + r)) →
      ∃ v : Thread → Word,
        exec i s = .next (s.each c.grd fun t => t.vset d.toNat (v t)) ∧
        ∀ t,
          (sat = false → v t = w (t.vget a.toNat) (s.valI t b) (t.vget x.toNat)) ∧
          (sat = true → u = true → ((v t).toNat : Int) = max 0 (min (2 ^ 32 - 1)
            (z (t.vget a.toNat).toNat (s.valI t b).toNat (t.vget x.toNat).toNat))) ∧
          (sat = true → u = false → (v t).toInt = max (-2 ^ 31) (min (2 ^ 31 - 1)
            (z (t.vget a.toNat).toInt (s.valI t b).toInt (t.vget x.toNat).toInt)))) ∧
  (∀ (s : State) (c : Ctl) (u : Bool) (p : PReg) (d a : VReg) (b : SrcB), s.ready c.grd b (runs3 d a b) →
    (∃ v : Thread → Word,
      exec (.imulh c u d a b) s = .next (s.each c.grd fun t => t.vset d.toNat (v t)) ∧
      ∀ t,
        (u = true → (v t).toNat = (t.vget a.toNat).toNat * (s.valI t b).toNat / 2 ^ 32) ∧
        (u = false → (v t).toInt = (t.vget a.toNat).toInt * (s.valI t b).toInt / 2 ^ 32)) ∧
    ∃ (v : Thread → Word) (k : Thread → Bool),
      exec (.iaddc c p d a b) s = .next (s.each c.grd fun t => (t.vset d.toNat (v t)).pset p.toNat (k t)) ∧
      ∀ t, (v t).toNat + 2 ^ 32 * (k t).toNat =
        (t.vget a.toNat).toNat + (s.valI t b).toNat + (t.pget p.toNat).toNat) ∧
  ∀ (s : State) (c : Ctl) (u sat : Bool) (n : BitVec 3) (d a x : VReg) (b : SrcB), s.calm → s.canRead c.grd b →
    (s.regsFit c.grd ((d, 2) :: (a, 2) :: bRuns b 2) →
      ∃ v : Thread → DWord,
        exec (.iadd64 c u sat d a b) s = .next (s.each c.grd fun t => t.setPair d.toNat (v t)) ∧
        ∀ t,
          (sat = false → v t = t.pair a.toNat + s.val64 u t b) ∧
          (sat = true → u = true → (v t).toNat = min (2 ^ 64 - 1) ((t.pair a.toNat).toNat + (s.val64 u t b).toNat)) ∧
          (sat = true → u = false → (v t).toInt =
            max (-2 ^ 63) (min (2 ^ 63 - 1) ((t.pair a.toNat).toInt + (s.val64 u t b).toInt)))) ∧
    (s.regsFit c.grd ((d, 2) :: (a, 1) :: (x, 2) :: bRuns b 1) →
      ∃ v : Thread → DWord,
        exec (.imad64 c u sat d a b x) s = .next (s.each c.grd fun t => t.setPair d.toNat (v t)) ∧
        ∀ t,
          (sat = false → u = true →
            v t = (t.vget a.toNat).zeroExtend 64 * (s.valI t b).zeroExtend 64 + t.pair x.toNat) ∧
          (sat = false → u = false →
            v t = (t.vget a.toNat).signExtend 64 * (s.valI t b).signExtend 64 + t.pair x.toNat) ∧
          (sat = true → u = true → (v t).toNat =
            min (2 ^ 64 - 1) ((t.vget a.toNat).toNat * (s.valI t b).toNat + (t.pair x.toNat).toNat)) ∧
          (sat = true → u = false → (v t).toInt = max (-2 ^ 63) (min (2 ^ 63 - 1)
            ((t.vget a.toNat).toInt * (s.valI t b).toInt + (t.pair x.toNat).toInt)))) ∧
    (s.regsFit c.grd ((d, 2) :: (a, 2) :: bRuns b 1) →
      exec (.lea c n d a b) s = .next (s.each c.grd fun t =>
        t.setPair d.toNat (t.pair a.toNat + (s.valI t b).signExtend 64 <<< n.toNat)))

/-- R161, R162: the minimum, maximum, absolute value, comparison and selection. Nothing but the destination changes. -/
def Obligations.Comparisons : Prop :=
  ∀ (s : State) (c : Ctl) (cond : Cond) (u : Bool) (cmb : Comb) (p : PReg) (d a : VReg) (b : SrcB),
    s.ready c.grd b (runs3 d a b) →
    (∃ v : Thread → Word,
      exec (.imin c u d a b) s = .next (s.each c.grd fun t => t.vset d.toNat (v t)) ∧
      ∀ t,
        (u = true → (v t).toNat = min (t.vget a.toNat).toNat (s.valI t b).toNat) ∧
        (u = false → (v t).toInt = min (t.vget a.toNat).toInt (s.valI t b).toInt)) ∧
    (∃ v : Thread → Word,
      exec (.imax c u d a b) s = .next (s.each c.grd fun t => t.vset d.toNat (v t)) ∧
      ∀ t,
        (u = true → (v t).toNat = max (t.vget a.toNat).toNat (s.valI t b).toNat) ∧
        (u = false → (v t).toInt = max (t.vget a.toNat).toInt (s.valI t b).toInt)) ∧
    (∃ v : Thread → Word,
      exec (.iabs c d b) s = .next (s.each c.grd fun t => t.vset d.toNat (v t)) ∧
      ∀ t, (v t).toNat = (s.valI t b).toInt.natAbs) ∧
    (∃ r : Thread → Bool,
      exec (.icmp c cond u cmb p a b) s = .next (s.each c.grd fun t => t.pset p.toNat
        (match cmb with
          | .none => r t
          | .and q => r t && t.pget q.toNat
          | .or q => r t || t.pget q.toNat
          | .xor q => r t != t.pget q.toNat)) ∧
      ∀ t,
        let x : Int := if u then (t.vget a.toNat).toNat else (t.vget a.toNat).toInt
        let y : Int := if u then (s.valI t b).toNat else (s.valI t b).toInt
        (cond = .eq → (r t = true ↔ x = y)) ∧ (cond = .ne → (r t = true ↔ x ≠ y)) ∧
        (cond = .lt → (r t = true ↔ x < y)) ∧ (cond = .le → (r t = true ↔ x ≤ y)) ∧
        (cond = .gt → (r t = true ↔ x > y)) ∧ (cond = .ge → (r t = true ↔ x ≥ y))) ∧
    exec (.isel c p d a b) s = .next (s.each c.grd fun t =>
      t.vset d.toNat (if t.pget p.toNat then t.vget a.toNat else s.valI t b))

/-- R163, R164: the logic and shift instructions, bit by bit; a shift takes its amount from the low five bits of `b`.
Nothing but the destination changes.
R165, R166, R167: bit fields, counts, reversal and byte selection. Nothing but the destination changes. -/
def Obligations.LogicAndBitFields : Prop :=
  (∀ (s : State) (c : Ctl) (d a : VReg) (b : SrcB), s.ready c.grd b (runs3 d a b) →
    ∀ (i : Instr) (bit : (Nat → Bool) → (Nat → Bool) → Nat → Nat → Bool),
      ((i = .land c d a b ∧ bit = fun x y _ k => x k && y k) ∨
        (i = .lor c d a b ∧ bit = fun x y _ k => x k || y k) ∨
        (i = .lxor c d a b ∧ bit = fun x y _ k => x k != y k) ∨
        (i = .landn c d a b ∧ bit = fun x y _ k => x k && !y k) ∨
        (i = .lnot c d b ∧ bit = fun _ y _ k => !y k) ∨
        (i = .shl c d a b ∧ bit = fun x _ n k => decide (n ≤ k) && x (k - n)) ∨
        (i = .shr c d a b ∧ bit = fun x _ n k => decide (k + n < 32) && x (k + n)) ∨
        (i = .sar c d a b ∧ bit = fun x _ n k => if k + n < 32 then x (k + n) else x 31) ∨
        (i = .rot c d a b ∧ bit = fun x _ n k => x ((k + (32 - n)) % 32))) →
      ∃ v : Thread → Word,
        exec i s = .next (s.each c.grd fun t => t.vset d.toNat (v t)) ∧
        ∀ t k, k < 32 → (v t).getLsbD k =
          bit (fun j => (t.vget a.toNat).getLsbD j) (fun j => (s.valI t b).getLsbD j) ((s.valI t b).toNat % 32) k) ∧
  ∀ (s : State) (c : Ctl) (u : Bool) (d a x : VReg) (b : SrcB), s.ready c.grd b ((x, 1) :: runs3 d a b) →
    (∃ v : Thread → Word,
      exec (.bfe c u d a b x) s = .next (s.each c.grd fun t => t.vset d.toNat (v t)) ∧
      ∀ t,
        let pos := (s.valI t b).toNat % 32
        let len := min ((t.vget x.toNat).toNat % 64) (32 - pos)
        ∀ k, k < 32 → (v t).getLsbD k =
          if k < len then (t.vget a.toNat).getLsbD (pos + k)
          else !u && decide (0 < len) && (t.vget a.toNat).getLsbD (pos + len - 1)) ∧
    (∃ v : Thread → Word,
      exec (.bfi c d a b x) s = .next (s.each c.grd fun t => t.vset d.toNat (v t)) ∧
      ∀ t,
        let pos := (t.vget x.toNat).toNat % 32
        let len := min ((t.vget x.toNat).toNat / 256 % 64) (32 - pos)
        ∀ k, k < 32 → (v t).getLsbD k =
          if pos ≤ k ∧ k < pos + len then (s.valI t b).getLsbD (k - pos) else (t.vget a.toNat).getLsbD k) ∧
    (∃ v : Thread → Word,
      exec (.popc c d b) s = .next (s.each c.grd fun t => t.vset d.toNat (v t)) ∧
      ∀ t, (v t).toNat = ((List.range 32).filter fun k => (s.valI t b).getLsbD k).length) ∧
    (∃ v : Thread → Word,
      exec (.clz c d b) s = .next (s.each c.grd fun t => t.vset d.toNat (v t)) ∧
      ∀ t, (v t).toNat ≤ 32 ∧ (∀ k, k < (v t).toNat → (s.valI t b).getLsbD (31 - k) = false) ∧
        ((v t).toNat < 32 → (s.valI t b).getLsbD (31 - (v t).toNat) = true)) ∧
    (∃ v : Thread → Word,
      exec (.brev c d b) s = .next (s.each c.grd fun t => t.vset d.toNat (v t)) ∧
      ∀ t k, k < 32 → (v t).getLsbD k = (s.valI t b).getLsbD (31 - k)) ∧
    ∃ v : Thread → Word,
      exec (.perm c d a b x) s = .next (s.each c.grd fun t => t.vset d.toNat (v t)) ∧
      ∀ t i, i < 4 →
        let sel := (t.vget x.toNat).toNat / 16 ^ i % 16
        let src : Word := if sel % 8 < 4 then t.vget a.toNat else s.valI t b
        let byte : BitVec 8 := src.extractLsb' (8 * (sel % 4)) 8
        (v t).extractLsb' (8 * i) 8 =
          if sel < 8 then byte else if byte.getLsbD 7 then 0xFF#8 else 0x00#8

/-- R158, R168, R169: the moves and the predicate instructions. NOP changes nothing; MOVW's write waits in the thread for
its next team barrier (R32); P63 is never written (R157). -/
def Obligations.MovesAndPredicates : Prop :=
  ∀ (s : State) (c : Ctl) (raw : BitVec 56) (imm : Word) (w : WReg) (p3 pd p1 p2 : PReg) (table : BitVec 8) (d : VReg)
    (b : SrcB) (hi : Bool), s.calm →
    exec (.nop raw) s = .next s ∧
    (s.ready c.grd b ((d, 1) :: bRuns b 1) →
      exec (.mov c d b) s = .next (s.each c.grd fun t => t.vset d.toNat (s.valI t b))) ∧
    (s.regsFit c.grd [(d, 1)] →
      exec (.movi c.grd d imm) s = .next (s.each c.grd fun t => t.vset d.toNat imm) ∧
      (∃ v : Thread → Word,
        exec (.pmov c (.save hi d)) s = .next (s.each c.grd fun t => t.vset d.toNat (v t)) ∧
        ∀ t k, k < 32 → (v t).getLsbD k = t.pget (k + if hi then 32 else 0)) ∧
      ∃ f : Thread → DWord,
        exec (.pmov c (.load hi d)) s = .next (s.each c.grd fun t => { t with p := f t }) ∧
        ∀ t k, k < 64 → (f t).getLsbD k =
          if k ≠ 63 ∧ (if hi then 32 ≤ k else k < 32) then (t.vget d.toNat).getLsbD (k % 32) else t.p.getLsbD k) ∧
    (s.ready c.grd b (bRuns b 1) → (∀ t ∈ s.x.threads, s.active c.grd t = true → (s.teamOf t).isSome = true) →
      exec (.movw c w b) s = .next (s.each c.grd fun t => { t with wown := sput t.wown w.toNat (s.valI t b) })) ∧
    exec (.plop c p3 pd p1 p2 table) s = .next (s.each c.grd fun t =>
      t.pset pd.toNat (table.getLsbD (4 * (t.pget p1.toNat).toNat + 2 * (t.pget p2.toNat).toNat + (t.pget p3.toNat).toNat)))

/-! Floating point, halves, dots, conversions, pairs -/

/-- R115, R117: the rounding RN gives a nearest value of the format, the even encoding of two that are equally near, and
the infinity of the format from half a quantum above the largest finite value. -/
def Obligations.RoundToNearestEven : Prop :=
  ∀ (f : Fmt) (sh : FpShape) (q : Rat), f.shape = some sh →
    let b := roundNE f (.ofRat q)
    let top := (maxFinite f).toRat
    b < 2 ^ f.bits ∧
    (|q| ≤ top →
      (∃ n m, decodeNum f b = .fin n m) ∧
      ∀ b' n m, b' < 2 ^ f.bits → decodeNum f b' = .fin n m →
        |(decodeNum f b).toRat - q| ≤ |(decodeNum f b').toRat - q| ∧
        (|(decodeNum f b).toRat - q| = |(decodeNum f b').toRat - q| →
          (decodeNum f b').toRat ≠ (decodeNum f b).toRat → b % 2 = 0)) ∧
    (f.hasInf = true → 2 * top + (top - (decodeNum f (maxFiniteBits f - 1)).toRat) ≤ 2 * q → b = infBits f)

/-- R170: FADD, FSUB, FMUL and FFMA give `V[d]` the exact result of finite operands, rounded once, NA and NC flipping the
signs of `a` and `c`; NaN where an operand is NaN, for the sum of infinities of two signs, and for the product of zero and
an infinity, whatever `c` is. Nothing but the destination changes. -/
def Obligations.FloatArithmetic : Prop :=
  ∀ (s : State) (c : Ctl) (na nc : Bool) (d a x : VReg) (b : SrcB), s.ready c.grd b ((x, 1) :: runs3 d a b) →
    ∀ (i : Instr) (z : Rat → Rat → Rat → Rat) (fma mul sub : Bool),
      ((i = .fadd c na d a b ∧ z = (fun p q _ => p + q) ∧ fma = false ∧ mul = false ∧ sub = false) ∨
        (i = .fsub c na d a b ∧ z = (fun p q _ => p - q) ∧ fma = false ∧ mul = false ∧ sub = true) ∨
        (i = .fmul c na d a b ∧ z = (fun p q _ => p * q) ∧ fma = false ∧ mul = true ∧ sub = false) ∨
        (i = .ffma c na nc d a b x ∧ z = (fun p q r => p * q + r) ∧ fma = true ∧ mul = true ∧ sub = false)) →
      ∃ v : Thread → Word,
        exec i s = .next (s.each c.grd fun t => t.vset d.toNat (v t)) ∧
        ∀ t,
          let p := fp32 (t.vget a.toNat)
          let q := fp32 (s.valF t b)
          let r := fp32 (t.vget x.toNat)
          let e := z (if na then -p.toRat else p.toRat) q.toRat (if nc then -r.toRat else r.toRat)
          (p.isNan = false → p.isInf = false → q.isNan = false → q.isInf = false →
            (fma = true → r.isNan = false ∧ r.isInf = false) → e ≠ 0 → v t = toFp32 (.ofRat e)) ∧
          (p.isNan = true ∨ q.isNan = true ∨ (fma = true ∧ r.isNan = true) → v t = 0x7FC00000#32) ∧
          (mul = false → p.isInf = true → q.isInf = true → ((p.neg? != na) != (q.neg? != sub)) = true →
            v t = 0x7FC00000#32) ∧
          (mul = true → (p.isZero = true ∧ q.isInf = true) ∨ (p.isInf = true ∧ q.isZero = true) → v t = 0x7FC00000#32)

/-- R171, R172: the minimum, maximum and clamp order −0 below +0 and pass over one NaN; the compare holds −0 equal to +0, and
only NE and NAN are true of a NaN. `key` orders the encodings of the values. Nothing but the destination changes. -/
def Obligations.FloatOrder : Prop :=
  ∀ (s : State) (c : Ctl) (cond : FCond) (cmb : Comb) (p : PReg) (d a x : VReg) (b : SrcB),
    s.ready c.grd b ((x, 1) :: runs3 d a b) →
    let nan (w : Word) : Prop := 0x7F800000 < w.toNat % 2 ^ 31
    let key (w : Word) : Int := if w.toNat < 2 ^ 31 then w.toNat else 2 ^ 31 - 1 - w.toNat
    let val (w : Word) : Int := if w.toNat < 2 ^ 31 then w.toNat else 2 ^ 31 - w.toNat
    let least (y z v : Word) : Prop := (¬nan y → ¬nan z → key v = min (key y) (key z)) ∧ (nan y → ¬nan z → v = z) ∧
      (¬nan y → nan z → v = y) ∧ (nan y → nan z → v = 0x7FC00000#32)
    let greatest (y z v : Word) : Prop := (¬nan y → ¬nan z → key v = max (key y) (key z)) ∧ (nan y → ¬nan z → v = z) ∧
      (¬nan y → nan z → v = y) ∧ (nan y → nan z → v = 0x7FC00000#32)
    (∃ v : Thread → Word,
      exec (.fmin c d a b) s = .next (s.each c.grd fun t => t.vset d.toNat (v t)) ∧
      ∀ t, least (t.vget a.toNat) (s.valF t b) (v t)) ∧
    (∃ v : Thread → Word,
      exec (.fmax c d a b) s = .next (s.each c.grd fun t => t.vset d.toNat (v t)) ∧
      ∀ t, greatest (t.vget a.toNat) (s.valF t b) (v t)) ∧
    (∃ u v : Thread → Word,
      exec (.fclamp c d a b x) s = .next (s.each c.grd fun t => t.vset d.toNat (v t)) ∧
      ∀ t, greatest (t.vget a.toNat) (s.valF t b) (u t) ∧ least (u t) (t.vget x.toNat) (v t)) ∧
    (∃ r : Thread → Bool,
      exec (.fcmp c cond cmb p a b) s = .next (s.each c.grd fun t => t.pset p.toNat
        (match cmb with
          | .none => r t
          | .and q => r t && t.pget q.toNat
          | .or q => r t || t.pget q.toNat
          | .xor q => r t != t.pget q.toNat)) ∧
      ∀ t,
        let y := t.vget a.toNat
        let z := s.valF t b
        (nan y ∨ nan z → (r t = true ↔ cond = .ne ∨ cond = .nan)) ∧
        (¬nan y → ¬nan z →
          (cond = .eq → (r t = true ↔ val y = val z)) ∧ (cond = .ne → (r t = true ↔ val y ≠ val z)) ∧
          (cond = .lt → (r t = true ↔ val y < val z)) ∧ (cond = .le → (r t = true ↔ val y ≤ val z)) ∧
          (cond = .gt → (r t = true ↔ val y > val z)) ∧ (cond = .ge → (r t = true ↔ val y ≥ val z)) ∧
          (cond = .num → r t = true) ∧ (cond = .nan → r t = false)))

/-- R173: FRND gives `V[d]` the integral value that the mode selects, with the sign of `b`; values from 2^23 up and the
infinities stay, and NaN becomes canonical. Nothing but the destination changes.
R174, R36: FRCP, FRSQ, FSQRT, FEX2, FLG2, FSIN and FCOS put their result in flight in every thread that they act on,
and INSTRUCTION_COMPLETE writes it. FRCP, FSQRT and FRSQ round the exact value; the special operands give what the table
lists, and FEX2 of an integer and FLG2 of a power of two are exact. Elsewhere FEX2, FLG2, FSIN and FCOS lie between the
roundings of a lower and an upper bound of the exact function: chords of 2^x and log2 x between powers of two, ±1, and near
zero the first terms of the series of sine and cosine; FEX2 overflows from 128 and is zero up to −150, FSIN is odd and FCOS
even. -/
def Obligations.RoundingAndLongOperations : Prop :=
  (∀ (s : State) (c : Ctl) (rm : Rm) (d : VReg) (b : SrcB), s.ready c.grd b ((d, 1) :: bRuns b 1) →
    ∃ v : Thread → Word,
      exec (.frnd c rm d b) s = .next (s.each c.grd fun t => t.vset d.toNat (v t)) ∧
      ∀ t,
        let y := s.valF t b
        let m := y.toNat % 2 ^ 31
        let x := (fp32 y).toRat
        let r := (fp32 (v t)).toRat
        (0x7F800000 < m → v t = 0x7FC00000#32) ∧
        (0x4B000000 ≤ m → m ≤ 0x7F800000 → v t = y) ∧
        (m < 0x4B000000 → (v t).msb = y.msb ∧ ∃ n : Int, r = n ∧
          (rm = .rn → 2 * |r - x| ≤ 1 ∧ (2 * |r - x| = 1 → n % 2 = 0)) ∧
          (rm = .rz → |r| ≤ |x| ∧ |x| < |r| + 1) ∧ (rm = .ru → n = ⌈x⌉) ∧ (rm = .rd → n = ⌊x⌋))) ∧
  ∀ (s : State) (c : Ctl) (d : VReg) (b : SrcB), s.ready c.grd b ((d, 1) :: bRuns b 1) →
    let between (lo : Rat) (w : Word) (hi : Rat) : Prop :=
      (fp32 (toFp32 (.ofRat lo))).toRat ≤ (fp32 w).toRat ∧ (fp32 w).toRat ≤ (fp32 (toFp32 (.ofRat hi))).toRat
    ∃ rcp rsq sqrt ex2 lg2 sin cos : Word → Word,
      (∀ i f, (i, f) ∈ [(Instr.frcp c d b, rcp), (.frsq c d b, rsq), (.fsqrt c d b, sqrt), (.fex2 c d b, ex2),
          (.flg2 c d b, lg2), (.fsin c d b, sin), (.fcos c d b, cos)] →
        exec i s = .next (s.launchEach c fun t => .write [(d.toNat, f (s.valF t b))] []) ∧
        (∀ w : Word, 0x7F800000 < w.toNat % 2 ^ 31 → f w = 0x7FC00000#32)) ∧
      rcp 0x00000000#32 = 0x7F800000#32 ∧ rcp 0x80000000#32 = 0xFF800000#32 ∧
      rcp 0x7F800000#32 = 0x00000000#32 ∧ rcp 0xFF800000#32 = 0x80000000#32 ∧
      (∀ w, 0 < w.toNat % 2 ^ 31 → w.toNat % 2 ^ 31 < 0x7F800000 → rcp w = toFp32 (.ofRat (1 / (fp32 w).toRat))) ∧
      rsq 0x00000000#32 = 0x7F800000#32 ∧ rsq 0x80000000#32 = 0xFF800000#32 ∧ rsq 0x7F800000#32 = 0x00000000#32 ∧
      sqrt 0x00000000#32 = 0x00000000#32 ∧ sqrt 0x80000000#32 = 0x80000000#32 ∧ sqrt 0x7F800000#32 = 0x7F800000#32 ∧
      (∀ w : Word, 0x80000000 < w.toNat → rsq w = 0x7FC00000#32 ∧ sqrt w = 0x7FC00000#32 ∧ lg2 w = 0x7FC00000#32) ∧
      (∀ w : Word, 0 < w.toNat → w.toNat < 0x7F800000 →
        let r := (sqrt w).toNat
        let half (n : Nat) : Rat := ((decodeNum .fp32 n).toRat + (decodeNum .fp32 (n + 1)).toRat) / 2
        0 < r ∧ r < 0x7F000000 ∧ half (r - 1) ^ 2 ≤ (fp32 w).toRat ∧ (fp32 w).toRat ≤ half r ^ 2) ∧
      (∀ w : Word, 0 < w.toNat → w.toNat < 0x7F800000 →
        let r := (rsq w).toNat
        let half (n : Nat) : Rat := ((decodeNum .fp32 n).toRat + (decodeNum .fp32 (n + 1)).toRat) / 2
        0 < r ∧ r < 0x7F000000 ∧ half (r - 1) ^ 2 * (fp32 w).toRat ≤ 1 ∧ 1 ≤ half r ^ 2 * (fp32 w).toRat) ∧
      (∀ w : Word, w.toNat % 2 ^ 31 < 0x7F800000 →
        let x := (fp32 w).toRat
        (128 ≤ x → ex2 w = 0x7F800000#32) ∧ (x ≤ -150 → ex2 w = 0x00000000#32) ∧
        (-126 ≤ x → x < 127 → between (pow2 ⌊x⌋ * (1 + 2 * Int.fract x / 3)) (ex2 w) (pow2 ⌊x⌋ * (1 + Int.fract x))) ∧
        (∀ e g, 0 ≤ g → g < 1 → x = pow2 e * (1 + g) → between (e + 2 * g / 3) (lg2 w) (e + min 1 (3 * g / 2))) ∧
        between (-1) (sin w) 1 ∧ between (-1) (cos w) 1 ∧
        (x ≠ 0 → sin (w ^^^ 0x80000000#32) = sin w ^^^ 0x80000000#32 ∧ cos (w ^^^ 0x80000000#32) = cos w) ∧
        (0 ≤ x → x ≤ 3 / 4 → between (x - x ^ 3 / 6) (sin w) x ∧
          between (1 - x ^ 2 / 2) (cos w) (1 - x ^ 2 / 2 + x ^ 4 / 12))) ∧
      ex2 0xFF800000#32 = 0x00000000#32 ∧ ex2 0x7F800000#32 = 0x7F800000#32 ∧
      (∀ (w : Word) (n : Int), fp32 w = .ofInt n → -126 ≤ n → n ≤ 127 → (ex2 w).toNat = ((n + 127) * 2 ^ 23).toNat) ∧
      lg2 0x00000000#32 = 0xFF800000#32 ∧ lg2 0x80000000#32 = 0xFF800000#32 ∧ lg2 0x7F800000#32 = 0x7F800000#32 ∧
      (∀ n : Nat, 1 ≤ n → n ≤ 254 → lg2 (BitVec.ofNat 32 (n * 2 ^ 23)) = toFp32 (.ofInt ((n : Int) - 127))) ∧
      sin 0x00000000#32 = 0x00000000#32 ∧ sin 0x80000000#32 = 0x80000000#32 ∧ sin 0x7F800000#32 = 0x7FC00000#32 ∧
      sin 0xFF800000#32 = 0x7FC00000#32 ∧ cos 0x00000000#32 = 0x3F800000#32 ∧ cos 0x80000000#32 = 0x3F800000#32 ∧
      cos 0x7F800000#32 = 0x7FC00000#32 ∧ cos 0xFF800000#32 = 0x7FC00000#32

/-- R175, R176: HADD2, HMUL2, HFMA2 and HMINMAX2 compute each half apart and round it once; a NaN result is canonical. HCMP2
writes the result of half 0 to `P[d]` and of half 1 to `P[d+1]`. Nothing else changes.
R181: DP4 and DP8 give `V[d]` the exact sum of `c` and the products of 8-bit or 4-bit elements, modulo 2^32 without SAT
and clamped with it; DP2H gives it the exact sum of `c` and the two products of halves, rounded once. Nothing but the
destination changes. -/
def Obligations.PackedHalvesAndDots : Prop :=
  (∀ (s : State) (c : Ctl) (bf mx : Bool) (cond : Cond) (cmb : Comb) (p : PReg) (d a x : VReg) (b : SrcB),
    s.ready c.grd b ((x, 1) :: runs3 d a b) →
    let f : Fmt := if bf then .bf16 else .fp16
    let half (w : Word) (h : Nat) : Sys2Proof.Num := decodeNum f (w.toNat / 2 ^ (16 * h) % 2 ^ 16)
    (∀ (i : Instr) (z : Rat → Rat → Rat → Rat) (fma : Bool),
      ((i = .hadd2 c bf d a b ∧ z = (fun p q _ => p + q) ∧ fma = false) ∨
        (i = .hmul2 c bf d a b ∧ z = (fun p q _ => p * q) ∧ fma = false) ∨
        (i = .hfma2 c bf d a b x ∧ z = (fun p q r => p * q + r) ∧ fma = true)) →
      ∃ v : Thread → Word,
        exec i s = .next (s.each c.grd fun t => t.vset d.toNat (v t)) ∧
        ∀ t h, h < 2 →
          let p := half (t.vget a.toNat) h
          let q := half (s.valH f t b) h
          let r := half (t.vget x.toNat) h
          let e := z p.toRat q.toRat r.toRat
          (p.isNan = false → p.isInf = false → q.isNan = false → q.isInf = false →
            (fma = true → r.isNan = false ∧ r.isInf = false) → e ≠ 0 →
            (v t).toNat / 2 ^ (16 * h) % 2 ^ 16 = roundNE f (.ofRat e)) ∧
          (p.isNan = true ∨ q.isNan = true ∨ (fma = true ∧ r.isNan = true) →
            (v t).toNat / 2 ^ (16 * h) % 2 ^ 16 = canonNan f)) ∧
    (∃ v : Thread → Word,
      exec (.hminmax2 c bf mx d a b) s = .next (s.each c.grd fun t => t.vset d.toNat (v t)) ∧
      ∀ t h, h < 2 →
        let p := half (t.vget a.toNat) h
        let q := half (s.valH f t b) h
        (v t).toNat / 2 ^ (16 * h) % 2 ^ 16 = roundNE f (if mx then p.max q else p.min q)) ∧
    ∃ r : Nat → Thread → Bool,
      exec (.hcmp2 c bf cond cmb p a b) s = .next (s.each c.grd fun t =>
        let m (x : Bool) : Bool :=
          match cmb with
          | .none => x
          | .and q => x && t.pget q.toNat
          | .or q => x || t.pget q.toNat
          | .xor q => x != t.pget q.toNat
        (t.pset p.toNat (m (r 0 t))).pset (p.toNat + 1) (m (r 1 t))) ∧
      ∀ t h, h < 2 →
        let y := half (t.vget a.toNat) h
        let z := half (s.valH f t b) h
        (y.isNan = true ∨ z.isNan = true → (r h t = true ↔ cond = .ne)) ∧
        (y.isNan = false → z.isNan = false → y.isInf = false → z.isInf = false →
          (cond = .eq → (r h t = true ↔ y.toRat = z.toRat)) ∧ (cond = .ne → (r h t = true ↔ y.toRat ≠ z.toRat)) ∧
          (cond = .lt → (r h t = true ↔ y.toRat < z.toRat)) ∧ (cond = .le → (r h t = true ↔ y.toRat ≤ z.toRat)) ∧
          (cond = .gt → (r h t = true ↔ y.toRat > z.toRat)) ∧ (cond = .ge → (r h t = true ↔ y.toRat ≥ z.toRat)))) ∧
  ∀ (s : State) (c : Ctl) (sat ua ub bf : Bool) (d a x : VReg) (b : SrcB), s.ready c.grd b ((x, 1) :: runs3 d a b) →
    (∀ (i : Instr) (n w : Nat),
      ((i = .dp4 c sat ua ub d a b x ∧ n = 4 ∧ w = 8) ∨ (i = .dp8 c sat ua ub d a b x ∧ n = 8 ∧ w = 4)) →
      ∃ v : Thread → Word,
        exec i s = .next (s.each c.grd fun t => t.vset d.toNat (v t)) ∧
        ∀ t,
          let el (u : Bool) (r : Word) (k : Nat) : Int :=
            let e : Int := (r.toNat / 2 ^ (w * k) % 2 ^ w : Nat)
            if u = false ∧ 2 ^ (w - 1) ≤ e then e - 2 ^ w else e
          let z := (t.vget x.toNat).toInt +
            ((List.range n).map fun k => el ua (t.vget a.toNat) k * el ub (s.valI t b) k).sum
          (sat = false → v t = BitVec.ofInt 32 z) ∧ (sat = true → (v t).toInt = max (-2 ^ 31) (min (2 ^ 31 - 1) z))) ∧
    ∃ v : Thread → Word,
      exec (.dp2h c bf d a b x) s = .next (s.each c.grd fun t => t.vset d.toNat (v t)) ∧
      ∀ t,
        let half (w : Word) (h : Nat) : Sys2Proof.Num := decodeNum (if bf then .bf16 else .fp16) (w.toNat / 2 ^ (16 * h) % 2 ^ 16)
        let ns := [fp32 (t.vget x.toNat), half (t.vget a.toNat) 0, half (t.vget a.toNat) 1, half (s.valI t b) 0,
          half (s.valI t b) 1]
        let z := (fp32 (t.vget x.toNat)).toRat + (half (t.vget a.toNat) 0).toRat * (half (s.valI t b) 0).toRat +
          (half (t.vget a.toNat) 1).toRat * (half (s.valI t b) 1).toRat
        ((∀ n ∈ ns, n.isNan = false ∧ n.isInf = false) → z ≠ 0 → v t = toFp32 (.ofRat z)) ∧
        ((∃ n ∈ ns, n.isNan = true) → v t = 0x7FC00000#32)

/-- R178, R179, R180: the conversions give each destination element the source element's exact value, rounded with the
word's mode and overflow policy; CVTUP is exact; SCALEQ divides by the scale first, and DESCALE multiplies by it. Nothing
but the destination registers changes.
R117, R178, R179, R180: under overflow policy 3 a conversion of one value that does not fit raises CONVERT_TRAP, and its
register keeps its value. R122: one whose source or destination format is E8M0, or whose slot names that element format, raises
FORMAT_SLOT. -/
def Obligations.Conversions : Prop :=
  (∀ (s : State) (c : CvCtl) (d a ss : VReg) (sf df : Fmt) (ovf : Thread → Nat), s.calm →
    (∀ t ∈ s.x.threads, s.active c.grd t = true → ∀ f, f ≠ .e8m0 → s.cvOvf t c f = .ok (ovf t)) →
    let el (f : Fmt) (w : Word) (k : Nat) : Sys2Proof.Num := decodeNum f (w.toNat / 2 ^ (f.bits * k) % 2 ^ f.bits)
    let acts (t : Thread) : Prop := t ∈ s.x.threads ∧ s.active c.grd t = true
    (∀ e : Thread → Nat, df ≠ .e8m0 → sf ≠ .e8m0 → s.regsFit c.grd [(d, 1), (a, 1)] →
      (∀ t, acts t → roundNum df c.rm (ovf t) (el sf (t.vget a.toNat) 0) = some (e t)) →
      exec (.cvt c d a sf df) s = .next (s.each c.grd fun t => t.vset d.toNat
        (if df = .i8 then (BitVec.ofNat 8 (e t)).signExtend 32 else if df = .i4 then (BitVec.ofNat 4 (e t)).signExtend 32
          else BitVec.ofNat 32 (e t)))) ∧
    (∀ e : Thread → Nat → Nat, df ≠ .e8m0 → df ≠ .fp32 → s.regsFit c.grd [(d, 1), (a, df.pack)] →
      (∀ t k, acts t → k < df.pack → roundNum df c.rm (ovf t) (fp32 (t.vget (a.toNat + k))) = some (e t k)) →
      ∃ v : Thread → Word,
        exec (.cvtpk c d a df) s = .next (s.each c.grd fun t => t.vset d.toNat (v t)) ∧
        ∀ t k, acts t → k < df.pack → (v t).toNat / 2 ^ (df.bits * k) % 2 ^ df.bits = e t k) ∧
    (sf ≠ .e8m0 → sf ≠ .fp32 → s.regsFit c.grd [(d, sf.pack), (a, 1)] →
      ∃ v : Thread → Nat → Word,
        exec (.cvtup c d a sf) s =
          .next (s.each c.grd fun t => t.setRun d.toNat ((List.range sf.pack).map (v t))) ∧
        ∀ t k, k < sf.pack → fp32 (v t k) = el sf (t.vget a.toNat) k) ∧
    (∀ e : Thread → Nat → Nat, df ≠ .e8m0 → df ≠ .fp32 → s.regsFit c.grd [(d, 1), (a, df.pack), (ss, 1)] →
      (∀ t k, acts t → k < df.pack →
        let sc := decodeScale ((t.vget ss.toNat).getLsbD 8) ((t.vget ss.toNat).toNat % 256)
        let x := fp32 (t.vget (a.toNat + k))
        roundNum df c.rm (ovf t) (if sc.isNan then .nan else if sc.isZero then .zero else x.div sc) = some (e t k)) →
      ∃ v : Thread → Word,
        exec (.scaleq c d a df ss) s = .next (s.each c.grd fun t => t.vset d.toNat (v t)) ∧
        ∀ t k, acts t → k < df.pack → (v t).toNat / 2 ^ (df.bits * k) % 2 ^ df.bits = e t k) ∧
    (∀ e : Thread → Nat → Nat, sf ≠ .e8m0 → sf ≠ .fp32 → s.regsFit c.grd [(d, sf.pack), (a, 1), (ss, 1)] →
      (∀ t k, acts t → k < sf.pack →
        let sc := decodeScale ((t.vget ss.toNat).getLsbD 8) ((t.vget ss.toNat).toNat % 256)
        roundNum .fp32 c.rm (ovf t) (scaled (el sf (t.vget a.toNat) k) sc) = some (e t k)) →
      exec (.descale c d a sf ss) s =
        .next (s.each c.grd fun t => t.setRun d.toNat ((List.range sf.pack).map fun k => BitVec.ofNat 32 (e t k))))) ∧
  ∀ (s : State) (c : CvCtl) (d a : VReg) (sf df : Fmt) (t : Thread), s.solo c.grd t → s.quiet t →
    s.regsFit c.grd [(d, 1), (a, 1)] →
    ∀ k, (df ≠ .e8m0 ∧ sf ≠ .e8m0 ∧ c.useslot = false ∧ c.ovf = 3#2 ∧
          roundNum df c.rm 3 (decodeNum sf ((t.vget a.toNat).toNat % 2 ^ sf.bits)) = none ∧ k = Code.convertTrap) ∨
        ((df = .e8m0 ∨ sf = .e8m0) ∧ k = Code.formatSlot) ∨
        (c.useslot = true ∧ (∃ x, s.slotOk t c.slot.toNat = .ok x ∧ slotElem x.record = some .e8m0) ∧ k = Code.formatSlot) →
      ∃ s' t', exec (.cvt c d a sf df) s = .next s' ∧ s'.thread? t.uid = some t' ∧ t'.v = t.v ∧ t'.p = t.p ∧
        ∃ r, t'.trap = some r ∧ reportCode r.report = k.val

/-- R150, R151: a paired word performs both operations in every thread of the bundle, both reading before either writes;
the predicate G guards the word, or selects in ISEL where either operation is one. Nothing else changes. -/
def Obligations.PairedWords : Prop :=
  ∀ (s : State) (g : Grd) (d a b : VReg) (y : POp) (i : Instr) (op : PairOp), s.calm →
    (i, op) ∈ [(Instr.pairFadd g d a b y, PairOp.fadd), (.pairFmul g d a b y, .fmul), (.pairFfma g d a b y, .ffma),
      (.pairIadd g d a b y, .iadd), (.pairAnd g d a b y, .and), (.pairOr g d a b y, .or), (.pairXor g d a b y, .xor),
      (.pairShl g d a b y, .shl), (.pairMov g d a y, .mov), (.pairIsel g d a b y, .isel)] →
    let sel := op = .isel ∨ y.op = .isel
    let all : Grd := ⟨63#6, false⟩
    s.regsFit (if sel then all else g) ((d, 1) :: (a, 1) :: (b, 1) :: [(y.pd, 1), (y.pa, 1), (y.pb, 1)]) →
    let f (t : Thread) (o : PairOp) (p q r : Word) : Word :=
      match o with
      | .fadd => toFp32 ((fp32 q).add (fp32 r))
      | .fmul => toFp32 ((fp32 q).mul (fp32 r))
      | .ffma => toFp32 (((fp32 q).mul (fp32 r)).add (fp32 p))
      | .iadd => q + r
      | .and => q &&& r
      | .or => q ||| r
      | .xor => q ^^^ r
      | .shl => q <<< (r.toNat % 32)
      | .mov => q
      | .isel => if t.pget g.pred.toNat != g.pneg then q else r
    exec i s = .next (s.each (if sel then all else g) fun t =>
      (t.vset d.toNat (f t op (t.vget d.toNat) (t.vget a.toNat) (t.vget b.toNat))).vset y.pd.toNat
        (f t y.op (t.vget y.pd.toNat) (t.vget y.pa.toNat) (t.vget y.pb.toNat)))

/-! Cross-lane words, control flow, register blocks -/

/-- R45, R182 to R188: when the bundle brings every named member of its group, a cross-lane word executes once over the
members `M` and gives each thread of the bundle its result; with no member named it executes at once. Nothing else
changes.
R45, R182: a thread that brings a mask that names a lane of its group with no thread raises MISSING_MEMBER; one that
names a lane whose thread has not arrived is Held there and keeps its registers. -/
def Obligations.CrossLane : Prop :=
  (∀ (s : State) (c : Ctl) (d a b mm : VReg) (sb : SrcB) (p : PReg) (m : Word), s.joins mm m →
    let all : Grd := ⟨63#6, false⟩
    let ls := (List.range 32).filter fun l => m.getLsbD l
    (∀ (mode : ShflMode) (x : Nat → Word), ((∃ r, sb = .v r) ∨ ∃ i, sb = .s8 i) → s.regsFit all ((mm, 1) :: runs3 d a sb) →
      (∀ t ∈ s.x.threads, s.member t = true → x t.lane = t.vget a.toNat) →
      exec (.shfl c mode d a sb mm) s = .next (s.each all fun t =>
        let n := (s.valI t sb).toNat % 32
        let j : Int := match mode with
          | .idx => n
          | .up => t.lane - n
          | .down => t.lane + n
          | .xor => (t.lane ^^^ n : Nat)
        t.vset d.toNat (if 0 ≤ j ∧ j ≤ 31 ∧ m.getLsbD j.toNat = true then x j.toNat else t.vget a.toNat))) ∧
    (∀ x : Nat → Bool, s.regsFit all [(mm, 1), (d, 1)] →
      (∀ t ∈ s.x.threads, s.member t = true → x t.lane = t.pget p.toNat) →
      exec (.vote c .any d p mm) s = .next (s.each all fun t => t.pset d.toNat (ls.any x)) ∧
      exec (.vote c .all d p mm) s = .next (s.each all fun t => t.pset d.toNat (!ls.isEmpty && ls.all x)) ∧
      ∃ w : Word, exec (.vote c .ballot d p mm) s = .next (s.each all fun t => t.vset d.toNat w) ∧
        ∀ l, l < 32 → w.getLsbD l = (m.getLsbD l && x l)) ∧
    (∀ (op : RedOp) (excl : Bool) (x : Nat → Word), s.regsFit all [(mm, 1), (d, 1), (b, 1)] →
      (∀ t ∈ s.x.threads, s.member t = true → x t.lane = t.vget b.toNat) →
      ∃ red : List Nat → Word,
        exec (.redl c op d p b mm) s =
          .next (s.each all fun t => (t.vset d.toNat (red ls)).pset p.toNat (!ls.isEmpty)) ∧
        exec (.scanl c op excl d p b mm) s = .next (s.each all fun t =>
          let sub := ls.filter fun l => decide (l < t.lane) || (l == t.lane && !excl)
          (t.vset d.toNat (red sub)).pset p.toNat (!sub.isEmpty)) ∧
        (op = .iadd → ∀ ks, (red ks).toNat = (ks.map fun l => (x l).toNat).sum % 2 ^ 32) ∧
        (op = .and → ∀ ks k, k < 32 → (red ks).getLsbD k = ks.all fun l => (x l).getLsbD k) ∧
        (op = .or → ∀ ks k, k < 32 → (red ks).getLsbD k = ks.any fun l => (x l).getLsbD k) ∧
        (op = .xor → ∀ ks k, k < 32 → (red ks).getLsbD k = (ks.countP (fun l => (x l).getLsbD k) % 2 == 1)) ∧
        (op = .smin → red [] = 0x7FFFFFFF#32 ∧ ∀ ks, ks ≠ [] → (∃ l ∈ ks, red ks = x l) ∧ ∀ l ∈ ks, (red ks).toInt ≤ (x l).toInt) ∧
        (op = .smax → red [] = 0x80000000#32 ∧ ∀ ks, ks ≠ [] → (∃ l ∈ ks, red ks = x l) ∧ ∀ l ∈ ks, (x l).toInt ≤ (red ks).toInt) ∧
        (op = .umin → red [] = 0xFFFFFFFF#32 ∧ ∀ ks, ks ≠ [] → (∃ l ∈ ks, red ks = x l) ∧ ∀ l ∈ ks, (red ks).toNat ≤ (x l).toNat) ∧
        (op = .umax → red [] = 0#32 ∧ ∀ ks, ks ≠ [] → (∃ l ∈ ks, red ks = x l) ∧ ∀ l ∈ ks, (x l).toNat ≤ (red ks).toNat) ∧
        (op = .fmin → red [] = 0x7F800000#32 ∧ ∀ k ks, red (k :: ks) = toFp32 ((ks.map fun l => fp32 (x l)).foldl Num.min (fp32 (x k)))) ∧
        (op = .fmax → red [] = 0xFF800000#32 ∧ ∀ k ks, red (k :: ks) = toFp32 ((ks.map fun l => fp32 (x l)).foldl Num.max (fp32 (x k)))) ∧
        (op = .fadd → red [] = 0#32 ∧ ∀ ks,
          ((∀ l ∈ ks, (fp32 (x l)).isNan = false ∧ (fp32 (x l)).isInf = false) → (ks.map fun l => (fp32 (x l)).toRat).sum ≠ 0 →
            red ks = toFp32 (.ofRat (ks.map fun l => (fp32 (x l)).toRat).sum)) ∧
          ((∃ l ∈ ks, (fp32 (x l)).isNan = true) → red ks = 0x7FC00000#32))) ∧
    (∀ (w64 : Bool) (x : Nat → DWord), s.regsFit all [(mm, 1), (d, 1), (b, if w64 then 2 else 1)] →
      (∀ t ∈ s.x.threads, s.member t = true →
        x t.lane = if w64 then t.pair b.toNat else (t.vget b.toNat).zeroExtend 64) →
      ∃ v : Nat → Word, exec (.matchl c w64 d b mm) s = .next (s.each all fun t => t.vset d.toNat (v t.lane)) ∧
        ∀ l k, k < 32 → (v l).getLsbD k = (m.getLsbD k && x k == x l)) ∧
    (s.regsFit all [(mm, 1)] →
      exec (.elect c p mm) s = .next (s.each all fun t => t.pset p.toNat
        (m.getLsbD t.lane && ls.all fun l => decide (t.lane ≤ l)))) ∧
    (s.regsFit all [(mm, 1), (d, 1)] →
      ∃ w : Word, exec (.actmask c d mm) s = .next (s.each all fun t => t.vset d.toNat w) ∧
        ∀ l, l < 32 → (w.getLsbD l = true ↔ ∃ t ∈ s.x.threads, s.member t = true ∧ t.lane = l))) ∧
  ∀ (s : State) (c : Ctl) (d mm : VReg) (t : Thread) (l : Nat), s.solo ⟨63#6, false⟩ t → s.calm →
    s.regsFit ⟨63#6, false⟩ [(mm, 1), (d, 1)] → t.status = .issued → l < 32 → (t.vget mm.toNat).getLsbD l = true →
    (∀ u ∈ s.x.threads, u.group = t.group → u.arrival? = none ∧ u.isReplay = false) →
    (∀ u ∈ s.x.threads, u.uid = t.uid → u = t) →
    ∃ s' t', exec (.actmask c d mm) s = .next s' ∧ s'.thread? t.uid = some t' ∧ t'.v = t.v ∧ t'.pc = t.pc ∧
      ((∀ u ∈ s.x.threads, u.group = t.group → u.status ≠ .exited → u = t) → l ≠ t.lane → s.x.flights = [] →
        ∃ r, t'.trap = some r ∧ reportCode r.report = Code.val .missingMember) ∧
      ((∃ u, s.laneThread t.group l = some u ∧ u.uid ≠ t.uid ∧ u.trap = none) → t'.trap = none ∧
        ∃ i m x y q, t'.status = .held (.join i m x y q))

/-- R146, R189, R190: a branch moves each thread that it acts on to its target, PC-relative in words of 8 bytes or given
in a register pair; BRP only where its predicate holds; CALL and CALLI save the address of the next word. Nothing else
changes.
R146: a computed branch to a target that is not a multiple of 8 raises BAD_CLAUSE, and the thread does not move. -/
def Obligations.Branches : Prop :=
  (∀ (s : State) (g : Grd) (c : Ctl) (p : PReg) (d b : VReg) (imm : Word), s.calm →
    let go (t : Thread) (a : DWord) : Thread := { t with pc := a, hdr := a, mid := false, status := .boundary }
    let rel (t : Thread) : DWord := t.pc + 8#64 * imm.signExtend 64
    exec (.bra g imm) s = .next (s.each g fun t => go t (rel t)) ∧
    exec (.brp g p imm) s = .next (s.each g fun t => if t.pget p.toNat then go t (rel t) else t) ∧
    (s.regsFit g [(d, 2)] →
      exec (.call g d imm) s = .next (s.each g fun t => go (t.setPair d.toNat (t.pc + 8#64)) (rel t))) ∧
    (s.regsFit c.grd [(d, 2), (b, 2)] →
      (∀ t ∈ s.x.threads, s.active c.grd t = true → (t.pair b.toNat).toNat % 8 = 0) →
      exec (.brx c b) s = .next (s.each c.grd fun t => go t (t.pair b.toNat)) ∧
      exec (.ret c b) s = .next (s.each c.grd fun t => go t (t.pair b.toNat)) ∧
      exec (.calli c d b) s = .next (s.each c.grd fun t => go (t.setPair d.toNat (t.pc + 8#64)) (t.pair b.toNat)))) ∧
  ∀ (s : State) (c : Ctl) (d b : VReg) (t : Thread) (i : Instr), s.solo c.grd t → s.quiet t →
    s.regsFit c.grd [(d, 2), (b, 2)] → i ∈ [Instr.brx c b, .calli c d b, .ret c b] → (t.pair b.toNat).toNat % 8 ≠ 0 →
    ∃ s' t', exec i s = .next s' ∧ s'.thread? t.uid = some t' ∧ t'.v = t.v ∧ t'.pc = t.pc ∧
      ∃ r, t'.trap = some r ∧ reportCode r.report = Code.val .badClause

/-- R43, R44, R195: RBACQ appends `n` blocks of zeros and writes true when the lane has them, and otherwise writes false;
RBREL drops the top `n`, once nothing is in flight; RBQRY gives the lane's free blocks and the thread's own. Nothing else
changes.
R43, R195: a word that names a register outside the thread's blocks raises REGISTER_BLOCK; RBACQ that would pass 16 blocks,
and RBREL of all that the thread holds, raise ILLEGAL_OPERAND; nothing else happens.
R191, R192, R193: YIELD marks the group of each thread that it acts on; SLEEPN with QE keeps the counter raised until
device time reaches the deadline, at most 2^24 ns away, and SLEEPN_DEADLINE ends it then. -/
def Obligations.RegisterBlocksAndYield : Prop :=
  (∀ (s : State) (c : Ctl) (d : VReg) (p : PReg) (b : SrcB), s.ready c.grd b ((d, 1) :: bRuns b 1) →
    let n (t : Thread) : Nat := (s.valI t b).toNat
    let used (t : Thread) : Nat := ((s.x.threads.filter fun u => u.core == t.core && u.slice == t.slice &&
      u.lane == t.lane && u.status != .exited && !s.swappedOut u).map fun u => u.v.length / 16).sum
    ((∀ t ∈ s.x.threads, s.active c.grd t = true → t.v.length / 16 + n t ≤ 16) →
      exec (.rbacq c p b) s = .next (s.each c.grd fun t =>
        if n t = 0 then t.pset p.toNat true
        else if n t + used t ≤ 128 then
          { t with v := t.v ++ List.replicate (16 * n t) 0#32 }.pset p.toNat true
        else t.pset p.toNat false)) ∧
    ((∀ t ∈ s.x.threads, s.active c.grd t = true → n t < t.v.length / 16 ∧ s.busyThread t.uid = false) →
      exec (.rbrel c b) s = .next (s.each c.grd fun t => { t with v := t.v.take (t.v.length - 16 * n t) })) ∧
    exec (.rbqry c d) s = .next (s.each c.grd fun t =>
      t.vset d.toNat (BitVec.ofNat 32 ((128 - used t) % 256 + 256 * (t.v.length / 16))))) ∧
  (∀ (s : State) (t : Thread) (c : Ctl) (u sat sx : Bool) (w : Width) (p : PReg) (d a : VReg) (b : SrcB) (y : Word) (off : BitVec 14)
    (sc : BitVec 3) (i : Instr) (k : Code), s.solo c.grd t → s.quiet t →
    ((t.inBlocks [(d, 1)] = false ∧ k = .registerBlock ∧
        i ∈ [Instr.mov c d b, .iadd c u sat d a b, .fadd c u d a b, .rbqry c d, .ld c w sx d a off sc]) ∨
      (t.inBlocks (bRuns b 1) = true ∧ s.srcI t b = .ok y ∧ y ≠ 0#32 ∧ k = .illegalOperand ∧
        ((i = .rbacq c p b ∧ 16 < t.v.length / 16 + y.toNat) ∨ (i = .rbrel c b ∧ t.v.length / 16 ≤ y.toNat)))) →
    ∃ s' t' r, exec i s = .next s' ∧ s'.thread? t.uid = some t' ∧ t'.v = t.v ∧ t'.p = t.p ∧ t'.q = t.q ∧ t'.pc = t.pc ∧
      t'.trap = some r ∧ reportCode r.report = k.val ∧ s'.m = s.m ∧ s'.x.flights = []) ∧
  ∀ (s : State) (c : Ctl) (b : SrcB), s.ready c.grd b (bRuns b 1) →
    (∀ t, s.solo c.grd t →
      exec (.yield_ c) s = .next (s.updGroup t.group fun g => { g with yielded := true })) ∧
    (c.qe = false → exec (.sleepn c b) s = .next s) ∧
    (c.qe = true → exec (.sleepn c b) s = .next (s.launchEach c fun t =>
      .sleep (s.timeOf t + min (s.valI t b).toNat (2 ^ 24)))) ∧
    ∀ f t dl, s.flight? f.uid = some f → f.op = .sleep dl → s.thread? f.thread = some t →
      (dl ≤ s.timeOf t → exec (.sleepnDeadline f.uid) s = .next (s.finish f)) ∧
      (s.timeOf t < dl → exec (.sleepnDeadline f.uid) s = .next s)

/-! Memory -/

/-- R58, R201, R202, R206, R208: LD, ST, DLOAD and PREF of a lane whose access the checks admit go in flight with its
address, width and data; the store's bytes are those of its registers, lowest first.
R79, R80, R202: LDB and STB address element `i` of a buffer descriptor; past its extent a ROBUST buffer gives zeros and
takes no store, and another raises BOUNDS; a store to an RO buffer raises PERMISSION. -/
def Obligations.LoadStoreIssue : Prop :=
  (∀ (s s1 : State) (t : Thread) (c : Ctl) (w : Width) (sx : Bool) (d addr : VReg) (dn : DReg) (off : BitVec 14)
    (sc : BitVec 3) (a : Acc), s.solo c.grd t → s.calm → s.plain t →
    let p := t.pair addr.toNat + off.signExtend 64
    let n := widthBytes w
    t.inBlocks [(addr, 2), (d, widthRegs w)] = true →
    (s.checked t p n false true 0#12 sc.toNat s1 a →
      exec (.ld c w sx d addr off sc) s =
        .next ((s1.retainLoad t p).launchFlight t c (.load a w sx d.toNat []))) ∧
    (s.checked t p n true false 0#12 sc.toNat s1 a →
      ∃ bs : List Byte, exec (.st c w d addr off sc) s =
          .next (((s1.recordStore t a bs).streamAdd t s1.x.nextUid p n bs).launchFlight t c (.store a bs)) ∧
        bs.length = n ∧
        ∀ k, k < n → bs[k]? = some ((t.vget (d.toNat + k / 4)).extractLsb' (8 * (k % 4)) 8)) ∧
    (s.checked t p 32 false true 0#12 sc.toNat s1 a →
      exec (.dload c dn addr off sc) s = .next (s1.launchFlight t c (.dload a dn.toNat []))) ∧
    (s.threadCheck t p 1 false true 0#12 1 = (s1, .go a) →
      exec (.pref c addr off) s =
        .next (s1.launchFlight t c (.pref (if a.mt = 0#2 ∧ isWindow a.pa = false then some a else none)))) ∧
    ((∀ s2 b, s.threadCheck t p 1 false true 0#12 1 ≠ (s2, .go b)) →
      exec (.pref c addr off) s = .next (s.launchFlight t c (.pref none)))) ∧
  ∀ (s s1 : State) (t : Thread) (tm : Team) (c : Ctl) (w : Width) (sx : Bool) (d i : VReg) (dn : DReg) (sc : BitVec 3)
    (a : Acc), s.solo c.grd t → s.quiet t → s.plain t → s.teamOf t = some tm →
    t.inBlocks [(i, 1), (d, widthRegs w)] = true →
    let r := tm.d.getD dn.toNat 0#256
    let n := widthBytes w
    let at_ := (t.vget i.toNat).toNat * 2 ^ descEsize r % 2 ^ 64
    let p := descBase r + BitVec.ofNat 64 at_
    descKind r = 1 →
    (at_ + n ≤ descExtent r →
      (s.checked t p n false true (descTensor r) sc.toNat s1 a →
        exec (.ldb c w sx d dn i sc) s =
          .next ((s1.retainLoad t p).launchFlight t c (.load a w sx d.toNat []))) ∧
      (descRo r = false → s.checked t p n true false (descTensor r) sc.toNat s1 a →
        ∃ bs : List Byte, exec (.stb c w d dn i sc) s =
            .next (((s1.recordStore t a bs).streamAdd t s1.x.nextUid p n bs).launchFlight t c (.store a bs)) ∧
          bs = regBytes t d.toNat n) ∧
      (descRo r = true → ∃ s' t' k, exec (.stb c w d dn i sc) s = .next s' ∧ s'.thread? t.uid = some t' ∧
        t'.v = t.v ∧ t'.trap = some k ∧ reportCode k.report = Code.val .permission)) ∧
    (descExtent r < at_ + n →
      (descRobust r = true →
        exec (.ldb c w sx d dn i sc) s = .next (s.launchFlight t c
          (.sampled ((List.range (widthRegs w)).map fun k => (d.toNat + k, 0#32)) [])) ∧
        exec (.stb c w d dn i sc) s = .next s) ∧
      (descRobust r = false → ∀ ins, ins ∈ [Instr.ldb c w sx d dn i sc, .stb c w d dn i sc] →
        ∃ s' t' k, exec ins s = .next s' ∧ s'.thread? t.uid = some t' ∧ t'.v = t.v ∧ t'.trap = some k ∧
          reportCode k.report = Code.val .bounds))

/-- R58, R201: a load or store at an address that is not a multiple of its width raises ALIGN; one that the pages refuse
raises the code of the check, and one whose page fault cannot wait for an answer (R403) raises PAGE_FAULT; nothing is loaded or
stored.
R48, R201, R404: a load or store of a page that has no translation parks its thread on a page-fault record that names
the page, with the fault ring enabled or the page's record written (R403); the thread keeps its registers and will issue the
word again.
R71, R204: a scratchpad access past the allocation of its team raises SCRATCH_RANGE, and a misaligned one ALIGN. -/
def Obligations.AccessCodes : Prop :=
  (∀ (s : State) (t : Thread) (c : Ctl) (w : Width) (sx : Bool) (d addr : VReg) (off : BitVec 14) (sc : BitVec 3)
    (i : Instr) (modifies : Bool), s.solo c.grd t → s.quiet t → s.plain t →
    ((i = .ld c w sx d addr off sc ∧ modifies = false) ∨ (i = .st c w d addr off sc ∧ modifies = true)) →
    let p := t.pair addr.toNat + off.signExtend 64
    let n := widthBytes w
    t.inBlocks [(addr, 2), (d, widthRegs w)] = true →
    (∀ k s1, (p.toNat % n ≠ 0 ∧ k = Code.align) ∨
        (p.toNat % n = 0 ∧ s.threadCheck t p n modifies true 0#12 sc.toNat = (s1, .code k)) ∨
        (p.toNat % n = 0 ∧ (∃ x, s.threadCheck t p n modifies true 0#12 sc.toNat = (s1, .fault x)) ∧
          s1.faultWaits t.ctx p (coreSector t.core) = false ∧ k = Code.pageFault) →
      ∃ s' t' r, exec i s = .next s' ∧ s'.thread? t.uid = some t' ∧ t'.v = t.v ∧ t'.trap = some r ∧
        reportCode r.report = k.val ∧ s'.x.flights = [] ∧ s'.m = s.m)) ∧
  (∀ (s s1 : State) (t : Thread) (c : Ctl) (w : Width) (sx : Bool) (d addr : VReg) (off : BitVec 14) (sc : BitVec 3)
    (i : Instr) (modifies : Bool) (k : PfCause), s.solo c.grd t → s.calm → s.plain t →
    (∀ u ∈ s.x.threads, u.uid = t.uid → u = t) → (s.ctx t.ctx).killing = false →
    ((i = .ld c w sx d addr off sc ∧ modifies = false) ∨ (i = .st c w d addr off sc ∧ modifies = true)) →
    let p := t.pair addr.toNat + off.signExtend 64
    let n := widthBytes w
    t.inBlocks [(addr, 2), (d, widthRegs w)] = true → p.toNat % n = 0 →
    s.threadCheck t p n modifies true 0#12 sc.toNat = (s1, .fault k) → s1.faultWaits t.ctx p (coreSector t.core) = true →
    ∃ s' t' fault f, exec i s = .next s' ∧ s'.thread? t.uid = some t' ∧ t'.v = t.v ∧ t'.pc = t.pc ∧
      t'.status = .parkedMem (.page fault) ∧ f ∈ s'.h.faults ∧ f.uid = fault ∧ f.ctx = t.ctx ∧
      f.page.1 ≤ ptrVa p ∧ ptrVa p < f.page.1 + f.page.2 ∧ (Waiter.thread t.uid, p) ∈ f.waiters ∧ s'.x.flights = s.x.flights) ∧
  ∀ (s : State) (t : Thread) (tm : Team) (c : Ctl) (w : Width) (sx : Bool) (d addr : VReg) (off : BitVec 14)
    (sc : BitVec 3) (i : Instr), s.solo c.grd t → s.quiet t → s.teamOf t = some tm →
    t.inBlocks [(addr, 1), (d, widthRegs w)] = true → i ∈ [Instr.lds c w sx d addr off sc, .sts c w d addr off sc] →
    let a := t.vget addr.toNat + off.signExtend 32
    let n := widthBytes w
    ∀ k, (a.toNat % n ≠ 0 ∧ k = Code.align) ∨ (a.toNat % n = 0 ∧ tm.ssize < a.toNat + n ∧ k = Code.scratchRange) →
      ∃ s' t' r, exec i s = .next s' ∧ s'.thread? t.uid = some t' ∧ t'.v = t.v ∧ t'.trap = some r ∧
        reportCode r.report = k.val ∧ s'.x.teams = s.x.teams

/-- R71, R204, R205: LDS, STS, LDC and STC of an aligned range inside the scratchpad that they name, with its lines present
and unpoisoned, go in flight with that range; LDC and STC take the rank of their cluster from bits 31:24.
R207, R209: TAGST and TAGLD go in flight with the sector of their address, with no alignment or tag check, and DQRY
with the word of the descriptor register that `b` names. -/
def Obligations.ScratchpadAndTagIssue : Prop :=
  (∀ (s : State) (t : Thread) (tm k : Team) (c : Ctl) (w : Width) (sx : Bool) (d addr : VReg) (off : BitVec 14)
    (sc : BitVec 3), s.solo c.grd t → s.calm → s.teamOf t = some tm → t.isReplay = false →
    t.inBlocks [(addr, 1), (d, widthRegs w)] = true →
    let a := t.vget addr.toNat + off.signExtend 32
    let n := widthBytes w
    let o := a.toNat % 2 ^ 24
    let bs := regBytes t d.toNat n
    a.toNat % n = 0 →
    (a.toNat + n ≤ tm.ssize → s.absentLine tm a.toNat n = none →
      (tm.spadPoison a.toNat n = false →
        exec (.lds c w sx d addr off sc) s = .next (s.launchFlight t c (.loadS tm.uid a.toNat (a.zeroExtend 64) w sx d.toNat []))) ∧
      exec (.sts c w d addr off sc) s = .next (s.launchFlight t c (.storeS tm.uid a.toNat bs 1))) ∧
    (s.rankTeam tm (a.toNat / 2 ^ 24) = some k → o + n ≤ k.ssize → s.absentLine k o n = none →
      (k.spadPoison o n = false →
        exec (.ldc c w sx d addr off sc) s = .next (s.launchFlight t c (.loadS k.uid o (a.zeroExtend 64) w sx d.toNat []))) ∧
      exec (.stc c w d addr off sc) s = .next (s.launchFlight t c
        (.storeS k.uid o bs (if t.team = some k.uid then 1 else 8 + sc.toNat))))) ∧
  ∀ (s s1 : State) (t : Thread) (tm : Team) (c : Ctl) (d addr : VReg) (dn : DReg) (b : SrcB) (off : BitVec 14)
    (sc : BitVec 3) (a : Acc), s.solo c.grd t → s.calm → s.teamOf t = some tm →
    let p := t.pair addr.toNat + off.signExtend 64
    (∀ modifies, t.inBlocks [(addr, 2), (d, 1)] = true →
      s.pageCheck t.core (some (t.slice, t.lane)) t.ctx p 1 modifies false false 0#12 1 = (s1, .go a) →
      s1.locked t.ctx (ptrVa p / 64 * 64) 64 modifies = false →
      (modifies = true → exec (.tagst c d addr off sc) s =
        .next (s1.launchFlight t c (.tagst a ((t.vget d.toNat).extractLsb' 0 4)))) ∧
      (modifies = false → s1.poisonSeen t.core t.ctx a.pa 1 true = false →
        exec (.tagld c d addr off sc) s = .next (s1.launchFlight t c (.tagld a d.toNat)))) ∧
    (t.inBlocks ((d, 1) :: bRuns b 1) = true → ∀ y, s.srcI t b = .ok y → y.toNat ≤ 7 →
      exec (.dqry c d dn b) s = .next (s.launchFlight t c
        (.dqry d.toNat ((tm.d.getD dn.toNat 0#256).extractLsb' (32 * y.toNat) 32))))

/-- R80, R224, R225, R226: ATOM, ATOMC and RED of a lane whose access the checks admit go in flight with their operands;
in a deterministic launch RED enters the Couching buffer of its core instead (R107), numbered in the thread's order. Out of
the bounds of a ROBUST buffer RED does nothing, and the old value of ATOM is zero.
R96, R229: WAITC of a lane whose access the checks admit waits with its deadline; where the condition holds at home it is
met at once, with the value, and otherwise the thread is Parked on its monitor. -/
def Obligations.AtomicAndWaitIssue : Prop :=
  (∀ (s s1 : State) (t : Thread) (c : Ctl) (w64 : Bool) (op : AtomOp) (d addr : VReg) (off : BitVec 14) (ad : MAddr)
    (sc : BitVec 3) (p : DWord) (tensor : BitVec 12) (a : Acc), s.solo c.grd t → s.calm → s.plain t →
    let n := if w64 then 8 else 4
    let x (k : Nat) : DWord := if w64 then t.pair (d.toNat + 2 * k) else (t.vget (d.toNat + k)).zeroExtend 64
    s.maddr t (.ptr addr off) n true = .ok (.at_ (t.pair addr.toNat + off.signExtend 64), 0#12) ∧
    (t.inBlocks ((d, n / 4) :: maddrRuns ad) = true → s.maddr t ad n true = .ok (.at_ p, tensor) →
      (s.checked t p n true true tensor 2 s1 a →
        exec (.atom c w64 op d ad sc) s =
          .next ((s1.recordAtom t 1 a (loBytes n (x 0))).launchFlight t c (.atom a w64 op (x 0) d.toNat)) ∧
        (t.inBlocks ((d, n / 2) :: maddrRuns ad) = true → exec (.atomc c w64 d ad sc) s =
          .next ((s1.recordAtom t 1 a (loBytes n (x 1))).launchFlight t c (.atomc a w64 (x 0) (x 1) d.toNat)))) ∧
      (s.checked t p n true false tensor 2 s1 a →
        let s2 := (s1.recordAtom t 2 a (loBytes n (x 0))).streamAdd t s1.x.nextUid p n (loBytes n (x 0))
        (s2.det t = false → exec (.red c w64 op d ad sc) s =
          .next (s2.launchFlight t c (.red a w64 op (x 0)))) ∧
        (s2.det t = true → isWindow a.pa = false → exec (.red c w64 op d ad sc) s =
          .next ((s2.updThread t.uid fun u => { u with couch := u.couch + 1 }).couchAdd t.core
            (s2.couchOf t a op w64 (x 0) t.couch false))))) ∧
    (t.inBlocks ((d, n / 4) :: maddrRuns ad) = true → s.maddr t ad n true = .ok (.robust, tensor) →
      exec (.red c w64 op d ad sc) s = .next s ∧
      exec (.atom c w64 op d ad sc) s =
        .next (s.launchFlight t c (.sampled ((List.range (n / 4)).map fun k => (d.toNat + k, 0#32)) [])))) ∧
  ∀ (s s1 : State) (t : Thread) (c : Ctl) (w64 : Bool) (cond : Cond) (u : Bool) (d addr : VReg) (off : BitVec 14)
    (sc : BitVec 3) (a : Acc), s.solo c.grd t → s.calm → s.plain t → t.inBlocks [(addr, 2), (d, 4)] = true →
    s.checked t (t.pair addr.toNat + off.signExtend 64) (if w64 then 8 else 4) false true 0#12 2 s1 a →
    (∀ m ∈ s1.y.monitors, m.flight < s1.x.nextUid) → (∀ f ∈ s1.x.flights, f.uid < s1.x.nextUid ∧ f.thread ≠ t.uid ∧ f.op.ranges = []) →
    s1.e.rays = [] → (∀ v ∈ s1.x.threads, v.uid = t.uid → v = t) →
    ∃ s' f m t', exec (.waitc c w64 cond u d addr off sc) s = .next s' ∧ f ∈ s'.x.flights ∧ f.thread = t.uid ∧
      f.op = .waitc a w64 cond u (if w64 then t.pair d.toNat else (t.vget d.toNat).zeroExtend 64) d.toNat
        ((t.vget (d.toNat + 3)).toNat % 64) ∧
      m ∈ s'.y.monitors ∧ m.flight = f.uid ∧
      m.deadline = (if (t.vget (d.toNat + 2)).toNat = 0 then none
        else some (s.now (coreDie t.core) + (t.vget (d.toNat + 2)).toNat)) ∧
      s'.thread? t.uid = some t' ∧ t'.v = t.v ∧
      (m.woken = none → t'.status = .parkedMon) ∧ (m.woken.isSome = true → t'.status = t.status) ∧
      ((∀ l, (s.homeLine l).owner = none) → (∀ c ∈ s.m.copies, c.mask = []) → isWindow a.pa = false →
        let v := s.homeWord a.pa w64
        m.woken = if waitHolds w64 cond u v (if w64 then t.pair d.toNat else (t.vget d.toNat).zeroExtend 64) then some (v, true)
          else none)

/-- R36: an instruction whose result was fixed at issue writes its registers and predicates when it completes; its counter
falls, and it is no longer in flight. One that waits for an error record, or whose team is swapped out, does not
complete (R50, R444).
R85, R202: a load that comes first at its bytes completes with the bytes that it reads: zero- or sign-extended below 32
bits, into pairs and quads low word first; a 16-byte load reads one of its two pieces, and then joins them. R103: one of bytes
that another's copy has locked raises RANGE_LOCK. The lanes of one word that read the same bytes read them together (R88): here it is the only one. -/
def Obligations.LoadCompletes : Prop :=
  (∀ (s : State) (f : Flight) (t : Thread), s.flight? f.uid = some f → s.thread? f.thread = some t → s.swappedOut t = false →
    (f.stalled ≠ none → exec (.instructionComplete f.uid) s = .next s) ∧
    (f.stalled = none → f.posted = false → ∀ regs preds, f.op = .write regs preds →
      exec (.instructionComplete f.uid) s = .next { s with x := { s.x with
        threads := s.x.threads.map fun u =>
          if u.uid = f.thread then
            let u := preds.foldl (fun u p => u.pset p.1 p.2) (regs.foldl (fun u r => u.vset r.1 r.2) u)
            match f.qc with
            | some q => u.qsub q
            | none => u
          else u
        flights := s.x.flights.filter fun g => g.uid ≠ f.uid } })) ∧
  ∀ (s : State) (f : Flight) (t : Thread) (a : Acc) (w : Width) (sx : Bool) (d : Nat) (ps : List (Nat × Nat)) (o x : Nat),
    s.flight? f.uid = some f → s.thread? f.thread = some t → s.swappedOut t = false → f.stalled = none →
    f.op = .load a w sx d ps → s.accessFirst f = true → s.sameWord f = [f] →
    let n := widthBytes w
    (s.lockedNow f t a n false = true →
      exec (.instructionComplete f.uid) s = .next (s.failFlight f (Cause.at .rangeLock a.va))) ∧
    (s.lockedNow f t a n false = false →
      ((n ≠ 16 ∧ o = 0) ∨ (n = 16 ∧ ps = [(8 - o, x)] ∧ (o = 0 ∨ o = 8) ∧ x < 2 ^ 64) →
        let r := s.readAcc t a o (min n 8)
        a.refused r.2.tag = false → r.2.poison = false → r.2.bytes.length = min n 8 →
        let v := if n = 16 then (if o = 0 then leNat r.2.bytes + 2 ^ 64 * x else x + 2 ^ 64 * leNat r.2.bytes) else leNat r.2.bytes
        ∃ bs : List Byte, leNat bs = v ∧ exec (.instructionComplete f.uid) s =
          .next (((r.1.updThread t.uid fun u =>
              if n ≤ 4 then u.vset d (if sx = true ∧ n < 4 then (BitVec.ofNat (8 * n) v).signExtend 32 else BitVec.ofNat 32 v)
              else u.setRun d ((List.range (n / 4)).map fun k => BitVec.ofNat 32 (v / 2 ^ (32 * k)))).fillPre
            t.uid a.va bs).finish f)) ∧
      (n = 16 → ps = [] →
        ∃ m k : Nat, (k = 0 ∨ k = 8) ∧
          let r := { s with freeCtr := m }.readAcc t a k 8
          (a.refused r.2.tag = false → r.2.poison = false → exec (.instructionComplete f.uid) s =
            .next (r.1.updFlight f.uid fun g => { g with op := .load a w sx d [(k, leNat r.2.bytes)] }))))

/-- R74, R83: a load by a core of bytes of one sector after a store of that core's context reads the stored bytes where they
overlap, and elsewhere the bytes that it would have read before. The line has room in L1, so that no other leaves it (R73).
R76, R86, R92: a write that performs at home puts its bytes there, and every other byte of memory keeps the value that
home holds; so does a local store (R74) to a line that has room in L1, for every byte. A line that leaves L1 takes its masked
bytes home, and no other byte changes.
R76, R95: no read at home changes what home holds, and eviction from a home slice does not change the value of any byte;
nor does a load of a line that has room in L1.
R74, R81, R85, R92: a global store that comes first at its bytes completes. With scope 2 or wider, or to memory of type 1 or
2, its bytes stand at home, and every other byte of memory is unchanged; otherwise no byte at home changes, and a load by its
core reads the stored bytes. A 16-byte store performs one of its two pieces, and keeps the other. No register changes.
R85: the first piece of a 16-byte store performs, at home with scope 2 or wider or memory of type 1 or 2, and the other
stays in flight; every other byte of memory is unchanged. -/
def Obligations.MemoryAtHome : Prop :=
  (∀ (s : State) (core ctx : Nat) (tensor : BitVec 12) (pa qa n k : Nat) (bs : List Byte), bs ≠ [] →
    pa % 64 + bs.length ≤ 64 → qa % 64 + n ≤ 64 → k < n → s.l1Room core (pa / 256) ctx →
    ((s.storeLocal core ctx tensor pa bs).loadCore core ctx tensor false qa n).2.bytes[k]? =
      if pa ≤ qa + k ∧ qa + k < pa + bs.length then bs[qa + k - pa]?
      else (s.loadCore core ctx tensor false qa n).2.bytes[k]?) ∧
  (∀ (s : State) (core : Option Nat) (ctx : Nat) (tensor : BitVec 12) (pa : Nat) (bs : List Byte) (bad : Bool) (q : Nat),
    Memory.wf s.m = true → (∀ l, (s.homeLine l).owner = none) →
    ((s.writeHome ctx tensor pa bs bad).1.homeByte q =
      if pa ≤ q ∧ q < pa + bs.length then bs.getD (q - pa) 0#8 else s.homeByte q) ∧
    (pa % 256 + bs.length ≤ 256 →
      (s.performHome core (pa / 256) ctx tensor (bs.zipIdx.map fun b => (pa % 256 + b.2, b.1)) bad).1.homeByte q =
        if pa ≤ q ∧ q < pa + bs.length then bs.getD (q - pa) 0#8 else s.homeByte q) ∧
    (∀ c, s.l1Room c (pa / 256) ctx → (s.storeLocal c ctx tensor pa bs).homeByte q = s.homeByte q) ∧
    ∀ k ∈ s.m.copies, ∀ c, k.place = .l1 c → (s.evict k).homeByte q =
      if q / 256 = k.line then (sget k.mask (q % 256)).getD (s.homeByte q) else s.homeByte q) ∧
  (∀ (s : State) (core ctx : Nat) (tensor : BitVec 12) (pa n l q : Nat), Memory.wf s.m = true →
    (∀ l, (s.homeLine l).owner = none) →
    (s.flushHome l).homeByte q = s.homeByte q ∧
    (s.evictHome l).homeByte q = s.homeByte q ∧
    (s.touchHome l (some ctx) tensor).homeByte q = s.homeByte q ∧
    (s.readHome pa n).1.homeByte q = s.homeByte q ∧
    (∀ k, k < n → (s.readHome pa n).2[k]? = some (s.homeByte (pa + k))) ∧
    (s.l1Room core (pa / 256) ctx → (s.loadCore core ctx tensor false pa n).1.homeByte q = s.homeByte q)) ∧
  (∀ (s : State) (f : Flight) (t : Thread) (a : Acc) (bs : List Byte) (q : Nat),
    s.flight? f.uid = some f → s.thread? f.thread = some t → s.plain t → s.swappedOut t = false → f.stalled = none →
    f.op = .store a bs → s.accessFirst f = true → s.sameWord f = [f] → a.tag = none → s.lockedNow f t a bs.length true = false →
    isWindow a.pa = false → Memory.wf s.m = true → (∀ l, (s.homeLine l).owner = none) → (∀ c ∈ s.m.copies, c.mask = []) →
    (∃ w, w ≠ .b128 ∧ bs.length = widthBytes w) → a.pa % bs.length = 0 →
    ∃ s' t', exec (.instructionComplete f.uid) s = .next s' ∧ s'.thread? f.thread = some t' ∧ t'.v = t.v ∧ t'.p = t.p ∧
      (∀ g ∈ s'.x.flights, g.uid ≠ f.uid) ∧
      (a.atHome = true → s'.homeByte q =
        if a.pa ≤ q ∧ q < a.pa + bs.length then bs.getD (q - a.pa) 0#8 else s.homeByte q) ∧
      (a.atHome = false → s'.homeByte q = s.homeByte q ∧
        ∀ k, k < bs.length → (s'.loadCore t.core t.ctx a.tensor false a.pa bs.length).2.bytes[k]? = bs[k]?)) ∧
  ∀ (s : State) (f : Flight) (t : Thread) (a : Acc) (bs : List Byte) (q : Nat),
    s.flight? f.uid = some f → s.thread? f.thread = some t → s.plain t → s.swappedOut t = false → f.stalled = none →
    f.op = .store a bs → s.accessFirst f = true → s.sameWord f = [f] → a.tag = none → s.lockedNow f t a bs.length true = false →
    isWindow a.pa = false → Memory.wf s.m = true → (∀ l, (s.homeLine l).owner = none) → (∀ c ∈ s.m.copies, c.mask = []) →
    bs.length = 16 → a.pa % 16 = 0 → a.atHome = true →
    ∃ s' g o, exec (.instructionComplete f.uid) s = .next s' ∧ (o = 0 ∨ o = 8) ∧ g ∈ s'.x.flights ∧ g.uid = f.uid ∧
      g.op = .store { a with pa := a.pa + (8 - o), va := a.va + BitVec.ofNat 64 (8 - o) } ((bs.drop (8 - o)).take 8) ∧
      s'.homeByte q = if a.pa + o ≤ q ∧ q < a.pa + o + 8 then bs.getD (q - a.pa) 0#8 else s.homeByte q

/-- R224: what each atomic operation makes of an old value and an operand, both of one width; FADD, FMIN and FMAX work on
32-bit values as FADD (R170), FMIN and FMAX (R171) do.
R95, R106, R224, R225: an atomic that performs at the home slice reads and writes its word in one step: `V[d]` takes the
old value, home holds the new one, and every other byte of memory is unchanged. ATOMC writes where the old value is the
expected one.
R106, R226: a RED outside a deterministic launch completes when its request has left the core; it performs at its home
slice after that: home holds the result, every other byte of memory is unchanged, and no register changes. -/
def Obligations.Atomics : Prop :=
  (∀ (w64 : Bool) (old x : DWord),
    let m := if w64 then 2 ^ 64 else 2 ^ 32
    let sgn (v : DWord) : Int := if w64 then v.toInt else (v.setWidth 32).toInt
    old.toNat < m → x.toNat < m →
    let new (op : AtomOp) : Nat := (atomBytes w64 op old x).toNat
    (∀ op, new op < m) ∧
    new .iadd = (old.toNat + x.toNat) % m ∧ new .xchg = x.toNat ∧
    new .umin = min old.toNat x.toNat ∧ new .umax = max old.toNat x.toNat ∧
    sgn (atomBytes w64 .smin old x) = min (sgn old) (sgn x) ∧ sgn (atomBytes w64 .smax old x) = max (sgn old) (sgn x) ∧
    new .inc = (if x.toNat ≤ old.toNat then 0 else old.toNat + 1) ∧
    new .dec = (if old.toNat = 0 ∨ x.toNat < old.toNat then x.toNat else old.toNat - 1) ∧
    (∀ k, (atomBytes w64 .and old x).getLsbD k = (old.getLsbD k && x.getLsbD k)) ∧
    (∀ k, (atomBytes w64 .or old x).getLsbD k = (old.getLsbD k || x.getLsbD k)) ∧
    (∀ k, (atomBytes w64 .xor old x).getLsbD k = (old.getLsbD k != x.getLsbD k)) ∧
    (w64 = false →
      new .fadd = (toFp32 ((fp32 (old.setWidth 32)).add (fp32 (x.setWidth 32)))).toNat ∧
      new .fmin = (toFp32 ((fp32 (old.setWidth 32)).min (fp32 (x.setWidth 32)))).toNat ∧
      new .fmax = (toFp32 ((fp32 (old.setWidth 32)).max (fp32 (x.setWidth 32)))).toNat)) ∧
  (∀ (s : State) (f : Flight) (t : Thread) (a : Acc) (op : AtomOp) (w64 : Bool) (x e v : DWord) (d : Nat),
    s.flight? f.uid = some f → s.thread? f.thread = some t → s.plain t → f.stalled = none → s.accessFirst f = true →
    s.sameWord f = [f] → a.mt = 1#2 → isWindow a.pa = false → a.tag = none →
    (let n := if w64 then 8 else 4
     a.pa % n = 0 ∧ s.poisonSeen t.core t.ctx a.pa n true = false ∧ s.lockedNow f t a n true = false) →
    Memory.wf s.m = true → (∀ l, (s.homeLine l).owner = none) → (∀ c ∈ s.m.copies, c.mask = []) → d + 1 < t.v.length → s.swappedOut t = false →
    let n := if w64 then 8 else 4
    let old := s.homeWord a.pa w64
    let ans (u : Thread) : DWord := if w64 then u.pair d else (u.vget d).zeroExtend 64
    ∀ new, (f.op = .atom a w64 op x d ∧ new = atomBytes w64 op old x) ∨
        (f.op = .atomc a w64 e v d ∧ v.toNat < 2 ^ (8 * n) ∧ new = if old = e then v else old) →
      ∃ s' t', exec (.instructionComplete f.uid) s = .next s' ∧ s'.thread? t.uid = some t' ∧ ans t' = old ∧
        s'.homeWord a.pa w64 = new ∧ (∀ q, q < a.pa ∨ a.pa + n ≤ q → s'.homeByte q = s.homeByte q) ∧
        f ∉ s'.x.flights) ∧
  ∀ (s : State) (f : Flight) (t : Thread) (a : Acc) (op : AtomOp) (w64 : Bool) (x : DWord),
    s.flight? f.uid = some f → s.thread? f.thread = some t → s.plain t → s.swappedOut t = false → f.stalled = none →
    f.op = .red a w64 op x →
    let n := if w64 then 8 else 4
    (f.posted = false → exec (.instructionComplete f.uid) s = .next (s.post f)) ∧
    (f.posted = true → s.accessFirst f = true → s.sameWord f = [f] → a.tag = none → isWindow a.pa = false → a.pa % n = 0 →
      s.lockedNow f t a n true = false → Memory.wf s.m = true → (∀ l, (s.homeLine l).owner = none) →
      (∀ c ∈ s.m.copies, c.mask = []) →
      ∃ s' t', exec (.instructionComplete f.uid) s = .next s' ∧ s'.thread? f.thread = some t' ∧ t'.v = t.v ∧ t'.p = t.p ∧
        s'.homeWord a.pa w64 = atomBytes w64 op (s.homeWord a.pa w64) x ∧
        (∀ q, q < a.pa ∨ a.pa + n ≤ q → s'.homeByte q = s.homeByte q) ∧ ∀ g ∈ s'.x.flights, g.uid ≠ f.uid)

/-- R71, R85, R204: a scratchpad store of a team's own puts its bytes in the team's scratchpad, and no other byte of it changes;
one of 16 bytes puts one of its two pieces there, and keeps the other. A load gives the register the bytes that stand there.
R64, R207: TAGLD gives the register the tag of the sector at home; TAGST sets it, and no other tag. -/
def Obligations.ScratchpadAndTagsComplete : Prop :=
  (∀ (s : State) (f : Flight) (t : Thread) (tm : Team) (off d o x : Nat) (w : Width) (sx : Bool) (bs : List Byte)
    (ps : List (Nat × Nat)) (ea : DWord),
    s.flight? f.uid = some f → s.thread? f.thread = some t → s.plain t → s.teamOf t = some tm → tm.swapped = none →
    f.stalled = none → s.isolates t = false → tm.spoison = [] → swf 0#8 tm.spad = true →
    (f.op = .storeS tm.uid off bs 1 → s.spadReady f tm off bs.length = true → s.sameSpad f = [f] →
      ∃ s' k, exec (.instructionComplete f.uid) s = .next s' ∧ s'.team? tm.uid = some k ∧ s'.m = s.m ∧
        (bs.length ≠ 16 → (∀ g ∈ s'.x.flights, g.uid ≠ f.uid) ∧
          ∀ a, k.spadRead a 1 = if off ≤ a ∧ a < off + bs.length then [bs.getD (a - off) 0#8] else tm.spadRead a 1) ∧
        (bs.length = 16 → ∃ p g, (p = 0 ∨ p = 8) ∧ g ∈ s'.x.flights ∧ g.uid = f.uid ∧
          g.op = .storeS tm.uid (off + (8 - p)) ((bs.drop (8 - p)).take 8) 1 ∧
          ∀ a, k.spadRead a 1 = if off + p ≤ a ∧ a < off + p + 8 then [bs.getD (a - off) 0#8] else tm.spadRead a 1)) ∧
    (f.op = .loadS tm.uid off ea w sx d ps → s.spadReady f tm off (widthBytes w) = true → s.sameSpad f = [f] →
      ∀ r, (widthBytes w ≠ 16 ∧ r = tm.spadRead off (widthBytes w)) ∨
          (widthBytes w = 16 ∧ ps = [(8 - o, x)] ∧ (o = 0 ∨ o = 8) ∧ x < 2 ^ 64 ∧
            r = if o = 0 then tm.spadRead off 8 ++ natBytes 8 x else natBytes 8 x ++ tm.spadRead (off + 8) 8) →
        exec (.instructionComplete f.uid) s = .next ((s.updThread f.thread fun u =>
          (loadRegs w sx d r).foldl (fun u r => u.vset r.1 r.2) u).finish f))) ∧
  ∀ (s : State) (f : Flight) (t : Thread) (a : Acc) (d : Nat) (k : BitVec 4), s.flight? f.uid = some f →
    s.thread? f.thread = some t → s.plain t → s.swappedOut t = false → f.stalled = none → s.accessFirst f = true →
    s.sameWord f = [f] → isStacked a.pa = true → s.isolates t = false → Memory.wf s.m = true →
    (∀ modifies, s.lockedNow f t a.sector 64 modifies = false) →
    (f.op = .tagld a d → s.poisonSeen t.core t.ctx a.pa 1 true = false → exec (.instructionComplete f.uid) s =
      .next ((s.updThread f.thread fun u => u.vset d ((s.tagOf a.pa).zeroExtend 32)).finish f)) ∧
    (f.op = .tagst a k → ∃ s', exec (.instructionComplete f.uid) s = .next s' ∧
      ∀ q, s'.tagOf q = if q / 64 = a.pa / 64 then k else s.tagOf q)

/-- Canonical memory: at reset, and kept by the operations that write DRAM, lines at home and poison; a read after a write
of DRAM gives the byte written and no other byte changes. The form is the model's own (log 1). -/
def Obligations.CanonicalMemory : Prop :=
  Memory.wf State.reset.m = true ∧
  ∀ (s : State), Memory.wf s.m = true →
    (∀ pa b, Memory.wf (s.setDram pa b).m = true ∧
      ∀ q, (s.setDram pa b).dramByte q = if q = pa then b else s.dramByte q) ∧
    (∀ l g, (∀ h, Memory.lineWf h.bytes = true → Memory.lineWf (g h).bytes = true) → Memory.wf (s.updHome l g).m = true) ∧
    (∀ pa p, Memory.wf (s.setPoison pa p).m = true) ∧
    (∀ ctx tensor pa bs bad, Memory.wf (s.writeHome ctx tensor pa bs bad).1.m = true) ∧
    (∀ core ctx tensor atHome pa n, Memory.wf (s.loadCore core ctx tensor atHome pa n).1.m = true) ∧
    (∀ core ctx tensor pa bs, pa % 256 + bs.length ≤ 256 → Memory.wf (s.storeLocal core ctx tensor pa bs).m = true) ∧
    ∀ core ctx tensor pa n g bad, pa % 256 + n ≤ 256 → Memory.wf (s.rmwHome core ctx tensor pa n g bad).1.m = true

/-! Copies, caches, textures, fences, barriers, sections -/

/-- R72, R103, R211, R212, R213, R251: a copy word that its checks admit, with room in the lock table and in the pending
counts, begins a copy of its pieces: it locks its global ranges, counts its scratchpad lines, and keeps its counter raised.
No byte of memory changes. Without room the thread waits at the word (R214); with nothing to copy the word completes at once
(R244).
R102: a copy starts once the earlier accesses of its thread have performed; its core's own bytes of a source range, here
one in one 64 KiB page, go home first. R72, R104, R210: then its next bytes move, up to a sector of them, and nothing else
happens to any byte. R102, R103: when every byte has landed and its homes have passed their write completion times, or a code
has ended it, its ranges unlock, and its counter falls. R214: a thread that waits at a copy word becomes Ready there once there
is room.
R104, R210, R212: what a copy reads at each kind of end, and where the bytes that it writes stand; every other byte is
unchanged. An element stands at its base plus its size times the index of 4 bytes that was read at its place in the list. -/
def Obligations.Copies : Prop :=
  (∀ (s : State) (t : Thread) (c : Ctl) (esz : BitVec 3) (a x : VReg) (dn : DReg) (b : SrcB) (y : Word) (s2t : Bool)
    (i : Instr) (runs : List (VReg × Nat)) (ps : List CopyPiece) (ls : List (DWord × Nat × Bool)) (src : List (DWord × Nat)),
    s.solo c.grd t → s.calm → (∀ u ∈ s.x.threads, u.uid = t.uid → u = t) → t.inBlocks (runs ++ bRuns b 1) = true →
    s.srcI t b = .ok y →
    let p := t.pair a.toNat
    let list := t.pair (a.toNat + 2)
    let q := t.pair x.toNat
    let m := (t.vget x.toNat).toNat
    let es := 2 ^ (esz.toNat + 2)
    let fits (n : Nat) : Prop := n = 0 ∨ ∃ tm, s.teamOf t = some tm ∧ y.toNat + n ≤ tm.ssize
    let elems (n : Nat) (dst : Nat → CopyEnd) : List CopyPiece :=
      (List.range n).map fun k => ⟨.elem p (list + BitVec.ofNat 64 (4 * k)) es 0, dst (es * k), es⟩
    ((p.toNat % 16 = 0 ∧ y.toNat % 16 = 0 ∧ m % 16 = 0 ∧ m ≤ 2 ^ 24 ∧ fits m ∧ runs = [(a, 2), (x, 1)] ∧
        ((i = .cpy c false false 0#3 a b x ∧ ps = (if m = 0 then [] else [⟨.glob p, .spad y.toNat, m⟩]) ∧
            ls = [(p, m, false)] ∧ src = [(p, m)]) ∨
          (i = .cpy c true false 0#3 a b x ∧ ps = (if m = 0 then [] else [⟨.spad y.toNat, .glob p, m⟩]) ∧
            ls = [(p, m, true)] ∧ src = []))) ∨
      (p.toNat % 16 = 0 ∧ q.toNat % 16 = 0 ∧ y.toNat % 16 = 0 ∧ y.toNat ≤ 2 ^ 24 ∧
        (ptrVa p + y.toNat ≤ ptrVa q ∨ ptrVa q + y.toNat ≤ ptrVa p ∨ y.toNat = 0) ∧ runs = [(a, 2), (x, 2)] ∧
        i = .cpyg c false 0#3 a b x ∧ ps = (if y.toNat = 0 then [] else [⟨.glob p, .glob q, y.toNat⟩]) ∧
        ls = [(p, y.toNat, false), (q, y.toNat, true)] ∧ src = [(p, y.toNat)]) ∨
      (list.toNat % 4 = 0 ∧ p.toNat % min es 16 = 0 ∧ esz ≠ 7#3 ∧
        ((m ≤ 65536 ∧ y.toNat % 16 = 0 ∧ fits (es * m) ∧ runs = [(a, 4), (x, 1)] ∧
            i = .cpy c false true esz a b x ∧ ps = elems m (fun o => .spad (y.toNat + o)) ∧ ls = [(list, 4 * m, false)] ∧
            src = [(list, 4 * m)]) ∨
          (y.toNat ≤ 65536 ∧ q.toNat % 16 = 0 ∧ runs = [(a, 4), (x, 2)] ∧
            i = .cpyg c true esz a b x ∧ ps = elems y.toNat (fun o => .glob (q + BitVec.ofNat 64 o)) ∧
            ls = [(list, 4 * y.toNat, false), (q, es * y.toNat, true)] ∧ src = [(list, 4 * y.toNat)]))) ∨
      (∃ tm, s.teamOf t = some tm ∧
        let d := tm.d.getD dn.toNat 0#256
        let pad := tsTile d 0 * tsTile d 1 * tsTile d 2 * tsTile d 3 * 2 ^ descEsize d
        descKind d = 2 ∧ y.toNat % 16 = 0 ∧ fits pad ∧ (s2t = true → descRo d = false) ∧ runs = [(x, 4)] ∧
        i = .cpyt c s2t dn b x ∧ ps = tilePieces d s2t (fun k => (t.vget (x.toNat + k)).toInt) y.toNat ∧
        ls = (match pieceRange ps with
          | some r => [(BitVec.ofNat 64 r.1, r.2 - r.1, s2t)]
          | none => []) ∧
        src = if s2t then [] else ls.map fun l => (l.1, l.2.1))) →
    let room := s.m.locks.length + ls.length ≤ 512 ∧ ∀ tm, s.teamOf t = some tm → ∀ l ∈ pieceLines ps, tm.pendOf l < 15
    (ps = [] → exec i s = .next (s.launchFlight t c (.write [] []))) ∧
    (ps ≠ [] → ¬room → exec i s =
      .next (s.updThread t.uid fun u => { u with status := .copyWait ls.length (pieceLines ps), mid := true })) ∧
    (ps ≠ [] → room → ∃ s' k f, exec i s = .next s' ∧ s'.e.copies = s.e.copies ++ [k] ∧ s'.x.flights = s.x.flights ++ [f] ∧
      k.pieces = ps ∧ k.thread = t.uid ∧ k.ctx = t.ctx ∧ k.core = t.core ∧ k.team = t.team ∧ k.begun = false ∧ k.src = src ∧
      k.lines = pieceLines ps ∧ k.flight = f.uid ∧ f.op = .copyEnd k.uid ∧ f.thread = t.uid ∧
      f.qc = (if c.qe then some c.qc.toNat else none) ∧
      s'.m = { s.m with locks := s.m.locks ++ ls.map fun l =>
        ⟨k.uid, t.ctx, ptrVa l.1 / 64 * 64, (ptrVa l.1 + l.2.1 + 63) / 64 * 64, l.2.2⟩ } ∧
      ∀ tm, s.teamOf t = some tm → ∃ tm', s'.team? tm.uid = some tm' ∧
        ∀ l, tm'.pendOf l = tm.pendOf l + if l ∈ pieceLines ps then 1 else 0)) ∧
  (∀ (s : State) (k : CopyJob) (f : Flight), (s.e.copies.find? fun j => j.uid == k.uid) = some k →
    s.flight? k.flight = some f → f.uid = k.flight →
    let early := s.x.flights.any fun g => g.thread == k.thread && decide (g.uid < k.flight) && (!g.op.ranges.isEmpty || g.op.spad)
    (∀ p rest, k.failed = none → k.stalled = none → k.pieces = p :: rest →
      (k.begun = false → early = true → exec (.copyLineLands k.uid) s = .next s) ∧
      (k.begun = false → early = false → (∀ r ∈ k.pieces, ∀ b l z o, r.src ≠ .elem b l z o) →
        ∃ s' j, exec (.copyLineLands k.uid) s = .next s' ∧ (s'.e.copies.find? fun j => j.uid == k.uid) = some j ∧
          j.begun = true ∧ j.pieces = k.pieces ∧
          (∀ p n pa x s1, k.src = [(p, n)] → ptrVa p % 65536 + n ≤ 65536 → 0 < n →
            s.translate k.core none k.ctx (ptrVa p) false = (s1, .ok (pa, x)) →
            Memory.wf s.m = true → (∀ l, (s.homeLine l).owner = none) → s.oneCopy →
            ∀ q, s'.homeByte q = if pa ≤ q ∧ q < pa + n then (s.maskedAt k.core k.ctx q).getD (s.homeByte q) else s.homeByte q)) ∧
      (k.begun = true → s.passedAt (coreDie k.core) k.wait = true →
        ∀ s1 s2 bs poison w, s.copyRead k p.src (chunk p) = (s1, .ok (bs, poison)) →
        s1.copyWrite k p.dst bs (poison || k.bad.contains p.dst.sector) = (s2, .ok w) → (∀ l, (s2.homeLine l).owner = none) → Memory.wf s2.m = true →
        s2.e.copies = s.e.copies →
        ∃ s' j, exec (.copyLineLands k.uid) s = .next s' ∧ (s'.e.copies.find? fun j => j.uid == k.uid) = some j ∧
          j.pieces = (if p.len ≤ chunk p then rest else ⟨p.src.skip (chunk p), p.dst.skip (chunk p), p.len - chunk p⟩ :: rest) ∧
          j.wct = wctJoin k.wct w ∧ (∀ q, s'.homeByte q = s2.homeByte q) ∧
          ∀ u tm, s2.team? u = some tm → ∃ tm', s'.team? u = some tm' ∧ tm'.spad = tm.spad)) ∧
    (k.failed = none → (k.pieces ≠ [] ∨ s.homesPassed k.wct = false) → exec (.copyComplete k.uid) s = .next s) ∧
    (k.failed = none → k.pieces = [] → k.lines = [] → s.homesPassed k.wct = true →
      ∃ s' : State, exec (.copyComplete k.uid) s = .next (s'.finish f) ∧
        s'.m = { s.m with locks := s.m.locks.filter fun l => l.owner != k.uid } ∧
        s'.e.copies = (s.e.copies.filter fun j => j.uid != k.uid) ∧ s'.x = s.x) ∧
    (∀ z, k.failed = some z → ∃ s' : State, exec (.copyComplete k.uid) s = .next ((s'.finish f).raiseAt k.thread f.site z) ∧
        s'.m.locks = (s.m.locks.filter fun l => l.owner != k.uid) ∧
        s'.e.copies = (s.e.copies.filter fun j => j.uid != k.uid) ∧ s'.x.flights = s.x.flights) ∧
    ∀ t n ls, s.thread? t.uid = some t → t.status = .copyWait n ls → exec (.copyRoom t.uid) s =
      .next (if s.m.locks.length + n ≤ 512 ∧ ∀ tm, s.teamOf t = some tm → ∀ l ∈ ls, tm.pendOf l < 15 then
        s.updThread t.uid fun u => { u with status := .boundary } else s)) ∧
  ∀ (s : State) (k : CopyJob) (t : Thread) (n : Nat), s.thread? k.thread = some t → s.isolates t = false →
    (∀ tm, s.teamOf t = some tm → tm.isolated = []) → 0 < n → n ≤ 64 → Memory.wf s.m = true →
    (∀ l, (s.homeLine l).owner = none) →
    (∀ b, s.copyRead k (.fill b) n = (s, .ok (b.take n, false))) ∧
    (∀ o u tm, k.team = some u → s.team? u = some tm →
      s.copyRead k (.spad o) n = (s, .ok (tm.spadRead o n, tm.spadPoison o n)) ∧
      ∀ bs bad, swf 0#8 tm.spad = true → ∃ s2 tm', s.copyWrite k (.spad o) bs bad = (s2, .ok []) ∧ s2.team? u = some tm' ∧ s2.m = s.m ∧
        ∀ x, tm'.spadRead x 1 = if o ≤ x ∧ x < o + bs.length then [bs.getD (x - o) 0#8] else tm.spadRead x 1) ∧
    (∀ a pa s1, s.engCheck k.core k.ctx a n false k.tensor = (s1, .ok [(pa, n)]) → isWindow pa = false →
      ∃ s2 bad, s.copyRead k (.glob a) n = (s2, .ok (s.homeBytes pa n, bad)) ∧ ∀ q, s2.homeByte q = s.homeByte q) ∧
    (∀ base list size off s2 ix, s.engLoad k.core k.ctx k.tensor list 4 = (s2, .ok ix) →
      (∀ pl s1, s.engCheck k.core k.ctx list 4 false k.tensor = (s1, .ok [(pl, 4)]) → isWindow pl = false →
        ix.1 = s.homeBytes pl 4 ∧ ∀ q, s2.homeByte q = s.homeByte q) ∧
      ∀ pa s3, s2.engCheck k.core k.ctx (base + BitVec.ofNat 64 (leNat ix.1 * size + off)) n false k.tensor =
          (s3, .ok [(pa, n)]) → isWindow pa = false → (∀ q, s2.homeByte q = s.homeByte q) →
        ∃ s4 bad, s.copyRead k (.elem base list size off) n = (s4, .ok (s.homeBytes pa n, bad)) ∧
          ∀ q, s4.homeByte q = s.homeByte q) ∧
    ∀ a bs bad pa s1, bs.length = n → s.engCheck k.core k.ctx a n true k.tensor = (s1, .ok [(pa, n)]) → isWindow pa = false →
      ∃ s2 w, s.copyWrite k (.glob a) bs bad = (s2, .ok w) ∧
        ∀ q, s2.homeByte q = if pa ≤ q ∧ q < pa + n then bs.getD (q - pa) 0#8 else s.homeByte q

/-- R215, R216, R230, R231: DISCT, the CACHEOPs, the FENCEs and TIME go in flight in every thread that they act on; DISCT of
an identifier that is 0 or above 4095 raises ILLEGAL_OPERAND.
R93, R94: an acquire completes once the earlier loads of its thread have; a release of level 2 or wider, once its accesses
are done, sends home every masked byte of its context on its core, and no other byte changes; it completes then, or once device
time on its die has passed the write completion times, with the skew between each home and its die (R91); one of level 0 or 1 completes at once; AR does both, and REF drops the clean bytes of its
context's leased lines. R231: TIME gives device time.
R78: DISCT drops the lines of its context that carry its identifier without writing them back. R216: CACHEOP WB and WBINV
send home the masked bytes that the core holds of the lines that a range touches, here in one 64 KiB page, and no other byte
changes; WBINV drops those lines; ICINV drops the context's decoded words of them, and the clean bytes that cores hold of them.
Of no length, or with an ill-formed pointer, a CACHEOP does nothing. -/
def Obligations.Fences : Prop :=
  (∀ (s : State) (c : Ctl) (d a : VReg) (b : SrcB) (sc : BitVec 3), s.calm → s.canRead c.grd b →
    (s.regsFit c.grd ((a, 2) :: bRuns b 1) →
      exec (.cacheopWb c a b) s =
        .next (s.launchEach c fun t => .cacheop 0 (t.pair a.toNat) (s.valI t b).toNat false) ∧
      exec (.cacheopWbinv c a b) s =
        .next (s.launchEach c fun t => .cacheop 1 (t.pair a.toNat) (s.valI t b).toNat false) ∧
      exec (.cacheopIcinv c a b) s =
        .next (s.launchEach c fun t => .cacheop 2 (t.pair a.toNat) (s.valI t b).toNat false)) ∧
    exec (.fenceAcq c sc) s = .next (s.launchEach c fun _ => .fence 0#2 sc.toNat false) ∧
    exec (.fenceRel c sc) s = .next (s.launchEach c fun _ => .fence 1#2 sc.toNat false) ∧
    exec (.fenceAr c sc) s = .next (s.launchEach c fun _ => .fence 2#2 sc.toNat false) ∧
    exec (.fenceRef c sc) s = .next (s.launchEach c fun _ => .fence 3#2 sc.toNat false) ∧
    (s.regsFit c.grd [(d, 2)] → exec (.time c d) s = .next (s.launchEach c fun _ => .time d.toNat)) ∧
    (s.regsFit c.grd (bRuns b 1) →
      ((∀ t ∈ s.x.threads, s.active c.grd t = true → 0 < (s.valI t b).toNat ∧ (s.valI t b).toNat < 4096) →
        exec (.disct c b) s = .next (s.launchEach c fun t => .disct ((s.valI t b).extractLsb' 0 12))) ∧
      ∀ t, s.solo c.grd t → s.quiet t → ((s.valI t b).toNat = 0 ∨ 4096 ≤ (s.valI t b).toNat) →
        ∃ s' t' r, exec (.disct c b) s = .next s' ∧ s'.thread? t.uid = some t' ∧ t'.v = t.v ∧ t'.trap = some r ∧
          reportCode r.report = Code.val .illegalOperand ∧ s'.x.flights = [])) ∧
  (∀ (s : State) (f : Flight) (t : Thread), s.flight? f.uid = some f → s.thread? f.thread = some t → s.swappedOut t = false →
    f.stalled = none →
    let acquired := (s.earlier f).all fun g => !(g.op.acquired && g.busy)
    (∀ sc b, f.op = .fence 0#2 sc b → exec (.instructionComplete f.uid) s = .next (if acquired then s.finish f else s)) ∧
    (∀ sc b, f.op = .fence 3#2 sc b → acquired = true →
      ∃ s' : State, exec (.instructionComplete f.uid) s = .next (s'.finish f) ∧ (∀ q, s'.homeByte q = s.homeByte q) ∧
        (∀ k ∈ s'.m.copies, k.place = .l1 t.core → k.ctx = t.ctx → k.own = none → k.sectors = []) ∧
        (∀ k ∈ s.m.copies, k.place = .l1 t.core → k.mask ≠ [] → ∃ j ∈ s'.m.copies, j.place = k.place ∧ j.line = k.line ∧
          j.ctx = k.ctx ∧ j.mask = k.mask) ∧ s'.x = s.x) ∧
    (∀ kind sc, (kind = 1#2 ∨ (kind = 2#2 ∧ acquired = true)) → f.op = .fence kind sc false → s.accessesDone f sc = true →
      (sc < 2 → exec (.instructionComplete f.uid) s = .next (s.finish f)) ∧
      (2 ≤ sc → ∃ s', exec (.instructionComplete f.uid) s = .next s' ∧
        (∀ k ∈ s'.m.copies, k.place = .l1 t.core → k.ctx = t.ctx → k.mask = []) ∧
        (Memory.wf s.m = true → (∀ l, (s.homeLine l).owner = none) → s.oneCopy →
          ∀ q, s'.homeByte q = (s.maskedAt t.core t.ctx q).getD (s.homeByte q)) ∧
        ((∀ g ∈ s'.x.flights, g.uid ≠ f.uid) ∨ ∃ g ∈ s'.x.flights, g.uid = f.uid ∧ g.op = .fence kind sc true ∧
            s.passed t g.wait = false))) ∧
    (∀ kind sc, (kind = 1#2 ∨ kind = 2#2) → f.op = .fence kind sc true →
      ((∃ e ∈ f.wait, s.now (coreDie t.core) ≤ e.2 + s.skew e.1 (coreDie t.core)) →
        exec (.instructionComplete f.uid) s = .next s) ∧
      ((∀ e ∈ f.wait, e.2 + s.skew e.1 (coreDie t.core) < s.now (coreDie t.core)) →
        exec (.instructionComplete f.uid) s = .next (s.finish f))) ∧
    ∀ d, f.op = .time d → (s.earlier f).all (fun g => !g.busy) = true → exec (.instructionComplete f.uid) s =
      .next ((s.updThread t.uid fun u => u.setPair d (BitVec.ofNat 64 (s.now (coreDie t.core)))).finish f)) ∧
  ∀ (s : State) (f : Flight) (t : Thread), s.flight? f.uid = some f → s.thread? f.thread = some t → s.swappedOut t = false →
    f.stalled = none →
    (∀ id, f.op = .disct id → s.isolates t = false →
      ∃ s', exec (.instructionComplete f.uid) s = .next s' ∧ s'.m.dram = s.m.dram ∧
        s'.m.copies = (s.m.copies.filter fun k => !(k.ctx == t.ctx && k.tensor == id)) ∧ (∀ g ∈ s'.x.flights, g.uid ≠ f.uid) ∧
        ∀ l, Memory.wf s.m = true → (s.homeLine l).ctx = some t.ctx → (s.homeLine l).tensor = id → id ≠ 0#12 →
          (s'.homeLine l).bytes = []) ∧
    ∀ op va len b, f.op = .cacheop op va len b →
      let lo := ptrVa va / 256 * 256
      let n := min (2 ^ 48) ((ptrVa va + len + 255) / 256 * 256) - lo
      ((len = 0 ∨ ptrOk va = false) → exec (.instructionComplete f.uid) s = .next (s.finish f)) ∧
      (0 < len → ptrOk va = true → lo % 65536 + n ≤ 65536 → Memory.wf s.m = true → (∀ l, (s.homeLine l).owner = none) →
        s.oneCopy → ∀ s0 pa x s1, s0.translate t.core none t.ctx lo false = (s1, .ok (pa, x)) →
        (op = 0 → s0 = s → ∃ s', exec (.instructionComplete f.uid) s = .next s' ∧ (∀ g ∈ s'.x.flights, g.uid ≠ f.uid) ∧
          (∀ k ∈ s'.m.copies, k.place = .l1 t.core → k.ctx = t.ctx → ∀ o, pa ≤ 256 * k.line + o → 256 * k.line + o < pa + n →
            sget k.mask o = none) ∧
          ∀ q, s'.homeByte q =
            if pa ≤ q ∧ q < pa + n then (s.maskedAt t.core t.ctx q).getD (s.homeByte q) else s.homeByte q) ∧
        (op = 1 → s0 = s → ∃ s2 : State, exec (.instructionComplete f.uid) s = .next ((s2.dropOwn t.core t.ctx lo n).finish f) ∧
          (∀ q, s2.homeByte q =
            if pa ≤ q ∧ q < pa + n then (s.maskedAt t.core t.ctx q).getD (s.homeByte q) else s.homeByte q) ∧
          ∀ pb y s3, s2.translate t.core none t.ctx lo false = (s3, .ok (pb, y)) →
            ∀ k ∈ (s2.dropOwn t.core t.ctx lo n).m.copies, k.place = .l1 t.core → k.ctx = t.ctx →
              256 * k.line + 256 ≤ pb ∨ pb + n ≤ 256 * k.line) ∧
        (op = 2 →
          s0 = { s with m := { s.m with fetched := s.m.fetched.filter fun w =>
            !(w.ctx == t.ctx && decide (lo ≤ w.addr) && decide (w.addr < lo + n)) } } → ∃ s', exec (.instructionComplete f.uid) s = .next s' ∧ (∀ g ∈ s'.x.flights, g.uid ≠ f.uid) ∧
          s'.m.fetched = (s.m.fetched.filter fun w => !(w.ctx == t.ctx && decide (lo ≤ w.addr) && decide (w.addr < lo + n))) ∧
          (∀ k ∈ s'.m.copies, ∀ c, k.place = .l1 c → k.ctx = t.ctx → k.own = none →
            pa < 256 * k.line + 256 → 256 * k.line < pa + n → k.sectors = []) ∧
          ∀ q, s'.homeByte q = s.homeByte q))

/-- R222: TEXF reads the texel that its coordinates name, and gives zeros outside the level; SURFST
stores the encoded texel there, and nothing outside it. The texture is the one that the header at the descriptor gives.
R219, R220, R221: TEXS and TEXL of coordinates that are not finite give NaN four times; otherwise they read
the texels that the filter names, with the weights of the blend, at the level that the gradients or the operand select.
R85, R221, R222, R267, R271, R272, R273: what reads a node or texels reads their pieces of 8 bytes one by one, in no order (here
of one part), and with every piece read writes its run of registers: a blend of the texels, a texel's channels, or what BOXT,
TRIT and XFORM make of the node. -/
def Obligations.Textures : Prop :=
  (∀ (s s1 s2 : State) (t : Thread) (c : Ctl) (d a b : VReg) (dn : DReg) (r : BitVec 256) (x : Tex) (wl hl o : Nat)
    (part : ReadPart) (acc : Acc), s.solo c.grd t → s.calm → s.plain t → t.inBlocks [(d, 4), (a, 3), (b, 4)] = true →
    s.texDesc t dn = .ok r → s1.calm → (∀ k, s.texHead t r k = k s1 x) →
    let px := (t.vget a.toNat).toNat
    let py := (t.vget (a.toNat + 1)).toNat
    let l := (t.vget (a.toNat + 2)).toNat
    let n := texelBytes x.fmt
    let at_ := x.pos l px py
    (x.levels[l]? = none →
      exec (.texf c d a dn) s = .next (s1.launchFlight t c
        (.sampled [(d.toNat, 0#32), (d.toNat + 1, 0#32), (d.toNat + 2, 0#32), (d.toNat + 3, 0#32)] (texSectors r))) ∧
      exec (.surfst c a b dn) s = .next s1) ∧
    (x.levels[l]? = some (wl, hl, o) →
    (wl ≤ px ∨ hl ≤ py →
      exec (.texf c d a dn) s = .next (s1.launchFlight t c
        (.sampled [(d.toNat, 0#32), (d.toNat + 1, 0#32), (d.toNat + 2, 0#32), (d.toNat + 3, 0#32)] (texSectors r))) ∧
      exec (.surfst c a b dn) s = .next s1) ∧
    (px < wl → py < hl →
      (s2.calm → (∀ k, s1.texPart t r at_ n k = k s2 part) →
        exec (.texf c d a dn) s = .next (s2.texFlight t c (.texel x.fmt) d.toNat [part] (texSectors r))) ∧
      (at_ + n ≤ descExtent r → descRo r = false →
        s1.checked t (descBase r + BitVec.ofNat 64 at_) n true false (descTensor r) 1 s2 acc →
        let ws := texelEncode x.fmt (t.run b.toNat 4)
        exec (.surfst c a b dn) s = .next (((s2.recordStore t acc ws).streamAdd t s2.x.nextUid
          (descBase r + BitVec.ofNat 64 at_) n ws).launchFlight t c (.store acc ws)))))) ∧
  (∀ (s s1 s2 : State) (t : Thread) (c : Ctl) (d a : VReg) (b : SrcB) (y : Word) (dn : DReg) (r : BitVec 256) (x : Tex)
    (parts : List ReadPart) (i : Instr) (n : Nat) (lam : Tex → List Rat → Rat), s.solo c.grd t → s.calm → s.plain t →
    ((i = .texs c d a b dn ∧ n = 6 ∧ lam = gradLevel) ∨
      (i = .texl c d a b dn ∧ n = 3 ∧ lam = fun _ vs => round8 (vs.getD 2 0))) →
    t.inBlocks ([(d, 4), (a, n)] ++ bRuns b 1) = true → s.srcI t b = .ok y → y.toNat < 64 →
    y.toNat % 4 ≠ 3 → y.toNat / 4 % 4 ≠ 3 → y.toNat / 16 % 4 ≠ 3 →
    s.texDesc t dn = .ok r → s1.calm → (∀ k, s.texHead t r k = k s1 x) →
    let ns := (List.range n).map fun k => fp32 (t.vget (a.toNat + k))
    let vs := ns.map Num.toRat
    let q := max 0 (min (lam x vs) ((x.levels.length - 1 : Nat) : Rat))
    let near (l : Nat) (scale : Rat) (filter : Nat) := levelTexels x l filter (y.toNat / 4 % 4) (y.toNat / 16 % 4) (vs.getD 0 0)
      (vs.getD 1 0) scale
    let ts := if y.toNat % 4 = 2 then near q.floor.toNat (1 - (q - (q.floor.toNat : Rat))) 1 ++
        near (min (q.floor.toNat + 1) (x.levels.length - 1)) (q - (q.floor.toNat : Rat)) 1
      else near (q + 1 / 2).floor.toNat 1 (y.toNat % 4)
    ((∃ v ∈ ns, v.isNan = true ∨ v.isInf = true) → exec i s = .next (s1.launchFlight t c (.sampled [(d.toNat, 0x7FC00000#32),
      (d.toNat + 1, 0x7FC00000#32), (d.toNat + 2, 0x7FC00000#32), (d.toNat + 3, 0x7FC00000#32)] (texSectors r)))) ∧
    ((∀ v ∈ ns, v.isNan = false ∧ v.isInf = false) → s2.calm →
      (∀ k, texParts t r (texelBytes x.fmt) s1 (ts.map Prod.fst) k = k s2 parts) →
      exec i s = .next (s2.texFlight t c (.blend x.fmt (ts.map Prod.snd)) d.toNat parts (texSectors r)))) ∧
  ∀ (s : State) (f : Flight) (t : Thread) (what : Gathered) (d : Nat) (parts : List ReadPart) (head : List Nat),
    s.flight? f.uid = some f → s.thread? f.thread = some t → s.swappedOut t = false → f.stalled = none →
    f.op = .gather what d parts head →
    let bs := parts.map ReadPart.bytes
    (parts.all ReadPart.full = true → ∃ ws : List Word,
      exec (.instructionComplete f.uid) s = .next (((if what.texels then
          parts.foldl (fun s p => match p.acc with
            | some a => s.fillPre f.thread a.va p.bytes
            | none => s) s
        else s).updThread f.thread fun u => ws.zipIdx.foldl (fun u p => u.vset (d + p.2) p.1) u).finish f) ∧
      (∀ fmt wts, what = .blend fmt wts → ws = blend fmt wts bs) ∧
      (∀ fmt, what = .texel fmt → ws = (texelNums fmt bs.flatten).map toFp32) ∧
      (∀ r, what = .box r → ws = boxWords r bs.flatten) ∧
      (∀ cb cf r, what = .tri cb cf r → ws = tritWords (triHit r bs.flatten cb cf 0)) ∧
      (∀ r, what = .xform r → ws = xformRay r (recNum bs.flatten))) ∧
    ∀ p a, parts = [p] → p.acc = some a → p.full = false → p.left ≠ [] → s.accessFirst f = true → s.sameWord f = [f] →
      s.lockedNow f t a p.len false = false →
      ∃ m o, (a.pa + o, o) ∈ p.left ∧
        let r := { s with freeCtr := m }.readAcc t a o (min 8 (p.len - o))
        (a.refused r.2.tag = false → r.2.poison = false → exec (.instructionComplete f.uid) s =
          .next (r.1.updFlight f.uid fun g =>
            { g with op := .gather what d [{ p with got := p.got ++ [(o, leNat r.2.bytes)] }] head }))

/-- R32, R232, R233: the last thread to arrive at a barrier completes it: it goes on, and so does every other thread of the
team, cluster or grid that is held there, past its own word; at a team barrier the W writes become visible, the highest
thread index last. A thread that arrives at a team barrier before another of its team is held there. -/
def Obligations.Barriers : Prop :=
  ∀ (s : State) (t : Thread) (tm : Team) (c : Ctl) (n : BitVec 4) (b : SrcB), s.solo c.grd t → s.calm →
    s.teamOf t = some tm → tm.shadowOf = none → (s.x.threads.map Thread.uid).Nodup → (s.x.teams.map Team.uid).Nodup →
    (∀ f ∈ s.x.flights, f.thread ≠ t.uid ∧ f.uid < s.x.nextUid ∧ f.posted = false) → s.det t = false →
    ((s.x.flights.filter fun f => match f.op with | .bar _ _ => true | _ => false).map Flight.thread).Nodup →
    t.inBlocks (bRuns b 1) = true → s.srcI t b = .ok 0#32 → t.wct = [] →
    (∀ k ∈ s.m.copies, k.ctx = t.ctx → k.mask = []) →
    let live (p : Team → Bool) : List Thread :=
      s.x.threads.filter fun u => u.status != .exited && s.x.teams.any fun k => u.team == some k.uid && p k
    let held (h : Hold) (p : Team → Bool) : Prop :=
      ∀ u ∈ live p, u.uid ≠ t.uid → u.atBar = some h ∧ s.arrived u = true
    let goes (s' : State) (p : Team → Bool) : Prop :=
      (∃ t', s'.thread? t.uid = some t' ∧ t'.status = .issued ∧ t'.v = t.v ∧ t'.pc = t.pc) ∧
      ∀ u ∈ live p, u.uid ≠ t.uid → ∃ u', s'.thread? u.uid = some u' ∧ u'.status = .boundary ∧ u'.pc = u.past.pc ∧ u'.v = u.v
    let own (k : Team) : Bool := k.uid == tm.uid
    let cluster (k : Team) : Bool := k.launch == tm.launch && k.cluster == tm.cluster && k.shadowOf.isNone
    let grid (k : Team) : Bool := k.launch == t.launch && k.shadowOf.isNone
    (held (.bar n.toNat 0) own → ∃ s' k, exec (.bar c n b) s = .next s' ∧ goes s' own ∧ s'.team? tm.uid = some k ∧
      ∀ i v u, u ∈ live own → (∀ w ∈ live own, srising w.wown = true) → i < tm.w.length → sget u.wown i = some v →
        (∀ w ∈ live own, w.uid ≠ u.uid → sget w.wown i ≠ none → w.tix < u.tix) → k.w.getD i 0#32 = v) ∧
    ((∃ u ∈ live own, u.uid ≠ t.uid ∧ u.atBar = none) →
      (∀ u ∈ live own, ∀ k, u.atBar = some (.bar n.toNat k) → k = 0) →
      ∃ s' t' f, exec (.bar c n b) s = .next s' ∧ s'.thread? t.uid = some t' ∧ t'.status = .held (.bar n.toNat 0) ∧
        t'.v = t.v ∧ t'.pc = t.pc ∧ f ∈ s'.x.flights ∧ f.thread = t.uid ∧ ∃ q, f.op = .bar (.bar n.toNat 0) q) ∧
    (held .barc cluster → ∃ s', exec (.barc c) s = .next s' ∧ goes s' cluster) ∧
    (∀ l, s.launch? t.launch = some l → lrCoop l.record = true → l.placed = l.clusters → tm.launch = t.launch →
      held .barg grid → ∃ s', exec (.barg c) s = .next s' ∧ goes s' grid)

/-- R105, R236, R237, R238: OSENTER grants the section at once when its sequence is NEXT and the key is free, and otherwise
parks the thread among the key's waiters; when it completes `P[d]` takes POISON. OSLEAVE and OSABORT of a key that the
thread holds go in flight; their release work of level 5 takes every byte
of the context that the core holds to its place at home, and no other byte changes; past its write completion times NEXT rises, OSABORT sets
POISON, and the waiter whose sequence is NEXT is granted, if there is one. OSSTAT reads the entry into its pair, and CLRP clears
the POISON of a key that is not held. OSLEAVE and OSABORT of a key that the thread does not hold raise OS_NOT_HELD; OSENTER of one
that it holds raises ILLEGAL_OPERAND, and of a fifth section OS_CAPACITY; nothing else happens. -/
def Obligations.OrderedSections : Prop :=
  ∀ (s s1 : State) (t : Thread) (c : Ctl) (d : PReg) (dv a : VReg) (b : SrcB) (y : Word) (e : KeyEntry) (clrp : Bool),
    s.solo c.grd t → s.calm → t.isReplay = false → s.inShadow t = none → (∀ u ∈ s.x.threads, u.uid = t.uid → u = t) →
    t.inBlocks ((dv, 2) :: (a, 2) :: bRuns b 1) = true → s.srcI t b = .ok y → (∀ f ∈ s.x.flights, f.uid < s.x.nextUid) →
    let key := t.pair a.toNat
    (t.holds key = false → t.secs.length < 4 → s.bringKey t.core t.launch t.ctx key = some (s1, e) →
      e.is t.launch key = true → s1.x = s.x → (∀ w ∈ e.waiters, w.1 < s.x.nextUid) →
      (e.held = false → e.next = y → (∀ w ∈ e.waiters, w.2.1 ≠ y) →
        ∃ s' t' f k, exec (.osenter c d a b) s = .next s' ∧ s'.thread? t.uid = some t' ∧ t'.status = t.status ∧ t'.v = t.v ∧
          t'.secs = t.secs ++ [⟨key, y, e.poison, []⟩] ∧ f ∈ s'.x.flights ∧ f.thread = t.uid ∧
          f.op = .osenter key y d.toNat true ∧ s'.keyEntry t.launch key = some k ∧ k.held = true ∧
          k.holder = some t.uid ∧ k.next = y ∧ k.waiters = e.waiters) ∧
      ((e.held = true ∨ e.next ≠ y) → (∀ w ∈ e.waiters, w.2.1 ≠ e.next) →
        ∃ s' t' f k, exec (.osenter c d a b) s = .next s' ∧ s'.thread? t.uid = some t' ∧ t'.status = .parkedSec ∧
          t'.v = t.v ∧ t'.secs = t.secs ∧ f ∈ s'.x.flights ∧ f.thread = t.uid ∧ f.op = .osenter key y d.toNat false ∧
          s'.keyEntry t.launch key = some k ∧ k.waiters = e.waiters ++ [(f.uid, y, s.now (coreDie t.core))] ∧
          k.next = e.next)) ∧
    (t.holds key = true →
      let s2 := if t.hasPre key then s.emitLater t.uid s.x.nextUid else s
      exec (.osleave c a) s = .next (s2.launchFlight t c (.osend key false false)) ∧
      exec (.osabort c a) s = .next (s2.launchFlight t c (.osend key true false))) ∧
    exec (.osstat c clrp dv a) s = .next (s.launchFlight t c (.osstat key clrp dv.toNat)) ∧
    (s.quiet t → ∀ i k, ((t.holds key = false ∧ i ∈ [Instr.osleave c a, .osabort c a] ∧ k = Code.osNotHeld) ∨
        (t.holds key = true ∧ i = .osenter c d a b ∧ k = .illegalOperand) ∨
        (t.holds key = false ∧ 4 ≤ t.secs.length ∧ i = .osenter c d a b ∧ k = .osCapacity)) →
      ∃ s' t' r, exec i s = .next s' ∧ s'.thread? t.uid = some t' ∧ t'.v = t.v ∧ t'.secs = t.secs ∧ t'.pc = t.pc ∧
        t'.trap = some r ∧ reportCode r.report = k.val ∧ s'.y = s.y ∧ s'.x.flights = []) ∧
    ∀ f, s.flight? f.uid = some f → f.thread = t.uid → s.swappedOut t = false → f.stalled = none →
      (∀ k p, f.op = .osenter k p d.toNat true → d ≠ 63#6 → s.acquireDone f = true →
        exec (.instructionComplete f.uid) s = .next ((s.finish f).updThread t.uid fun u =>
          let u := u.pset d.toNat (((t.secs.find? fun h => h.key == k).map HeldSec.poisoned).getD false)
          if t.status = .parkedSec then u.past else u)) ∧
      (∀ k abort, f.op = .osend k abort false → s.accessesDone f 5 = true →
        let r := (s.recordPre t.uid f.uid k).releaseWork t 5
        exec (.instructionComplete f.uid) s =
          .next (r.1.updFlight f.uid fun g => { g with op := .osend k abort true, wait := r.2 }) ∧
        (∀ j ∈ r.1.m.copies, j.place = .l1 t.core → j.ctx = t.ctx → j.mask = []) ∧
        (t.hasPre k = false → Memory.wf s.m = true → (∀ l, (s.homeLine l).owner = none) → s.oneCopy →
          ∀ q, r.1.homeByte q = (s.maskedAt t.core t.ctx q).getD (s.homeByte q))) ∧
      (∀ k abort, f.op = .osend k abort true → s.passed t f.wait = true →
        s.keyEntry t.launch k = some e → e.holder = some t.uid → e.is t.launch k = true →
        (∀ w ∈ e.waiters, ∀ g, s.flight? w.1 = some g → g.thread ≠ t.uid) →
        ∃ s', exec (.instructionComplete f.uid) s = .next s' ∧ (∀ h ∈ s'.x.flights, h.uid ≠ f.uid) ∧
          (∃ t', s'.thread? t.uid = some t' ∧ t'.holds k = false ∧ t'.v = t.v) ∧
          ((∀ w ∈ e.waiters, w.2.1 ≠ e.next + 1#32) → ∀ g, s'.keyEntry t.launch k = some g →
            g.next = e.next + 1#32 ∧ g.held = false ∧ g.poison = (e.poison || abort) ∧ g.waiters = e.waiters) ∧
          ∀ w g p, (e.waiters.find? fun w => w.2.1 == e.next + 1#32) = some w → s.flight? w.1 = some g → g.uid ≠ f.uid →
            g.op = .osenter k (e.next + 1#32) p false →
            (∃ g', s'.flight? w.1 = some g' ∧ g'.op = .osenter k (e.next + 1#32) p true) ∧
            (∀ u, s.thread? g.thread = some u → ∃ u', s'.thread? g.thread = some u' ∧
              u'.secs = u.secs ++ [⟨k, e.next + 1#32, e.poison || abort, []⟩]) ∧
            ∃ j, s'.keyEntry t.launch k = some j ∧ j.held = true ∧ j.holder = some g.thread ∧ j.next = e.next + 1#32 ∧
              j.poison = (e.poison || abort) ∧ j.waiters = e.waiters.filter fun x => x.1 != w.1) ∧
      ∀ k, f.op = .osstat k clrp dv.toNat → (∀ x ∈ s.y.backing, x.is t.launch k = false) →
        let r := (s.keyEntry t.launch k).getD (KeyEntry.fresh t.launch t.ctx k)
        let s2 := s.updThread t.uid fun u => (u.vset dv.toNat r.next).vset (dv.toNat + 1)
          (BitVec.ofNat 32 ((if r.held then 1 else 0) + (if r.poison then 2 else 0) + (if r.holder = some t.uid then 4 else 0) +
            65536 * min r.waiters.length 65535))
        exec (.instructionComplete f.uid) s = .next
          ((if clrp = true ∧ r.held = false ∧ r.poison = true then s2.putKey { r with poison := false } else s2).finish f)

/-- R239, R240, R241, R242: LAUNCH of a record that the checks admit goes in flight, with the access of each page of it; past
its release it reads the record piece by piece, and in the end the record enters the queue of its context; AMSEND with legal operands sends its payload of at most 256 bytes to the
queue of a core, and completes when every AMDONE of its handler group has; AMDONE of a message handler goes in flight once, and
takes its part from the message. -/
def Obligations.WorkCreation : Prop :=
  ∀ (s s1 s2 : State) (t : Thread) (c : Ctl) (a : VReg) (b : SrcB) (y : Word) (acc acc' : Acc), s.solo c.grd t → s.calm →
    s.inShadow t = none → s.srcI t b = .ok y →
    let p := t.pair a.toNat
    let cut := 65536 - ptrVa p % 65536
    let whole (u : State) (k : Acc) (n : Nat) : Prop := u.hostDown k.pa = false ∧
      ∀ j ∈ sectorsOf k.pa n, u.poisonSeen t.core t.ctx (64 * j) 64 true = false
    (t.inBlocks ((a, 2) :: bRuns b 1) = true → y.toNat ≤ 15 → p.toNat % 64 = 0 →
      (512 ≤ cut → s.threadCheck t p 512 false true 0#12 5 = (s1, .go acc) → whole s1 acc 512 →
        exec (.launch c a b) s = .next (s1.launchFlight t c (.launch [⟨some acc, 512, []⟩] y.toNat false))) ∧
      (cut < 512 → s.threadCheck t p cut false true 0#12 5 = (s1, .go acc) →
        s1.threadCheck t (p + BitVec.ofNat 64 cut) (512 - cut) false true 0#12 5 = (s2, .go acc') →
        whole s2 acc cut → whole s2 acc' (512 - cut) →
        exec (.launch c a b) s = .next (s2.launchFlight t c (.launch [⟨some acc, cut, []⟩, ⟨some acc', 512 - cut, []⟩] y.toNat false)))) ∧
    (t.inBlocks ((a, 3) :: bRuns b 1) = true →
     let h := (t.vget a.toNat).toNat
     let n := (t.vget (a.toNat + 1)).toNat
     let off := (t.vget (a.toNat + 2)).toNat
     ∀ pay, (n = 0 ∧ pay = []) ∨ (0 < n ∧ ∃ tm, s.teamOf t = some tm ∧ off + n ≤ tm.ssize ∧ s.absentLine tm off n = none ∧
         tm.spadPoison off n = false ∧ pay = tm.spadRead off n) →
       h ≤ 15 → y.toNat ≤ 143 → n % 8 = 0 → n ≤ 256 → off % 8 = 0 → (s.msgEntry t.launch h).isSome = true →
       ∃ s' m, exec (.amsend c a b) s = .next s' ∧ s'.e.msgs = s.e.msgs ++ [m] ∧ m.thread = t.uid ∧ m.target = y.toNat ∧
         m.handler = h ∧ m.len = n ∧ m.sender = t.core ∧ m.queued = false ∧ m.payload = pay ∧
         ∃ f ∈ s'.x.flights, f.thread = t.uid ∧ f.op = .amsend m.uid false) ∧
    (∀ m, t.kind = .message m → t.amdone = false →
      exec (.amdone c) s = .next ((s.launchFlight t c (.amdone false)).updThread t.uid fun u => { u with amdone := true })) ∧
    ∀ f, s.flight? f.uid = some f → f.thread = t.uid → s.swappedOut t = false → f.stalled = none →
      (∀ q (k : ReadPart), f.op = .launch [k] q true → k.acc = some acc → s.passed t f.wait = true →
        (k.full = false → k.left ≠ [] → s.accessFirst f = true → s.sameWord f = [f] → s.lockedNow f t acc k.len false = false →
          ∃ m o, (acc.pa + o, o) ∈ k.left ∧
            let r := { s with freeCtr := m }.readAcc t acc o (min 8 (k.len - o))
            (acc.refused r.2.tag = false → r.2.poison = false → exec (.instructionComplete f.uid) s =
              .next (r.1.updFlight f.uid fun g =>
                { g with op := .launch [{ k with got := k.got ++ [(o, leNat r.2.bytes)] }] q true }))) ∧
        (k.full = true → (s.queue t.ctx q).length < 64 → (∀ j ∈ s.d.bells, ¬(j.ctx = t.ctx ∧ j.queue = q)) →
          ∃ (s' : State) (r : QRec), exec (.instructionComplete f.uid) s = .next (s'.finish f) ∧ r.ptr = acc.va ∧
            r.record = BitVec.ofNat 4096 (leNat k.bytes) ∧ s'.queue t.ctx q = s.queue t.ctx q ++ [r])) ∧
      (∀ u m, f.op = .amsend u true → (s.e.msgs.find? fun m => m.uid == u) = some m → m.queued = true → m.group.isSome = true →
        m.pending = 0 → exec (.instructionComplete f.uid) s =
          .next (({ s with e := { s.e with msgs := s.e.msgs.filter fun k => k.uid != u } } : State).finish f)) ∧
      ∀ m, f.op = .amdone true → s.passed t f.wait = true → t.kind = .message m →
        exec (.instructionComplete f.uid) s = .next ((s.updMsg m fun k => { k with pending := k.pending - 1 }).finish f)

/-- R47, R196, R197, R198: KDECL goes in flight and then writes the sets of its register; SIGN records its thread's
signature and gives it the generation; WAITK completes at once where the generation is not the one that it names, and
holds its thread while it is. -/
def Obligations.ConvergenceRegisters : Prop :=
  ∀ (s : State) (t : Thread) (tm : Team) (c : Ctl) (k : KReg) (d a : VReg) (b : SrcB) (y : Word), s.solo c.grd t →
    s.calm → s.teamOf t = some tm → (∀ u ∈ s.x.threads, u.uid = t.uid → u = t) → (s.x.teams.map Team.uid).Nodup →
    t.inBlocks ((d, 1) :: (a, 1) :: bRuns b 1) = true → s.srcI t b = .ok y → k.toNat < tm.k.length →
    (t.vget a.toNat ≠ 0#32 → y ≠ 0#32 →
      exec (.kdecl c k a b) s = .next (s.launchFlight t c (.kdecl k.toNat (t.vget a.toNat) y))) ∧
    exec (.sign c d k) s = .next (s.launchFlight t c (.sign k.toNat d.toNat)) ∧
    ((tm.kget k.toNat).gen ≠ y.setWidth 8 → exec (.waitk c k b) s = .next s) ∧
    ((tm.kget k.toNat).gen = y.setWidth 8 →
      exec (.waitk c k b) s = .next ((s.launchFlight t c (.waitk k.toNat (y.setWidth 8) false)).updThread t.uid fun u =>
        { u with status := .held (.waitk k.toNat (y.setWidth 8)) })) ∧
    ∀ f, s.flight? f.uid = some f → f.thread = t.uid → tm.swapped = none → f.stalled = none →
      (∀ g m, f.op = .kdecl k.toNat g m → (∀ h ∈ s.x.flights, h.uid = f.uid ∨ f.uid < h.uid) →
        (tm.kget k.toNat).signed = [] →
        ∃ s' tm', exec (.instructionComplete f.uid) s = .next s' ∧ s'.team? tm.uid = some tm' ∧
          tm'.kget k.toNat = { tm.kget k.toNat with gmask := g, mmask := m } ∧
          ∀ j, j ≠ k.toNat → tm'.kget j = tm.kget j) ∧
      (f.op = .sign k.toNat d.toNat → s.accessesDone f 1 = true → (tm.kget k.toNat).has t = true →
        (tm.kget k.toNat).signedBy t.uid = false → t.isReplay = false → s.heldSigners tm.uid k.toNat = [] →
        (∀ u ∈ s.x.threads, u.isReplay = false) → (tm.kget k.toNat).signed.length + 1 < (tm.kget k.toNat).members.length →
        ∃ s' tm' t', exec (.instructionComplete f.uid) s = .next s' ∧ s'.team? tm.uid = some tm' ∧
          s'.thread? t.uid = some t' ∧ t'.v = t.v.set d.toNat ((tm.kget k.toNat).gen.zeroExtend 32) ∧
          tm'.kget k.toNat =
            { tm.kget k.toNat with signed := (tm.kget k.toNat).signed ++ [(t.uid, true)] }) ∧
      (∀ moved, f.op = .waitk k.toNat (y.setWidth 8) moved → (moved = true ∨ (tm.kget k.toNat).gen ≠ y.setWidth 8) → s.acquireDone f = true →
        exec (.instructionComplete f.uid) s = .next ((s.finish f).updThread t.uid fun u =>
          if u.status = .held (.waitk k.toNat (y.setWidth 8)) then u.past else u))

/-! Matrix, equivalence, traversal and collective engines -/

/-- R245, R254 to R257: the accumulator instructions go in flight with their tile, selector or scratchpad offset; when one
completes, in the order of its tile, ACCZ zeroes the tile, ACCWR writes 16 elements of a row, ACCRD reads them, ACCLD
reads the packed array at its offset, its pieces of 8 bytes one by one in no order (R85), and decodes it, and ACCST and FMTQ
encode the tile and write it there, piece by piece. No other element, tile or scratchpad byte changes. -/
def Obligations.AccumulatorTiles : Prop :=
  ∀ (s : State) (t : Thread) (tm : Team) (c : Ctl) (f : BitVec 3) (x : CReg) (d : VReg) (b : SrcB) (y : Word) (k : Slot)
    (e : Fmt), s.solo c.grd t → s.calm → s.teamOf t = some tm → x.toNat < tm.tiles.length →
    t.inBlocks ((d, 16) :: bRuns b 1) = true → s.srcI t b = .ok y →
    let m := y.toNat % 64
    let q := y.toNat / 64
    (exec (.accz c x) s = .next (s.launchFlight t c (.accz x.toNat)) ∧
      (y.toNat < 256 →
        exec (.accrd c d x b) s = .next (s.launchFlight t c (.accrd x.toNat d.toNat m q)) ∧
        exec (.accwr c x d b) s = .next (s.launchFlight t c (.accwr x.toNat m q (t.run d.toNat 16)))) ∧
      (s.matSlot t f.toNat = .ok (k, e) → y.toNat % 256 = 0 →
        (y.toNat + 512 * e.bits ≤ tm.ssize → s.absentLine tm y.toNat (512 * e.bits) = none →
          (tm.spadPoison y.toNat (512 * e.bits) = false →
            exec (.accld c f x b) s = .next (s.launchFlight t c (.accld x.toNat f.toNat y.toNat []))) ∧
          exec (.accst c f x b) s = .next (s.launchFlight t c (.accst x.toNat f.toNat y.toNat false none))) ∧
        (y.toNat + fmtqBytes k e ≤ tm.ssize → s.absentLine tm y.toNat (fmtqBytes k e) = none →
          exec (.fmtq c f x b) s = .next (s.launchFlight t c (.accst x.toNat f.toNat y.toNat true none))))) ∧
    ∀ g off, s.flight? g.uid = some g → g.thread = t.uid → s.swappedOut t = false → g.stalled = none →
      s.tileFree tm.uid x.toNat g.uid = true → s.spadFirst g = true → swf 0#32 (tm.tiles.getD x.toNat []) = true →
      swf 0#8 tm.spad = true → tm.tpoison = [] → tm.spoison = [] → (∀ n, s.absentFor g tm off n = false) →
      let done (p : Team → Prop) : Prop := ∃ s' tm', exec (.instructionComplete g.uid) s = .next s' ∧
        s'.team? tm.uid = some tm' ∧ g ∉ s'.x.flights ∧ s'.m = s.m ∧
        (∀ j i, j ≠ x.toNat → tm'.tileElem j i = tm.tileElem j i) ∧ p tm'
      (g.op = .accz x.toNat → done fun k => k.spad = tm.spad ∧ ∀ i, k.tileElem x.toNat i = 0#32) ∧
      (g.op = .accwr x.toNat m q (t.run d.toNat 16) → done fun k => k.spad = tm.spad ∧ ∀ i, k.tileElem x.toNat i =
        if 64 * m + 16 * q ≤ i ∧ i < 64 * m + 16 * q + 16 then t.vget (d.toNat + (i - (64 * m + 16 * q)))
        else tm.tileElem x.toNat i) ∧
      (g.op = .accrd x.toNat d.toNat m q → exec (.instructionComplete g.uid) s = .next ((s.finish g).updThread t.uid
        fun u => u.setRun d.toNat ((List.range 16).map fun i => tm.tileElem x.toNat (64 * m + 16 * q + i)))) ∧
      (s.matSlot t f.toNat = .ok (k, e) →
        let n := 512 * e.bits
        let vals := (List.range 4096).map fun i => fp32 (tm.tileElem x.toNat i)
        (∀ ps, g.op = .accld x.toNat f.toNat off ps → 8 * (ps.length + 1) < n →
          ∃ z o, o ∈ piecesMissing 0 (n / 8) ps ∧ exec (.instructionComplete g.uid) s =
            .next (({ s with freeCtr := z } : State).updFlight g.uid fun h =>
              { h with op := .accld x.toNat f.toNat off (sput ps o (leNat (tm.spadRead (off + o) 8))) })) ∧
        (∀ (j : Nat) (v : Nat → Nat), j < n / 8 → (∀ i, v i < 2 ^ 64) →
          g.op = .accld x.toNat f.toNat off (((List.range (n / 8)).filter (· ≠ j)).map fun i => (8 * i, v i)) →
          let bs := (List.range (n / 8)).flatMap fun i => if i = j then tm.spadRead (off + 8 * j) 8 else natBytes 8 (v i)
          done fun k => k.spad = tm.spad ∧ ∀ i, i < 4096 →
            k.tileElem x.toNat i = toFp32 (decodeNum e (leNat bs / 2 ^ (e.bits * i) % 2 ^ e.bits))) ∧
        (∀ v : Nat → Nat, (∀ i, i < 4096 →
            roundNum e .rn (slotOvf k.record) (fp32 (tm.tileElem x.toNat i)) = some (v i)) →
          ∃ bs : List Byte, tileEncode k e false vals = some bs ∧ bs.length = n ∧
            ∀ i, i < 4096 → leNat bs / 2 ^ (e.bits * i) % 2 ^ e.bits = v i) ∧
        (∀ quant left ps, g.op = .accst x.toNat f.toNat off quant left →
          ((∃ bs, left = none ∧ tileEncode k e quant vals = some bs ∧ ps = piecesOf bs) ∨ left = some ps) → ps ≠ [] →
          ∃ s' tm' p, p ∈ ps ∧ exec (.instructionComplete g.uid) s = .next s' ∧ s'.team? tm.uid = some tm' ∧ s'.m = s.m ∧
            (∀ c i, tm'.tileElem c i = tm.tileElem c i) ∧
            (∀ a, tm'.spadRead a 1 = if off + p.1 ≤ a ∧ a < off + p.1 + 8 then [(natBytes 8 p.2).getD (a - (off + p.1)) 0#8]
              else tm.spadRead a 1) ∧
            let rest := ps.filter fun q => q.1 != p.1
            (rest = [] → ∀ h ∈ s'.x.flights, h.uid ≠ g.uid) ∧
            (rest ≠ [] → ∃ h ∈ s'.x.flights, h.uid = g.uid ∧ h.op = .accst x.toNat f.toNat off quant (some rest))))

/-- R47, R247, R248, R253, R254: a thread that signs with MMA or MMAC is Held at it while its set is short of a signer.
The last signer makes the set issue: a pass enters the table of the quad's engine with the slot, the tile and the
operands of rank 0 and the A rows of its signers by rank, the generation rises by one, and the signer goes on. -/
def Obligations.MatrixSigning : Prop :=
  ∀ (s : State) (t : Thread) (tm : Team) (c : Ctl) (f : BitVec 3) (reuse : Bool) (x : CReg) (a b : VReg) (k : KReg)
    (ins : Instr) (conv : Bool), s.solo ⟨63#6, false⟩ t → s.calm → s.teamOf t = some tm →
    ((ins = .mma c f reuse x a b k ∧ conv = false) ∨ (ins = .mmac c f reuse x a b k ∧ conv = true)) →
    let r := tm.kget k.toNat
    let n := r.members.length
    let nb := if conv then 8 else 4
    (n = 16 ∨ n = 32 ∨ n = 64) → a.toNat + 16 * (64 / n) ≤ t.v.length → b.toNat + nb ≤ t.v.length →
    k.toNat < tm.k.length → x.toNat < tm.tiles.length → r.has t = true → r.signedBy t.uid = false →
    (∀ h ∈ s.heldSigners tm.uid k.toNat, h.pc = t.pc ∧ h.status = .held (.matrix k.toNat ins)) →
    (∀ u ∈ s.x.threads, u.isReplay = false) → (s.x.threads.map Thread.uid).Nodup → (s.x.teams.map Team.uid).Nodup →
    srising s.e.latches = true → tm.swapped = none →
    (∀ q ∈ r.members, ∃ u, s.memberThread tm.uid q = some u ∧ (u.status = .exited → r.signedBy u.uid = true)) →
    let rows := r.members.flatMap fun q => match s.memberThread tm.uid q with
      | some u => if u.uid = t.uid ∨ u ∈ s.heldSigners tm.uid k.toNat then rowBytes u a.toNat (64 / n)
          else List.replicate (64 * (64 / n)) 0#8
      | none => []
    (r.signed.length + 1 < n → ∃ s' t' tm' g, exec ins s = .next s' ∧ s'.thread? t.uid = some t' ∧
      t'.status = .held (.matrix k.toNat ins) ∧ t'.v = t.v ∧ t'.pc = t.pc ∧ s'.team? tm.uid = some tm' ∧
      tm'.kget k.toNat = { r with signed := r.signed ++ [(t.uid, false)] } ∧ s'.e.passes = s.e.passes ∧
      g ∈ s'.x.flights ∧ g.thread = t.uid ∧ g.op = .matrix 0) ∧
    (∀ r0 o, r.signed.length + 1 = n → s.memberThread tm.uid (r.members.headD (0, 0)) = some r0 →
      s.matCheck tm r0 ⟨f.toNat, reuse, x.toNat, a.toNat, b.toNat, k.toNat, conv⟩ = .ok o →
      (s.passesOf (coreEngine tm.core)).length < 64 →
      ∃ s' t' tm' p, exec ins s = .next s' ∧ s'.e.passes = s.e.passes ++ [p] ∧
        p.engine = coreEngine tm.core ∧ p.team = tm.uid ∧ p.rank0 = r0.uid ∧ p.slot = f.toNat ∧ p.tile = x.toNat ∧
        p.conv = conv ∧ p.b = r0.run b.toNat nb ∧ p.lines = spadLines o.off o.len ∧ p.since = s.x.clk ∧ t.uid ∈ p.signers ∧
        (sget s.e.latches tm.core = none →
          p.rows = rows ∧ sget s'.e.latches tm.core = if reuse then some (tm.uid, k.toNat, rows) else none) ∧
        (∀ o j l, sget s.e.latches tm.core = some (o, j, l) →
          if o = tm.uid ∧ j = k.toNat then
            p.rows = l ∧ sget s'.e.latches tm.core = if reuse then some (o, j, l) else none
          else p.rows = rows ∧ sget s'.e.latches tm.core = some (o, j, l)) ∧
        s'.team? tm.uid = some tm' ∧ tm'.kget k.toNat = { r with gen := r.gen + 1#8, signed := [] } ∧
        s'.thread? t.uid = some t' ∧ t'.v = t.v ∧ t'.status = .issued ∧
        ∃ g ∈ s'.x.flights, g.thread = t.uid ∧ g.op = .matrix p.uid)

/-- R249, R252, R254, R256: MATRIX_PASS grants the entry of the highest priority, the oldest within one, whose tile is its
own; every element of the tile becomes the sum of its products and of itself, no other tile changes, and the pass leaves
its table. RESERVATION_RAISE raises an entry that has waited 4096 fabric clocks, up to level 7. MPERM gives two entries
of a slot's permutation table. -/
def Obligations.MatrixPasses : Prop :=
  (∀ (s s1 s2 : State) (engine : Nat) (p : Pass) (tm : Team) (t : Thread) (k : Slot) (e : Fmt) (sa sb : List (List Sys2Proof.Num)),
    s.calm → p ∈ s.e.passes → p.engine = engine → s.passReady p = true → p.failed = none →
    (∀ q ∈ s.e.passes, q.engine = engine → s.passReady q = true → q ≠ p →
      q.uid ≠ p.uid ∧ (q.prio < p.prio ∨ (q.prio = p.prio ∧ p.stamp < q.stamp))) →
    s.team? p.team = some tm → s.thread? p.rank0 = some t → s.matSlot t p.slot = .ok (k, e) →
    (∀ u ∈ s.x.threads, ∀ j i, u.status ≠ .held (.matrix j i)) → p.tile < tm.tiles.length → tm.spoison = [] →
    let k0 := (p.b.getD 1 0#32).toNat
    let nb := (p.b.getD 2 0#32).toNat / 2 ^ 20 + 1
    let block (i : Nat) : Nat := k.pos (k0 + i) / slotBlk k.record
    let js := ((List.range (passK e)).map block).eraseDups
    s.scales t k.scaleA (slotE4m3 k.record) ((p.b.getD 2 0#32).toNat % 2 ^ 20) nb js = (s1, .ok sa) →
    s1.scales t k.scaleB (slotE4m3 k.record) ((p.b.getD 3 0#32).toNat % 2 ^ 20) nb js = (s2, .ok sb) →
    s2.x = s.x → s2.e = s.e → s2.d = s.d →
    ∃ s' tm', exec (.matrixPass engine) s = .next s' ∧ s'.team? p.team = some tm' ∧ (∀ q ∈ s'.e.passes, q.uid ≠ p.uid) ∧
      (∀ g ∈ s'.x.flights, g.op ≠ .matrix p.uid) ∧ s'.m = s2.m ∧
      (∀ j i, j ≠ p.tile → tm'.tileElem j i = tm.tileElem j i) ∧
      ∀ m n, m < 64 → n < 64 →
        let row := rowElems e ((p.rows.drop (64 * m)).take 64)
        let col := if p.conv then convColumn tm e p.desc p.b k0 n
          else rowElems e (tm.spadRead ((p.b.getD 0 0#32).toNat + 64 * n) 64)
        let term (i : Nat) : Sys2Proof.Num :=
          (scaled (decodeNum e (row.getD i 0)) ((sa.getD m []).getD (js.findIdx (· == block i)) Num.one)).mul
            (scaled (decodeNum e (col.getD i 0)) ((sb.getD n []).getD (js.findIdx (· == block i)) Num.one))
        tm'.tileElem p.tile (64 * m + n) = passSum (e == .fp16 || e == .bf16) ((List.range (passK e)).map term)
          (fp32 (tm.tileElem p.tile (64 * m + n)))) ∧
  (∀ (s : State) (engine entry : Nat), ∃ s', exec (.reservationRaise engine entry) s = .next s' ∧
    s'.x = s.x ∧ s'.m = s.m ∧ s'.e.passes.length = s.e.passes.length ∧
    ∀ (i : Nat) (p : Pass), s.e.passes[i]? = some p →
      (p.uid = entry → p.engine = engine → p.since + 4096 ≤ s.x.clk → p.prio < 7 →
        s'.e.passes[i]? = some { p with prio := p.prio + 1, since := s.x.clk }) ∧
      ((p.uid ≠ entry ∨ p.engine ≠ engine ∨ s.x.clk < p.since + 4096 ∨ 7 ≤ p.prio) → s'.e.passes[i]? = some p)) ∧
  ∀ (s : State) (t : Thread) (c : Ctl) (f : BitVec 3) (d : VReg) (b : SrcB) (y : Word) (k : Slot) (e : Fmt),
    s.solo c.grd t → s.calm → t.team ≠ none → t.inBlocks ((d, 1) :: bRuns b 1) = true → s.srcI t b = .ok y →
    s.matSlot t f.toNat = .ok (k, e) → slotPerm k.record = true → y.toNat % 2 = 0 → y.toNat < 128 * slotPlen k.record →
    exec (.mperm c f d b) s = .next (s.launchFlight t c (.write
      [(d.toNat, (k.ptab.getD y.toNat 0#16).zeroExtend 32 ||| (k.ptab.getD (y.toNat + 1) 0#16).zeroExtend 32 <<< 16)] []))

/-- R259, R261, R263, R265: a lane of an equivalence instruction with legal operands sends its request to the engine that
the handle names, EQOPEN to that of its sector, and waits in flight; when the request is applied and its writes are
globally performed the result is written; where the engine met a code, that code is raised instead.
R262, R265: a root is found by following the parents, each at or below its element; with compression the element's
parent becomes its root, and no root changes. UNITE gives the joined class the lesser root and the sum of the sizes, and
leaves every other class as it was. -/
def Obligations.EquivalenceForest : Prop :=
  (∀ (s : State) (t : Thread) (c : Ctl) (d a x : VReg) (b : SrcB) (y : Word) (op : RelOp), s.solo c.grd t → s.calm →
    t.inBlocks ([(d, 1), (a, 2), (x, 1)] ++ bRuns b 1) = true → s.srcI t b = .ok y →
    let p := t.pair a.toNat
    let h := t.vget x.toNat
    let sends (i : Instr) (own : Bool) (pa : DWord) (pb hd : Word) (dd : Nat) : Prop := ∃ (s' : State) (r : EqReq),
      exec i s = .next (s'.launchFlight t c (.eqv r.uid)) ∧ s'.e.eqReqs = s.e.eqReqs ++ [r] ∧
      s' = { s with x := { s.x with nextUid := s.x.nextUid + 1 }, e := { s.e with eqReqs := s.e.eqReqs ++ [r] } } ∧
      r.thread = t.uid ∧ r.flight = s'.x.nextUid ∧ r.uid = s.x.nextUid ∧ r.ins = i ∧ r.a = pa ∧ r.b = pb ∧ r.handle = hd ∧
      r.d = dd ∧ r.done = none ∧ r.code = none ∧ r.stalled = none ∧
      r.engine = (if own = true ∨ 768 ≤ hd.toNat then coreSector t.core else hd.toNat / 64)
    (p.toNat % 32 = 0 → sends (.eqopen c d a) true p 0#32 0#32 d.toNat ∧ sends (.relabel c op d a x) false p 0#32 h d.toNat) ∧
    sends (.unite c d a b x) false ((t.vget a.toNat).zeroExtend 64) y h d.toNat ∧
    sends (.find c d a x) false ((t.vget a.toNat).zeroExtend 64) 0#32 h d.toNat ∧
    sends (.eqsize c d a x) false ((t.vget a.toNat).zeroExtend 64) 0#32 h d.toNat ∧
    (y.toNat ≤ 1 → sends (.eqsnap c b x) false 0#64 y h 0) ∧
    sends (.equndo c x) false 0#64 0#32 h 0 ∧ sends (.eqclose c x) false 0#64 0#32 h 0 ∧
    ∀ f (r : EqReq), s.flight? f.uid = some f → f.thread = t.uid → s.swappedOut t = false → f.stalled = none →
      f.op = .eqv r.uid → (s.e.eqReqs.find? fun q => q.uid == r.uid) = some r →
      let s2 : State := { s with e := { s.e with eqReqs := s.e.eqReqs.filter fun q => q.uid != r.uid } }
      (∀ regs, r.code = none → r.done = some regs → s.homesPassed r.wct = true →
        exec (.instructionComplete f.uid) s = .next ((s2.updThread t.uid fun u =>
          regs.foldl (fun (u : Thread) (w : Nat × Word) => u.vset w.1 w.2) u).finish f)) ∧
      ∀ k, r.code = some k → exec (.instructionComplete f.uid) s = .next ((s2.finish f).raiseAt t.uid f.site k)) ∧
  ∀ (s : State) (b : Binding) (tx : EqTx) (par size : Nat → Nat) (x y : Nat), b.n ≤ 2 ^ 31 → x < b.n → y < b.n →
    (∀ i j, i < b.n → j < b.n → eqAt b.parent i ≠ eqAt b.size j) → (∀ i, i < b.n → par i ≤ i ∧ size i < 2 ^ 32) →
    let word (tx : EqTx) (p : DWord) : Option Word := (tx.words.find? fun w => w.1 == p.toNat).map Prod.snd
    let holds (tx : EqTx) (par size : Nat → Nat) : Prop := ∀ i, i < b.n →
      word tx (eqAt b.parent i) = some (BitVec.ofNat 32 (par i)) ∧ word tx (eqAt b.size i) = some (BitVec.ofNat 32 (size i))
    let root (par : Nat → Nat) (i : Nat) : Nat := par^[i] i
    holds tx par size →
    (∀ comp, ∃ tx' par', ((b.root comp x).run tx).run.run s = (.ok (root par x, tx'), s) ∧ holds tx' par' size ∧
      par (root par x) = root par x ∧ (comp = true → par' x = root par x) ∧ (comp = false → tx' = tx) ∧
      ∀ i, i < b.n → par' i ≤ i ∧ root par' i = root par i) ∧
    ∀ comp, ∃ tx' par' size', ((b.unite comp x y).run tx).run.run s =
        (.ok (if root par x = root par y then BitVec.ofNat 32 (root par x)
          else BitVec.ofNat 32 (min (root par x) (root par y)) ||| 0x80000000#32, tx'), s) ∧ holds tx' par' size' ∧
      (∀ i, i < b.n → par' i ≤ i ∧ root par' i =
        if root par i = root par x ∨ root par i = root par y then min (root par x) (root par y) else root par i) ∧
      ∀ i, i < b.n → size' i =
        if root par x ≠ root par y ∧ i = min (root par x) (root par y) then
          (size (root par x) + size (root par y)) % 2 ^ 32
        else size i

/-- R259 to R264, R266: EQV_APPLY applies a request that is the next of its thread on its forest: EQOPEN of a bound forest
gives its handle, and one that finds no slot gives all ones; EQSNAP and EQCLOSE change the binding; an operation on the
forest gives its result once its log entries and writes are made, and one that meets a code writes nothing. RELABEL
finds the root of every element, and what it makes of a class. -/
def Obligations.EquivalenceEngines : Prop :=
  (∀ (s : State) (r : EqReq) (t : Thread) (b : Binding),
    (s.e.eqReqs.find? fun q => q.uid == r.uid) = some r → r.open_ = true → r.stalled = none → s.eqNext r = true →
    s.thread? r.thread = some t →
    (∀ (c : Ctl) (d a : VReg) (s1 : State) (bs : List Byte) (tx : EqTx), r.ins = .eqopen c d a →
      s.eqRun r.engine t.ctx (eqBytes r.a 32) = (s1, .ok (bs, tx)) →
      let f : BitVec 256 := BitVec.ofNat 256 (leNat bs)
      let n := (f.extractLsb' 32 32).toNat
      f.extractLsb' 1 7 = 0#7 → 1 ≤ n → n ≤ 2 ^ 31 → (f.extractLsb' 64 64 = 0#64 → f.extractLsb' 8 24 = 0#24) →
      (f.extractLsb' 192 64).toNat % 4 = 0 → (f.extractLsb' 128 64).toNat % 4 = 0 → (f.extractLsb' 64 64).toNat % 8 = 0 →
      ((s1.e.bindings.find? fun k => k.launch == t.launch && k.parent == f.extractLsb' 192 64) = some b →
        exec (.eqvApply r.uid) s = .next ((s1.updBinding b fun k => { k with opens := k.opens + 1 }).eqDone r
          [(r.d, BitVec.ofNat 32 (64 * b.engine + b.slot))] [])) ∧
      ((∀ k ∈ s1.e.bindings, ¬(k.launch = t.launch ∧ k.parent = f.extractLsb' 192 64)) →
        ((∀ h, h < 64 → ∃ k ∈ s1.e.bindings, k.engine = r.engine ∧ k.slot = h) →
          exec (.eqvApply r.uid) s = .next (s1.eqDone r [(r.d, 0xFFFFFFFF#32)] [])) ∧
        (f.getLsbD 0 = false → ∀ h, h < 64 → (∀ k ∈ s1.e.bindings, ¬(k.engine = r.engine ∧ k.slot = h)) →
          (∀ j, j < h → ∃ k ∈ s1.e.bindings, k.engine = r.engine ∧ k.slot = j) →
          ∃ s' k, exec (.eqvApply r.uid) s = .next (s'.eqDone r [(r.d, BitVec.ofNat 32 (64 * r.engine + h))] []) ∧
            s' = { s1 with e := { s1.e with bindings := s1.e.bindings ++ [k] } } ∧ k.engine = r.engine ∧ k.slot = h ∧
            k.launch = t.launch ∧ k.ctx = t.ctx ∧ k.parent = f.extractLsb' 192 64 ∧ k.size = f.extractLsb' 128 64 ∧
            k.log = f.extractLsb' 64 64 ∧ k.n = n ∧ k.cap = (f.extractLsb' 8 24).toNat ∧ k.opens = 1 ∧ k.logging = false))) ∧
    ((s.e.bindings.find? fun k => k.engine == r.handle.toNat / 64 && k.slot == r.handle.toNat % 64) = some b →
      b.launch = t.launch → (∀ k ∈ s.e.bindings, k.engine = b.engine → k.slot = b.slot → k = b) →
      (∀ c sb x, r.ins = .eqsnap c sb x → exec (.eqvApply r.uid) s =
        .next ((s.updBinding b fun k => { k with logging := r.b == 0#32, logN := 0 }).eqDone r [] [])) ∧
      (∀ c x, r.ins = .eqclose c x →
        (1 < b.opens → exec (.eqvApply r.uid) s =
          .next ((s.updBinding b fun k => { k with opens := k.opens - 1 }).eqDone r [] [])) ∧
        (b.opens = 1 → exec (.eqvApply r.uid) s = .next (({ s with e := { s.e with
          bindings := s.e.bindings.filter fun k => !(k.engine == b.engine && k.slot == b.slot) } }).eqDone r [] []))) ∧
      (∀ c x, r.ins = .equndo c x → b.logging = false → (∃ w, exec (.eqvApply r.uid) s =
        .next ((s.updBinding b fun k => k).eqDone r [] w))) ∧
      ∀ op : EqM Word, ((∃ c d a sb x, r.ins = .unite c d a sb x ∧ op = b.unite true r.a.toNat r.b.toNat) ∨
          (∃ c d a x, r.ins = .find c d a x ∧ op = (b.root true r.a.toNat >>= fun y => pure (BitVec.ofNat 32 y))) ∨
          (∃ c d a x, r.ins = .eqsize c d a x ∧ op = (b.root true r.a.toNat >>= fun y => eqRead (eqAt b.size y))) ∨
          (∃ c o d a x, r.ins = .relabel c o d a x ∧ op = b.relabel o r.a)) →
        (∀ s1 s2 v tx w, s.eqRun b.engine b.ctx op = (s1, .ok (v, tx)) →
          (b.logging = true → b.logN + tx.log.length ≤ b.cap) →
          s1.eqCommit b.engine b.ctx ((tx.log.zipIdx.map fun e =>
            (b.log + BitVec.ofNat 64 (8 * (b.logN + e.2)), loBytes 8 e.1)) ++ tx.writes) tx.poison = (s2, .ok w) →
          exec (.eqvApply r.uid) s = .next ((s2.updBinding b fun k => { k with logN := k.logN + tx.log.length }).eqDone r
            [(r.d, v)] w)) ∧
        ∀ s1 k a, s.eqRun b.engine b.ctx op = (s1, .error (.code k a)) →
          exec (.eqvApply r.uid) s = .next (s1.updEq r.uid fun q => { q with code := some ⟨k, 0#8, a, true, false⟩ })) ∧
    ((∃ c x, r.ins = Instr.eqclose c x) →
      (∀ k ∈ s.e.bindings, k.engine = r.handle.toNat / 64 → k.slot = r.handle.toNat % 64 → k.launch ≠ t.launch) →
      exec (.eqvApply r.uid) s =
        .next (s.updEq r.uid fun q => { q with code := some ⟨.eqNotOpen, 0#8, 0#64, true, false⟩ }))) ∧
  (∀ (n : Nat) (ps : List Nat),
    ((∀ p ∈ ps.zipIdx, p.1 < n ∧ p.1 ≤ p.2) ↔ (relRoots n ps).isSome = true) ∧
    ∀ rs, relRoots n ps = some rs → rs.length = ps.length ∧
      ∀ i, i < ps.length → rs.getD i 0 = (fun j => ps.getD j 0)^[i] i) ∧
  ∀ (vfmt : Nat) (v w : Word) (vs : List Word),
    relValue .count vfmt vs v = BitVec.ofNat 32 vs.length ∧ relValue .first vfmt vs v = v ∧
    (vfmt ≠ 0 → (relValue .sum vfmt (w :: vs) v).toNat = ((w :: vs).map BitVec.toNat).sum % 2 ^ 32) ∧
    (∀ m, (m = relValue .min 1 (w :: vs) v → m ∈ w :: vs ∧ ∀ u ∈ w :: vs, m.toInt ≤ u.toInt) ∧
      (m = relValue .max 1 (w :: vs) v → m ∈ w :: vs ∧ ∀ u ∈ w :: vs, u.toInt ≤ m.toInt) ∧
      (m = relValue .min 2 (w :: vs) v → m ∈ w :: vs ∧ ∀ u ∈ w :: vs, m.toNat ≤ u.toNat) ∧
      (m = relValue .max 2 (w :: vs) v → m ∈ w :: vs ∧ ∀ u ∈ w :: vs, u.toNat ≤ m.toNat))

/-- R267 to R270, R274: TRACE takes the lowest free ticket and hands its ray to the unit, SHADOW its ray and its channels;
TRWAIT of a ticket in flight waits, and when the ray is done consumes the ticket and writes the hit record. TRHIT reads
the ray and its record in a shader thread, and sets the return word. -/
def Obligations.RayInstructions : Prop :=
  ∀ (s : State) (t : Thread) (c : Ctl) (d a b x : VReg) (n : BitVec 2) (sb : SrcB) (y : Word), s.solo c.grd t → s.calm →
    (∀ u ∈ s.x.threads, u.uid = t.uid → u = t) →
    let root := t.pair b.toNat
    let flags := t.vget (b.toNat + 2)
    let target := t.pair (b.toNat + 2)
    (∀ k, k < 16 → t.inBlocks [(d, 1), (a, 8), (b, 4)] = true → flags &&& 0xFF00F0E0#32 = 0#32 → lnBounce t.name ≠ 31 →
      (flags.getLsbD 3 = true → s.shaderEntry t.launch flags false ≠ none) →
      (flags.getLsbD 4 = true → s.shaderEntry t.launch flags true ≠ none) → root.toNat % 64 = 0 →
      (∀ z ∈ t.tickets, z.1 ≠ k) → (∀ j, j < k → ∃ z ∈ t.tickets, z.1 = j) →
      ∃ s' t' r f, exec (.trace c d a b) s = .next s' ∧ s'.e.rays = s.e.rays ++ [r] ∧ r.thread = t.uid ∧
        r.ray = t.run a.toNat 8 ∧ r.root = root ∧ r.flags = flags ∧ r.user = t.vget (b.toNat + 3) ∧ r.ticket = some k ∧
        r.stage = .flying ∧ r.name = secondName t.name none ∧ s'.thread? t.uid = some t' ∧ t'.tickets = t.tickets ++ [(k, r.uid)] ∧
        t'.v = t.v ∧ t'.status = t.status ∧ s'.m = s.m ∧
        f ∈ s'.x.flights ∧ f.thread = t.uid ∧ f.op = .trace r.uid d.toNat k) ∧
    (t.inBlocks [(a, 8), (b, 4), (x, n.toNat + 1)] = true → lnBounce t.name ≠ 31 → root.toNat % 64 = 0 →
      target.toNat % (if n = 0#2 then 4 else if n = 1#2 then 8 else 16) = 0 →
      ∃ s' t' r f, exec (.shadow c n a b x) s = .next s' ∧ s'.e.rays = s.e.rays ++ [r] ∧ r.thread = t.uid ∧
        r.ray = t.run a.toNat 8 ∧ r.root = root ∧ r.target = target ∧ r.chans = t.run x.toNat (n.toNat + 1) ∧
        r.ticket = none ∧ r.stage = .flying ∧ r.couch = t.couch ∧
        r.name = s.formName t.ctx (shadowName t.name (s.det t && t.team.isSome && !t.helper && !t.isReplay)) ∧ r.none = t.helper ∧ s'.thread? t.uid = some t' ∧
        t'.v = t.v ∧ t'.couch = (if s.det t = true ∧ t.team ≠ none ∧ t.helper = false then t.couch + n.toNat + 1 else t.couch) ∧
        s'.m = s.m ∧ f ∈ s'.x.flights ∧ f.thread = t.uid ∧ f.op = .shadow r.uid) ∧
    (t.inBlocks ((d, 8) :: bRuns sb 1) = true → s.srcI t sb = .ok y → (∃ z ∈ t.tickets, z.1 = y.toNat) →
      (∀ f ∈ s.x.flights, f.thread = t.uid → ∀ e, f.op ≠ .trwait y.toNat e) →
      exec (.trwait c d sb) s = .next (s.launchFlight t c (.trwait y.toNat d.toNat))) ∧
    (∀ u r, t.kind = .shader u → s.ray? u = some r →
      (t.inBlocks [(d, 16)] = true → exec (.trhitGet c d) s = .next (s.launchFlight t c (.write
        ((r.ray ++ r.hit.take 5 ++ [(hitTail r).getD 0 0#32, r.user, 0#32]).zipIdx.map fun w => (d.toNat + w.2, w.1)) []))) ∧
      (t.inBlocks (bRuns sb 1) = true → s.srcI t sb = .ok y →
        exec (.trhitRet c sb) s = .next (s.launchFlight t c (.trret y)))) ∧
    ∀ f, s.flight? f.uid = some f → f.thread = t.uid → s.swappedOut t = false → f.stalled = none →
      (∀ u e k, f.op = .trace u e k → exec (.instructionComplete f.uid) s =
        .next ((s.updThread t.uid fun v => v.vset e (BitVec.ofNat 32 k)).finish f)) ∧
      (∀ r k e, f.op = .trwait k e → (t.tickets.find? fun z => z.1 == k) = some (k, r.uid) → s.ray? r.uid = some r →
        r.stage = .done → r.code = none → s.passed t r.wct = true → s.acquireDone f = true → t.isReplay = false →
        ∃ s' t', exec (.instructionComplete f.uid) s = .next s' ∧ s'.thread? t.uid = some t' ∧
          t'.v = (t.setRun e (r.hit.take 5 ++ hitTail r)).v ∧ t'.tickets = (t.tickets.filter fun z => z.1 != k) ∧
          s'.e.rays = (s.e.rays.filter fun q => q.uid != r.uid) ∧ f ∉ s'.x.flights ∧ s'.m = s.m) ∧
      ∀ w u r, f.op = .trret w → t.kind = .shader u → s.ray? u = some r →
        (∀ g ∈ s.x.flights, g.thread = t.uid → g.uid < f.uid → ∀ z, g.op ≠ .trret z) →
        exec (.instructionComplete f.uid) s = .next ((s.updRay u fun q => { q with ret := w }).finish f)

/-- R267, R271, R272, R273: BOXT, TRIT and XFORM of a lane whose node the checks let through go in flight with the parts of
the node to read, and once those are read write their run: which of the four boxes the ray enters, where, and in what order; the
triangle that it meets, solved exactly over the reals; and the ray in the instance's space, each component rounded once. -/
def Obligations.NodeTests : Prop :=
  (∀ (s s1 : State) (t : Thread) (c : Ctl) (cb cf : Bool) (d a b : VReg) (ps : List ReadPart), s.solo c.grd t → s.calm →
    s1.calm →
    let run (n : Nat) : Prop := t.inBlocks [(d, n), (a, 8), (b, 2)] = true
    let p := t.pair b.toNat
    let ray := t.run a.toNat 8
    let sends (what : Gathered) : Host.Outcome State Fault Refusal := .next (s1.launchFlight t c (.gather what d.toNat ps []))
    ((∀ g : State → List ReadPart → State, s.runParts t p 128 (fun u l => .ok (g u l)) = .ok (g s1 ps)) → p.toNat % 64 = 0 →
      (run 5 → exec (.boxt c d a b) s = sends (.box ray)) ∧ (run 8 → exec (.xform c d a b) s = sends (.xform ray))) ∧
    ((∀ g : State → List ReadPart → State, s.runParts t p 48 (fun u l => .ok (g u l)) = .ok (g s1 ps)) → p.toNat % 16 = 0 →
      run 4 → exec (.trit c cb cf d a b) s = sends (.tri cb cf ray)) ∧
    ∀ f what head, s.flight? f.uid = some f → f.thread = t.uid → s.swappedOut t = false → f.stalled = none →
      f.op = .gather what d.toNat ps head → ps.all ReadPart.full = true →
      let node := (ps.map ReadPart.bytes).flatten
      let writes (ws : List Word) : Prop := exec (.instructionComplete f.uid) s = .next ((s.updThread f.thread fun u =>
        ws.zipIdx.foldl (fun u w => u.vset (d.toNat + w.2) w.1) u).finish f)
      (what = .box ray → writes (boxWords ray node)) ∧ (what = .xform ray → writes (xformRay ray (recNum node))) ∧
      (what = .tri cb cf ray → writes (match triHit ray node cb cf 0 with
        | some h => [ratFp32 h.t, ratFp32 h.u, ratFp32 h.v, if h.front then 3#32 else 1#32]
        | none => [0x7F800000#32, 0#32, 0#32, 0#32]))) ∧
  (∀ (ray : List Word) (b : Nat → Sys2Proof.Num) (x : Sys2Proof.Num),
    let o (a : Nat) := rayNum ray a
    let dir (a : Nat) := rayNum ray (4 + a)
    let near (a : Nat) := divRound .rd (diffRd (b a) (o a)) (dir a)
    let far (a : Nat) := divRound .ru ((b (3 + a)).add (o a).negate) (dir a)
    boxEnter ray b = some x ↔
      (∀ k, k < 6 → (b k).isNan = false) ∧ (∀ k, k < 8 → (rayNum ray k).isNan = false) ∧
      (∀ a, a < 3 → (b (3 + a)).lt (b a) = false) ∧
      ∃ tn tf : Nat → Sys2Proof.Num,
        (∀ a, a < 3 →
          ((dir a).isZero = true → (o a).lt (b a) = false ∧ (b (3 + a)).lt (o a) = false ∧ tn a = .inf true ∧ tf a = .inf false) ∧
          ((dir a).isZero = false → (near a).isNan = false ∧ (far a).isNan = false ∧ tn a = (near a).min (far a) ∧
            tf a = (near a).max (far a))) ∧
        x = (((rayNum ray 3).max (tn 0)).max (tn 1)).max (tn 2) ∧
        ((((rayNum ray 7).min (tf 0)).min (tf 1)).min (tf 2)).lt x = false) ∧
  ∀ (ray : List Word) (node : List Byte), ray.length = 8 →
    let w := ((boxWords ray node).getD 0 0#32).toNat
    let child (j : Nat) : Nat := w / 2 ^ (8 + 2 * j) % 4
    (∀ i, i < 4 → (boxWords ray node).length = 5 ∧
      nodeEnter ray node i = (match childRef (recDWord node (12 + i)) with
        | some _ => boxEnter ray fun k => recNum node (6 * i + k)
        | none => none) ∧
      w.testBit i = (nodeEnter ray node i).isSome ∧
      (boxWords ray node).getD (i + 1) 0#32 = (match nodeEnter ray node i with
        | some x => toFp32 x
        | none => 0x7F800000#32)) ∧
    w / 16 % 16 = 0 ∧ w / 2 ^ 16 = ((List.range 4).filter fun i => (nodeEnter ray node i).isSome).length ∧
    (∀ j k, j < k → k < 4 → child j ≠ child k ∧
      ((nodeEnter ray node (child k)).isSome = true → (nodeEnter ray node (child j)).isSome = true) ∧
      (nodeEnter ray node (child j) = none → child j < child k) ∧
      ∀ x y, nodeEnter ray node (child j) = some x → nodeEnter ray node (child k) = some y →
        y.lt x = false ∧ (x.lt y = false → child j < child k)) ∧
    (∀ cb cf inst,
      let vec (g : Nat → Sys2Proof.Num) (k : Nat) : V3 := ((g k).toRat, (g (k + 1)).toRat, (g (k + 2)).toRat)
      let v (k : Nat) : V3 := vec (recNum node) (3 * k)
      let det := v3dot (vec (rayNum ray) 4) (v3cross (v3sub (v 1) (v 0)) (v3sub (v 2) (v 0)))
      let finite : Prop := (∀ k, k < 9 → finiteNum (recNum node k) = true) ∧
        (∀ j, j < 3 → finiteNum (rayNum ray j) = true ∧ finiteNum (rayNum ray (4 + j)) = true) ∧
        (rayNum ray 3).isNan = false ∧ (rayNum ray 7).isNan = false
      ∀ h, triHit ray node cb cf inst = some h ↔ finite ∧ det ≠ 0 ∧ 0 ≤ h.u ∧ 0 ≤ h.v ∧ h.u + h.v ≤ 1 ∧
        (Sys2Proof.Num.ofRat h.t).lt (rayNum ray 3) = false ∧ (rayNum ray 7).lt (.ofRat h.t) = false ∧
        h.front = decide (det < 0) ∧ (if h.front then cf else cb) = false ∧ h.prim = leafPrim node ∧ h.inst = inst ∧
        ∀ j, j < 3 → (rayNum ray j).toRat + h.t * (rayNum ray (4 + j)).toRat =
          (1 - h.u - h.v) * (recNum node j).toRat + h.u * (recNum node (3 + j)).toRat + h.v * (recNum node (6 + j)).toRat) ∧
    ∀ j, j < 3 → (∀ k, k < 12 → finiteNum (recNum node k) = true) → (∀ k, k < 8 → finiteNum (rayNum ray k) = true) →
      let m (k : Nat) : Rat := (recNum node k).toRat
      let r (k : Nat) : Rat := (rayNum ray k).toRat
      let o := m (4 * j) * r 0 + m (4 * j + 1) * r 1 + m (4 * j + 2) * r 2 + m (4 * j + 3)
      let e := m (4 * j) * r 4 + m (4 * j + 1) * r 5 + m (4 * j + 2) * r 6
      (o ≠ 0 → (xformRay ray fun i => recNum node i).getD j 0#32 = ratFp32 o) ∧
      (e ≠ 0 → (xformRay ray fun i => recNum node i).getD (4 + j) 0#32 = ratFp32 e) ∧
      (xformRay ray fun i => recNum node i).getD 3 0#32 = ray.getD 3 0#32 ∧
      (xformRay ray fun i => recNum node i).getD 7 0#32 = ray.getD 7 0#32

/-- R269, R274, R342, R343: RAY_COMPLETE gives a ray the closest of its hits, any of them with FIRST outside a
deterministic launch, or a miss, and its shader where it asks for one; a shader group's threads run the table's entry
under names one bounce deeper, in the order in which their invocations came. SHADOW_RAY_TEST drops the additions of an
occluded ray, and otherwise makes them. -/
def Obligations.RayEvents : Prop :=
  (∀ (s s1 : State) (r : Ray) (t : Thread) (log : List (List Byte × Bool)) (hs : List TriHit) (poison : Bool),
    s.ray? r.uid = some r → s.thread? r.thread = some t → s.rayGoes r = true → r.code = none →
    s.travRun r.log none (r.traverse t) = (s1, log, .ok (hs, poison)) →
    (r.ticket ≠ none →
      ∃ (s2 : State) (h : Option TriHit), (s2 = s1 ∨ s2 = s1.takeFree.2) ∧ (h = none ↔ hs = []) ∧ (∀ x, h = some x → x ∈ hs) ∧
        (r.flags.getLsbD 0 = false ∨ s1.det t = true → ∀ x, h = some x → ∀ g ∈ hs, g.before x = false) ∧
        exec (.rayComplete r.uid) s = .next (({ s2 with x := { s2.x with nextUid := s2.x.nextUid + 1 } }).updRay r.uid fun k =>
          { k with
            hit := hitWords h
            stage := if t.isReplay = false ∧ (s1.ctx r.ctx).killing = false ∧
              (if h = none then r.flags.getLsbD 4 else r.flags.getLsbD 3) = true then .shader h.isNone else .done
            log := []
            came := s2.x.nextUid })) ∧
    (r.ticket = none →
      (hs ≠ [] ∨ r.none = true ∨ (s1.ctx r.ctx).killing = true → exec (.shadowRayTest r.uid) s = .next (s1.endShadow r [])) ∧
      (hs = [] → r.none = false → (s1.ctx r.ctx).killing = false → ∀ s2 as,
        (s1.updRay r.uid fun k => { k with log := log }).shadowChecks t r = (s2, .ok (as, none)) → s2.shadowFirst t r as = true →
        exec (.shadowRayTest r.uid) s = .next ((as.foldl (fun u a => u.shadowAdd ((u.sender? r).getD t) r a.1 a.2 poison)
          s2).endShadow r (as.flatMap fun a => s2.shadowRec t r a.1 a.2))))) ∧
  (∀ (s : State) (t : Thread) (r : Ray) (a : Acc), s.thread? t.uid = some t → s.plain t → s.det t = false →
    isWindow a.pa = false → a.pa % 4 = 0 → Memory.wf s.m = true → (∀ l, (s.homeLine l).owner = none) →
    (∀ c ∈ s.m.copies, c.mask = []) →
    (s.shadowAdd t r 0 a false).homeWord a.pa false =
      atomBytes false .fadd (s.homeWord a.pa false) ((r.chans.getD 0 0#32).zeroExtend 64) ∧
    ∀ q, q < a.pa ∨ a.pa + 4 ≤ q → (s.shadowAdd t r 0 a false).homeByte q = s.homeByte q) ∧
  (∀ (s : State) (t : Thread) (fl : TravFlags) (root : DWord) (ray : List Word),
    ((∃ i, i < 8 ∧ (rayNum ray i).isNan = true) ∨ (rayNum ray 7).lt (rayNum ray 3) = true ∨
      ∀ i, i < 3 → (rayNum ray (4 + i)).isZero = true) →
    s.travRun [] none (travRoot t fl root ray) = (s, [], .ok ([], false))) ∧
  ∀ (s : State) (r : Ray) (core slice blocks slot : Nat) (entry : DWord) (miss : Bool), s.ray? r.uid = some r →
    r.stage = .shader miss → (s.ctx r.ctx).frozen = false → s.shaderEntry r.launch r.flags miss = some (entry, blocks) →
    s.groupFits core slice blocks (s.lweight r.launch) = some slot → (s.e.rays.map Ray.uid).Nodup →
    (∀ t ∈ s.x.threads, t.uid < s.x.nextUid) →
    let same (k : Ray) : Bool := k.launch == r.launch && k.stage == .shader miss && k.flags.extractLsb' 8 4 == r.flags.extractLsb' 8 4
    (∀ k ∈ s.e.rays, same k = true → k.came = r.came → k = r) →
    let ahead := (s.e.rays.filter fun k => same k && decide (k.came < r.came)).length
    ahead < 32 →
    (∃ s' u r', exec (.shaderGroupSpawn r.uid core slice) s = .next s' ∧ u ∈ s'.x.threads ∧ u ∉ s.x.threads ∧
      u.kind = .shader r.uid ∧ u.core = core ∧ u.slice = slice ∧ u.slot = slot ∧ u.lane = ahead ∧ u.pc = entry ∧ u.team = none ∧
      u.status = .boundary ∧ u.v = List.replicate (16 * blocks) 0#32 ∧ u.name = s.formName r.ctx (shaderName r) ∧
      s'.ray? r.uid = some r' ∧ r'.stage = .running u.uid ∧ r'.ran = true ∧ s'.m = s.m ∧
      ∀ t ∈ s.x.threads, t ∈ s'.x.threads) ∧
    ∀ n, r.name = secondName n none →
      lnBounce (shaderName r) = (lnBounce n + 1) % 32 ∧ lnKind (shaderName r) = 2 ∧
      ((r.hit.getD 5 0#32).getLsbD 0 = true → (shaderName r).extractLsb' 76 20 = (r.hit.getD 4 0#32).extractLsb' 0 20 ∧
        (shaderName r).extractLsb' 51 25 = (r.hit.getD 3 0#32).extractLsb' 0 25)

/-- R129, R130, R275, R279 to R281: COLL of a record that the checks admit takes the lowest free ticket; COLLW waits for
one and gives its status, with status 0 after the release work of level 6; RESID binds a buffer, locks it, zeroes it at home and
completes when the zeros' write completion times have passed; RNG gives words of the SHA3-256 of its message, or their
upper 24 bits as a fraction. COLLECTIVE_COMPLETE ends a collective with a link error in status 3, with parts that
disagree in status 1 and nothing written, and otherwise with the reduction of every contribution, rounded into DST. -/
def Obligations.Collectives : Prop :=
  (∀ (s s0 s1 : State) (t : Thread) (c : Ctl) (d a x : VReg) (b : SrcB) (y : Word) (n : BitVec 3) (unit : Bool)
    (ps : List ReadPart) (bs : List Byte) (slot : Option (BitVec 256)) (k : Nat), s.solo c.grd t → s.calm → s1.calm → s.plain t →
    (∀ u ∈ s.x.threads, u.uid = t.uid → u = t) →
    t.inBlocks ([(d, n.toNat + 1), (a, 2), (x, 1)] ++ bRuns b 1) = true → s.srcI t b = .ok y →
    let p := t.pair a.toNat
    let r : BitVec 512 := BitVec.ofNat 512 (leNat bs)
    (k < 8 → (∀ z ∈ t.ctickets, z.1 ≠ k) → (∀ j, j < k → ∃ z ∈ t.ctickets, z.1 = j) → p.toNat % 64 = 0 →
      (∀ g : State → List ReadPart → Res State, (∃ v, g s0 ps = .ok v) → s.runParts t p 64 g = g s0 ps) →
      s0.readNow t ps = .ok (s1, bs) →
      s1.x.threads = s.x.threads → s1.collCheck t r = .ok slot →
      ∃ s' t' j f, exec (.coll c d a) s = .next s' ∧ s'.e.colls = s1.e.colls ++ [j] ∧ j.thread = t.uid ∧ j.record = r ∧
        j.slot = slot ∧ s'.thread? t.uid = some t' ∧ t'.v = t.v ∧ t'.ctickets = t.ctickets ++ [(k, j.uid)] ∧
        f ∈ s'.x.flights ∧ f.thread = t.uid ∧ f.op = .coll j.uid d.toNat k false ∧
        (if (collGroup r, collSeq r) ∈ s1.e.collSeen then j.status = some 2
          else j.status = none ∧ s'.e.collSeen = (collGroup r, collSeq r) :: s1.e.collSeen)) ∧
    ((∃ z ∈ t.ctickets, z.1 = y.toNat) → (∀ f ∈ s.x.flights, f.thread = t.uid → ∀ e g, f.op ≠ .collw y.toNat e g) →
      exec (.collw c d b) s = .next (s.launchFlight t c (.collw y.toNat d.toNat false))) ∧
    (y.toNat ≤ 15 → (t.vget x.toNat).toNat % 4 = 0 → p.toNat % 4 = 0 → ∀ segs,
      s.engCheck t.core t.ctx p (t.vget x.toNat).toNat true 0#12 = (s1, .ok segs) →
      exec (.resid c a b x) s = .next (({ s1 with e := { s1.e with
        resid := if p = 0#64 ∧ t.vget x.toNat = 0#32 then sdel s1.e.resid (t.ctx * 16 + y.toNat)
          else sput s1.e.resid (t.ctx * 16 + y.toNat) (p, (t.vget x.toNat).toNat) } }).launchFlight t c
            (.resid y.toNat segs p (t.vget x.toNat).toNat none))) ∧
    (let seed := ((s.launch? t.launch).map fun l => lrSeed l.record).getD 0#64
     let h := sha3 (natBytes 16 (t.name.toNat / 2048 * 2048) ++ natBytes 4 y.toNat ++ natBytes 4 (t.vget a.toNat).toNat ++
      natBytes 8 seed.toNat)
     exec (.rng c n unit d a b) s = .next (s.launchFlight t c (.write ((List.range (n.toNat + 1)).map fun i =>
      (d.toNat + i, if unit then ratFp32 (((h.extractLsb' (32 * i) 32).toNat / 256 : Nat) / (2 ^ 24 : Nat))
        else h.extractLsb' (32 * i) 32)) []))) ∧
    ∀ f j st e, s.flight? f.uid = some f → f.thread = t.uid → s.swappedOut t = false → f.stalled = none →
      (f.op = .coll j.uid d.toNat e false → s.coll? j.uid = some j → j.status = none → s.accessesDone f 5 = true →
        exec (.instructionComplete f.uid) s = .next ((s.releaseWork t 5).1.updFlight f.uid fun g =>
          { g with op := .coll j.uid d.toNat e true, wait := (s.releaseWork t 5).2 })) ∧
      (∀ begun, f.op = .coll j.uid d.toNat e begun → s.coll? j.uid = some j → j.status ≠ none →
        exec (.instructionComplete f.uid) s = .next ((s.updThread t.uid fun u => u.vset d.toNat (BitVec.ofNat 32 e)).finish f)) ∧
      (f.op = .coll j.uid d.toNat e true → s.coll? j.uid = some j → s.passed t f.wait = true → j.status = none →
        s.m.locks.length + j.ranges.length ≤ 512 →
        ∃ s' t' i, exec (.instructionComplete f.uid) s = .next s' ∧ s'.m = { s.m with locks := s.m.locks ++ j.ranges } ∧
          s'.thread? t.uid = some t' ∧ t'.v = t.v.set d.toNat (BitVec.ofNat 32 e) ∧ s'.coll? j.uid = some i ∧
          i = { j with entered := true } ∧ f ∉ s'.x.flights) ∧
      (∀ begun, f.op = .collw e d.toNat begun → (t.ctickets.find? fun z => z.1 == e) = some (e, j.uid) →
        s.coll? j.uid = some j → j.status = some st → j.entered = true → (∀ l ∈ s.m.locks, l.owner ≠ j.uid) →
        (st = 0 → begun = false → s.accessesDone f 6 = true → s.acquireDone f = true →
          exec (.instructionComplete f.uid) s = .next ((s.releaseWork t 6).1.updFlight f.uid fun g =>
            { g with op := .collw e d.toNat true, wait := (s.releaseWork t 6).2 })) ∧
        ((st ≠ 0 ∨ (begun = true ∧ s.passed t f.wait = true ∧ s.homesPassed j.wct = true ∧
            s.passed t j.wct = true)) →
        ∃ s' t', exec (.instructionComplete f.uid) s = .next s' ∧ s'.thread? t.uid = some t' ∧
          t'.v = t.v.set d.toNat (BitVec.ofNat 32 st) ∧ t'.ctickets = (t.ctickets.filter fun z => z.1 != e) ∧
          s'.e.colls = (s.e.colls.filter fun i => i.uid != j.uid) ∧ f ∉ s'.x.flights ∧ s'.m = s.m))) ∧
  (∀ (s : State) (t : Thread) (f : Flight) (id n : Nat) (parts : List (Nat × Nat)) (p : DWord) (wct : Option (Sparse Nat)),
    s.thread? f.thread = some t → s.flight? f.uid = some f → s.swappedOut t = false → f.stalled = none →
    f.op = .resid id parts p n wct →
    (n = 0 → exec (.instructionComplete f.uid) s = .next (s.finish f)) ∧
    (n ≠ 0 → wct = none → (∀ l ∈ s.m.locks, l.owner ≠ f.uid) → s.m.locks.length < 512 → exec (.instructionComplete f.uid) s =
      .next { s with m := { s.m with locks := s.m.locks ++ [lockOf f.uid t.ctx p n true] } }) ∧
    (n ≠ 0 → wct = none → (∃ l ∈ s.m.locks, l.owner = f.uid) → (∀ j ∈ s.e.colls, j.uid < f.uid → j.ctx = t.ctx → collWire j.record = true →
        collRbuf j.record = id → j.status ≠ none ∧ ∀ l ∈ s.m.locks, l.owner ≠ j.uid) →
      (∀ g ∈ parts, isWindow g.1 = false) → Memory.wf s.m = true → (∀ l, (s.homeLine l).owner = none) →
      ∃ s' w, exec (.instructionComplete f.uid) s = .next s' ∧ { f with op := .resid id parts p n (some w) } ∈ s'.x.flights ∧
        (∀ g ∈ parts, ∀ i, i < g.2 → s'.homeByte (g.1 + i) = 0#8) ∧
        ∀ q, (∀ g ∈ parts, q < g.1 ∨ g.1 + g.2 ≤ q) → s'.homeByte q = s.homeByte q) ∧
    ∀ w, n ≠ 0 → wct = some w → s.homesPassed w = true → exec (.instructionComplete f.uid) s =
      .next (({ s with m := { s.m with locks := s.m.locks.filter fun l => l.owner != f.uid } }).finish f)) ∧
  (∀ (s s1 : State) (k : CollJob) (peers : CollPeers) (xs res : List Sys2Proof.Num) (poison : Bool), s.coll? k.uid = some k →
    k.entered = true → k.stalled = none → k.status = none → s.residFirst k = true →
    let g := s.groupLinks (collGroup k.record)
    ((peers.linkError = true ∨ g.2 = false) →
      exec (.collectiveComplete k.uid peers) s = .next ((s.collScramble k).collClose k 3 [])) ∧
    (∀ (u : State) (i : CollJob) (st : Nat) (w : Sparse Nat), u.coll? k.uid = some i →
      (u.collClose k st w).coll? k.uid =
        (if (u.thread? k.thread).isSome then some { i with status := some st, wct := w } else none) ∧
      ∀ l, l ∈ (u.collClose k st w).m.locks ↔ l ∈ u.m.locks ∧ l.owner ≠ k.uid) ∧
    (peers.linkError = false → g.2 = true → peers.parts.length + 1 = g.1 →
      ((∃ p ∈ peers.parts, collAgrees p.record k.record = false) → (s.thread? k.thread).isSome = true →
        ∃ s' j, exec (.collectiveComplete k.uid peers) s = .next s' ∧ s'.coll? k.uid = some j ∧ j.status = some 1 ∧
          s'.m = { s.m with locks := s.m.locks.filter fun l => l.owner != k.uid }) ∧
      ((∀ p ∈ peers.parts, collAgrees p.record k.record = true ∧ p.vals.length = collCount k.record) →
        s.contribution k = (s1, .ok (xs, res, poison)) →
        exec (.collectiveComplete k.uid peers) s = .next ((s1.poisonedParts peers.parts).collLand k
          (collReduce (collOp k.record) (collCount k.record) (xs :: peers.parts.map fun p => p.vals.map peerNum)) res
          (poison || peers.parts.any fun p => p.poison.isSome)))) ∧
    ∀ (u u1 u2 u3 : State) (ys : List Sys2Proof.Num) (out : List Nat) segs w v (f : Fmt), collDfmt k.record = some f →
      (ys.map fun y => roundNum f .rn (match k.slot with
        | some r => slotOvf r
        | none => 1) y) = out.map some →
      let bs := out.flatMap fun e => natBytes (fmtBytes f) e
      u.engCheck k.core k.ctx (collDst k.record) bs.length true 0#12 = (u1, .ok segs) →
      ((k.slot = none ∧ u2 = u1 ∧ w = []) ∨ (k.slot ≠ none ∧
        u1.engStore k.core k.ctx 0#12 k.resid (res.flatMap fun x => natBytes 4 (toFp32 x).toNat) poison = (u2, .ok w))) →
      u2.engStore k.core k.ctx 0#12 (collDst k.record) bs poison = (u3, .ok v) →
      u.collLand k ys res poison = u3.collClose k 0 (wctJoin w v)) ∧
  ∀ (n i : Nat) (parts : List (List Sys2Proof.Num)), i < n → parts ≠ [] →
    (∀ p ∈ parts, p.length = n ∧ ∀ v ∈ p, v.isNan = false ∧ v.isInf = false) →
    let at_ (i : Nat) : List Sys2Proof.Num := parts.map fun p => p.getD i Sys2Proof.Num.zero
    (∀ e : Int, (∃ j, j < n ∧ j / 256 = i / 256 ∧ ∃ v ∈ at_ j, v.isZero = false ∧ floorLog2 v.abs.toRat = e) →
      (∀ j, j < n → j / 256 = i / 256 → ∀ v ∈ at_ j, v.isZero = false → floorLog2 v.abs.toRat ≤ e) →
      ((collReduce 0 n parts).getD i .nan).toRat = ((at_ i).map fun v => (truncTo (pow2 (e - 96)) v).toRat).sum) ∧
    ((collReduce 1 n parts).getD i .nan ∈ at_ i ∧ ∀ v ∈ at_ i, ((collReduce 1 n parts).getD i .nan).lt v = false) ∧
    ((collReduce 2 n parts).getD i .nan ∈ at_ i ∧ ∀ v ∈ at_ i, v.lt ((collReduce 2 n parts).getD i .nan) = false)

/-- R67, R284, R286 to R288: GETSR, SETSR and DIGEST in any context, and TLBINV, LPSWEEP, CTXSAVE and CTXLOAD in a privileged
one, go in flight with their operands and do their work when they complete; HALT marks its context and ends the thread.
In a context that is not privileged the five raise PRIVILEGED and nothing else happens. -/
def Obligations.SystemInstructions : Prop :=
  ∀ (s : State) (t : Thread) (tm : Team) (c : Ctl) (n : Bool) (d a x : VReg) (b : SrcB) (y : Word), s.solo c.grd t → s.calm →
    s.teamOf t = some tm → (∀ u ∈ s.x.threads, u.uid = t.uid → u = t) →
    t.inBlocks ([(d, 8), (a, 2), (x, 1)] ++ bRuns b 1) = true → s.srcI t b = .ok y →
    let va := ptrVa (t.pair a.toNat)
    let k := (t.vget x.toNat).toNat
    (∀ r, SReg.ofCode (BitVec.ofNat 8 y.toNat) = some r → y.toNat < 256 →
      (r ≠ .time → exec (.getsr c d b) s = .next (s.launchFlight t c (.write [(d.toNat, s.srval t r)] []))) ∧
      (r = .time → d.toNat % 2 = 0 → exec (.getsr c d b) s = .next (s.launchFlight t c (.write
        [(d.toNat, BitVec.ofNat 32 (s.now (coreDie t.core))),
          (d.toNat + 1, BitVec.ofNat 32 (s.now (coreDie t.core) / 2 ^ 32))] [])))) ∧
    (s.srval t .lane = BitVec.ofNat 32 t.lane ∧ s.srval t .core = BitVec.ofNat 32 t.core ∧
      s.srval t .ctx = BitVec.ofNat 32 t.ctx ∧ s.srval t .team = BitVec.ofNat 32 tm.logical ∧
      s.srval t .die = BitVec.ofNat 32 (t.core / 36) ∧
      s.srval t .ln3 ++ s.srval t .ln2 ++ s.srval t .ln1 ++ s.srval t .ln0 = t.name) ∧
    exec (.setsr c n b) s = .next (s.launchFlight t c (.setsr n y)) ∧
    exec (.digest c d) s = .next (s.launchFlight t c (.write ((List.range 8).map fun i =>
      (d.toNat + i, if s.det t then tm.digest.extractLsb' (32 * i) 32 else 0#32)) [])) ∧
    ((s.ctx t.ctx).priv = true →
      (k ≤ 63 → (y = 0#32 ∨ va % 65536 = 0) →
        exec (.tlbinv c a b x) s = .next (s.launchFlight t c (.tlbinv va y.toNat k))) ∧
      (y.toNat ≤ 63 → exec (.lpsweep c b) s = .next (s.launchFlight t c (.lpsweep y.toNat)) ∧
        (y.toNat ≠ t.ctx → exec (.ctxsave c b) s = .next (s.launchFlight t c (.ctxsave y.toNat false)) ∧
          exec (.ctxload c b) s = .next (s.launchFlight t c (.ctxload y.toNat)))) ∧
      (t.ctx < s.d.ctxs.length → ∃ s', exec (.halt c) s = .next s' ∧ (s'.ctx t.ctx).halted = true ∧
        (s.busyThread t.uid = false → ∀ u, s'.thread? t.uid = some u → u.status = .exited) ∧
        (s.busyThread t.uid = true → ∃ f ∈ s'.x.flights, f.thread = t.uid ∧ f.op = .exit true))) ∧
    ((s.ctx t.ctx).priv = false → s.quiet t →
      ∀ i ∈ [Instr.tlbinv c a b x, .lpsweep c b, .ctxsave c b, .ctxload c b, .halt c],
        ∃ (s' : State) (t' : Thread) (r : TrapRec), exec i s = .next s' ∧ s'.thread? t.uid = some t' ∧ t'.v = t.v ∧
          t'.trap = some r ∧ reportCode r.report = Code.val .privileged ∧
          (s'.ctx t.ctx).halted = (s.ctx t.ctx).halted ∧ (i ≠ .halt c → s'.d = s.d ∧ s'.m = s.m)) ∧
    ∀ f, s.flight? f.uid = some f → f.thread = t.uid → s.swappedOut t = false → f.stalled = none →
      (∀ m v, f.op = .setsr m v → t.isReplay = false →
        (∀ g ∈ s.x.flights, g.thread = t.uid → g.uid < f.uid → ∀ m v, g.op ≠ .setsr m v) →
        ∃ name, exec (.instructionComplete f.uid) s =
          .next ((s.updThread t.uid fun u => { u with name := s.formName t.ctx name }).finish f) ∧
          (m = false → name.extractLsb' 11 6 = v.extractLsb' 0 6 ∧ name.extractLsb' 0 11 = t.name.extractLsb' 0 11 ∧
            name.extractLsb' 17 111 = t.name.extractLsb' 17 111) ∧
          (m = true → name.extractLsb' 17 5 = v.extractLsb' 0 5 ∧ name.extractLsb' 0 17 = t.name.extractLsb' 0 17 ∧
            name.extractLsb' 22 106 = t.name.extractLsb' 22 106)) ∧
      (∀ va n k, f.op = .tlbinv va n k → ∃ s', exec (.instructionComplete f.uid) s = .next s' ∧ f ∉ s'.x.flights ∧
        s'.m.dram = s.m.dram ∧ s'.m.home = s.m.home ∧
        (∀ e ∈ s'.m.lastPage, e ∈ s.m.lastPage ∧ e.2.hit k va n = false) ∧
        (∀ e ∈ s.m.lastPage, e.2.hit k va n = false → e ∈ s'.m.lastPage) ∧
        (∀ q ∈ s'.m.coreTlb, ∀ e ∈ q.2, e.hit k va n = false) ∧ ∀ q ∈ s'.m.sectorTlb, ∀ e ∈ q.2, e.hit k va n = false) ∧
      (∀ k, f.op = .lpsweep k → exec (.instructionComplete f.uid) s = .next
        (({ s with m := { s.m with lastPage := s.m.lastPage.filter fun e => e.2.ctx != k } }).finish f)) ∧
      (∀ k, f.op = .ctxload k → exec (.instructionComplete f.uid) s =
        .next ((s.updCtx k fun q => { q with saved := false }).finish f)) ∧
      (∀ k, f.op = .ctxsave k false → ∃ s', exec (.instructionComplete f.uid) s = .next s' ∧
        (k < s.d.ctxs.length → (s'.ctx k).saved = true)) ∧
      ∀ k, f.op = .ctxsave k true → (∀ u ∈ s.x.teams, u.ctx = k → u.swapped ≠ none) →
        (∀ u ∈ s.x.threads, u.ctx = k → u.team ≠ none) → s.e.tiles = [] →
        exec (.instructionComplete f.uid) s = .next (s.finish f)

/-- R191, R285, R370, R372 to R375, R378: TRAP and BKPT give the thread the code TRAP with a report of where it stands; with no
handler the context freezes on the report. HANDLER_SPAWN starts the handler of a trapped thread, the first by arrival of those of its launch that wait for one, on its own core wherever
that has room, with the report in V0 to V15 and the fall-through in V16:V17. RETT waits for what the handler has in flight, ends it, and releases the thread at
the target with its registers unchanged; a misaligned target raises BAD_CLAUSE on the handler at issue. EXIT ends a thread once nothing of it is in flight. -/
def Obligations.Traps : Prop :=
  (∀ (s : State) (t : Thread) (c : Ctl) (b : SrcB) (y : Word) (i : Instr) (arg : BitVec 8) (bk : Bool), s.solo c.grd t →
    s.calm → (∀ u ∈ s.x.threads, u.uid = t.uid → u = t) → s.x.flights = [] → t.isHandler = false → t.isReplay = false →
    (s.ctx t.ctx).frozen = false → t.ctx < s.d.ctxs.length → t.inBlocks (bRuns b 1) = true → s.srcI t b = .ok y →
    ((i = .trap c b ∧ arg = y.extractLsb' 0 8 ∧ bk = false) ∨ (i = .bkpt c ∧ arg = 0#8 ∧ bk = true)) →
    ∃ s' t' r, exec i s = .next s' ∧ s'.thread? t.uid = some t' ∧ t'.v = t.v ∧ t'.p = t.p ∧ t'.q = t.q ∧ t'.pc = t.pc ∧
      s'.m = s.m ∧ t'.trap = some r ∧ r.fall = t.hdr + BitVec.ofNat 64 (8 * (t.count + 1)) ∧ r.handler = none ∧
      r.report = t.name ++ t.pc ++ 0#64 ++ t.hdr ++ BitVec.ofNat 64 (s.now (coreDie t.core)) ++ 0x3F#8 ++ arg ++
        BitVec.ofNat 8 t.core ++ BitVec.ofNat 3 t.slice ++ BitVec.ofNat 5 t.lane ++ BitVec.ofNat 3 t.slot ++
        BitVec.ofNat 6 t.ctx ++ BitVec.ofNat 4 ((t.pc - t.hdr).toNat / 8 - 1) ++ 0#1 ++ 0#1 ++ BitVec.ofBool bk ++ 0#16 ++
        s.srTeam t ++ BitVec.ofNat 10 t.srTid ++ 0#22 ∧
      (s.traph t = 0#64 → (s'.ctx t.ctx).frozen = true ∧ (s'.ctx t.ctx).report = r.report ||| (1#512 <<< 82)) ∧
      (s.traph t ≠ 0#64 → s'.d = s.d)) ∧
  (∀ (s : State) (x : Thread) (r : TrapRec) (core slice slot : Nat), s.thread? x.uid = some x → x.trap = some r →
    (s.handlersDue x.launch).head? = some x → (s.ctx x.ctx).frozen = false → s.groupFits core slice 2 (s.lweight x.launch) = some slot →
    s.preferCore x core = true →
    (∀ u ∈ s.x.threads, u.uid < s.x.nextUid) → (s.x.threads.map Thread.uid).Nodup →
    ∃ s' h x', exec (.handlerSpawn x.uid core slice) s = .next s' ∧ h ∈ s'.x.threads ∧ h.kind = .handler x.uid ∧
      h ∉ s.x.threads ∧ h.core = core ∧ h.slice = slice ∧ h.slot = slot ∧ h.pc = s.traph x ∧ h.name = x.name ∧ h.ctx = x.ctx ∧
      h.launch = x.launch ∧ h.team = none ∧ h.v.length = 32 ∧
      (∀ k, k < 16 → h.vget k = r.report.extractLsb' (32 * k) 32) ∧ h.pair 16 = r.fall ∧
      (∀ k, 18 ≤ k → h.vget k = 0#32) ∧ s'.thread? x.uid = some x' ∧
      x' = { x with trap := some { r with handler := some h.uid } } ∧ s'.m = s.m ∧
      ∀ u ∈ s.x.threads, u.launch = x.launch → s.handlerDue u = true → ∃ q, u.trap = some q ∧ r.arrival ≤ q.arrival) ∧
  (∀ (s : State) (l : Launch) (r : BitVec 512) (rest : List (BitVec 512)) (core slice slot : Nat), s.thread? l.uid = none →
    s.launch? l.uid = some l → l.traps = r :: rest → (s.ctx l.ctx).frozen = false →
    s.groupFits core slice 2 (s.lweight l.uid) = some slot →
    ∃ s' h l', exec (.handlerSpawn l.uid core slice) s = .next s' ∧ s'.x.threads = s.x.threads ++ [h] ∧
      h.pc = lrTraph l.record ∧ (∀ k, k < 16 → h.vget k = r.extractLsb' (32 * k) 32) ∧ h.pair 16 = 0#64 ∧
      s'.launch? l.uid = some l' ∧ l'.traps = rest) ∧
  (∀ (s : State) (h x : Thread) (c : Ctl) (b : VReg) (f : Flight) (target : DWord),
    (s.solo c.grd h → s.calm → h.isHandler = true → h.inBlocks [(b, 2)] = true →
      ((h.pair b.toNat).toNat % 8 = 0 ∨ (∃ z, h.kind = .launchTrap z) →
        exec (.rett c b) s = .next (s.launchFlight h c (.rett (h.pair b.toNat)))) ∧
      ((h.pair b.toNat).toNat % 8 ≠ 0 → h.kind = .handler x.uid → (∀ u ∈ s.x.threads, u.uid = h.uid → u = h) →
        s.x.flights = [] → (s.ctx h.ctx).frozen = false → h.ctx < s.d.ctxs.length →
        ∃ s' h' r, exec (.rett c b) s = .next s' ∧ s'.thread? h.uid = some h' ∧ h'.v = h.v ∧ h'.pc = h.pc ∧ h'.trap = some r ∧
          reportCode r.report = Code.val .badClause ∧ (s'.ctx h.ctx).frozen = true)) ∧
    (s.flight? f.uid = some f → f.thread = h.uid → f.op = .rett target → f.stalled = none → s.thread? h.uid = some h →
      s.swappedOut h = false →
      ((∃ g ∈ s.x.flights, g.thread = h.uid ∧ g.uid < f.uid ∧ g.posted = false) →
        exec (.instructionComplete f.uid) s = .next s) ∧
      ((∀ g ∈ s.x.flights, g.thread = h.uid → g.uid < f.uid → g.posted = true) → s.calm → h.kind = .handler x.uid →
        h.team = none → h.secs = [] → h.status ≠ .exited → s.thread? x.uid = some x → x.uid ≠ h.uid → x.group ≠ h.group →
        x.status ≠ .exited → (s.x.threads.map Thread.uid).Nodup →
        ∃ s' x', exec (.instructionComplete f.uid) s = .next s' ∧ s'.thread? x.uid = some x' ∧ x'.v = x.v ∧ x'.p = x.p ∧
          x'.q = x.q ∧ x'.pc = target ∧ x'.hdr = target ∧ x'.mid = false ∧ x'.status = .boundary ∧ x'.trap = none ∧
          ∀ u, s'.thread? h.uid = some u → u.status = .exited))) ∧
  ∀ (s : State) (t : Thread) (c : Ctl), s.solo c.grd t → s.calm → (∀ u ∈ s.x.threads, u.uid = t.uid → u = t) →
    (∀ k ∈ s.x.teams, ∃ v ∈ s.x.threads, v.team = some k.uid ∧ (v.status = .exited → s.needed v.uid = true)) →
    (∀ g ∈ s.x.groups, g.team = none → ∃ v ∈ s.x.threads, v.group = g.uid ∧ (v.status = .exited → s.needed v.uid = true)) →
    (s.busyThread t.uid = true → exec (.exit c) s = .next (s.launchFlight t c (.exit false))) ∧
    (s.busyThread t.uid = false → ∃ s', exec (.exit c) s = .next s' ∧ ∀ u, s'.thread? t.uid = some u → u.status = .exited) ∧
    ∀ f halt, s.flight? f.uid = some f → f.thread = t.uid → f.op = .exit halt → f.stalled = none → s.swappedOut t = false →
      (∀ g ∈ s.x.flights, g.thread = t.uid → g.uid < f.uid → g.posted = true) →
      ∃ s', exec (.instructionComplete f.uid) s = .next s' ∧ ∀ u, s'.thread? t.uid = some u → u.status = .exited

/-! Events of the cores, the dispatcher and the board -/

/-- R34, R39 to R42, R138, R194: CLAUSE_ISSUE forms the bundle of the slice's leading group, at most one thread a lane, all
at one word, and opens its clause: each member issues and its starvation count is zero, and that of an eligible thread
left out rises by one. The overrides come at counts of 256 and 1024. LNMARK records its operand where its thread is
watched. -/
def Obligations.ClauseIssue : Prop :=
  (∀ (s0 s1 : State) (core slice : Nat) (head : Thread) (ms : List Thread) (f : Fetch),
    let s : State := { s0 with x := { s0.x with
      threads := s0.x.threads.map fun t =>
        if t.core == core && t.slice == slice then (if 256 ≤ t.starve then { t with fair := true } else t) else t
      groups := s0.x.groups.map fun g =>
        if g.core == core && g.slice == slice then (if 1024 ≤ g.starve then { g with flag := true } else g) else g } }
    s0.issue? core slice = none → (s.x.threads.map Thread.uid).Nodup → (s.x.groups.map Group.uid).Nodup →
    s.bundle core slice = some (head, ms) →
    (∀ t ∈ ms, t ∈ s.x.threads ∧ t.core = core ∧ t.slice = slice ∧ s.eligible t = true ∧ t.pc = head.pc ∧ t.mid = head.mid) ∧
    ((∀ t ∈ s.x.threads, ∀ u ∈ s.x.threads, t.group = u.group → t.lane = u.lane → t = u) → (ms.map Thread.lane).Nodup) ∧
    (s.eligible head = true ∧ (head.fair = false → ∀ u ∈ s.x.threads, u.group = head.group → u.core = core → u.slice = slice →
      s.eligible u = true → u.fair = false ∧ head.pc.toNat ≤ u.pc.toNat) ∧
      ∀ g ∈ s.x.groups, g.uid = head.group → g.yielded = false → ∀ k ∈ s.x.groups, k.core = core → k.slice = slice →
        k.yielded = false → (∃ u ∈ s.x.threads, u.group = k.uid ∧ u.core = core ∧ u.slice = slice ∧ s.eligible u = true) →
        (g.flag = false → k.flag = false ∧ g.last ≤ k.last) ∧ (g.flag = true → k.flag = true → k.starve ≤ g.starve)) ∧
    ((s.count core slice ms).fetchClause core head.ctx head.stand.1 head.stand.2 = (s1, .ok f) →
      s1.x = (s.count core slice ms).x →
      headerOk f.header = true → firstBadWord f.header f.words = none → hdrLmark f.header = false →
      ∃ (s' : State) (i : Issue), exec (.clauseIssue core slice) s0 = .next s' ∧ s'.issue? core slice = some i ∧
        i.hdr = head.stand.1 ∧ i.header = f.header ∧ i.words = f.words ∧ i.pos = head.stand.2 ∧
        s'.m.dram = s1.m.dram ∧
        (∀ t ∈ ms, ∃ u, s'.thread? t.uid = some u ∧ u.status = .issued ∧ u.starve = 0 ∧ u.fair = false ∧ u.v = t.v ∧
          u.p = t.p ∧ u.pc = t.pc) ∧
        ∀ t ∈ s.x.threads, t ∉ ms → ∃ u, s'.thread? t.uid = some u ∧ u.status = t.status ∧ u.v = t.v ∧ u.p = t.p ∧
          u.pc = t.pc ∧ u.starve = if (ms.any fun m => m.group == t.group) && s.eligible t then t.starve + 1 else t.starve)) ∧
  (∀ (s : State) (u : Nat),
    exec (.fairnessOverride u) s = .next (s.updThread u fun t => if 256 ≤ t.starve then { t with fair := true } else t) ∧
    exec (.starvationFlag u) s = .next (s.updGroup u fun g => if 1024 ≤ g.starve then { g with flag := true } else g)) ∧
  ∀ (s : State) (t : Thread) (c : Ctl) (b : SrcB) (y : Word), s.solo c.grd t → s.calm → t.inBlocks (bRuns b 1) = true →
    s.srcI t b = .ok y →
    (lnWatched t.name = false → exec (.lnmark c b) s = .next s) ∧
    (lnWatched t.name = true → t.isReplay = false → ∃ s' r, exec (.lnmark c b) s = .next s' ∧ s' = s.pushRecord r ∧
      r.extractLsb' 0 8 = 5#8 ∧ r.extractLsb' 384 128 = t.name ∧ r.extractLsb' 256 128 = y.zeroExtend 128 ∧
      r.extractLsb' 48 48 = t.pc.extractLsb' 0 48 ∧ r.extractLsb' 128 64 = BitVec.ofNat 64 (s.timeOf t))

/-- R74, R76, R90, R92, R95 to R97, R229: a store's write-back and the eviction of a line keep the value of every byte at home
but for the masked bytes that go there; an expired copy is a miss, and its masked bytes stay. A waiter completes with
the predicate true when its condition holds, and false at its deadline; where it does not hold the first time, the home keeps a
monitor if it has room. A couched entry is applied once every earlier
team has ended. -/
def Obligations.MemoryEvents : Prop :=
  (∀ (s : State) (core line q : Nat), Memory.wf s.m = true → (∀ l, (s.homeLine l).owner = none) →
    ∃ s', exec (.storeWritebackTimeout core line) s = .next s' ∧
      ((∀ c ∈ s.m.copies, c.place = .l1 core → c.line = line → c.mask ≠ [] → s.x.clk - c.since < 2 * 65536) → s' = s) ∧
      (q / 256 ≠ line → s'.homeByte q = s.homeByte q) ∧
      ∀ c, s.m.copies = [c] → c.place = .l1 core → c.line = line → 2 * 65536 ≤ s.x.clk - c.since →
        s'.homeByte (256 * line + q % 256) = (sget c.mask (q % 256)).getD (s.homeByte (256 * line + q % 256)) ∧
        ∀ k ∈ s'.m.copies, k.mask = []) ∧
  (∀ (s : State) (line q : Nat), Memory.wf s.m = true → (∀ l, (s.homeLine l).owner = none) →
    (∃ s', exec (.lineEviction .home line) s = .next s' ∧ s'.homeByte q = s.homeByte q ∧ (s'.homeLine line).bytes = [] ∧
      (s'.homeLine line).ctx = none) ∧
    (∀ p, p ≠ .home → (∀ c ∈ s.m.copies, c.mask = []) → ∃ s', exec (.lineEviction p line) s = .next s' ∧
      s'.homeByte q = s.homeByte q ∧ ∀ c ∈ s'.m.copies, ¬(c.place = p ∧ c.line = line))) ∧
  (∀ (s : State) (place : Place) (line : Nat), ∃ s', exec (.leaseExpiry place line) s = .next s' ∧ s'.m.dram = s.m.dram ∧
    s'.m.home = s.m.home ∧
    (∀ c ∈ s'.m.copies, c.place = place → c.line = line → c.own = none → c.expiry ≤ s.now (Place.die place) → c.sectors = []) ∧
    (∀ c ∈ s.m.copies, c.mask ≠ [] → (∀ k ∈ s.m.copies, k.place = c.place → k.line = c.line → k.ctx = c.ctx → k = c) →
      ∃ k ∈ s'.m.copies, k.place = c.place ∧ k.line = c.line ∧ k.ctx = c.ctx ∧ k.mask = c.mask) ∧
    ∀ c ∈ s.m.copies, (c.place ≠ place ∨ c.line ≠ line ∨ c.own.isSome ∨ s.now (Place.die place) < c.expiry) →
      (∀ k ∈ s.m.copies, k.place = c.place → k.line = c.line → k.ctx = c.ctx → k = c) → c ∈ s'.m.copies) ∧
  (∀ (s : State) (t : Thread) (f : Flight) (m : Monitor) (a : Acc) (w64 u : Bool) (cond : Cond) (k : DWord) (d p : Nat),
    s.thread? t.uid = some t → (∀ v ∈ s.x.threads, v.uid = t.uid → v = t) → t.status = .parkedMon →
    s.waitOf t.uid = some (f, m) → f.op = .waitc a w64 cond u k d p → (s.y.monitors.find? fun n => n.flight == f.uid) = some m →
    s.acquireDone f = true → s.swappedOut t = false → d + 1 < t.v.length → f.thread = t.uid →
    let n := if w64 then 8 else 4
    let ends (i : Instr) (v : DWord) (b : Bool) : Prop := ∃ s' t', exec i s = .next s' ∧ s'.thread? t.uid = some t' ∧
      (if w64 then t'.pair d else (t'.vget d).zeroExtend 64) = v ∧ (p < 63 → t'.pget p = b) ∧ t'.status = .boundary ∧
      (∀ j, (j < d ∨ d + n / 4 ≤ j) → t'.vget j = t.vget j) ∧ f ∉ s'.x.flights ∧ ∀ g ∈ s'.y.monitors, g.flight ≠ f.uid
    (∀ v b, m.woken = some (v, b) → v.toNat < 2 ^ (8 * n) → ends (.monitorWake t.uid) v b) ∧
    (m.woken = none → isWindow a.pa = false → Memory.wf s.m = true → (∀ l, (s.homeLine l).owner = none) →
      (∀ c ∈ s.m.copies, c.mask = []) → f.stalled = none → s.poisonSeen t.core t.ctx a.pa n true = false → ∀ dl, m.deadline = some dl → dl ≤ s.timeOf t →
      ends (.waitcTimeout t.uid) (s.homeWord a.pa w64) false) ∧
    (m.woken = none → m.monitor = false → f.stalled = none → s.accessFirst f = true → isWindow a.pa = false →
      s.poisonSeen t.core t.ctx a.pa n true = false → Memory.wf s.m = true →
      (∀ l, (s.homeLine l).owner = none) → (∀ c ∈ s.m.copies, c.mask = []) →
      (waitHolds w64 cond u (s.homeWord a.pa w64) k = true →
        ends (.monitorReevaluate t.uid) (s.homeWord a.pa w64) true) ∧
      (waitHolds w64 cond u (s.homeWord a.pa w64) k = false → ∃ s', exec (.monitorReevaluate t.uid) s = .next s' ∧
        s'.x = s.x ∧ s'.e = s.e ∧ (∀ q, s'.homeByte q = s.homeByte q) ∧ s'.y = (s.updMonitor f.uid fun q =>
          { q with monitor := if q.fresh then s.monitorRoom a else q.monitor, fresh := false, last := s.x.clk }).y))) ∧
  ∀ (s : State) (l : Launch) (c : CouchSend) (e : CouchEntry) (r : List CouchEntry), s.launch? l.uid = some l →
    s.couchReady l.uid = some c → c.entries = e :: r → Memory.wf s.m = true → (∀ l, (s.homeLine l).owner = none) →
    let n := if e.w64 then 8 else 4
    e.pa % n = 0 → isWindow e.pa = false →
    (∀ t ∈ l.before c.team, t ∈ l.ended ∧ ∀ k ∈ s.y.sent, k.launch = l.uid → k.team ≠ t) ∧
    ∃ s', exec (.couchedApply l.uid) s = .next s' ∧
      s'.homeWord e.pa e.w64 = atomBytes e.w64 e.op (s.homeWord e.pa e.w64) e.operand ∧
      (∀ q, q < e.pa ∨ e.pa + n ≤ q → s'.homeByte q = s.homeByte q) ∧ s'.x.threads.map Thread.v = s.x.threads.map Thread.v

/-- R30, R241, R311 to R317, R320, R332, R382: a queue's head record that a check refuses leaves it with the code in the
rejection registers; one that passes becomes a launch, and enters Placing once its waits hold. PLACE_CLUSTER places the
next cluster on the cores of a rectangle with room: the teams with W0 to W4 set, every other register zero and their
threads at ENTRY. A message's handler group holds 32 threads with its payload in V0 and V1. A tile job writes its
records and ends. -/
def Obligations.Dispatch : Prop :=
  (∀ (s : State) (ctx q : Nat) (h : QRec) (rest : List QRec), s.queue ctx q = h :: rest → s.launch? h.uid = none →
    (∀ c, s.headCode (mkLaunch h ctx q) = some c → q < 16 → ctx < s.d.ctxs.length → srising s.d.queues = true →
      (∀ r ∈ rest, r.uid ≠ h.uid) →
      ∃ s', exec (.launchHeadCheck ctx q) s = .next s' ∧ s'.queue ctx q = rest ∧ s'.m = s.m ∧ s'.x = s.x ∧
        if (s.ctx ctx).rejstat.getLsbD 16 then (s'.ctx ctx).rejptr = (s.ctx ctx).rejptr ∧
          (s'.ctx ctx).rejstat = (s.ctx ctx).rejstat ||| 0x20000#18
        else (s'.ctx ctx).rejptr = h.ptr ∧ (s'.ctx ctx).rejstat.getLsbD 16 = true ∧
          (s'.ctx ctx).rejstat.extractLsb' 0 8 = c.val ∧ (s'.ctx ctx).rejstat.extractLsb' 8 4 = BitVec.ofNat 4 q) ∧
    (s.headCode (mkLaunch h ctx q) = none → exec (.launchHeadCheck ctx q) s =
      .next { s with d := { s.d with launches := s.d.launches ++ [mkLaunch h ctx q] } })) ∧
  (∀ (s s1 : State) (l : Launch) (h : QRec) (rest : List QRec) (ds : List DRead), s.queue l.ctx l.queue = h :: rest →
    s.launch? h.uid = some l → l.state = .waiting → s.launchWaits l = false →
    s.dreads l 0 ((lrWaits l.record).map fun w => (w.1, 8)) = (s1, ds) →
    ((∃ d ∈ ds, ∃ c a, d = .code c a) → exec (.launchWaitsHold l.ctx l.queue) s = .next (s1.rejectHead l .illegalOperand)) ∧
    ((∀ d ∈ ds, ∃ bs, d = .ok bs) → (∃ w bs, (w, DRead.ok bs) ∈ (lrWaits l.record).zip ds ∧ leNat bs < w.2.toNat) →
      exec (.launchWaitsHold l.ctx l.queue) s = .next s) ∧
    ((∀ x ∈ (lrWaits l.record).zip ds, ∃ bs, x.2 = DRead.ok bs ∧ x.1.2.toNat ≤ leNat bs) → (∀ d ∈ ds, ∃ bs, d = .ok bs) →
      lrKind l.record = 0 → lrHandlers l.record = 0#64 → lrHittab l.record = 0#64 → lrFmttab l.record = 0#64 →
      s1.launchWaits l = false → s1.launch? l.uid = some l →
      ∃ s' k, exec (.launchWaitsHold l.ctx l.queue) s = .next s' ∧ s'.launch? l.uid = some k ∧ k.state = .placing ∧
        k.record = l.record ∧ k.placed = l.placed ∧ k.starve = s1.x.clk ∧ s'.x = s1.x ∧ s'.m = s1.m)) ∧
  (∀ (s : State) (l : Launch) (core cluster : Nat) (r : List Nat) (rest : List (Nat × List Nat)), s.launch? l.uid = some l →
    s.mayPlace l = true →
    (∀ k ∈ s.d.launches, k.uid = l.uid ∨ s.mayPlace k = false ∨ s.ahead k l = false ∨ s.nextFits k = false) →
    s.launchWaits l = false → s.placeSpot l core = (cluster, r) :: rest →
    (∀ p ∈ s.placeSpot l core, ∀ c ∈ p.2, s.coreTaken c = false) →
    (lrKind l.record = 1 → rest = [] → ∃ s' k n, exec (.placeCluster l.uid core) s = .next s' ∧
      s'.e.tiles = s.e.tiles ++ [n] ∧ n.launch = l.uid ∧ n.core = r.headD 0 ∧ n.index = cluster ∧
      s'.launch? l.uid = some k ∧ k.placed = l.placed + 1 ∧ k.state = (if l.total ≤ l.placed + 1 then .running else l.state)) ∧
    (lrKind l.record = 0 → l.replay = none → rest = [] → lrDet l.record = false → r = [core] →
      ∃ s' tm k, exec (.placeCluster l.uid core) s = .next s' ∧ s'.x.teams = s.x.teams ++ [tm] ∧ tm.launch = l.uid ∧
        tm.core = core ∧ tm.cluster = cluster ∧ tm.rank = 0 ∧ tm.logical = l.cs * cluster ∧
        tm.w = [(lrArgs l.record).extractLsb' 0 32, (lrArgs l.record).extractLsb' 32 32, BitVec.ofNat 32 l.gx,
          BitVec.ofNat 32 l.gy, BitVec.ofNat 32 l.cs] ++ List.replicate 59 0#32 ∧
        tm.tiles = List.replicate (lrAcc l.record) [] ∧ tm.spad = [] ∧ lrScratch l.record ≤ tm.ssize ∧ tm.swapped = none ∧
        (∀ i, i < lrTeam l.record → ∃ t ∈ s'.x.threads, t.team = some tm.uid ∧ t.tix = i ∧ t.core = core ∧
          t.slice = i / 32 % 8 ∧ t.lane = i % 32 ∧ t.pc = lrEntry l.record ∧ t.status = .boundary ∧ t.p = 0#64 ∧
          t.v = List.replicate (16 * lrRegb l.record) 0#32) ∧
        (∀ t ∈ s.x.threads, ∃ w, { t with wct := w } ∈ s'.x.threads) ∧ s'.launch? l.uid = some k ∧ k.placed = l.placed + 1)) ∧
  (∀ (s : State) (m : Msg) (e : BitVec 256) (slice slot : Nat), (s.e.msgs.find? fun k => k.uid == m.uid) = some m →
    (s.e.msgs.find? fun k => k.target == m.target && k.queued && k.group.isNone) = some m → (s.ctx m.ctx).frozen = false →
    s.msgEntry m.launch m.handler = some e →
    s.groupFits m.target slice (e.extractLsb' 128 8).toNat (s.lweight m.launch) = some slot →
    1 ≤ (e.extractLsb' 128 8).toNat → m.len % 8 = 0 → m.payload.length = m.len →
    ∃ s' ts, exec (.messageHandlerSpawn m.uid slice) s = .next s' ∧ s'.x.threads = s.x.threads ++ ts ∧ ts.length = 32 ∧
      ∀ (i : Nat) (t : Thread), ts[i]? = some t → t.lane = i ∧ t.core = m.target ∧ t.slice = slice ∧ t.slot = slot ∧
        t.kind = .message m.uid ∧ t.pc = e.extractLsb' 0 64 ∧ t.v.length = 16 * (e.extractLsb' 128 8).toNat ∧
        t.pair 0 = (if 8 * i < m.len then BitVec.ofNat 64 (leNat ((m.payload.drop (8 * i)).take 8)) else 0#64) ∧
        t.vget 2 = BitVec.ofNat 32 m.sender ∧ t.vget 3 = BitVec.ofNat 32 m.len ∧ t.vget 4 = m.senderTeam) ∧
  ∀ (s s1 s2 : State) (l : Launch) (k : Tile) (log : List (List Byte × Bool)) (xs : List ((Nat × Nat × Nat) × Option TriHit × Bool)),
    (s.e.tiles.find? fun t => t.uid == k.uid) = some k → s.launch? k.launch = some l → k.stalled = none →
    s.tileTrace l k none = (s1, log, .ok xs) →
    (s1.updTile k.uid fun t => { t with log := log }).tileChecks l k xs = (s2, .ok ()) →
    ∀ (σ : Nat → State) (ω : Nat → Sparse Nat), σ 0 = s2 →
      (∀ i x, xs[i]? = some x → (σ i).tileWrite l k x.1 x.2.1 x.2.2 = (σ (i + 1), .ok (ω i))) →
      exec (.tileJob k.uid) s = .next ((σ xs.length).endTile k ((List.range xs.length).foldl (fun a i => wctJoin a (ω i)) []))

/-- R94, R312, R376, R414: LAUNCH_COMPLETE of a launch whose teams have ended does its release, after which no L1 holds a
masked byte of its context; once its writes have completed everywhere it adds SIGVAL to the SIGNAL counter and drops its
section entries and bindings; a signal that cannot be made freezes the context. ORDERED_STALL traps a launch that has
stood stalled for 2^20 fabric clocks once in an episode, and freezes its context where it has no handler, or where the episode
outlasts the handler's end by as long; the clock since which a launch stands stalled is kept after every step, and so is the end of an episode, when a watched
thread is granted, woken, resumed or exits. -/
def Obligations.LaunchEnd : Prop :=
  ∀ (s : State) (l : Launch), s.launch? l.uid = some l →
    (s.launchOver l = false → exec (.launchComplete l.uid) s = .next s) ∧
    (s.launchOver l = true → l.released = false → lrDet l.record = false →
      ∃ s' k, exec (.launchComplete l.uid) s = .next s' ∧ s'.launch? l.uid = some k ∧ k.released = true ∧
        k.record = l.record ∧ k.state = l.state ∧
        (∀ c ∈ s'.m.copies, ∀ core, core < 144 → c.place = .l1 core → c.ctx = l.ctx → c.mask = []) ∧
        ((∀ c ∈ s.m.copies, c.mask = []) → s'.m = s.m ∧ k.wct = l.wct)) ∧
    (s.launchOver l = true → l.released = true →
      (s.allPassed l.wct = false → exec (.launchComplete l.uid) s = .next s) ∧
      (s.allPassed l.wct = true →
        let done (s' : State) : Prop := exec (.launchComplete l.uid) s = .next s' ∧ (∃ k, s'.launch? l.uid = some k ∧ k.state = .done) ∧
          (∀ k ∈ s'.y.keys, k.launch ≠ l.uid) ∧ (∀ b ∈ s'.e.bindings, b.launch ≠ l.uid) ∧ s'.x.threads.map Thread.v = s.x.threads.map Thread.v
        let p := lrSignal l.record
        (p = 0#64 → ∃ s', done s' ∧ s'.m = s.m) ∧
        (p ≠ 0#64 → (∀ f ∈ s.d.dfails, f.1 ≠ l.uid) → (∀ f ∈ s.h.faults, ∀ w ∈ f.waiters, w.1 ≠ .launch l.uid) →
          ∀ s1, (∀ pa segs, s.engCheck 0 l.ctx p 8 true 0#12 = (s1, .ok segs) → pa = (segs.headD (0, 0)).1 → pa % 8 = 0 →
            isWindow pa = false → Memory.wf s1.m = true → (∀ n, (s1.homeLine n).owner = none) →
            s1.x.threads = s.x.threads → s1.launch? l.uid = some l →
            ∃ s', done s' ∧ s'.homeWord pa true = s1.homeWord pa true + lrSigval l.record ∧
              ∀ q, q < pa ∨ pa + 8 ≤ q → s'.homeByte q = s1.homeByte q) ∧
          ∀ c a, s.engCheck 0 l.ctx p 8 true 0#12 = (s1, .error (.code c a)) → (s1.ctx l.ctx).frozen = false →
            l.ctx < s1.d.ctxs.length → s1.x.threads = s.x.threads → s1.launch? l.uid = some l →
            ∃ s', done s' ∧ (s'.ctx l.ctx).frozen = true ∧ reportCode (s'.ctx l.ctx).report = c.val ∧
              (s'.ctx l.ctx).report.extractLsb' 256 64 = p ∧ (s'.ctx l.ctx).report.extractLsb' 320 64 = 0#64 ∧
              (s'.ctx l.ctx).report.getLsbD 82 = true ∧ s'.m = s1.m))) ∧
    (l.stallFired = false → l.stallSince = none → exec (.orderedStall l.uid) s = .next s) ∧
    (l.stallFired = false → ∀ c, l.stallSince = some c →
      (s.x.clk < c + 1048576 → exec (.orderedStall l.uid) s = .next s) ∧
      (c + 1048576 ≤ s.x.clk → (s.ctx l.ctx).frozen = false → ∃ s' k, exec (.orderedStall l.uid) s = .next s' ∧
        s'.launch? l.uid = some k ∧ k.stallFired = true ∧ s'.x = s.x ∧ s'.m = s.m ∧
        (lrTraph l.record ≠ 0#64 → k.traps = l.traps ++ [s.stallReport l] ∧ s'.d.ctxs = s.d.ctxs) ∧
        (lrTraph l.record = 0#64 → l.ctx < s.d.ctxs.length → (s'.ctx l.ctx).frozen = true ∧
          (s'.ctx l.ctx).report = s.stallReport l ||| 1#512 <<< 82))) ∧
    (l.stallFired = true →
      ((∀ c, l.stallEnd = some c → s.x.clk < c + 1048576) → exec (.orderedStall l.uid) s = .next s) ∧
      ∀ c, l.stallEnd = some c → c + 1048576 ≤ s.x.clk → (s.ctx l.ctx).frozen = false → l.ctx < s.d.ctxs.length →
        ∃ s', exec (.orderedStall l.uid) s = .next s' ∧ s'.x = s.x ∧ s'.m = s.m ∧ (s'.ctx l.ctx).frozen = true ∧
          (s'.ctx l.ctx).report = s.stallReport l ||| 1#512 <<< 82) ∧
    (s.watchStall.x = s.x ∧ s.watchStall.m = s.m ∧ ∃ k ∈ s.watchStall.d.launches, k.uid = l.uid ∧ k.record = l.record ∧
      k.state = l.state ∧ (s.stalledNow l = false → k.stallSince = none) ∧
      k.stallFired = (l.stallFired && !stallMoved l.watched (s.stallList l)) ∧
      (s.stalledNow l = true → (∀ t ∈ s.x.threads, t.launch = l.uid → t.isHandler = true → t.status = .exited) →
        k.stallSince = some (l.stallSince.getD s.x.clk)))

/-- R320, R321, R323, R332, R351, R387, R388, R453: a cluster that has not fitted reserves the free rectangle that holds the fewest
teams after 65,536 core clocks, and asks the fewest teams of lower priority to leave after 8192, and no further tile jobs of lower
priority to come there; a cooperative launch asks for what its whole grid needs; the latest swappable team
of a starving launch on its rectangle, and the teams of a context that have outlived its slice, are asked to leave. None
is asked that has no save area or whose couched entries do not fit its spill area, and no thread changes. -/
def Obligations.AskedToLeave : Prop :=
  (∀ (s : State) (l : Launch) (c p : Nat), s.launch? l.uid = some l → l.next = some (c, p) → l.state = .placing →
    s.nextFits l = false →
    let free (r : List Nat) : Prop := ∀ k ∈ r, ∀ n ∈ s.d.launches, n.uid = l.uid ∨ n.prio < l.prio ∨ k ∉ n.resv
    let held (r : List Nat) : Nat := (r.map fun k => (s.x.teams.filter fun t => t.core == k && t.swapped.isNone).length).sum
    (l.resv = [] → 2 * 65536 ≤ s.x.clk - l.starve → (∃ r ∈ l.rects p, free r) →
      ∃ s' k, exec (.placementReservation l.uid) s = .next s' ∧ s'.launch? l.uid = some k ∧ k.resv ∈ l.rects p ∧ free k.resv ∧
        (∀ r ∈ l.rects p, free r → held k.resv ≤ held r) ∧ s'.x = s.x ∧ s'.m = s.m ∧
        ∀ n ∈ s.d.launches, n.uid ≠ l.uid → l.prio ≤ n.prio → n ∈ s'.d.launches) ∧
    (s.x.clk - l.starve < 2 * 8192 → exec (.placementReservation l.uid) s = .next s ∧
      exec (.priorityPreempt l.uid) s = .next s ∧ exec (.swapOut l.uid) s = .next s)) ∧
  (∀ (s : State) (t : Team), (s.x.teams.map Team.uid).Nodup → t ∈ s.x.teams → t.stopping = false → ∀ (ctx lid : Nat),
    ∀ i, i = .priorityPreempt lid ∨ i = .swapOut lid ∨ i = .timeSlicePreempt ctx →
      ∃ s', exec i s = .next s' ∧ s'.x.threads = s.x.threads ∧ s'.m = s.m ∧
        ∃ u ∈ s'.x.teams, u = { t with stopping := u.stopping } ∧ (u.stopping = true → t.swapped = none ∧ t.shadowOf = none ∧
          (∃ k, s.launch? t.launch = some k ∧ lrSave k.record ≠ 0#64 ∧
            (i = .priorityPreempt lid → ∃ l, s.launch? lid = some l ∧ k.prio < l.prio) ∧
            (i = .swapOut lid → t.launch = lid)) ∧ (s.spillTeam t).2 = true)) ∧
  ∀ (s : State) (l : Launch) (c p : Nat), (s.x.teams.map Team.uid).Nodup → s.launch? l.uid = some l → l.next = some (c, p) →
    let asks (i : Instr) (us : List Nat) : Prop := ∃ s', exec i s = .next s' ∧ ∀ t ∈ s.x.teams, t.uid ∈ us →
      s.savable t = true → (∀ u ∈ s.together t, (s.spillTeam u).2 = true) → s'.team? t.uid = some { t with stopping := true };
    (let fit (r : List Nat) (vs : List (List Nat)) : Prop := r ∈ l.rects p ∧ (∀ k ∈ r, s.reservedFrom l k = false) ∧
        r.map ((s.withoutTiles l.prio).coreVictims l c) = vs.map some;
      let holds (r : List Nat) : Prop := ∀ s', exec (.priorityPreempt l.uid) s = .next s' → ∀ m ∈ s.d.launches, m.tileJobs = true →
        m.held = none → m.prio < l.prio → (∃ k ∈ s.e.tiles, k.launch = m.uid ∧ k.core ∈ r) →
        { m with held := some s.x.clk } ∈ s'.d.launches;
      s.mayPlace l = true → s.nextFits l = false → 2 * 8192 ≤ s.x.clk - l.starve →
      (∀ t ∈ s.x.teams, t.stopping = false) →
      (l.coop = false → (∃ r vs, fit r vs) →
        ∃ r vs, fit r vs ∧ (∀ r' vs', fit r' vs' → vs.flatten.length ≤ vs'.flatten.length) ∧
          asks (.priorityPreempt l.uid) vs.flatten ∧ holds r) ∧
      (l.coop = true → ∀ us, (s.withoutTiles l.prio).gridVictims l = some us →
        asks (.priorityPreempt l.uid) us ∧ holds (List.range 144))) ∧
    (let mine (t : Team) : Prop := t ∈ s.x.teams ∧ t.launch = l.uid ∧ t.stopping = false ∧ t.core ∈ l.resv ∧ s.swappable t = true;
      let pos (t : Team) : Nat := l.teamOrder.findIdx fun k => k == t.logical;
      l.state = .placing → l.resv ≠ [] → 2 * 65536 ≤ s.x.clk - l.starve → (∀ t ∈ s.x.teams, t.stopping = false) →
      s.rectFits l c l.resv = false → (∃ t, mine t) →
      ∃ t, mine t ∧ (∀ u, mine u → pos u ≤ pos t) ∧ asks (.swapOut l.uid) [t.uid]) ∧
    (s.mayPlace l = true → s.nextFits l = false → (s.ctx l.ctx).enabled = true → ∀ ctx, ctx ≠ l.ctx → (s.ctx ctx).tslice ≠ 0 →
      asks (.timeSlicePreempt ctx) ((s.x.teams.filter fun t => t.ctx == ctx && !t.stopping &&
        decide (2 ^ ((s.ctx ctx).tslice + 10) ≤ (s.x.clk - t.since) / 2)).map Team.uid))

/-- R27, R253, R313, R322, R324, R385, R387: PREEMPT_TEAM saves a team that has been asked to stop and that nothing keeps:
its registers, tiles and scratchpad stay as they are, its couched entries are spilled in sort-key order, and no byte of memory
changes but those that the device writes into its two areas and the dirty bytes of its context that the core sends home; a TRWAIT,
COLLW or WAITK that waits is abandoned, with the thread back at the instruction. RESTORE_TEAM puts a swapped team on a
core with room, in the slots it had where that is its own. -/
def Obligations.SaveAndRestore : Prop :=
  (∀ (s : State) (tm : Team), s.team? tm.uid = some tm → (∀ k ∈ s.x.teams, k.uid = tm.uid → k = tm) → (s.x.threads.map Thread.uid).Nodup →
    tm.stopping = true → s.together tm = [tm] → s.canSave tm = true →
    (s.spillFits tm = true → ∃ s' k, exec (.preemptTeam tm.uid) s = .next s' ∧ s'.team? tm.uid = some k ∧
      k.swapped.isSome = true ∧ k.stopping = false ∧ k.w = tm.w ∧ k.k = tm.k ∧ k.d = tm.d ∧ k.tiles = tm.tiles ∧
      k.spad = tm.spad ∧ k.core = tm.core ∧
      k.spilled = couchSort (tm.spilled ++ couchSort ((s.couchBuf tm.core).filter fun e => e.ofTeam tm)) ∧
      (srising s.y.couch = true → ∀ e ∈ s'.couchBuf tm.core, e.ofTeam tm = false) ∧
      (((s.couchBuf tm.core).filter fun e => e.ofTeam tm) = [] → (s.spillTeam tm).1.m = s.m) ∧
      (∀ l, s.launch? tm.launch = some l → ∃ u : State, u.m = (s.spillTeam tm).1.m ∧ u.h = s.h ∧
        u.freeCtr = (s.spillTeam tm).1.freeCtr ∧ s'.m = ((u.releaseCore tm.core tm.ctx).1.areaWrite tm.core tm.ctx (lrSave l.record +
        BitVec.ofNat 64 (tm.logical * lrSavesz l.record)) (lrSavesz l.record)).1.m) ∧
      ((∀ t ∈ s.x.threads, t.team = some tm.uid → ∀ f ∈ s.x.flights, f.thread = t.uid → f.abandoned t = false) →
        s'.x.flights = s.x.flights ∧
          s'.x.threads.map (fun t => { t with wct := [] }) = s.x.threads.map fun t => { t with wct := [] }) ∧
      ∀ t f, s.thread? t.uid = some t → t.team = some tm.uid → t.trap = none → (∀ u ∈ s.x.threads, u.team = some tm.uid → u = t) →
        (s.x.flights.filter fun g => g.thread == t.uid) = [f] → f.abandoned t = true →
        ∃ u, s'.thread? t.uid = some u ∧ u.pc = f.site.pc ∧ u.hdr = f.site.hdr ∧ u.mid = true ∧ u.status = .boundary ∧
          u.v = t.v ∧ u.p = t.p ∧ f ∉ s'.x.flights) ∧
    (s.spillFits tm = false → (s.ctx tm.ctx).saved = false →
      exec (.preemptTeam tm.uid) s = .next (s.updTeam tm.uid fun t => { t with stopping := false })) ∧
    (s.spillFits tm = false → (s.ctx tm.ctx).saved = true → tm.spillTrap = false → ∀ l, s.launch? tm.launch = some l →
      lrTraph l.record ≠ 0#64 → (s.ctx l.ctx).frozen = false →
      ∃ s' k r, exec (.preemptTeam tm.uid) s = .next s' ∧ s'.launch? tm.launch = some k ∧ k.traps = l.traps ++ [r] ∧
        reportCode r = Code.couchSpillFull.val ∧ s'.x.threads = s.x.threads ∧ s'.m = s.m)) ∧
  (∀ (s : State) (core ctx len q : Nat) (p : DWord) (σ : Nat → State), Memory.wf s.m = true → (∀ l, (s.homeLine l).owner = none) →
    let bs := (Config.areaBytes s.freeCtr).filter fun b => decide (b.1 < len)
    let put (k : Nat) (b : Nat × Byte) : State × Option Nat := (σ k).areaPa core ctx (p + BitVec.ofNat 64 b.1) true
    σ 0 = s.takeFree.2 → (∀ k b, bs[k]? = some b → σ (k + 1) = match (put k b).2 with
      | some pa => ((put k b).1.writeHome ctx 0#12 pa [b.2] false).1
      | none => (put k b).1) →
    s.areaWrite core ctx p len = (σ bs.length, s.freeCtr) ∧
    ((∀ k b, bs[k]? = some b → (put k b).2 ≠ some q) → (s.areaWrite core ctx p len).1.homeByte q = s.homeByte q)) ∧
  (∀ (s : State) (u core : Nat), (∀ tm, s.team? u = some tm → s.restorable tm = false ∨ s.restoreFits tm core = false ∨
    s.restoreBefore tm = true) → exec (.restoreTeam u core) s = .next s) ∧
  ∀ (s : State) (tm : Team) (core : Nat), s.team? tm.uid = some tm → (∀ k ∈ s.x.teams, k.uid = tm.uid → k = tm) →
    s.restorable tm = true → s.restoreFits tm core = true → s.restoreBefore tm = false →
    (∀ l, s.launch? tm.launch = some l → l.coop = false) → (s.x.groups.map Group.uid).Nodup →
    (∀ r ∈ tm.k, r = ConvReg.zero) → (∀ t ∈ s.x.threads, t.team = some tm.uid → t.fail = none ∧ ∀ h, t.status ≠ .held h) →
    ∃ s' k, exec (.restoreTeam tm.uid core) s = .next s' ∧ s'.team? tm.uid = some k ∧ k.core = core ∧ k.swapped = none ∧
      k.since = s.x.clk ∧ k.w = tm.w ∧ k.k = tm.k ∧ k.d = tm.d ∧ k.tiles = tm.tiles ∧ k.spad = tm.spad ∧ k.spilled = tm.spilled ∧
      (∀ g ∈ s.x.groups, g.team = some tm.uid → ∃ h ∈ s'.x.groups, h.uid = g.uid ∧ h.core = core ∧ h.slice = g.slice ∧
        (core = tm.core → h.slot = g.slot)) ∧
      (∀ t ∈ s.x.threads, (∃ g ∈ s.x.groups, g.uid = t.group ∧ g.team = some tm.uid) →
        ∃ slot w, { t with core := core, slot := slot, wct := w } ∈ s'.x.threads) ∧
      ∀ t ∈ s.x.threads, (∀ g ∈ s.x.groups, g.uid = t.group → g.team ≠ some tm.uid) → ∃ w, { t with wct := w } ∈ s'.x.threads

/-- R8, R98, R409, R410: TIME_AGREEMENT_CHECK puts a die into the guard state where it differs from another die by more than
1 ns or from a linked peer by more than 20 ns, records the disagreement, raises LEASE_CLOCK past 2 ns and 40 ns, and drops
every clean leased copy of a line homed on a guarded die, and every one of a fatal device; masked bytes stay. GUARD_EXIT ends the state after 1,000,000 ns
of agreement, and LCSTAT_CLEAR zeroes SKEW alone. The hubs keep what each link's peer is ahead by. -/
def Obligations.TimeAgreement : Prop :=
  (∀ (s : State) (peers : List Int), s.h.lc.length = 4 →
    ∃ s' rs, exec (.timeAgreementCheck peers) s = .next s' ∧ s'.h.errors = s.h.errors ++ rs ∧ s'.m.dram = s.m.dram ∧ s'.m.home = s.m.home ∧
      s'.x.threads = s.x.threads ∧ s'.x.devTime = s.x.devTime ∧
      s'.b.peers = ((List.range 12).map fun n => peers.getD n 0) ∧
      (∀ d, d < 4 →
        let l := s.h.lc.getD d LeaseClock.reset
        let k := s'.h.lc.getD d LeaseClock.reset
        let die (e : Nat) : Nat := max (s.now d) (s.now e) - min (s.now d) (s.now e)
        let link (j : Nat) : Nat := if s.b.links.getLsbD (3 * d + j) then (peers.getD (3 * d + j) 0).natAbs else 0
        let off : Prop := (∃ e, e < 4 ∧ 1 < die e) ∨ ∃ j, j < 3 ∧ 20 < link j
        let late : Prop := (∃ e, e < 4 ∧ 2 < die e) ∨ ∃ j, j < 3 ∧ 40 < link j
        (k.guard = true ↔ l.guard = true ∨ off) ∧ (k.event = true ↔ l.event = true ∨ late) ∧
        (off → k.calm = s.now d) ∧ (¬off → k.calm = l.calm) ∧ (∀ e, e < 4 → k.die.getLsbD e = decide (1 < die e)) ∧
        (∀ j, j < 3 → k.link.getLsbD j = decide (20 < link j)) ∧ l.skew.toNat ≤ k.skew.toNat ∧
        (∀ e, e < 4 → min (die e) 0xFFFFFFFF ≤ k.skew.toNat) ∧ (∀ j, j < 3 → min (link j) 0xFFFFFFFF ≤ k.skew.toNat) ∧
        (k.skew = l.skew ∨ (∃ e, e < 4 ∧ k.skew.toNat = min (die e) 0xFFFFFFFF) ∨
          ∃ j, j < 3 ∧ k.skew.toNat = min (link j) 0xFFFFFFFF) ∧
        (l.event = false → late → ∃ r ∈ rs, r.code = .leaseClock ∧ (r.unit = 11 ∨ r.unit = 12) ∧
          r.parked = false ∧ r.time = s.now d)) ∧
      let guarded (c : Copy) : Prop := s.b.fatal = true ∨ (s'.h.lc.getD (homeDie (256 * c.line)) LeaseClock.reset).guard = true
      (∀ c ∈ s'.m.copies, c.own = none → guarded c → c.sectors = [] ∧ c.mask ≠ []) ∧
      (∀ c ∈ s.m.copies, (¬guarded c ∨ c.own.isSome = true) → c ∈ s'.m.copies) ∧
      (∀ c ∈ s.m.copies, guarded c → c.own = none → c.mask ≠ [] → { c with sectors := [] } ∈ s'.m.copies) ∧
      ∀ c ∈ s'.m.copies, ∃ b ∈ s.m.copies, c = { b with sectors := c.sectors }) ∧
  ∀ (s : State) (d : Nat), d < s.h.lc.length →
    let l := s.h.lc.getD d LeaseClock.reset
    let with_ (f : LeaseClock → LeaseClock) : State := { s with h := { s.h with lc := s.h.lc.modify d f } }
    (l.guard = true → l.calm + 1000000 ≤ s.now d → exec (.guardExit d) s = .next (with_ fun l => { l with guard := false })) ∧
    ((l.guard = false ∨ s.now d < l.calm + 1000000) → exec (.guardExit d) s = .next s) ∧
    exec (.lcstatClear d) s = .next (with_ fun l => { l with skew := 0#32 })

/-- R287, R347, R353, R355, R356, R377, R405, R422, R423, R428, R448, R452: what the host's writes to the management window
do. A write through REGISTER_WRITE acts on the register at its offset, a 4-byte one on the half it covers, and one of 16 bytes as
two of 8, the lower address first; one of 1 or 2 bytes, or a misaligned one, is ignored, and the doorbells, FRESUME and ERRESUME
act only on 8 bytes. One to the doorbells is lost where no link is trained; that it comes through a trained one where there is
any is the model's choice (log 82). -/
def Obligations.HostRegisters : Prop :=
  (∀ (s : State) (w : BitVec 32),
    let watts := max 400 (min (w.toNat % 4096) 2800)
    exec (.plimitWrite w) s = .next { s with h := { s.h with
      plimit := BitVec.ofNat 12 watts
      cbudget := List.replicate 144 (BitVec.ofNat 10 (min 1023 (1023 * (watts - 400) / 2400))) } }) ∧
  (∀ (s : State) (die mon : Nat) (v : Word), exec (.monitorClear die mon) s = .next { s with h := { s.h with
      health := s.h.health.modify (16 * die + mon) fun h =>
        { h with min := 0xFFFFFFFF#32, max := 0#32, count := 0#32, bins := List.replicate 32 0#32 } } } ∧
    (16 * die + mon < s.h.health.length →
      let h := s.h.health.getD (16 * die + mon) Health.reset
      let en := (h.ctl.extractLsb' 0 2).toNat
      let taken := en = 1 ∨ (en = 2 ∧ h.seen % 256 = 0) ∨ (en = 3 ∧ h.seen % 65536 = 0)
      ∃ k, exec (.healthSample die mon v) s = .next { s with h := { s.h with health := s.h.health.set (16 * die + mon) k } } ∧
        k.ctl = h.ctl ∧ k.seen = h.seen + 1 ∧
        (taken → k.min.toNat = Nat.min h.min.toNat v.toNat ∧ k.max.toNat = Nat.max h.max.toNat v.toNat ∧
          k.count.toNat = Nat.min (h.count.toNat + 1) 0xFFFFFFFF ∧ k.bins.length = h.bins.length ∧
          ∀ i, i < h.bins.length → (k.bins.getD i 0#32).toNat =
            if i = Nat.min 31 ((v.toNat - (h.ctl.extractLsb' 32 32).toNat) / 2 ^ (h.ctl.extractLsb' 11 5).toNat) then
              Nat.min ((h.bins.getD i 0#32).toNat + 1) 0xFFFFFFFF else (h.bins.getD i 0#32).toNat) ∧
        (¬taken → k.min = h.min ∧ k.max = h.max ∧ k.count = h.count ∧ k.bins = h.bins))) ∧
  (∀ (s : State), exec .quote s = .next { s with h := { s.h with quoting := true } } ∧
    (s.h.quoting = true →
      exec .quoteDone s = .next { s with h := { s.h with quoting := false, sigKey := some (s.h.nonce, s.h.meas) } }) ∧
    (s.h.quoting = false → exec .quoteDone s = .next s)) ∧
  (∀ (s : State) (w : Nat) (v : DWord) (d ctx : Nat),
    let put (f : Watch → Watch) : State := { s with h := { s.h with watches := s.h.watches.modify w f } }
    exec (.watchWrite w 0 v) s = .next (put fun k => { k with ctl := v &&& 0xFF3#64 }) ∧
    exec (.watchWrite w 8 v) s = .next (put fun k => { k with name := k.name.extractLsb' 64 64 ++ v }) ∧
    exec (.watchWrite w 16 v) s = .next (put fun k => { k with name := v ++ k.name.extractLsb' 0 64 }) ∧
    exec (.watchWrite w 24 v) s = .next (put fun k => { k with mask := k.mask.extractLsb' 64 64 ++ v }) ∧
    exec (.watchWrite w 32 v) s = .next (put fun k => { k with mask := v ++ k.mask.extractLsb' 0 64 }) ∧
    exec (.watchWrite w 40 v) s = .next (put fun k => { k with rect := v &&& 0x1FFF1FFF1FFF1FFF#64 }) ∧
    exec (.watchWrite w 48 v) s = .next (put fun k => { k with surf := v }) ∧
    exec (.watchWrite w 56 v) s = .next (put fun k => { k with pitch := v &&& 0xFFFFFFFF#64 }) ∧
    exec (.cbbaseWrite v) s = .next { s with h := { s.h with
      cb := { s.h.cb with base := v, head := 0#32, tail := 0#32, drop := 0#32, sent := [] } } } ∧
    exec (.errcntClear d) s = .next { s with h := { s.h with
      corr := s.h.corr.modify d fun _ => 0#32, linkerr := s.h.linkerr.modify d fun _ => 0#16 } } ∧
    exec (.haltMarkClear ctx) s = .next { s with d := { s.d with
      ctxs := s.d.ctxs.modify ctx fun k => { k with halted := false } } }) ∧
  ∀ (s : State) (v : DWord) (id : BitVec 32) (off w d c q i : Nat), d < 4 → c < 64 → q < 16 → i < 8 →
    let wr (o : Nat) (v : DWord) := exec (.registerWrite o 8 (v.zeroExtend 128)) s
    let half (o : Nat) (v : DWord) := exec (.registerWrite o 4 (v.zeroExtend 128)) s
    (∀ x, (w ≠ 4 ∧ w ≠ 8 ∧ w ≠ 16) ∨ off % w ≠ 0 ∨ 0x100000000 ≤ off → exec (.registerWrite off w x) s = .next s) ∧
    (∀ (s1 : State) (u : DWord), off % 16 = 0 → off < 0x100000000 → wr off v = .next s1 →
      exec (.registerWrite off 16 (u ++ v)) s = exec (.registerWrite (off + 8) 8 (u.zeroExtend 128)) s1) ∧
    wr 0x100 v = .next { s with h := { s.h with ctxbase := v } } ∧
    half 0x100 v = .next { s with h := { s.h with
      ctxbase := s.h.ctxbase.extractLsb' 32 32 ++ v.extractLsb' 0 32 } } ∧
    half 0x104 v = .next { s with h := { s.h with
      ctxbase := v.extractLsb' 0 32 ++ s.h.ctxbase.extractLsb' 0 32 } } ∧
    wr 0x110 v = .next { s with h := { s.h with apbase := v &&& 0xFFFFFFFF0000#64 } } ∧
    wr 0x118 v = .next { s with h := { s.h with qovf := s.h.qovf &&& ~~~v } } ∧
    wr 0x200 v = exec (.plimitWrite (v.extractLsb' 0 32)) s ∧ half 0x204 v = .next s ∧
    wr (0x40000000 * d + 0x300) 4#64 = exec (.lcstatClear d) s ∧
    wr (0x40000000 * d + 0x400) 1#64 = exec (.errcntClear d) s ∧
    wr (0x50040 + 128 * c) 0x100#64 = exec (.kill c) s ∧ wr (0x50040 + 128 * c) 0x200#64 = exec (.resume c) s ∧
    wr (0x50048 + 128 * c) 1#64 = exec (.hfrzWrite c) s ∧
    wr 0x70020 (id ++ 1#32) = exec (.faultRetry id) s ∧ wr 0x70020 (id ++ 2#32) = exec (.faultFail id) s ∧
    wr 0xA0028 (id ++ 1#32) = exec (.errorRetry id) s ∧ wr 0xA0028 (id ++ 2#32) = exec (.errorFreeze id) s ∧
    wr (0x80000 + 64 * i + 8 * (q % 8)) v = exec (.watchWrite i (8 * (q % 8)) v) s ∧
    wr 0x90000 v = exec (.cbbaseWrite v) s ∧
    (∀ l, s.b.pcie.getLsbD l = true → wr (0x10000000 + 4096 * c + 8 * q) v = exec (.doorbell ⟨l, c⟩ q v) s) ∧
    (s.b.pcie = 0#2 → wr (0x10000000 + 4096 * c + 8 * q) v = .next s) ∧
    (∀ o, o = 0x70020 ∨ o = 0xA0028 ∨ o = 0x10000000 + 4096 * c + 8 * q →
      half o v = .next s ∧ half (o + 4) v = .next s) ∧
    ((∀ k, k < 64 → k ≠ c → v.getLsbD k = (s.ctx k).enabled) →
      (v.getLsbD c = true → (s.ctx c).enabled = false → wr 0x108 v = exec (.contextEnable c) s) ∧
      (v.getLsbD c = false → (s.ctx c).enabled = true → wr 0x108 v = exec (.contextDisable c) s))

/-- R351, R352, R377, R378, R380, R381, R414, R446, R451: a doorbell write of an enabled context waits for its record to be read,
and one of a disabled context, or through a link that is down, is dropped. CONTEXT_ENABLE takes up a descriptor that is admitted; CONTEXT_DISABLE is ignored while
the context is in use. HFRZ freezes a context with a report of CODE 0. KILL ends everything of a frozen context, and
KILL_COMPLETE clears FROZEN when nothing of it remains: accesses to memory in flight go on, and entries already sent are applied
(the model's choice, log 79). RESUME, but on a fatal device, releases its threads, and ends the stall episodes of its launches. -/
def Obligations.HostOnContexts : Prop :=
  ∀ (s : State) (link c q : Nat) (ptr : DWord), c < s.d.ctxs.length →
    let put (f : Ctx → Ctx) : State := { s with d := { s.d with ctxs := s.d.ctxs.modify c f } }
    ((s.ctx c).enabled = true → s.b.pcie.getLsbD link = true → exec (.doorbell ⟨link, c⟩ q ptr) s = .next { s with
      x := { s.x with nextUid := s.x.nextUid + 1 }
      d := { s.d with bells := s.d.bells ++ [⟨s.x.nextUid, c, q, ptr, none⟩] } }) ∧
    ((s.ctx c).enabled = false ∨ s.b.pcie.getLsbD link = false → exec (.doorbell ⟨link, c⟩ q ptr) s = .next s) ∧
    ((s.ctx c).enabled = true → exec (.contextEnable c) s = .next s) ∧
    ((s.ctx c).enabled = false → ∀ s1 bs, s.physRead (s.h.ctxbase.toNat % 2 ^ 48 + 64 * c) 64 = (s1, bs) → s1.d = s.d →
      let d : BitVec 512 := BitVec.ofNat 512 (leNat bs)
      let root := (d.extractLsb' 448 64).toNat
      let ok := d.extractLsb' 16 432 = 0#432 ∧ d.extractLsb' 1 7 = 0#7 ∧ (d.extractLsb' 8 4).toNat < 8 ∧ root % 4096 = 0 ∧
        root < 2 ^ 48 ∧ s1.isDram root = true
      (¬ok → exec (.contextEnable c) s = .next s1) ∧
      (ok → ∃ s' k, exec (.contextEnable c) s = .next s' ∧ s' = { s1 with d := { s1.d with ctxs := s1.d.ctxs.set c k } } ∧
        k.enabled = true ∧ k.root = root ∧ k.lease = 2 ^ ((d.extractLsb' 8 4).toNat + 6) ∧
        k.tslice = (d.extractLsb' 12 4).toNat ∧ k.priv = d.getLsbD 0 ∧ k.frozen = (s.ctx c).frozen ∧
        k.halted = (s.ctx c).halted ∧ k.lost = (s.ctx c).lost)) ∧
    (((∃ t ∈ s.x.threads, t.ctx = c ∧ s.swappedOut t = false) ∨ (∃ r ∈ s.d.queues, r.1 / 16 = c ∧ r.2 ≠ [])) →
      exec (.contextDisable c) s = .next s) ∧
    ((∀ t ∈ s.x.threads, t.ctx ≠ c) → (∀ t ∈ s.x.teams, t.ctx ≠ c) → (∀ r ∈ s.d.queues, r.1 / 16 ≠ c) →
      (∀ l ∈ s.d.launches, l.ctx ≠ c) → exec (.contextDisable c) s = .next (put fun k => { k with enabled := false })) ∧
    ((s.ctx c).frozen = true → exec (.hfrzWrite c) s = .next s) ∧
    ((s.ctx c).frozen = false → ∃ r, exec (.hfrzWrite c) s = .next (put fun k => { k with frozen := true, report := r }) ∧
      r.extractLsb' 120 8 = 0#8 ∧ r.getLsbD 82 = true ∧ r.extractLsb' 320 192 = 0#192 ∧ r.extractLsb' 93 19 = 0#19) ∧
    ((s.ctx c).frozen = false → exec (.kill c) s = .next s ∧ exec (.resume c) s = .next s) ∧
    (s.b.fatal = true → exec (.resume c) s = .next s) ∧
    ((s.ctx c).frozen = true → ∃ s', exec (.kill c) s = .next s' ∧ (s'.ctx c).killing = true ∧ (s'.ctx c).frozen = true ∧
      (∀ k, k ≠ c → s'.ctx k = s.ctx k) ∧
      (∀ f, f ∈ s'.x.flights ↔ f ∈ s.x.flights ∧ ((∀ t ∈ s.x.threads, t.uid = f.thread → t.ctx ≠ c) ∨
        (f.op.lands = true ∧ f.stalled = none ∧ ∀ t, s.thread? f.thread = some t → s.isolates t = false))) ∧
      (∀ t ∈ s.x.threads, t.ctx ≠ c → ∃ w, { t with wct := w } ∈ s'.x.threads) ∧
      (∀ u ∈ s'.x.threads, (∃ t ∈ s.x.threads, t.ctx ≠ c ∧ ∃ w, u = { t with wct := w }) ∨
        (u.ctx = c ∧ u.status = .exited ∧ u.trap = none ∧ ∃ f ∈ s'.x.flights, f.thread = u.uid)) ∧
      (∀ t, t ∈ s'.x.teams ↔ t ∈ s.x.teams ∧ t.ctx ≠ c) ∧ (∀ l ∈ s'.d.launches, l.ctx ≠ c) ∧
      (∀ l ∈ s.d.launches, l.ctx ≠ c → ∃ w, { l with wct := w } ∈ s'.d.launches) ∧
      (∀ q ∈ s'.y.sent, q ∈ s.y.sent ∧ ∀ l ∈ s.d.launches, l.ctx = c → q.launch ≠ l.uid) ∧
      (Memory.wf s.m = true → (∀ l, (s.homeLine l).owner = none) → (∀ k ∈ s.m.copies, k.mask = []) →
        ((∀ q ∈ s.y.sent, ∀ l ∈ s.d.launches, l.ctx = c → q.launch ≠ l.uid) →
          (∀ q, s'.homeByte q = s.homeByte q) ∧ s'.m.tags = s.m.tags ∧ s'.m.poison = s.m.poison) ∧
        ∀ l q e, (s.d.launches.filter fun l => l.ctx == c) = [l] → s.y.sent = [q] → q.launch = l.uid → q.team ∈ l.teamOrder →
          l.teamOrder.Nodup → q.entries = [e] → e.pa % (if e.w64 then 8 else 4) = 0 → isWindow e.pa = false →
          s'.homeWord e.pa e.w64 = atomBytes e.w64 e.op (s.homeWord e.pa e.w64) e.operand) ∧ (∀ r, r ∈ s'.d.queues ↔ r ∈ s.d.queues ∧ r.1 / 16 ≠ c) ∧
      (∀ k, k ∈ s'.y.keys ↔ k ∈ s.y.keys ∧ k.ctx ≠ c) ∧ (∀ b, b ∈ s'.e.bindings ↔ b ∈ s.e.bindings ∧ b.ctx ≠ c) ∧
      (∀ f, f ∈ s'.h.faults ↔ f ∈ s.h.faults ∧ f.ctx ≠ c) ∧
      (∀ k, k ∈ s'.e.copies ↔ k ∈ s.e.copies ∧ (k.ctx ≠ c ∨ k.stalled = none)) ∧
      (∀ k ∈ s.e.copies, k.ctx = c → k.stalled = none → ∀ l ∈ s.m.locks, l.owner = k.uid → l ∈ s'.m.locks) ∧
      ∀ l ∈ s.m.locks, l.ctx ≠ c → l ∈ s'.m.locks) ∧
    ((s.ctx c).killing = true → s.gone c = true →
      exec (.killComplete c) s = .next (put fun k => { k with killing := false, frozen := false })) ∧
    (((s.ctx c).killing = false ∨ s.gone c = false) → exec (.killComplete c) s = .next s) ∧
    ((∃ t ∈ s.x.threads, t.ctx = c) → s.gone c = false) ∧ ((∃ k ∈ s.e.copies, k.ctx = c) → s.gone c = false) ∧
    ((s.ctx c).frozen = true → (s.ctx c).killing = false → s.b.fatal = false →
      ((∀ t ∈ s.x.threads, t.ctx = c → ∀ r, t.trap = some r → r.freezing = false ∧ t.isHandler = false) →
        (s.x.threads.map Thread.uid).Nodup →
        exec (.resume c) s = .next { s with
          d := { s.d with
            ctxs := s.d.ctxs.modify c fun k => { k with frozen := false, report := 0#512 }
            launches := s.d.launches.map fun l =>
              if l.ctx = c then { l with stallFired := false, stallEnd := none, watched := [] } else l }
          x := { s.x with
          threads := s.x.threads.map fun t => match t.trap with
            | some r => if t.ctx = c ∧ r.suppressed = true ∧ t.status ≠ .exited then
                { t with pc := r.fall, hdr := r.fall, mid := false, status := .boundary, trap := none } else t
            | none => t } }) ∧
      ∀ t r, s.thread? t.uid = some t → t.ctx = c → t.trap = some r → r.freezing = true → t.isHandler = false → t.status ≠ .exited →
        s.busyThread t.uid = false → (∀ u ∈ s.x.threads, u.ctx = c → u.trap.isSome = true → u = t) →
        (s.x.threads.map Thread.uid).Nodup →
        ∃ s', exec (.resume c) s = .next s' ∧ (∀ u, s'.thread? t.uid = some u → u.status = .exited) ∧
          ((∀ u ∈ s.x.threads, u = t) → (∀ k ∈ s.x.teams, k.shadowOf = none) → (∀ l ∈ s.d.launches, l.digests = []) →
            (s'.ctx c).frozen = false ∧ (s'.ctx c).report = 0#512 ∧ (s'.ctx c).lost = (s.ctx c).lost))

/-- R349, R372, R374, R403 to R405, R407, R447: FAULT_RECORD_WRITE and ERROR_RECORD_WRITE write a record of 32 bytes where the ring
has room, with an identifier, and set FULL where it has none; the record waits past every lease of its line, and HEAD counts
the records oldest first, each once it is globally performed, with a message for one that enters an empty ring. RETRY lets the waiters go on; FAIL raises PAGE_FAULT on a parked
thread, at its restore where its team is Swapped; FREEZE freezes the context of the lanes with UNCORRECTABLE at
the effective address of the access. With EN clear what is not yet written is answered so
at once, and an answer that names no record is ignored. -/
def Obligations.RecordRings : Prop :=
  (∀ (s : State) (f : PFault) (e : ErrRec), let fr := s.h.fq; let er := s.h.er
    let cap (r : Ring) : Nat := 2 ^ (min (r.ctl.extractLsb' 16 4).toNat 10 + 6)
    let slot (r : Ring) : Nat := r.base.toNat % 2 ^ 48 + 32 * ((r.head.toNat + r.sent.length) % cap r)
    let full (r : Ring) : Prop := cap r ≤ (r.head - r.tail).toNat + r.sent.length
    let late (r : Ring) (w : Nat) : Prop := s.now (homeDie (slot r)) < w ∧ (s.homeLine (slot r / 256)).expDie < w ∧
      (s.homeLine (slot r / 256)).expDev < w ∧ (s.homeLine (slot r / 256)).expPeer < w
    let stored (s' : State) (a : Nat) : BitVec 256 := BitVec.ofNat 256 (leNat (s'.homeBytes a 32))
    ((s.h.faults.find? fun g => g.uid == f.uid) = some f →
      ((f.id.isSome = true ∨ fr.ctl.getLsbD 31 = false) → exec (.faultRecordWrite f.uid) s = .next s) ∧
      (f.id = none → fr.ctl.getLsbD 31 = true → full fr → exec (.faultRecordWrite f.uid) s =
        .next { s with h := { s.h with fq := { fr with ctl := fr.ctl ||| 0x40000000#32 } } }) ∧
      (f.id = none → fr.ctl.getLsbD 31 = true → ¬full fr → Memory.wf s.m = true → (∀ n, (s.homeLine n).owner = none) →
        s.isDram (slot fr) = true → ∃ s' r w, exec (.faultRecordWrite f.uid) s = .next s' ∧ s'.x = s.x ∧
          s'.h = { s.h with
            fq := { fr with sent := fr.sent ++ [(homeDie (slot fr), w)] }
            nextId := s.h.nextId + 1
            faults := s.h.faults.map fun g => if g.uid = f.uid then { g with id := some (BitVec.ofNat 32 s.h.nextId) } else g } ∧ late fr w ∧
          r = stored s' (slot fr) ∧ r.extractLsb' 192 48 = f.va.extractLsb' 0 48 ∧ r.extractLsb' 128 64 = BitVec.ofNat 64 f.time ∧
          r.extractLsb' 96 32 = BitVec.ofNat 32 s.h.nextId ∧ r.extractLsb' 58 6 = BitVec.ofNat 6 f.ctx ∧
          r.extractLsb' 56 2 = (f.cause.val).extractLsb' 0 2 ∧ r.extractLsb' 52 4 = BitVec.ofNat 4 f.access ∧
          r.extractLsb' 48 4 = BitVec.ofNat 4 f.sector ∧ r.extractLsb' 0 48 = 0#48 ∧ r.extractLsb' 64 32 = 0#32 ∧
          r.extractLsb' 240 16 = 0#16 ∧ ∀ q, q < slot fr ∨ slot fr + 32 ≤ q → s'.homeByte q = s.homeByte q)) ∧
    ((s.h.errors.find? fun g => g.uid == e.uid) = some e →
      ((e.id.isSome = true ∨ er.ctl.getLsbD 31 = false) → exec (.errorRecordWrite e.uid) s = .next s) ∧
      (e.id = none → er.ctl.getLsbD 31 = true → full er → exec (.errorRecordWrite e.uid) s = .next { s with h := { s.h with
        er := { er with
          ctl := er.ctl ||| 0x40000000#32
          drop := if e.code = .softErrorCorrected ∧ er.drop ≠ 0xFFFFFFFF#32 then er.drop + 1#32 else er.drop }
        errors := if e.code = .softErrorCorrected then s.h.errors.filter fun g => g.uid != e.uid else s.h.errors } }) ∧
      (e.id = none → er.ctl.getLsbD 31 = true → ¬full er → Memory.wf s.m = true → (∀ n, (s.homeLine n).owner = none) →
        s.isDram (slot er) = true → ∃ s' r w, exec (.errorRecordWrite e.uid) s = .next s' ∧ s'.x = s.x ∧
          s'.h.er = { er with sent := er.sent ++ [(homeDie (slot er), w)] } ∧ late er w ∧ s'.h.nextId = s.h.nextId + 1 ∧
          s'.h.errors = (if e.parked then s.h.errors.map fun g =>
              if g.uid = e.uid then { g with id := some (BitVec.ofNat 32 s.h.nextId) } else g
            else s.h.errors.filter fun g => g.uid != e.uid) ∧
          s'.h.msix = s.h.msix ∧
          r = stored s' (slot er) ∧ r.extractLsb' 192 48 = BitVec.ofNat 48 e.pa ∧ r.extractLsb' 128 64 = BitVec.ofNat 64 e.time ∧
          r.extractLsb' 96 32 = BitVec.ofNat 32 s.h.nextId ∧ r.extractLsb' 88 8 = e.code.val ∧
          r.extractLsb' 84 4 = BitVec.ofNat 4 e.unit ∧ r.extractLsb' 76 8 = BitVec.ofNat 8 e.index ∧
          r.extractLsb' 70 6 = BitVec.ofNat 6 e.ctx ∧ r.getLsbD 69 = e.parked ∧ r.getLsbD 68 = e.fatal ∧ r.getLsbD 67 = e.dropped ∧
          r.extractLsb' 64 3 = BitVec.ofNat 3 e.cause ∧ r.extractLsb' 0 64 = 0#64 ∧
          ∀ q, q < slot er ∨ slot er + 32 ≤ q → s'.homeByte q = s.homeByte q))) ∧
  (∀ (r : Ring) (now : Nat → Nat) (p : Nat × Nat) (ps : List (Nat × Nat)),
    r.count now [] = ({ r with sent := [] }, false) ∧
    (now p.1 < p.2 → r.count now (p :: ps) = ({ r with sent := p :: ps }, false)) ∧
    (p.2 ≤ now p.1 → ((r.count now (p :: ps)).1 = (Ring.count { r with head := r.head + 1#32 } now ps).1) ∧
      (r.head = r.tail → (r.count now (p :: ps)).2 = true))) ∧
  (∀ s : State, let s' := s.ringsCount
    s'.h.fq = (s.h.fq.count s.now s.h.fq.sent).1 ∧ s'.h.cb = (s.h.cb.count s.now s.h.cb.sent).1 ∧
    s'.h.er = (s.h.er.count s.now s.h.er.sent).1 ∧ s'.m = s.m ∧ s'.x = s.x ∧
    ∀ l, s.b.pcie.getLsbD l = true → l < 2 →
      ((s.h.fq.count s.now s.h.fq.sent).2 = true → (128, l) ∈ s'.h.msix) ∧
      ((s.h.cb.count s.now s.h.cb.sent).2 = true → (129, l) ∈ s'.h.msix) ∧
      ((s.h.er.count s.now s.h.er.sent).2 = true → (130, l) ∈ s'.h.msix)) ∧
  (∀ (s : State) (id : BitVec 32),
    ((∀ f ∈ s.h.faults, f.id ≠ some id) → exec (.faultRetry id) s = .next s ∧ exec (.faultFail id) s = .next s) ∧
    ((∀ e ∈ s.h.errors, e.id ≠ some id) → exec (.errorRetry id) s = .next s ∧ exec (.errorFreeze id) s = .next s) ∧
    ((∀ f ∈ s.h.faults, f.id.isSome = true) → exec .faultRingDisable s =
      .next { s with h := { s.h with fq := { s.h.fq with ctl := s.h.fq.ctl &&& 0x7FFFFFFF#32 } } }) ∧
    ((∀ e ∈ s.h.errors, e.id.isSome = true) → exec .errorRingDisable s =
      .next { s with h := { s.h with er := { s.h.er with ctl := s.h.er.ctl &&& 0x7FFFFFFF#32 } } })) ∧
  (∀ (s : State) (f : PFault) (t : Thread) (a : DWord) (id : BitVec 32), s.thread? t.uid = some t →
    t.status = .parkedMem (.page f.uid) → t.trap = none → s.quiet t → t.ctx < s.d.ctxs.length → f.waiters = [(.thread t.uid, a)] →
    let fails (i : Instr) : Prop := ∃ s' t' r, exec i s = .next s' ∧ (∀ g ∈ s'.h.faults, g.uid ≠ f.uid) ∧
      s'.thread? t.uid = some t' ∧ t'.trap = some r ∧ reportCode r.report = Code.pageFault.val ∧
      r.report.extractLsb' 112 8 = f.cause.val ∧ r.report.extractLsb' 256 64 = a ∧ r.report.extractLsb' 320 64 = t.pc ∧
      r.fall = t.site.fall ∧ t'.v = t.v ∧ t'.p = t.p ∧ s'.m = s.m ∧ (s'.ctx t.ctx).frozen = false
    let swapped : Bool := (s.teamOf t).any fun tm => tm.swapped.isSome
    ((s.h.faults.find? fun g => g.id == some id) = some f →
      (exec (.faultRetry id) s = .next { s with
        h := { s.h with faults := s.h.faults.filter fun g => g.uid != f.uid }
        x := { s.x with threads := s.x.threads.map fun u =>
          if u.status = .parkedMem (.page f.uid) then { u with status := .boundary } else u } }) ∧
      (swapped = false → fails (.faultFail id)) ∧
      (swapped = true → ∃ s' t', exec (.faultFail id) s = .next s' ∧ s'.thread? t.uid = some t' ∧ t'.trap = none ∧
        t'.fail = some (false, a, f.cause) ∧ s'.m = s.m)) ∧
    (s.h.faults = [f] → f.id = none → swapped = false → fails .faultRingDisable)) ∧
  ∀ (s : State) (e : ErrRec) (id : BitVec 32),
    ((s.h.errors.find? fun g => g.id == some id) = some e → exec (.errorRetry id) s = .next { s with
        h := { s.h with errors := s.h.errors.filter fun g => g.uid != e.uid }
        x := { s.x with
          threads := s.x.threads.map fun u => if u.status = .parkedMem (.poison e.uid) then { u with status := .boundary } else u
          flights := s.x.flights.map fun f => if f.stalled = some e.uid then { f with stalled := none } else f }
        e := { s.e with passes := s.e.passes.map fun p => if p.stalled = some e.uid then { p with stalled := none } else p } }) ∧
    ∀ t, s.thread? t.uid = some t → t.status = .parkedMem (.poison e.uid) → t.trap = none → s.calm → s.x.flights = [] →
      s.e.passes = [] → (∀ u ∈ s.x.threads, u = t) → t.isReplay = false → (s.ctx t.ctx).frozen = false → t.ctx < s.d.ctxs.length →
      let freezes (i : Instr) : Prop := ∃ s' t' r, exec i s = .next s' ∧ (∀ g ∈ s'.h.errors, g.uid ≠ e.uid) ∧
        s'.thread? t.uid = some t' ∧ t'.trap = some r ∧ (s'.ctx t.ctx).frozen = true ∧
        (s'.ctx t.ctx).report = r.report ||| 1#512 <<< 82 ∧ reportCode r.report = Code.uncorrectable.val ∧
        r.report.extractLsb' 256 64 = e.addr ∧ t'.v = t.v ∧ t'.p = t.p ∧ s'.m = s.m
      ((s.h.errors.find? fun g => g.id == some id) = some e → freezes (.errorFreeze id)) ∧
      (s.h.errors = [e] → e.id = none → freezes .errorRingDisable)

/-- R99, R100, R345, R350, R354, R443 to R445: an access from the host's aperture or from a peer reads or writes device memory
at home, and one to memory that is absent, or outside a link's window, reads and writes nothing; a write of a whole sector
clears its poison, and one whose data came poisoned poisons the sectors that it writes, which at a link is a recorded event.
A read through the aperture brings the bytes with their poisoned indication. A snoop waits until the leases on its line have ended. A scrub counts a corrected sector and poisons an
uncorrectable one. An error in a context's registers changes nothing if it is corrected, and freezes the context if not. -/
def Obligations.OutsideAccess : Prop :=
  (∀ (s : State) (pa : Nat) (bs : List Byte) (n : Nat), Memory.wf s.m = true → (∀ l, (s.homeLine l).owner = none) →
    let writes (i : Instr) : Prop := ∃ s', exec i s = .next s' ∧
      (∀ k, k < bs.length → s'.homeByte (pa + k) = bs.getD k 0#8) ∧
      (∀ q, q < pa ∨ pa + bs.length ≤ q → s'.homeByte q = s.homeByte q) ∧
      (∀ k, pa ≤ 64 * k → 64 * k + 64 ≤ pa + bs.length → s'.poisoned (64 * k) = false) ∧
      (∀ k, s.poisoned (64 * k) = true → (64 * k < pa ∨ pa + bs.length < 64 * k + 64) → s'.poisoned (64 * k) = true) ∧
      s'.x = s.x ∧ ∀ c ∈ s'.m.copies, c ∈ s.m.copies
    let taints (i : Instr) (told : State → Prop) : Prop := ∃ s', exec i s = .next s' ∧ told s' ∧
      (∀ k, k < bs.length → s'.homeByte (pa + k) = bs.getD k 0#8 ∧ s'.poisoned (pa + k) = true) ∧
      (∀ q, q < pa ∨ pa + bs.length ≤ q → s'.homeByte q = s.homeByte q) ∧
      ∀ k, 64 * k + 64 ≤ pa ∨ pa + bs.length ≤ 64 * k → s'.poisoned (64 * k) = s.poisoned (64 * k)
    let reads (i : Instr) : Prop := ∃ s', exec i s = .next s' ∧ (∀ q, s'.homeByte q = s.homeByte q) ∧ s'.m.dram = s.m.dram ∧
      s'.x = s.x ∧ s'.m.copies = s.m.copies
    let tainted : Bool := (List.range n).any fun k => s.poisoned (pa + k)
    (∀ off, pa = s.h.apbase.toNat % 2 ^ 48 + off →
      (off < 2 ^ 36 → s.isDram pa = true → writes (.hostApertureAccess off (.write bs false)) ∧
        taints (.hostApertureAccess off (.write bs true)) (fun s' => s'.h = s.h) ∧
        exec (.hostApertureAccess off (.read n)) s = .next { s with h := { s.h with hostRead := some (s.homeBytes pa n, tainted) } }) ∧
      (s.isDram pa = false → ∀ p, exec (.hostApertureAccess off (.write bs p)) s = .next s) ∧
      (off < 2 ^ 36 → s.isDram pa = false →
        exec (.hostApertureAccess off (.read n)) s = .next { s with h := { s.h with hostRead := none } }) ∧
      (2 ^ 36 ≤ off → ∀ a, exec (.hostApertureAccess off a) s = .next s)) ∧
    ∀ link, let w := s.h.linkwin.getD link 0#128
      let admits (n : Nat) : Prop := (w.extractLsb' 0 48).toNat ≤ pa ∧
        pa + n ≤ (w.extractLsb' 0 48).toNat + (w.extractLsb' 64 48).toNat ∧ s.isDram pa = true ∧ s.isDram (pa + n - 1) = true
      let refuses (i : Instr) : Prop := ∃ s' r, exec i s = .next s' ∧ s'.m = s.m ∧ s'.h.errors = s.h.errors ++ [r] ∧
        r.code = .linkError ∧ r.cause = 2 ∧ r.unit = 11 ∧ r.index = link ∧ s'.x.threads = s.x.threads
      (s.b.links.getLsbD link = false → ∀ a, exec (.peerRequest link pa a) s = .next s) ∧
      (s.b.links.getLsbD link = true →
        (admits bs.length → writes (.peerRequest link pa (.write bs false)) ∧
          taints (.peerRequest link pa (.write bs true)) fun s' => ∃ r, s'.h.errors = s.h.errors ++ [r] ∧
            r.code = .linkError ∧ r.cause = 3 ∧ r.unit = 11 ∧ r.index = link) ∧
        (¬admits bs.length → ∀ p, refuses (.peerRequest link pa (.write bs p))) ∧
        (admits n → reads (.peerRequest link pa (.read n))) ∧ (¬admits n → refuses (.peerRequest link pa (.read n))) ∧
        (admits n → ∀ l, pa / 256 ≤ l → l ≤ (pa + n - 1) / 256 → 1 ≤ n → s.guarded (homeDie (256 * l)) = false →
          ∃ s', exec (.peerRequest link pa (.read n)) s = .next s' ∧ s.now (homeDie (256 * l)) < (s'.homeLine l).expPeer))) ∧
  (∀ (s : State) (line : Nat) (bs : List (Nat × Byte)), Memory.wf s.m = true → (∀ l, (s.homeLine l).owner = none) →
    let h := homeDie (256 * line)
    let hl := s.homeLine line
    let g : Nat := if s.guarded h then 40 else 2
    let live : Prop := (hl.expDie ≠ 0 ∧ s.now h ≤ hl.expDie) ∨ (hl.expDev ≠ 0 ∧ s.now h ≤ hl.expDev + g) ∨
      (hl.expPeer ≠ 0 ∧ s.now h ≤ hl.expPeer + 40)
    (isHostMem (256 * line) = false ∨ live → exec (.hostSnoop line bs) s = .next s) ∧
    (isHostMem (256 * line) = true → ¬live → s.guarded h = false → (bs.map Prod.fst).Nodup → (∀ p ∈ bs, p.1 < 256) →
      ∃ s', exec (.hostSnoop line bs) s = .next s' ∧ s'.x = s.x ∧ s'.m.copies = s.m.copies ∧
        (∀ p ∈ bs, s'.homeByte (256 * line + p.1) = p.2) ∧
        ∀ q, (∀ p ∈ bs, q ≠ 256 * line + p.1) → s'.homeByte q = s.homeByte q)) ∧
  ∀ (s : State) (k : Nat), let d := homeDie (64 * k)
    let told (i : Instr) (code : Code) : Prop := ∃ s' r, exec i s = .next s' ∧ s'.h.errors = s.h.errors ++ [r] ∧ r.code = code ∧
      r.pa = 64 * k ∧ r.unit = (if isLpddr (64 * k) then 10 else 9) ∧ r.index = homeSlice (64 * k) ∧ r.parked = false ∧
      s'.m.dram = s.m.dram ∧ s'.m.home = s.m.home ∧ s'.x.threads = s.x.threads ∧
      (code = .softErrorCorrected → s'.m = s.m ∧ (d < s.h.corr.length →
        (s'.h.corr.getD d 0#32).toNat = Nat.min ((s.h.corr.getD d 0#32).toNat + 1) 0xFFFFFFFF)) ∧
      (code = .uncorrectable → srising s.m.poison = true → s'.poisoned (64 * k) = true ∧
        ∀ j, j ≠ k → s'.poisoned (64 * j) = s.poisoned (64 * j))
    exec (.dramScrub k .clean) s = .next s ∧ (s.isDram (64 * k) = false → ∀ c, exec (.dramScrub k c) s = .next s) ∧
    (s.isDram (64 * k) = true →
      told (.dramScrub k .corrected) .softErrorCorrected ∧ told (.dramScrub k .uncorrectable) .uncorrectable) ∧
    ∀ (u : Nat) (t : Thread), s.thread? u = some t → t.ctx < s.d.ctxs.length →
      (s.upset (.regs u) true).m = s.m ∧ (s.upset (.regs u) true).x.threads = s.x.threads ∧ (s.upset (.regs u) true).d = s.d ∧
      ((s.upset (.regs u) false).ctx t.ctx).frozen = true ∧ (s.upset (.regs u) false).m = s.m ∧
      (s.upset (.regs u) false).x.threads = s.x.threads

/-- R279, R355, R445, R446, R448: a flit that fails its check is counted and sent again, and once sixteen resends of it have
failed its link or port is down. A link that is down ends the collectives that use it with status 3; a port that has failed makes the device
fatal, with every context frozen and no lease trusted, until BOOT. A host link that goes down stays of its kind. BOOT of a verified image leaves the device as reset with its measurements,
its CBUDGETs at 1023 and its links; one that does not verify leaves every die in reset. -/
def Obligations.LinksAndBoot : Prop :=
  (∀ (s : State) (n : Nat), n < 12 → s.h.linkerr.length = 4 → s.b.resends.length = 12 → s.b.presends.length = 12 →
    let counted (k : BitVec 16) : BitVec 16 := if k = 0xFFFF#16 then k else k + 1#16
    let u : State := { s with h := { s.h with linkerr := s.h.linkerr.modify (n / 3) counted } }
    (s.b.links.getLsbD n = false → exec (.flitCrcFail (.link n)) s = .next s ∧ ∀ c, exec (.linkDown n c) s = .next s) ∧
    (s.b.ports.getLsbD n = false → exec (.flitCrcFail (.port n)) s = .next s ∧ exec (.portFailure n) s = .next s) ∧
    (s.b.links.getLsbD n = true →
      (s.b.resends.getD n 0 < 16 → exec (.flitCrcFail (.link n)) s =
        .next { u with b := { u.b with resends := u.b.resends.set n (s.b.resends.getD n 0 + 1) } }) ∧
      (16 ≤ s.b.resends.getD n 0 → exec (.flitCrcFail (.link n)) s = exec (.linkDown n false) s) ∧
      ∀ c, ∃ s' r, exec (.linkDown n c) s = .next s' ∧ s'.b.links.getLsbD n = false ∧
        (∀ k, k ≠ n → s'.b.links.getLsbD k = s.b.links.getLsbD k) ∧ r ∈ s'.h.errors ∧ r.code = .linkError ∧
        r.unit = 11 ∧ r.index = n ∧ r.cause = (if c then 1 else 0) ∧ r.fatal = false ∧
        ((∀ k ∈ s.d.ctxs, k.priv = false) → ∀ k ∈ s.e.colls, k.entered = true → k.status = none → s.collUses k n = true →
          (s.thread? k.thread).isSome = true → (∀ j ∈ s.e.colls, j.uid = k.uid → j = k) → ∃ j ∈ s'.e.colls, j.uid = k.uid ∧ j.status = some 3) ∧
        ((∀ k ∈ s.e.colls, s.collUses k n = false) → s'.m = s.m ∧ s'.e = s.e ∧ s'.x.threads = s.x.threads ∧
          s'.h.errors = s.h.errors ++ [r])) ∧
    (s.b.ports.getLsbD n = true →
      (s.b.presends.getD n 0 < 16 → exec (.flitCrcFail (.port n)) s =
        .next { u with b := { u.b with presends := u.b.presends.set n (s.b.presends.getD n 0 + 1) } }) ∧
      (16 ≤ s.b.presends.getD n 0 → exec (.flitCrcFail (.port n)) s = exec (.portFailure n) s) ∧
      (s.d.ctxs.length = 64 → ∃ s' r, exec (.portFailure n) s = .next s' ∧ s'.b.fatal = true ∧ s'.b.ports.getLsbD n = false ∧
        s'.h.errors = s.h.errors ++ [r] ∧ r.code = .uncorrectable ∧ r.unit = 12 ∧ r.index = n ∧ r.fatal = true ∧
        s'.m = { s.m with copies := s'.m.copies } ∧
        (∀ c ∈ s'.m.copies, (c.own.isSome = true ∧ c ∈ s.m.copies) ∨
          (c.own = none ∧ c.sectors = [] ∧ c.mask ≠ [] ∧ ∃ d ∈ s.m.copies, c = { d with sectors := [] })) ∧
        (∀ d ∈ s.m.copies, d.mask ≠ [] → ∃ c ∈ s'.m.copies, c.place = d.place ∧ c.line = d.line ∧ c.ctx = d.ctx ∧
          c.mask = d.mask) ∧
        (∀ die, s'.guarded die = true) ∧
        s'.x.threads = s.x.threads ∧ ∀ c, c < 64 → (s'.ctx c).frozen = true ∧
          ((s.ctx c).frozen = false → reportCode (s'.ctx c).report = Code.uncorrectable.val) ∧
          ((s.ctx c).frozen = true → (s'.ctx c).report = (s.ctx c).report ∧ (s'.ctx c).lost = true)))) ∧
  (∀ (s : State) (n : Nat) (c : Bool), ∃ s', exec (.pcieLinkDown n) s = .next s' ∧
    s' = { s with b := { s.b with pcie := s'.b.pcie } } ∧
    (∀ k, k < 2 → s'.b.pcie.getLsbD k = (s.b.pcie.getLsbD k && k != n)) ∧
    ∃ u, exec (.hostLinkTrained n c) s = .next u ∧ u = { s with b := { s.b with pcie := u.b.pcie, cxl := u.b.cxl } } ∧
      ∀ k, k < 2 → u.b.pcie.getLsbD k = (s.b.pcie.getLsbD k || k == n) ∧
        u.b.cxl.getLsbD k = if k = n then c else s.b.cxl.getLsbD k) ∧
  ∀ (s : State) (b : BootIn),
    (s.b.booted = true → s.b.fatal = false → exec (.boot b) s = .next s) ∧
    ((s.b.booted = false ∨ s.b.fatal = true) → b.verified = false → ∃ s', exec (.boot b) s = .next s' ∧ s'.b.booted = false ∧
      s'.b.failed = true ∧ s'.x = State.reset.x ∧ s'.m = State.reset.m ∧ s'.d = State.reset.d ∧ s'.h = State.reset.h) ∧
    ((s.b.booted = false ∨ s.b.fatal = true) → b.verified = true → ∃ s' m0 m1 m2 m3, exec (.boot b) s = .next s' ∧
      s'.b.booted = true ∧ s'.b.failed = false ∧ s'.b.fatal = false ∧ s'.b.links = b.links ∧ s'.b.pcie = b.pcie ∧
      s'.b.cxl = b.cxl ∧ s'.b.ports = 0xFFF#12 ∧ s'.h.lp = b.lp ∧ s'.h.plimit = 2800#12 ∧
      s'.h.cbudget = List.replicate 144 1023#10 ∧ s'.x = { State.reset.x with devTime := [b.time, b.time, b.time, b.time] } ∧
      s'.m = State.reset.m ∧ s'.y = State.reset.y ∧ s'.e = State.reset.e ∧ s'.d = State.reset.d ∧ s'.h.meas = [m0, m1, m2, m3] ∧
      s'.h.identity = sha3 b.image ∧ m0 = sha3 (List.replicate 32 0#8 ++ natBytes 32 (sha3 b.image).toNat) ∧
      m1 = sha3 (natBytes 32 m0.toNat ++ natBytes 32 (b.stages.getD 0 0#256).toNat) ∧
      m2 = sha3 (natBytes 32 m1.toNat ++ natBytes 32 (b.stages.getD 1 0#256).toNat) ∧
      m3 = sha3 (natBytes 32 m2.toNat ++ natBytes 32 (b.stages.getD 2 0#256).toNat))

/-- R449, R450: what each instruction of the debug port shifts out and does. A chain reads zeros unless the device is
frozen, and then brings the bits of the state elements that lie on it, from bit 0; every bit of them lies on exactly one chain,
once; reading changes nothing but the port's own registers. The codes of SAMPLE/PRELOAD and EXTEST, the boundary register, which
chain a bit lies on and where, and what comes past a chain's end are the model's (log 12). -/
def Obligations.DebugPort : Prop :=
  ∀ (s : State) (v : Word) (n : Nat) (code : BitVec 8) (tdi : Bool) (pins : BitVec 64),
    let port (f : BoardState → BoardState) : Host.Outcome State Fault Refusal := .next { s with b := f s.b }
    let bits {k : Nat} (w : BitVec k) : List Bool := (List.range k).map fun i => w.getLsbD i
    exec .idcode s = port (fun b => { b with ir := 0x01#8, dr := bits 0x0B518F1D#32 }) ∧
    exec .debugFreeze s = port (fun b => { b with ir := 0x20#8, dr := [true], frozen := true }) ∧
    exec .debugRelease s = port (fun b => { b with ir := 0x20#8, dr := [false], frozen := false }) ∧
    exec (.chainsel v) s = port (fun b => { b with ir := 0x21#8, chainsel := v, dr := bits v }) ∧
    (∃ out, exec (.chainrd n) s = port (fun b => { b with ir := 0x22#8, dr := out }) ∧ out.length = n ∧
      (s.b.frozen = false → ∀ x ∈ out, x = false) ∧
      (s.b.frozen = true → ∀ i, i < n →
        (∀ k, (s.chain s.b.chainsel)[i]? = some k → out[i]? = some (s.elementBit k)) ∧
        ((s.chain s.b.chainsel).length ≤ i → out[i]? = some (Config.chainPast i)))) ∧
    (∀ k, k < 64 * s.elements.length → ∃! c, k ∈ s.chain c) ∧
    (∀ c, (s.chain c).Nodup ∧ ∀ k ∈ s.chain c, k < 64 * s.elements.length) ∧
    (code ∉ [0x01#8, 0x20#8, 0x21#8, 0x22#8, Config.sampleCode, Config.extestCode] →
      exec (.bypass code tdi) s = port (fun b => { b with ir := code, dr := [false], bypass := tdi })) ∧
    exec (.samplePreload pins) s = port (fun b => { b with ir := Config.sampleCode, dr := bits s.b.pins, bsr := pins }) ∧
    exec (.extest pins) s =
      port (fun b => { b with ir := Config.extestCode, dr := bits s.b.pins, bsr := pins, pins := pins })

/-! The machine: reset, encodings, steps -/

/-- R42, R64, R311, R347, R348, R353, R377, R382, R403, R410, R423, R428, R447, R448: the state after reset: nothing runs,
every context is disabled and not frozen, every tag is zero, PLIMIT is 2800 W and every CBUDGET 1023, and the registers
whose rules give 0 are 0. The machine has not booted, so BOOT is what the schedule takes up first. -/
def Obligations.ResetState : Prop :=
  let s := State.reset
  s.x.threads = [] ∧ s.x.teams = [] ∧ s.x.groups = [] ∧ s.x.issues = [] ∧ s.x.flights = [] ∧ s.d.launches = [] ∧
  s.d.queues = [] ∧ s.y.keys = [] ∧ s.y.monitors = [] ∧ s.e.bindings = [] ∧ s.m.locks = [] ∧
  (∀ pa, s.tagOf pa = 0#4) ∧ (∀ pa, s.poisoned pa = false) ∧ Memory.wf s.m = true ∧ s.calm ∧
  (∀ c, c < 64 → (s.ctx c).enabled = false ∧ (s.ctx c).frozen = false ∧ (s.ctx c).lost = false ∧ (s.ctx c).report = 0#512 ∧
    (s.ctx c).rejptr = 0#64 ∧ (s.ctx c).rejstat = 0#18) ∧
  s.h.plimit = 2800#12 ∧ (∀ k, k < 144 → s.h.cbudget[k]? = some 1023#10) ∧
  (∀ d, d < 4 → s.read64 d 0x300 = 0#64 ∧ s.read64 d 0x400 = 0#64) ∧
  (∀ o, o ∈ [0x100, 0x108, 0x110, 0x118, 0x70000, 0x70008, 0x70010, 0x70018, 0x80000, 0x80008, 0x80010, 0x80018, 0x80020,
    0x80028, 0x80030, 0x80038, 0x90000, 0x90008, 0x90010, 0x90018, 0x90020, 0xA0000, 0xA0008, 0xA0010, 0xA0018, 0xA0020] →
    s.read64 0 o = 0#64) ∧
  s.b.booted = false ∧ (∀ b, exec (.boot b) s = .next (if b.verified then s.booted b else
    { s with b := { s.b with failed := true } })) ∧
  ∀ i, s.may i = true → ∃ b, i = .boot b ∨ i ∈ [Instr.idcode, .debugFreeze, .debugRelease] ∨ (∃ v, i = .chainsel v) ∨
    (∃ n, i = .chainrd n) ∨ (∃ c x, i = .bypass c x) ∨ (∃ p, i = .samplePreload p) ∨ ∃ p, i = .extest p

/-- R140, R143, R147 to R151, R154, R156: words written out from their encodings decode to the instructions they stand for. -/
def Obligations.DecodeWords : Prop :=
  decode false (0x0D#8 ++ (2#3 ++ 0#1 ++ 0#2) ++ 63#6 ++ 0#1 ++ 2#8 ++ 4#8 ++ 10#8 ++ 0#8 ++ 0#4 ++ 0#3 ++ 0#1 ++ 2#3) =
    .ok (.icmp ⟨63#6, false, 0#4, 0#3, false⟩ .lt false .none 2#6 4#8 (.s8 10#8)) ∧
  decode false (0x33#8 ++ (0#1 ++ 1#1 ++ 0#4) ++ 63#6 ++ 0#1 ++ 8#8 ++ 9#8 ++ 10#8 ++ 11#8 ++ 0#4 ++ 0#3 ++ 0#1 ++ 0#3) =
    .ok (.ffma ⟨63#6, false, 0#4, 0#3, false⟩ false true 8#8 9#8 (.v 10#8) 11#8) ∧
  decode false (0x02#8 ++ 0#6 ++ 5#6 ++ 1#1 ++ 7#8 ++ 0xDEADBEEF#32 ++ 5#3) = .ok (.movi ⟨5#6, true⟩ 7#8 0xDEADBEEF#32) ∧
  decode false (0x60#8 ++ 0#6 ++ 63#6 ++ 0#1 ++ 0#8 ++ 0xFFFFFFFE#32 ++ 5#3) = .ok (.bra ⟨63#6, false⟩ 0xFFFFFFFE#32) ∧
  decode false (0xE3#8 ++ 0#6 ++ 63#6 ++ 0#1 ++ 0#8 ++ 0#8 ++ 16#8 ++ 0#8 ++ 1#4 ++ 0#3 ++ 0#1 ++ 0#3) =
    .ok (.rett ⟨63#6, false, 1#4, 0#3, false⟩ 16#8) ∧
  decode true (63#6 ++ 0#1 ++ 0#1 ++ 0#4 ++ 1#8 ++ 2#8 ++ 3#8 ++ 8#4 ++ 4#8 ++ 6#8 ++ 0#8) =
    .ok (.pairFadd ⟨63#6, false⟩ 1#8 2#8 3#8 ⟨.mov, 4#8, 6#8, 0#8⟩) ∧
  decode true (63#6 ++ 0#1 ++ 0#1 ++ 0#4 ++ 1#8 ++ 2#8 ++ 3#8 ++ 8#4 ++ 5#8 ++ 6#8 ++ 0#8) = .error .pairViolation ∧
  decode false 0xFF00000000000000#64 = .error .illegalOpcode

/-- R139 to R156: every instruction that has an encoding is what its word decodes to, with every operand at every value
that the encoding admits. -/
def Obligations.DecodeOfEncode : Prop :=
  ∀ (i : Instr) (w : DWord), i.wf = true → encode i = some w → decode i.paired w = .ok i

/-- R139 to R156: every word that decodes is the encoding of the instruction it decodes to: no bit of a word is dropped,
and no two words stand for one instruction. -/
def Obligations.EncodeOfDecode : Prop :=
  ∀ (paired : Bool) (w : DWord) (i : Instr), decode paired w = .ok i → i.wf = true ∧ encode i = some w ∧ i.paired = paired

/-- R17, R34, R37, R38, R75, R137, R146, R355, R389, R449, R450: a step whose turn is a word of an open clause runs the instruction that the
word decodes to, with each member standing at the word, and what follows a word; a word that does not decode, or whose
lookahead closes inside its clause, raises its code on every member; one whose operand fields no instruction takes raises
ILLEGAL_OPERAND on those that its guard lets through, or on every member where its opcode must be unguarded. An event runs where it may: an instruction of the
set only as a word, nothing but the debug port while the device is frozen, and nothing but BOOT before boot. A word placed
by withFetchWord is what the next step runs (log 5). -/
def Obligations.StepRunsWord : Prop :=
  (∀ (s : State) (core slice : Nat) (rest : List Choice) (c : Issue), s.agenda = .word core slice :: rest →
    s.b.booted = true → s.b.frozen = false →
    let s0 : State := { s with agenda := rest }
    let ms := s0.sliceMembers core slice
    let at_ := c.hdr + BitVec.ofNat 64 (8 * (c.pos + 1))
    s0.issue? core slice = some c → ms ≠ [] → c.pos < c.words.length → (∀ t ∈ s0.x.threads, t.isReplay = false) →
    ∃ b, b = s0.beginWord c ∧ b.x.cur = (core, slice) ∧ b.m = s.m ∧ b.d = s.d ∧ b.x.teams = s.x.teams ∧
      b.x.threads = (s0.x.threads.map fun t =>
        if t.status = .issued ∧ t.core = core ∧ t.slice = slice ∧ t.trap = none then { t with pc := at_ } else t) ∧
      let raises (code : Code) : Prop := step s = .next (((b.mapThreads fun t =>
        if b.member t then b.trapped t (Cause.of code) else t).settle).closeClause core slice).tidy
      let la := wordLong c.paired c.next && decide (wordLa c.next < c.words.length - c.pos)
      (∀ i, decode c.paired c.next = .ok i → la = false → s0.wordHeld c ms = false → s0.overfull c i = false →
        ∃ e, e.core = core ∧ e.slice = slice ∧ e.ins = some i ∧
          step s = match exec i b with
            | .next u => .next (u.finishWord e).tidy
            | o => o) ∧
      (∀ i, decode c.paired c.next = .ok i → la = false → (s0.wordHeld c ms = true ∨ s0.overfull c i = true) →
        step s = .next s0.tidy) ∧
      (∀ i, decode c.paired c.next = .ok i → la = true → raises .lookaheadHazard) ∧
      (∀ all, decode c.paired c.next = .error (.illegalOperand all) →
        (la = true → raises .lookaheadHazard) ∧ (la = false → s0.wordHeld c ms = true → step s = .next s0.tidy) ∧
        (la = false → s0.wordHeld c ms = false → ∃ e, e.core = core ∧ e.slice = slice ∧ e.ins = none ∧
          step s = .next (((b.mapThreads fun t => if b.member t && (all || t.guard (wordGuard c.next)) then
            b.trapped t (Cause.of .illegalOperand) else t).settle).finishWord e).tidy)) ∧
      (decode c.paired c.next = .error .illegalOpcode → raises .illegalOpcode) ∧
      (decode c.paired c.next = .error .pairViolation → raises .pairViolation)) ∧
  (∀ (s : State) (i : Instr) (rest : List Choice), s.agenda = .act i :: rest → let s0 : State := { s with agenda := rest }
    (s.may i = true → step s = match exec i s0 with
      | .next u => .next u.tidy
      | o => o) ∧
    (s.may i = false → step s = .next s0.tidy) ∧ (i.layout.isSome = true → s.may i = false) ∧
    (s.b.frozen = true → debugEvent i = false → s.may i = false) ∧
    (s.b.booted = false → debugEvent i = false → (∀ b, i ≠ .boot b) → s.may i = false) ∧
    (i.layout = none → s.b.booted = true → s.b.frozen = false → s.may i = true)) ∧
  (∀ (u : State) (e : WordEnd) (c : Issue), u.issue? e.core e.slice = some c →
    (∀ t ∈ u.x.threads, t.isReplay = false) →
    (c.pos < c.words.length → (∃ t ∈ u.x.threads, t.inSlice e.core e.slice = true) → u.finishWord e = u) ∧
    (c.words.length ≤ c.pos → (u.finishWord e).issue? e.core e.slice = none ∧
      (u.finishWord e).x.threads = u.x.threads.map fun t =>
        if t.status = .issued ∧ t.core = e.core ∧ t.slice = e.slice then { t with
          pc := c.hdr + BitVec.ofNat 64 (8 * (c.words.length + 1))
          hdr := c.hdr + BitVec.ofNat 64 (8 * (c.words.length + 1))
          mid := false
          status := .boundary } else t)) ∧
  ∀ (w : DWord), let s := State.reset.withFetchWord 64 w.toNat
    s.agenda = [.word 0 0] ∧ s.b.booted = true ∧ s.b.frozen = false ∧ ∃ c t, s.issue? 0 0 = some c ∧ c.words = [w] ∧ c.pos = 0 ∧
      c.paired = false ∧ s.sliceMembers 0 0 = [t] ∧ s.x.threads = [t] ∧ t.isReplay = false ∧ t.v = List.replicate 256 0#32 ∧
      t.p = 0#64 ∧ s.wordHeld c [t] = false ∧ (∀ i, s.overfull c i = false) ∧ s.calm

/-- R379: every step answers a next state, from every state, and no thread is left with a code that has not been
delivered. -/
def Obligations.StepsEndCalm : Prop := ∀ s, ∃ s', step s = .next s' ∧ s'.calm
end

