-- ==== Sys2Proof/Laws/Sparse.lean ====
section
/-! SUPPORT. Laws of sparse maps: a read after a write, and the canonical form. -/

namespace Sys2Proof.Machine

variable {α : Type}

/-- Keys strictly rising and all above a bound, as a proposition. -/
theorem srising_cons (k : Nat) (v : α) (r : Sparse α) :
    srising ((k, v) :: r) = true ↔ (∀ p ∈ r, k < p.1) ∧ srising r = true := by
  induction r generalizing k v with
  | nil => simp [srising]
  | cons p r ih =>
    obtain ⟨j, u⟩ := p
    have h1 : srising ((k, v) :: (j, u) :: r) = (decide (k < j) && srising ((j, u) :: r)) := rfl
    rw [h1]
    simp only [Bool.and_eq_true, decide_eq_true_eq, List.mem_cons, forall_eq_or_imp]
    constructor
    · intro ⟨a, b⟩
      have := (ih j u).1 b
      exact ⟨⟨a, fun p hp => Nat.lt_trans a (this.1 p hp)⟩, b⟩
    · intro ⟨⟨a, _⟩, b⟩
      exact ⟨a, b⟩

/-- Keys of a map after a write. -/
theorem mem_sput {m : Sparse α} {k : Nat} {v : α} {p : Nat × α} (h : p ∈ sput m k v) : p = (k, v) ∨ p ∈ m := by
  induction m with
  | nil => simpa [sput] using h
  | cons q r ih =>
    obtain ⟨j, u⟩ := q
    unfold sput at h
    split at h
    · simpa using h
    · split at h
      · rcases List.mem_cons.1 h with h | h
        · exact Or.inl h
        · exact Or.inr (List.mem_cons_of_mem _ h)
      · rcases List.mem_cons.1 h with h | h
        · exact Or.inr (h ▸ List.mem_cons_self)
        · exact (ih h).imp id (List.mem_cons_of_mem _)

/-- Keys of a map after a removal. -/
theorem mem_sdel {m : Sparse α} {k : Nat} {p : Nat × α} (h : p ∈ sdel m k) : p ∈ m := by
  induction m with
  | nil => simp [sdel] at h
  | cons q r ih =>
    obtain ⟨j, u⟩ := q
    unfold sdel at h
    split at h
    · exact List.mem_cons_of_mem _ h
    · rcases List.mem_cons.1 h with h | h
      · exact h ▸ List.mem_cons_self
      · exact List.mem_cons_of_mem _ (ih h)

/-- A write keeps keys rising. -/
theorem srising_sput {m : Sparse α} (k : Nat) (v : α) (h : srising m = true) : srising (sput m k v) = true := by
  induction m with
  | nil => rfl
  | cons q r ih =>
    obtain ⟨j, u⟩ := q
    have hr := (srising_cons j u r).1 h
    unfold sput
    split
    · rename_i hk
      refine (srising_cons k v _).2 ⟨?_, h⟩
      intro p hp
      rcases List.mem_cons.1 hp with rfl | hp
      · exact hk
      · exact Nat.lt_trans hk (hr.1 p hp)
    · split
      · rename_i hk
        have : k = j := by simpa using hk
        exact (srising_cons k v r).2 ⟨this ▸ hr.1, hr.2⟩
      · rename_i h1 h2
        refine (srising_cons j u _).2 ⟨?_, ih hr.2⟩
        intro p hp
        rcases mem_sput hp with rfl | hp
        · have : ¬ k = j := by simpa using h2
          show j < k
          omega
        · exact hr.1 p hp

/-- A removal keeps keys rising. -/
theorem srising_sdel {m : Sparse α} (k : Nat) (h : srising m = true) : srising (sdel m k) = true := by
  induction m with
  | nil => rfl
  | cons q r ih =>
    obtain ⟨j, u⟩ := q
    have hr := (srising_cons j u r).1 h
    unfold sdel
    split
    · exact hr.2
    · exact (srising_cons j u _).2 ⟨fun p hp => hr.1 p (mem_sdel hp), ih hr.2⟩

/-- Setting a key to an optional value keeps keys rising. -/
theorem srising_sset {m : Sparse α} (k : Nat) (v : Option α) (h : srising m = true) : srising (sset m k v) = true := by
  cases v with
  | none => exact srising_sdel k h
  | some v => exact srising_sput k v h

/-- A filter keeps keys rising. -/
theorem srising_filter {m : Sparse α} (f : Nat × α → Bool) (h : srising m = true) : srising (m.filter f) = true := by
  induction m with
  | nil => rfl
  | cons q r ih =>
    obtain ⟨j, u⟩ := q
    have hr := (srising_cons j u r).1 h
    simp only [List.filter_cons]
    split
    · exact (srising_cons j u _).2 ⟨fun p hp => hr.1 p (List.mem_filter.1 hp).1, ih hr.2⟩
    · exact ih hr.2

/-- A map over the values keeps keys rising. -/
theorem srising_map {β : Type} {m : Sparse α} (f : Nat × α → Nat × β) (hf : ∀ p, (f p).1 = p.1)
    (h : srising m = true) : srising (m.map f) = true := by
  induction m with
  | nil => rfl
  | cons q r ih =>
    obtain ⟨j, u⟩ := q
    have hr := (srising_cons j u r).1 h
    have e : f (j, u) = (j, (f (j, u)).2) := by
      have := hf (j, u)
      exact Prod.ext this rfl
    rw [List.map_cons, e]
    refine (srising_cons j _ _).2 ⟨?_, ih hr.2⟩
    intro p hp
    obtain ⟨q, hq, rfl⟩ := List.mem_map.1 hp
    rw [hf]
    exact hr.1 q hq

/-- The canonical form as a conjunction. -/
theorem swf_iff [DecidableEq α] (d : α) (m : Sparse α) :
    swf d m = true ↔ srising m = true ∧ ∀ p ∈ m, p.2 ≠ d := by
  simp [swf, List.all_eq_true]

/-- A write that drops defaults keeps the canonical form. -/
theorem swf_sputD [DecidableEq α] (d : α) {m : Sparse α} (k : Nat) (v : α) (h : swf d m = true) :
    swf d (sputD d m k v) = true := by
  obtain ⟨h1, h2⟩ := (swf_iff d m).1 h
  unfold sputD
  split
  · exact (swf_iff d _).2 ⟨srising_sdel k h1, fun p hp => h2 p (mem_sdel hp)⟩
  · rename_i hv
    refine (swf_iff d _).2 ⟨srising_sput k v h1, fun p hp => ?_⟩
    rcases mem_sput hp with rfl | hp
    · exact hv
    · exact h2 p hp

/-- A write keeps keys rising, whether or not it drops the entry. -/
theorem srising_sputD [DecidableEq α] (d : α) {m : Sparse α} (k : Nat) (v : α) (h : srising m = true) :
    srising (sputD d m k v) = true := by
  unfold sputD
  split
  · exact srising_sdel k h
  · exact srising_sput k v h

/-- A read of a key just written. -/
@[simp] theorem sget_sput_self (m : Sparse α) (k : Nat) (v : α) : sget (sput m k v) k = some v := by
  induction m with
  | nil => simp [sput, sget]
  | cons q r ih =>
    obtain ⟨j, u⟩ := q
    unfold sput
    split
    · simp [sget]
    · split
      · simp [sget]
      · rename_i h1 h2
        have : ¬ j = k := by
          have : ¬ k = j := by simpa using h2
          omega
        simp [sget, this, ih]

/-- A read of another key. -/
theorem sget_sput_other {m : Sparse α} {k i : Nat} (v : α) (h : i ≠ k) : sget (sput m k v) i = sget m i := by
  induction m with
  | nil => simp [sput, sget, Ne.symm h]
  | cons q r ih =>
    obtain ⟨j, u⟩ := q
    unfold sput
    split
    · simp [sget, Ne.symm h]
    · split
      · rename_i hk
        have : k = j := by simpa using hk
        subst this
        simp [sget, Ne.symm h]
      · simp only [sget]
        rw [ih]

/-- No key of a rising map is below its first. -/
theorem sget_of_lt {m : Sparse α} {i : Nat} (h : ∀ p ∈ m, i < p.1) : sget m i = none := by
  induction m with
  | nil => rfl
  | cons q r ih =>
    obtain ⟨j, u⟩ := q
    have h1 : i < j := h (j, u) List.mem_cons_self
    have : ¬ j = i := by omega
    simp only [sget, beq_iff_eq, this, if_false]
    exact ih fun p hp => h p (List.mem_cons_of_mem _ hp)

/-- A read of a key just removed from a rising map. -/
theorem sget_sdel_self {m : Sparse α} {k : Nat} (h : srising m = true) : sget (sdel m k) k = none := by
  induction m with
  | nil => rfl
  | cons q r ih =>
    obtain ⟨j, u⟩ := q
    have hr := (srising_cons j u r).1 h
    unfold sdel
    split
    · rename_i hk
      have : j = k := by simpa using hk
      subst this
      exact sget_of_lt hr.1
    · rename_i hk
      have : ¬ j = k := by simpa using hk
      simp [sget, this, ih hr.2]

/-- A removal leaves every other key. -/
theorem sget_sdel_other {m : Sparse α} {k i : Nat} (h : i ≠ k) : sget (sdel m k) i = sget m i := by
  induction m with
  | nil => rfl
  | cons q r ih =>
    obtain ⟨j, u⟩ := q
    unfold sdel
    split
    · rename_i hk
      have : j = k := by simpa using hk
      subst this
      simp [sget, Ne.symm h]
    · simp only [sget]
      rw [ih]

/-- A read of a key just written, of a map that drops defaults. -/
theorem sgetD_sputD_self [DecidableEq α] (d : α) {m : Sparse α} (k : Nat) (v : α) (h : srising m = true) :
    (sget (sputD d m k v) k).getD d = v := by
  unfold sputD
  split
  · rename_i hv
    rw [sget_sdel_self h, hv]
    rfl
  · rw [sget_sput_self]
    rfl

/-- A write leaves every other key. -/
theorem sget_sputD_other [DecidableEq α] (d : α) {m : Sparse α} {k i : Nat} (v : α) (h : i ≠ k) :
    sget (sputD d m k v) i = sget m i := by
  unfold sputD
  split
  · exact sget_sdel_other h
  · exact sget_sput_other v h

end Sys2Proof.Machine
end

