-- ==== Sys2Proof/Laws/Mem.lean ====
section
/-! SUPPORT. Every memory operation keeps the canonical form of memory. -/

namespace Sys2Proof.Machine

/-- A value that a map holds stands in it. -/
theorem mem_of_sget {α : Type} {m : Sparse α} {k : Nat} {v : α} (h : sget m k = some v) : (k, v) ∈ m := by
  induction m with
  | nil => simp [sget] at h
  | cons q r ih =>
    obtain ⟨j, u⟩ := q
    simp only [sget] at h
    split at h
    · rename_i hk
      have : j = k := by simpa using hk
      cases h; subst this; exact List.mem_cons_self
    · exact List.mem_cons_of_mem _ (ih h)

/-- A fold keeps what each of its steps keeps, for members of the list. -/
theorem foldl_keeps {α β : Type} {P : β → Prop} {f : β → α → β} (l : List α) (b : β) (hb : P b)
    (h : ∀ b a, a ∈ l → P b → P (f b a)) : P (l.foldl f b) := by
  induction l generalizing b with
  | nil => exact hb
  | cons a l ih =>
    exact ih (f b a) (h b a List.mem_cons_self hb) fun b c hc => h b c (List.mem_cons_of_mem _ hc)

/-! The bytes of a line -/

theorem lineWf_iff (m : Sparse Byte) : Memory.lineWf m = true ↔ srising m = true ∧ ∀ p ∈ m, p.1 < 256 := by
  simp [Memory.lineWf, List.all_eq_true]

theorem lineWf_nil : Memory.lineWf [] = true := rfl

theorem lineWf_sput {m : Sparse Byte} {k : Nat} {v : Byte} (h : Memory.lineWf m = true) (hk : k < 256) :
    Memory.lineWf (sput m k v) = true := by
  obtain ⟨h1, h2⟩ := (lineWf_iff m).1 h
  refine (lineWf_iff _).2 ⟨srising_sput k v h1, fun p hp => ?_⟩
  rcases mem_sput hp with rfl | hp
  · exact hk
  · exact h2 p hp

theorem lineWf_filter {m : Sparse Byte} (f : Nat × Byte → Bool) (h : Memory.lineWf m = true) :
    Memory.lineWf (m.filter f) = true := by
  obtain ⟨h1, h2⟩ := (lineWf_iff m).1 h
  exact (lineWf_iff _).2 ⟨srising_filter f h1, fun p hp => h2 p (List.mem_filter.1 hp).1⟩

/-- Bytes put one after another stay in the line where each offset does. -/
theorem lineWf_puts {α : Type} (l : List α) (k : α → Nat) (v : α → Byte) {m : Sparse Byte} (h : Memory.lineWf m = true)
    (hk : ∀ a ∈ l, k a < 256) : Memory.lineWf (l.foldl (fun m a => sput m (k a) (v a)) m) = true :=
  foldl_keeps (P := fun m => Memory.lineWf m = true) l m h fun _ a ha hb => lineWf_sput hb (hk a ha)

/-! The canonical form, part by part -/

theorem wf_iff (m : MemState) : Memory.wf m = true ↔ swf 0#8 m.dram = true ∧ swf 0#4 m.tags = true ∧
    srising m.poison = true ∧ swf HomeLine.empty m.home = true ∧ (∀ h ∈ m.home, Memory.lineWf h.2.bytes = true) ∧
    ∀ c ∈ m.copies, Memory.lineWf c.mask = true := by
  simp [Memory.wf, List.all_eq_true, and_assoc]

/-- The memory of a state has its canonical form. -/
abbrev State.Wf (s : State) : Prop := Memory.wf s.m = true

theorem reset_wf : State.reset.Wf := rfl

theorem wf_lineWf {s : State} (h : s.Wf) (l : Nat) : Memory.lineWf (s.homeLine l).bytes = true := by
  unfold State.homeLine
  cases hg : sget s.m.home l with
  | none => exact lineWf_nil
  | some v => exact ((wf_iff _).1 h).2.2.2.2.1 (l, v) (mem_of_sget hg)

theorem wf_setDram {s : State} (pa : Nat) (b : Byte) (h : s.Wf) : (s.setDram pa b).Wf := by
  obtain ⟨h1, h2⟩ := (wf_iff _).1 h
  exact (wf_iff _).2 ⟨swf_sputD _ _ _ h1, h2⟩

theorem wf_setTag {s : State} (k : Nat) (t : BitVec 4) (h : s.Wf) :
    State.Wf { s with m := { s.m with tags := sputD 0#4 s.m.tags k t } } := by
  obtain ⟨h1, h2, h3⟩ := (wf_iff _).1 h
  exact (wf_iff _).2 ⟨h1, swf_sputD _ _ _ h2, h3⟩

theorem wf_setPoison {s : State} (pa : Nat) (p : Bool) (h : s.Wf) : (s.setPoison pa p).Wf := by
  obtain ⟨h1, h2, h3, h4⟩ := (wf_iff _).1 h
  exact (wf_iff _).2 ⟨h1, h2, srising_sset _ _ h3, h4⟩

theorem wf_updHome {s : State} (l : Nat) (f : HomeLine → HomeLine) (h : s.Wf)
    (hf : Memory.lineWf (f (s.homeLine l)).bytes = true) : (s.updHome l f).Wf := by
  obtain ⟨h1, h2, h3, h4, h5, h6⟩ := (wf_iff _).1 h
  refine (wf_iff _).2 ⟨h1, h2, h3, swf_sputD _ _ _ h4, ?_, h6⟩
  intro p hp
  simp only [State.updHome, sputD] at hp
  split at hp
  · exact h5 p (mem_sdel hp)
  · rcases mem_sput hp with rfl | hp
    · exact hf
    · exact h5 p hp

/-- A change of a line at home that leaves its bytes. -/
theorem wf_updHome_bytes {s : State} (l : Nat) (f : HomeLine → HomeLine) (h : s.Wf) (hf : ∀ k, (f k).bytes = k.bytes) :
    (s.updHome l f).Wf := wf_updHome l f h (by rw [hf]; exact wf_lineWf h l)

theorem wf_flushHome {s : State} (l : Nat) (h : s.Wf) : (s.flushHome l).Wf := by
  refine wf_updHome l _ (foldl_keeps (P := State.Wf) _ _ h fun b a _ hb => wf_setDram _ _ hb) lineWf_nil

theorem wf_evictHome {s : State} (l : Nat) (h : s.Wf) : (s.evictHome l).Wf :=
  wf_updHome_bytes l _ (wf_flushHome l h) fun _ => rfl

/-- A room made at a slice takes copies away, or sends a home line to DRAM. -/
theorem wf_sliceRoom {s : State} (j : Nat) (h : s.Wf) : (s.sliceRoom j).Wf := by
  unfold State.sliceRoom
  dsimp only
  split
  · exact h
  · split
    · obtain ⟨h1, h2, h3, h4, h5, h6⟩ := (wf_iff _).1 h
      exact (wf_iff _).2 ⟨h1, h2, h3, h4, h5, fun c hc => h6 c (List.mem_of_mem_erase hc)⟩
    · split
      · exact wf_evictHome _ h
      · exact h

theorem wf_touchHome {s : State} (l : Nat) (c : Option Nat) (t : BitVec 12) (h : s.Wf) : (s.touchHome l c t).Wf := by
  have h0 : ∀ u : State, u.Wf → State.Wf (let hl := u.homeLine l
      if hl.ctx == c then (if t == 0#12 then u else u.updHome l fun k => { k with tensor := t })
      else (u.flushHome l).updHome l fun k => { k with ctx := c, tensor := t }) := by
    intro u hu
    have h1 := wf_updHome_bytes l (fun k => { k with tensor := t }) hu fun _ => rfl
    have h2 := wf_updHome_bytes l (fun k => { k with ctx := c, tensor := t }) (wf_flushHome l hu) fun _ => rfl
    dsimp only
    split_ifs
    · exact hu
    · exact h1
    · exact h2
  unfold State.touchHome
  refine h0 _ ?_
  split
  · exact h
  · exact wf_sliceRoom _ h

theorem wf_mergeHome {s : State} (l : Nat) (c : Option Nat) (t : BitVec 12) (bs : Sparse Byte) (bad : Bool) (h : s.Wf)
    (hb : ∀ p ∈ bs, p.1 < 256) : (s.mergeHome l c t bs bad).Wf := by
  unfold State.mergeHome
  have h1 := wf_touchHome l c t h
  have h2 := wf_updHome (s := s.touchHome l c t) l
    (fun k => { k with bytes := bs.foldl (fun m p => sput m p.1 p.2) k.bytes }) h1
    (lineWf_puts bs Prod.fst Prod.snd (wf_lineWf h1 l) hb)
  refine foldl_keeps (P := State.Wf) _ _ h2 fun b a _ hb => ?_
  split_ifs
  · exact wf_setPoison _ _ hb
  · exact wf_setPoison _ _ hb
  · exact hb

/-! Copies -/

theorem wf_putCopy {s : State} (c : Copy) (h : s.Wf) (hc : Memory.lineWf c.mask = true) : (s.putCopy c).Wf := by
  obtain ⟨h1, h2, h3, h4, h5, h6⟩ := (wf_iff _).1 h
  refine (wf_iff _).2 ⟨h1, h2, h3, h4, h5, ?_⟩
  intro k hk
  simp only [State.putCopy] at hk
  split at hk
  · exact h6 k (List.mem_filter.1 hk).1
  · rcases List.mem_cons.1 hk with rfl | hk
    · exact hc
    · exact h6 k (List.mem_filter.1 hk).1

theorem wf_copies {s : State} (cs : List Copy) (h : s.Wf) (hc : ∀ c ∈ cs, Memory.lineWf c.mask = true) :
    State.Wf { s with m := { s.m with copies := cs } } := by
  obtain ⟨h1, h2, h3, h4, h5, _⟩ := (wf_iff _).1 h
  exact (wf_iff _).2 ⟨h1, h2, h3, h4, h5, hc⟩

theorem wf_mask {s : State} (h : s.Wf) {c : Copy} (hc : c ∈ s.m.copies) : Memory.lineWf c.mask = true :=
  ((wf_iff _).1 h).2.2.2.2.2 c hc

theorem wf_copyOf {s : State} (h : s.Wf) {p : Place} {l c : Nat} {k : Copy} (hk : s.copy? p l c = some k) :
    Memory.lineWf k.mask = true := wf_mask h (List.mem_of_find?_eq_some hk)

theorem wf_copyOr {s : State} (h : s.Wf) (p : Place) (l c : Nat) (t : BitVec 12) :
    Memory.lineWf (s.copyOr p l c t).mask = true := by
  unfold State.copyOr
  cases hk : s.copy? p l c with
  | none => exact lineWf_nil
  | some k => exact wf_copyOf h hk

@[simp] theorem tagged_mask (c : Copy) (t : BitVec 12) : (c.tagged t).mask = c.mask := by
  unfold Copy.tagged
  split <;> rfl

theorem wf_retag {s : State} (p : Place) (l c : Nat) (t : BitVec 12) (h : s.Wf) : (s.retag p l c t).Wf := by
  unfold State.retag
  split
  · exact h
  · rename_i k hk
    split
    · exact h
    · exact wf_putCopy _ h (by simpa using wf_copyOf h hk)

theorem wf_wakeLine {s : State} (l : Nat) (c : Option Nat) (h : s.Wf) : (s.wakeLine l c).Wf := h

theorem wf_collectCore {s : State} (core c l w : Nat) (h : s.Wf) : (s.collectCore core c l w).Wf := by
  unfold State.collectCore
  split <;> exact h

theorem wf_updatePath {s : State} (core : Option Nat) (l c : Nat) (t : BitVec 12) (bs : Sparse Byte) (bad : Bool)
    (h : s.Wf) : (s.updatePath core l c t bs bad).Wf := by
  unfold State.updatePath
  split
  · exact h
  · rename_i k hk
    refine wf_putCopy _ h ?_
    obtain ⟨p, _, hp⟩ := Option.bind_eq_some_iff.1 hk
    simpa using wf_copyOf h hp

theorem wf_recall {s : State} (l : Nat) (h : s.Wf) : (s.recall l).Wf := by
  unfold State.recall
  split
  · exact h
  · rename_i core _
    have h1 := wf_updHome_bytes (s := s) l (fun k => { k with owner := none }) h fun _ => rfl
    refine foldl_keeps (P := State.Wf) _ _ h1 fun b c hc hb => ?_
    have hm := wf_mask h1 (List.mem_filter.1 hc).1
    have h2 := wf_updatePath (some core) l c.ctx c.tensor c.mask false
      (wf_mergeHome (s := b) l (some c.ctx) c.tensor c.mask false hb ((lineWf_iff _).1 hm).2)
    refine wf_wakeLine l _ (wf_putCopy _ ?_ lineWf_nil)
    split
    · exact h2
    · exact wf_collectCore _ _ _ _ h2

theorem wf_performHome {s : State} (core : Option Nat) (l c : Nat) (t : BitVec 12) (bs : Sparse Byte) (bad : Bool)
    (h : s.Wf) (hb : ∀ p ∈ bs, p.1 < 256) : (s.performHome core l c t bs bad).1.Wf := by
  unfold State.performHome
  split
  · exact h
  · dsimp only
    have h0 : State.Wf (if s.ownedBy core l c then s else s.recall l) := by
      split
      · exact h
      · exact wf_recall l h
    refine wf_wakeLine l _ ?_
    have := wf_updatePath core l c t bs bad (wf_mergeHome l (some c) t bs bad h0 hb)
    split
    · exact this
    · exact this

/-- The parts of a run of bytes lie in their lines. -/
theorem lineParts_lt (pa : Nat) (bs : List Byte) : ∀ q ∈ lineParts pa bs, ∀ p ∈ q.2, p.1 < 256 := by
  unfold lineParts
  refine foldl_keeps (P := fun (acc : List (Nat × Sparse Byte)) => ∀ q ∈ acc, ∀ p ∈ q.2, p.1 < 256) _ _ (by simp) fun acc a _ hacc => ?_
  have lt (n : Nat) : n % 256 < 256 := Nat.mod_lt _ (by decide)
  split
  · rename_i l m r hr
    have hrev : acc = r.reverse ++ [(l, m)] := by
      have := congrArg List.reverse hr
      simpa using this
    split
    · intro q hq
      rcases List.mem_append.1 hq with hq | hq
      · exact hacc q (by rw [hrev]; exact List.mem_append_left _ hq)
      · obtain rfl := List.mem_singleton.1 hq
        intro p hp
        rcases List.mem_append.1 hp with hp | hp
        · exact hacc (l, m) (by rw [hrev]; simp) p hp
        · obtain rfl := List.mem_singleton.1 hp
          exact lt _
    · intro q hq
      rcases List.mem_append.1 hq with hq | hq
      · exact hacc q hq
      · obtain rfl := List.mem_singleton.1 hq
        intro p hp
        obtain rfl := List.mem_singleton.1 hp
        exact lt _
  · intro q hq
    obtain rfl := List.mem_singleton.1 hq
    intro p hp
    obtain rfl := List.mem_singleton.1 hp
    exact lt _

theorem wf_writeHome {s : State} (c : Nat) (t : BitVec 12) (pa : Nat) (bs : List Byte) (bad : Bool) (h : s.Wf) :
    (s.writeHome c t pa bs bad).1.Wf := by
  unfold State.writeHome
  exact foldl_keeps (P := fun (a : State × Nat) => a.1.Wf) _ _ h fun a p hp ha =>
    wf_performHome none p.1 c t p.2 bad ha (lineParts_lt pa bs p hp)

theorem wf_readHome {s : State} (pa n : Nat) (h : s.Wf) : (s.readHome pa n).1.Wf := by
  unfold State.readHome
  exact foldl_keeps (P := State.Wf) _ _ h fun b a _ hb => wf_recall a hb

theorem wf_physRead {s : State} (pa n : Nat) (h : s.Wf) : (s.physRead pa n).1.Wf := by
  unfold State.physRead
  split
  · exact wf_readHome pa n h
  · exact h

theorem wf_physStore {s : State} (pa : Nat) (bs : List Byte) (h : s.Wf) : (s.physStore pa bs).1.Wf := by
  unfold State.physStore
  split
  · exact foldl_keeps (P := fun (a : State × Nat) => a.1.Wf) _ _ h fun b p hp hb =>
      wf_wakeLine p.1 none (wf_mergeHome p.1 _ 0#12 p.2 false (wf_recall p.1 hb) (lineParts_lt pa bs p hp))
  · exact h

theorem wf_physWrite {s : State} (pa : Nat) (bs : List Byte) (h : s.Wf) : (s.physWrite pa bs).Wf := wf_physStore pa bs h

theorem wf_writeBackOf {s : State} (c : Copy) (sel : Nat → Bool) (bad : Bool) (h : s.Wf)
    (hc : Memory.lineWf c.mask = true) : (s.writeBackOf c sel bad).1.Wf := by
  unfold State.writeBackOf
  dsimp only
  split
  · split
    · exact h
    · exact wf_collectCore _ _ _ _ (wf_performHome _ _ _ _ _ _ (wf_putCopy _ h (lineWf_filter _ hc))
        ((lineWf_iff _).1 (lineWf_filter _ hc)).2)
  · exact h

theorem wf_writeBack {s : State} (c : Copy) (sel : Nat → Bool) (h : s.Wf) (hc : Memory.lineWf c.mask = true) :
    (s.writeBack c sel).1.Wf := wf_writeBackOf c sel false h hc

theorem wf_evict {s : State} (c : Copy) (h : s.Wf) (hc : Memory.lineWf c.mask = true) : (s.evict c).Wf := by
  have h1 := wf_writeBack c (fun _ => true) h hc
  have h2 : ∀ u : State, u.Wf → (if c.own.isSome then u.updHome c.line fun h => { h with owner := none } else u).Wf := by
    intro u hu
    split
    · exact wf_updHome_bytes _ _ hu fun _ => rfl
    · exact hu
  exact wf_copies _ (h2 _ h1) fun k hk => wf_mask (h2 _ h1) (List.mem_filter.1 hk).1

/-- Room made at a place keeps the form: what leaves is a copy that stands there. -/
theorem wf_roomAt {s : State} (p : Place) (l c : Nat) (h : s.Wf) : (s.roomAt p l c).Wf := by
  have out : ∀ cs : List Copy, (∀ k ∈ cs, k ∈ s.m.copies) → State.Wf (match cs.getLast? with
      | some k => s.evict k
      | none => s) := by
    intro cs hcs
    split
    · rename_i k hk
      exact wf_evict k h (wf_mask h (hcs k (List.mem_of_getLast? hk)))
    · exact h
  unfold State.roomAt
  split
  · exact h
  · split
    · dsimp only
      split
      · exact h
      · exact out _ fun k hk => (List.mem_filter.1 hk).1
    · exact wf_sliceRoom _ h
    · dsimp only
      split
      · exact h
      · exact out _ fun k hk => (List.mem_filter.1 hk).1
    · exact h

/-- What a core's lines lose when its scratchpad grows, or its sets change, goes home. -/
theorem wf_shrinkL1 {s : State} (core : Nat) (h : s.Wf) : (s.shrinkL1 core).Wf := by
  unfold State.shrinkL1
  have hm : ∀ c, c ∈ (s.m.copies.filter fun c => c.place == .l1 core) → Memory.lineWf c.mask = true := fun c hc =>
    wf_mask h (List.mem_filter.1 hc).1
  have hx : ∀ c ∈ ((s.m.copies.filter fun c => c.place == .l1 core).foldl (fun (a : List Copy × List Copy) c =>
      if (a.1.filter fun k => k.line % s.l1Sets core == c.line % s.l1Sets core).length < 16 then (a.1 ++ [c], a.2)
      else (a.1, a.2 ++ [c])) ([], [])).2, Memory.lineWf c.mask = true := by
    refine foldl_keeps (P := fun (a : List Copy × List Copy) => ∀ c ∈ a.2, Memory.lineWf c.mask = true) _ _ (by simp) ?_
    intro a c hc ha
    split
    · exact ha
    · intro k hk
      rcases List.mem_append.1 hk with hk | hk
      · exact ha k hk
      · obtain rfl := List.mem_singleton.1 hk
        exact hm _ hc
  exact foldl_keeps (P := State.Wf) _ _ h fun b c hc hb => wf_evict c hb (hx c hc)

theorem wf_releaseCore {s : State} (core c : Nat) (h : s.Wf) : (s.releaseCore core c).1.Wf := by
  unfold State.releaseCore
  exact foldl_keeps (P := fun (a : State × Sparse Nat) => a.1.Wf) _ _ h fun a k hk ha =>
    wf_writeBack k _ ha (wf_mask h (List.mem_filter.1 hk).1)

theorem wf_grant {s : State} (l c die : Nat) (h : s.Wf) : (s.grant l c die).1.Wf := by
  unfold State.grant
  dsimp only
  split
  · exact h
  · refine wf_updHome_bytes l _ h fun k => ?_
    split <;> rfl

theorem wf_fillSector {s : State} (p : Place) (die l c : Nat) (t : BitVec 12) (k : Nat) (d : SectorData) (e : Nat)
    (h : s.Wf) : (s.fillSector p die l c t k d e).Wf := by
  have h1 := wf_roomAt p l c h
  exact wf_putCopy _ h1 (by simpa using wf_copyOr h1 p l c t)

theorem wf_fetchSector {s : State} (core c : Nat) (t : BitVec 12) (l k : Nat) (h : s.Wf) :
    (s.fetchSector core c t l k).1.Wf := by
  unfold State.fetchSector
  dsimp only
  split
  · exact wf_retag _ _ _ _ h
  · split
    · exact wf_fillSector _ _ _ _ _ _ _ _ (wf_retag _ _ _ _ h)
    · split
      · exact wf_fillSector _ _ _ _ _ _ _ _ h
      · have h1 := wf_touchHome l (some c) t (wf_recall l h)
        have h2 : ∀ u : State, u.Wf → (if isHostMem (256 * l) && (sget u.m.hostLines l).isNone then
            { u with m := { u.m with hostLines := sput u.m.hostLines l false } } else u).Wf := by
          intro u hu
          split
          · exact hu
          · exact hu
        have h3 := wf_grant l c (coreDie core) (h2 _ h1)
        split
        · exact h3
        · refine wf_fillSector _ _ _ _ _ _ _ _ ?_
          split
          · exact wf_fillSector _ _ _ _ _ _ _ _ h3
          · exact h3

theorem wf_dropClean {s : State} (core c l k : Nat) (h : s.Wf) : (s.dropClean core c l k).Wf := by
  have drop : ∀ (u : State) (p : Place), u.Wf → State.Wf (match u.copy? p l c with
      | none => u
      | some d => if d.own.isSome then u else u.putCopy { d with sectors := sdel d.sectors k }) := by
    intro u p hu
    split
    · exact hu
    · rename_i d hd
      split
      · exact hu
      · have hm := wf_copyOf hu hd
        exact wf_putCopy _ hu hm
  unfold State.dropClean
  dsimp only
  split
  · exact drop _ _ (drop _ _ h)
  · exact drop _ _ h

theorem wf_homeBytesOf {s : State} (core c l : Nat) (sel : Nat → Bool) (h : s.Wf) : (s.homeBytesOf core c l sel).Wf := by
  unfold State.homeBytesOf
  split
  · exact h
  · rename_i d hd
    exact wf_writeBack d _ h (wf_copyOf h hd)

theorem wf_homeSectorBytes {s : State} (core c l k : Nat) (h : s.Wf) : (s.homeSectorBytes core c l k).Wf :=
  wf_homeBytesOf _ _ _ _ h

theorem wf_homeRange {s : State} (core c pa n : Nat) (h : s.Wf) : (s.homeRange core c pa n).Wf :=
  wf_homeBytesOf _ _ _ _ h

theorem wf_loadCore {s : State} (core c : Nat) (t : BitVec 12) (home : Bool) (pa n : Nat) (h : s.Wf) :
    (s.loadCore core c t home pa n).1.Wf := by
  unfold State.loadCore
  dsimp only
  split
  · exact wf_dropClean _ _ _ _ (wf_touchHome _ _ _ (wf_recall _ (wf_homeSectorBytes _ _ _ _ h)))
  · split
    · exact wf_retag _ _ _ _ h
    · exact wf_fetchSector _ _ _ _ _ h

theorem wf_storeLocal {s : State} (core c : Nat) (t : BitVec 12) (pa : Nat) (bs : List Byte) (h : s.Wf)
    (hb : pa % 256 + bs.length ≤ 256) : (s.storeLocal core c t pa bs).Wf := by
  have h1 := wf_roomAt (.l1 core) (pa / 256) c h
  refine wf_putCopy _ h1 ?_
  rw [tagged_mask]
  refine lineWf_puts bs.zipIdx (fun b => pa % 256 + b.2) Prod.fst (wf_copyOr h1 _ _ _ _) fun a ha => ?_
  have := (List.mem_zipIdx ha).2.1
  omega

theorem wf_renewPath {s : State} (core l c : Nat) (h : s.Wf) : (s.renewPath core l c).Wf := by
  unfold State.renewPath
  split
  · exact h
  · rename_i k hk
    obtain ⟨p, _, hp⟩ := Option.bind_eq_some_iff.1 hk
    have hm := wf_copyOf h hp
    exact wf_putCopy _ h hm

theorem wf_ownLine {s : State} (core c : Nat) (t : BitVec 12) (l : Nat) (h : s.Wf) : (s.ownLine core c t l).1.Wf := by
  unfold State.ownLine
  split
  · exact wf_retag _ _ _ _ h
  · have h1 := wf_renewPath core l c (wf_roomAt (.l1 core) l c (wf_touchHome l (some c) t (wf_recall l h)))
    exact wf_updHome_bytes l _ (wf_putCopy _ h1 (by simpa using wf_copyOr h1 _ _ _ _)) fun _ => rfl

theorem wf_refresh {s : State} (core c : Nat) (h : s.Wf) : (s.refresh core c).Wf := by
  refine wf_copies _ h fun k hk => ?_
  obtain ⟨d, hd, he⟩ := List.mem_filterMap.1 hk
  have hm := wf_mask h hd
  dsimp only at he
  generalize (match d.place with
    | .l1 k => k == core
    | .localSlice n => n / 8 == coreSector core
    | .selvedge p => p / 3 == coreDie core
    | .home => false) = b at he
  split_ifs at he
  all_goals
    rw [← Option.some.inj he]
    exact hm

theorem length_natBytes (n v : Nat) : (natBytes n v).length = n := by
  induction n generalizing v with
  | zero => rfl
  | succ n ih => simp [natBytes, ih]

/-- The bytes of a word lie in the line of its first, where its last does. -/
theorem loBytes_lt {n pa : Nat} (v : DWord) (h : pa % 256 + n ≤ 256) :
    ∀ p ∈ (loBytes n v).zipIdx.map fun b => (pa % 256 + b.2, b.1), p.1 < 256 := by
  intro p hp
  obtain ⟨q, hq, rfl⟩ := List.mem_map.1 hp
  have h1 := (List.mem_zipIdx hq).2.1
  have h2 : (loBytes n v).length = n := length_natBytes _ _
  dsimp only
  omega

theorem wf_rmwHome {s : State} (core : Option Nat) (c : Nat) (t : BitVec 12) (pa n : Nat) (f : DWord → Option DWord)
    (bad : Bool) (h : s.Wf) (hn : pa % 256 + n ≤ 256) : (s.rmwHome core c t pa n f bad).1.Wf := by
  unfold State.rmwHome
  dsimp only
  have h1 := wf_readHome pa n (wf_touchHome (pa / 256) (some c) t (wf_recall (pa / 256) h))
  split
  · exact h1
  · exact wf_performHome _ _ _ _ _ _ h1 (loBytes_lt _ hn)

theorem wf_rmwOwned {s : State} (core c pa n : Nat) (f : DWord → Option DWord) (h : s.Wf) (hn : pa % 256 + n ≤ 256) :
    (s.rmwOwned core c pa n f).1.Wf := by
  unfold State.rmwOwned
  split
  · exact h
  · rename_i d hd
    dsimp only
    split
    · exact h
    · refine wf_putCopy _ h (lineWf_puts _ (fun b => pa % 256 + b.2) Prod.fst (wf_copyOf h hd) fun a ha => ?_)
      have h1 := (List.mem_zipIdx ha).2.1
      have h2 (v : DWord) : (loBytes n v).length = n := length_natBytes _ _
      rw [h2] at h1
      omega

/-! What the caches do on their own -/

theorem wf_sendHome {s : State} (c : Copy) (h : s.Wf) (hc : Memory.lineWf c.mask = true) : (s.sendHome c).Wf :=
  wf_writeBack c _ h hc

/-- A store's write-back keeps memory canonical. -/
theorem wf_storeWriteback {s t : State} (core line : Nat) (h : s.Wf) (e : execStoreWritebackTimeout core line s = .next t) :
    t.Wf := by
  cases e
  exact foldl_keeps (P := State.Wf) _ _ h fun b c hc hb => wf_sendHome c hb (wf_mask h (List.mem_filter.1 hc).1)

/-- An eviction keeps memory canonical. -/
theorem wf_lineEviction {s t : State} (p : Place) (line : Nat) (h : s.Wf) (e : execLineEviction p line s = .next t) :
    t.Wf := by
  cases e
  split
  · exact wf_evictHome _ (wf_recall _ h)
  · exact foldl_keeps (P := State.Wf) _ _ h fun b c hc hb => wf_evict c hb (wf_mask h (List.mem_filter.1 hc).1)

/-- The end of a lease keeps memory canonical. -/
theorem wf_leaseExpiry {s t : State} (p : Place) (line : Nat) (h : s.Wf) (e : execLeaseExpiry p line s = .next t) :
    t.Wf := by
  cases e
  exact foldl_keeps (P := State.Wf) _ _ h fun b c hc hb =>
    wf_putCopy _ hb (wf_mask (c := c) h (List.mem_filter.1 hc).1)

end Sys2Proof.Machine
end

