-- ==== Sys2Proof/Laws/State.lean ====
section
/-! SUPPORT. One lemma for each field of the state under each named update. -/

namespace Sys2Proof.Machine

/-! `State.mapThreads` -/

@[simp] theorem mapThreads_agenda (s : State) (f : Thread → Thread) : (s.mapThreads f).agenda = s.agenda := rfl
@[simp] theorem mapThreads_freeCtr (s : State) (f : Thread → Thread) : (s.mapThreads f).freeCtr = s.freeCtr := rfl
@[simp] theorem mapThreads_m (s : State) (f : Thread → Thread) : (s.mapThreads f).m = s.m := rfl
@[simp] theorem mapThreads_y (s : State) (f : Thread → Thread) : (s.mapThreads f).y = s.y := rfl
@[simp] theorem mapThreads_e (s : State) (f : Thread → Thread) : (s.mapThreads f).e = s.e := rfl
@[simp] theorem mapThreads_d (s : State) (f : Thread → Thread) : (s.mapThreads f).d = s.d := rfl
@[simp] theorem mapThreads_h (s : State) (f : Thread → Thread) : (s.mapThreads f).h = s.h := rfl
@[simp] theorem mapThreads_b (s : State) (f : Thread → Thread) : (s.mapThreads f).b = s.b := rfl
@[simp] theorem mapThreads_x_clk (s : State) (f : Thread → Thread) : (s.mapThreads f).x.clk = s.x.clk := rfl
@[simp] theorem mapThreads_x_devTime (s : State) (f : Thread → Thread) : (s.mapThreads f).x.devTime = s.x.devTime := rfl
@[simp] theorem mapThreads_x_nextUid (s : State) (f : Thread → Thread) : (s.mapThreads f).x.nextUid = s.x.nextUid := rfl
@[simp] theorem mapThreads_x_cur (s : State) (f : Thread → Thread) : (s.mapThreads f).x.cur = s.x.cur := rfl
@[simp] theorem mapThreads_x_issues (s : State) (f : Thread → Thread) : (s.mapThreads f).x.issues = s.x.issues := rfl
@[simp] theorem mapThreads_x_threads (s : State) (f : Thread → Thread) : (s.mapThreads f).x.threads = s.x.threads.map f := rfl
@[simp] theorem mapThreads_x_groups (s : State) (f : Thread → Thread) : (s.mapThreads f).x.groups = s.x.groups := rfl
@[simp] theorem mapThreads_x_teams (s : State) (f : Thread → Thread) : (s.mapThreads f).x.teams = s.x.teams := rfl
@[simp] theorem mapThreads_x_flights (s : State) (f : Thread → Thread) : (s.mapThreads f).x.flights = s.x.flights := rfl
@[simp] theorem mapThreads_x_ghosts (s : State) (f : Thread → Thread) : (s.mapThreads f).x.ghosts = s.x.ghosts := rfl

/-! `State.updThread` -/

@[simp] theorem updThread_agenda (s : State) (u : Nat) (f : Thread → Thread) : (s.updThread u f).agenda = s.agenda := rfl
@[simp] theorem updThread_freeCtr (s : State) (u : Nat) (f : Thread → Thread) : (s.updThread u f).freeCtr = s.freeCtr := rfl
@[simp] theorem updThread_m (s : State) (u : Nat) (f : Thread → Thread) : (s.updThread u f).m = s.m := rfl
@[simp] theorem updThread_y (s : State) (u : Nat) (f : Thread → Thread) : (s.updThread u f).y = s.y := rfl
@[simp] theorem updThread_e (s : State) (u : Nat) (f : Thread → Thread) : (s.updThread u f).e = s.e := rfl
@[simp] theorem updThread_d (s : State) (u : Nat) (f : Thread → Thread) : (s.updThread u f).d = s.d := rfl
@[simp] theorem updThread_h (s : State) (u : Nat) (f : Thread → Thread) : (s.updThread u f).h = s.h := rfl
@[simp] theorem updThread_b (s : State) (u : Nat) (f : Thread → Thread) : (s.updThread u f).b = s.b := rfl
@[simp] theorem updThread_x_clk (s : State) (u : Nat) (f : Thread → Thread) : (s.updThread u f).x.clk = s.x.clk := rfl
@[simp] theorem updThread_x_devTime (s : State) (u : Nat) (f : Thread → Thread) : (s.updThread u f).x.devTime = s.x.devTime := rfl
@[simp] theorem updThread_x_nextUid (s : State) (u : Nat) (f : Thread → Thread) : (s.updThread u f).x.nextUid = s.x.nextUid := rfl
@[simp] theorem updThread_x_cur (s : State) (u : Nat) (f : Thread → Thread) : (s.updThread u f).x.cur = s.x.cur := rfl
@[simp] theorem updThread_x_issues (s : State) (u : Nat) (f : Thread → Thread) : (s.updThread u f).x.issues = s.x.issues := rfl
@[simp] theorem updThread_x_threads (s : State) (u : Nat) (f : Thread → Thread) : (s.updThread u f).x.threads = s.x.threads.map fun t => if t.uid == u then f t else t := rfl
@[simp] theorem updThread_x_groups (s : State) (u : Nat) (f : Thread → Thread) : (s.updThread u f).x.groups = s.x.groups := rfl
@[simp] theorem updThread_x_teams (s : State) (u : Nat) (f : Thread → Thread) : (s.updThread u f).x.teams = s.x.teams := rfl
@[simp] theorem updThread_x_flights (s : State) (u : Nat) (f : Thread → Thread) : (s.updThread u f).x.flights = s.x.flights := rfl
@[simp] theorem updThread_x_ghosts (s : State) (u : Nat) (f : Thread → Thread) : (s.updThread u f).x.ghosts = s.x.ghosts := rfl

/-! `State.updTeam` -/

@[simp] theorem updTeam_agenda (s : State) (u : Nat) (f : Team → Team) : (s.updTeam u f).agenda = s.agenda := rfl
@[simp] theorem updTeam_freeCtr (s : State) (u : Nat) (f : Team → Team) : (s.updTeam u f).freeCtr = s.freeCtr := rfl
@[simp] theorem updTeam_m (s : State) (u : Nat) (f : Team → Team) : (s.updTeam u f).m = s.m := rfl
@[simp] theorem updTeam_y (s : State) (u : Nat) (f : Team → Team) : (s.updTeam u f).y = s.y := rfl
@[simp] theorem updTeam_e (s : State) (u : Nat) (f : Team → Team) : (s.updTeam u f).e = s.e := rfl
@[simp] theorem updTeam_d (s : State) (u : Nat) (f : Team → Team) : (s.updTeam u f).d = s.d := rfl
@[simp] theorem updTeam_h (s : State) (u : Nat) (f : Team → Team) : (s.updTeam u f).h = s.h := rfl
@[simp] theorem updTeam_b (s : State) (u : Nat) (f : Team → Team) : (s.updTeam u f).b = s.b := rfl
@[simp] theorem updTeam_x_clk (s : State) (u : Nat) (f : Team → Team) : (s.updTeam u f).x.clk = s.x.clk := rfl
@[simp] theorem updTeam_x_devTime (s : State) (u : Nat) (f : Team → Team) : (s.updTeam u f).x.devTime = s.x.devTime := rfl
@[simp] theorem updTeam_x_nextUid (s : State) (u : Nat) (f : Team → Team) : (s.updTeam u f).x.nextUid = s.x.nextUid := rfl
@[simp] theorem updTeam_x_cur (s : State) (u : Nat) (f : Team → Team) : (s.updTeam u f).x.cur = s.x.cur := rfl
@[simp] theorem updTeam_x_issues (s : State) (u : Nat) (f : Team → Team) : (s.updTeam u f).x.issues = s.x.issues := rfl
@[simp] theorem updTeam_x_threads (s : State) (u : Nat) (f : Team → Team) : (s.updTeam u f).x.threads = s.x.threads := rfl
@[simp] theorem updTeam_x_groups (s : State) (u : Nat) (f : Team → Team) : (s.updTeam u f).x.groups = s.x.groups := rfl
@[simp] theorem updTeam_x_teams (s : State) (u : Nat) (f : Team → Team) : (s.updTeam u f).x.teams = s.x.teams.map fun t => if t.uid == u then f t else t := rfl
@[simp] theorem updTeam_x_flights (s : State) (u : Nat) (f : Team → Team) : (s.updTeam u f).x.flights = s.x.flights := rfl
@[simp] theorem updTeam_x_ghosts (s : State) (u : Nat) (f : Team → Team) : (s.updTeam u f).x.ghosts = s.x.ghosts := rfl

/-! `State.updGroup` -/

@[simp] theorem updGroup_agenda (s : State) (u : Nat) (f : Group → Group) : (s.updGroup u f).agenda = s.agenda := rfl
@[simp] theorem updGroup_freeCtr (s : State) (u : Nat) (f : Group → Group) : (s.updGroup u f).freeCtr = s.freeCtr := rfl
@[simp] theorem updGroup_m (s : State) (u : Nat) (f : Group → Group) : (s.updGroup u f).m = s.m := rfl
@[simp] theorem updGroup_y (s : State) (u : Nat) (f : Group → Group) : (s.updGroup u f).y = s.y := rfl
@[simp] theorem updGroup_e (s : State) (u : Nat) (f : Group → Group) : (s.updGroup u f).e = s.e := rfl
@[simp] theorem updGroup_d (s : State) (u : Nat) (f : Group → Group) : (s.updGroup u f).d = s.d := rfl
@[simp] theorem updGroup_h (s : State) (u : Nat) (f : Group → Group) : (s.updGroup u f).h = s.h := rfl
@[simp] theorem updGroup_b (s : State) (u : Nat) (f : Group → Group) : (s.updGroup u f).b = s.b := rfl
@[simp] theorem updGroup_x_clk (s : State) (u : Nat) (f : Group → Group) : (s.updGroup u f).x.clk = s.x.clk := rfl
@[simp] theorem updGroup_x_devTime (s : State) (u : Nat) (f : Group → Group) : (s.updGroup u f).x.devTime = s.x.devTime := rfl
@[simp] theorem updGroup_x_nextUid (s : State) (u : Nat) (f : Group → Group) : (s.updGroup u f).x.nextUid = s.x.nextUid := rfl
@[simp] theorem updGroup_x_cur (s : State) (u : Nat) (f : Group → Group) : (s.updGroup u f).x.cur = s.x.cur := rfl
@[simp] theorem updGroup_x_issues (s : State) (u : Nat) (f : Group → Group) : (s.updGroup u f).x.issues = s.x.issues := rfl
@[simp] theorem updGroup_x_threads (s : State) (u : Nat) (f : Group → Group) : (s.updGroup u f).x.threads = s.x.threads := rfl
@[simp] theorem updGroup_x_groups (s : State) (u : Nat) (f : Group → Group) : (s.updGroup u f).x.groups = s.x.groups.map fun t => if t.uid == u then f t else t := rfl
@[simp] theorem updGroup_x_teams (s : State) (u : Nat) (f : Group → Group) : (s.updGroup u f).x.teams = s.x.teams := rfl
@[simp] theorem updGroup_x_flights (s : State) (u : Nat) (f : Group → Group) : (s.updGroup u f).x.flights = s.x.flights := rfl
@[simp] theorem updGroup_x_ghosts (s : State) (u : Nat) (f : Group → Group) : (s.updGroup u f).x.ghosts = s.x.ghosts := rfl

/-! `State.updFlight` -/

@[simp] theorem updFlight_agenda (s : State) (u : Nat) (f : Flight → Flight) : (s.updFlight u f).agenda = s.agenda := rfl
@[simp] theorem updFlight_freeCtr (s : State) (u : Nat) (f : Flight → Flight) : (s.updFlight u f).freeCtr = s.freeCtr := rfl
@[simp] theorem updFlight_m (s : State) (u : Nat) (f : Flight → Flight) : (s.updFlight u f).m = s.m := rfl
@[simp] theorem updFlight_y (s : State) (u : Nat) (f : Flight → Flight) : (s.updFlight u f).y = s.y := rfl
@[simp] theorem updFlight_e (s : State) (u : Nat) (f : Flight → Flight) : (s.updFlight u f).e = s.e := rfl
@[simp] theorem updFlight_d (s : State) (u : Nat) (f : Flight → Flight) : (s.updFlight u f).d = s.d := rfl
@[simp] theorem updFlight_h (s : State) (u : Nat) (f : Flight → Flight) : (s.updFlight u f).h = s.h := rfl
@[simp] theorem updFlight_b (s : State) (u : Nat) (f : Flight → Flight) : (s.updFlight u f).b = s.b := rfl
@[simp] theorem updFlight_x_clk (s : State) (u : Nat) (f : Flight → Flight) : (s.updFlight u f).x.clk = s.x.clk := rfl
@[simp] theorem updFlight_x_devTime (s : State) (u : Nat) (f : Flight → Flight) : (s.updFlight u f).x.devTime = s.x.devTime := rfl
@[simp] theorem updFlight_x_nextUid (s : State) (u : Nat) (f : Flight → Flight) : (s.updFlight u f).x.nextUid = s.x.nextUid := rfl
@[simp] theorem updFlight_x_cur (s : State) (u : Nat) (f : Flight → Flight) : (s.updFlight u f).x.cur = s.x.cur := rfl
@[simp] theorem updFlight_x_issues (s : State) (u : Nat) (f : Flight → Flight) : (s.updFlight u f).x.issues = s.x.issues := rfl
@[simp] theorem updFlight_x_threads (s : State) (u : Nat) (f : Flight → Flight) : (s.updFlight u f).x.threads = s.x.threads := rfl
@[simp] theorem updFlight_x_groups (s : State) (u : Nat) (f : Flight → Flight) : (s.updFlight u f).x.groups = s.x.groups := rfl
@[simp] theorem updFlight_x_teams (s : State) (u : Nat) (f : Flight → Flight) : (s.updFlight u f).x.teams = s.x.teams := rfl
@[simp] theorem updFlight_x_flights (s : State) (u : Nat) (f : Flight → Flight) : (s.updFlight u f).x.flights = s.x.flights.map fun t => if t.uid == u then f t else t := rfl
@[simp] theorem updFlight_x_ghosts (s : State) (u : Nat) (f : Flight → Flight) : (s.updFlight u f).x.ghosts = s.x.ghosts := rfl

/-! `State.dropFlight` -/

@[simp] theorem dropFlight_agenda (s : State) (u : Nat) : (s.dropFlight u).agenda = s.agenda := rfl
@[simp] theorem dropFlight_freeCtr (s : State) (u : Nat) : (s.dropFlight u).freeCtr = s.freeCtr := rfl
@[simp] theorem dropFlight_m (s : State) (u : Nat) : (s.dropFlight u).m = s.m := rfl
@[simp] theorem dropFlight_y (s : State) (u : Nat) : (s.dropFlight u).y = s.y := rfl
@[simp] theorem dropFlight_e (s : State) (u : Nat) : (s.dropFlight u).e = s.e := rfl
@[simp] theorem dropFlight_d (s : State) (u : Nat) : (s.dropFlight u).d = s.d := rfl
@[simp] theorem dropFlight_h (s : State) (u : Nat) : (s.dropFlight u).h = s.h := rfl
@[simp] theorem dropFlight_b (s : State) (u : Nat) : (s.dropFlight u).b = s.b := rfl
@[simp] theorem dropFlight_x_clk (s : State) (u : Nat) : (s.dropFlight u).x.clk = s.x.clk := rfl
@[simp] theorem dropFlight_x_devTime (s : State) (u : Nat) : (s.dropFlight u).x.devTime = s.x.devTime := rfl
@[simp] theorem dropFlight_x_nextUid (s : State) (u : Nat) : (s.dropFlight u).x.nextUid = s.x.nextUid := rfl
@[simp] theorem dropFlight_x_cur (s : State) (u : Nat) : (s.dropFlight u).x.cur = s.x.cur := rfl
@[simp] theorem dropFlight_x_issues (s : State) (u : Nat) : (s.dropFlight u).x.issues = s.x.issues := rfl
@[simp] theorem dropFlight_x_threads (s : State) (u : Nat) : (s.dropFlight u).x.threads = s.x.threads := rfl
@[simp] theorem dropFlight_x_groups (s : State) (u : Nat) : (s.dropFlight u).x.groups = s.x.groups := rfl
@[simp] theorem dropFlight_x_teams (s : State) (u : Nat) : (s.dropFlight u).x.teams = s.x.teams := rfl
@[simp] theorem dropFlight_x_flights (s : State) (u : Nat) : (s.dropFlight u).x.flights = s.x.flights.filter fun g => g.uid != u := rfl
@[simp] theorem dropFlight_x_ghosts (s : State) (u : Nat) : (s.dropFlight u).x.ghosts = s.x.ghosts := rfl

/-! `State.updLaunch` -/

@[simp] theorem updLaunch_agenda (s : State) (u : Nat) (f : Launch → Launch) : (s.updLaunch u f).agenda = s.agenda := rfl
@[simp] theorem updLaunch_freeCtr (s : State) (u : Nat) (f : Launch → Launch) : (s.updLaunch u f).freeCtr = s.freeCtr := rfl
@[simp] theorem updLaunch_x (s : State) (u : Nat) (f : Launch → Launch) : (s.updLaunch u f).x = s.x := rfl
@[simp] theorem updLaunch_m (s : State) (u : Nat) (f : Launch → Launch) : (s.updLaunch u f).m = s.m := rfl
@[simp] theorem updLaunch_y (s : State) (u : Nat) (f : Launch → Launch) : (s.updLaunch u f).y = s.y := rfl
@[simp] theorem updLaunch_e (s : State) (u : Nat) (f : Launch → Launch) : (s.updLaunch u f).e = s.e := rfl
@[simp] theorem updLaunch_h (s : State) (u : Nat) (f : Launch → Launch) : (s.updLaunch u f).h = s.h := rfl
@[simp] theorem updLaunch_b (s : State) (u : Nat) (f : Launch → Launch) : (s.updLaunch u f).b = s.b := rfl
@[simp] theorem updLaunch_d_ctxs (s : State) (u : Nat) (f : Launch → Launch) : (s.updLaunch u f).d.ctxs = s.d.ctxs := rfl
@[simp] theorem updLaunch_d_queues (s : State) (u : Nat) (f : Launch → Launch) : (s.updLaunch u f).d.queues = s.d.queues := rfl
@[simp] theorem updLaunch_d_launches (s : State) (u : Nat) (f : Launch → Launch) : (s.updLaunch u f).d.launches = s.d.launches.map fun t => if t.uid == u then f t else t := rfl
@[simp] theorem updLaunch_d_division (s : State) (u : Nat) (f : Launch → Launch) : (s.updLaunch u f).d.division = s.d.division := rfl
@[simp] theorem updLaunch_d_rot (s : State) (u : Nat) (f : Launch → Launch) : (s.updLaunch u f).d.rot = s.d.rot := rfl
@[simp] theorem updLaunch_d_bells (s : State) (u : Nat) (f : Launch → Launch) : (s.updLaunch u f).d.bells = s.d.bells := rfl
@[simp] theorem updLaunch_d_dfails (s : State) (u : Nat) (f : Launch → Launch) : (s.updLaunch u f).d.dfails = s.d.dfails := rfl

/-! `State.updCtx` -/

@[simp] theorem updCtx_agenda (s : State) (k : Nat) (f : Ctx → Ctx) : (s.updCtx k f).agenda = s.agenda := rfl
@[simp] theorem updCtx_freeCtr (s : State) (k : Nat) (f : Ctx → Ctx) : (s.updCtx k f).freeCtr = s.freeCtr := rfl
@[simp] theorem updCtx_x (s : State) (k : Nat) (f : Ctx → Ctx) : (s.updCtx k f).x = s.x := rfl
@[simp] theorem updCtx_m (s : State) (k : Nat) (f : Ctx → Ctx) : (s.updCtx k f).m = s.m := rfl
@[simp] theorem updCtx_y (s : State) (k : Nat) (f : Ctx → Ctx) : (s.updCtx k f).y = s.y := rfl
@[simp] theorem updCtx_e (s : State) (k : Nat) (f : Ctx → Ctx) : (s.updCtx k f).e = s.e := rfl
@[simp] theorem updCtx_h (s : State) (k : Nat) (f : Ctx → Ctx) : (s.updCtx k f).h = s.h := rfl
@[simp] theorem updCtx_b (s : State) (k : Nat) (f : Ctx → Ctx) : (s.updCtx k f).b = s.b := rfl
@[simp] theorem updCtx_d_ctxs (s : State) (k : Nat) (f : Ctx → Ctx) : (s.updCtx k f).d.ctxs = s.d.ctxs.modify k f := rfl
@[simp] theorem updCtx_d_queues (s : State) (k : Nat) (f : Ctx → Ctx) : (s.updCtx k f).d.queues = s.d.queues := rfl
@[simp] theorem updCtx_d_launches (s : State) (k : Nat) (f : Ctx → Ctx) : (s.updCtx k f).d.launches = s.d.launches := rfl
@[simp] theorem updCtx_d_division (s : State) (k : Nat) (f : Ctx → Ctx) : (s.updCtx k f).d.division = s.d.division := rfl
@[simp] theorem updCtx_d_rot (s : State) (k : Nat) (f : Ctx → Ctx) : (s.updCtx k f).d.rot = s.d.rot := rfl
@[simp] theorem updCtx_d_bells (s : State) (k : Nat) (f : Ctx → Ctx) : (s.updCtx k f).d.bells = s.d.bells := rfl
@[simp] theorem updCtx_d_dfails (s : State) (k : Nat) (f : Ctx → Ctx) : (s.updCtx k f).d.dfails = s.d.dfails := rfl

/-! `State.setDram` -/

@[simp] theorem setDram_agenda (s : State) (pa : Nat) (v : Byte) : (s.setDram pa v).agenda = s.agenda := rfl
@[simp] theorem setDram_freeCtr (s : State) (pa : Nat) (v : Byte) : (s.setDram pa v).freeCtr = s.freeCtr := rfl
@[simp] theorem setDram_x (s : State) (pa : Nat) (v : Byte) : (s.setDram pa v).x = s.x := rfl
@[simp] theorem setDram_y (s : State) (pa : Nat) (v : Byte) : (s.setDram pa v).y = s.y := rfl
@[simp] theorem setDram_e (s : State) (pa : Nat) (v : Byte) : (s.setDram pa v).e = s.e := rfl
@[simp] theorem setDram_d (s : State) (pa : Nat) (v : Byte) : (s.setDram pa v).d = s.d := rfl
@[simp] theorem setDram_h (s : State) (pa : Nat) (v : Byte) : (s.setDram pa v).h = s.h := rfl
@[simp] theorem setDram_b (s : State) (pa : Nat) (v : Byte) : (s.setDram pa v).b = s.b := rfl
@[simp] theorem setDram_m_dram (s : State) (pa : Nat) (v : Byte) : (s.setDram pa v).m.dram = sputD 0#8 s.m.dram pa v := rfl
@[simp] theorem setDram_m_tags (s : State) (pa : Nat) (v : Byte) : (s.setDram pa v).m.tags = s.m.tags := rfl
@[simp] theorem setDram_m_poison (s : State) (pa : Nat) (v : Byte) : (s.setDram pa v).m.poison = s.m.poison := rfl
@[simp] theorem setDram_m_home (s : State) (pa : Nat) (v : Byte) : (s.setDram pa v).m.home = s.m.home := rfl
@[simp] theorem setDram_m_copies (s : State) (pa : Nat) (v : Byte) : (s.setDram pa v).m.copies = s.m.copies := rfl
@[simp] theorem setDram_m_fetched (s : State) (pa : Nat) (v : Byte) : (s.setDram pa v).m.fetched = s.m.fetched := rfl
@[simp] theorem setDram_m_lastPage (s : State) (pa : Nat) (v : Byte) : (s.setDram pa v).m.lastPage = s.m.lastPage := rfl
@[simp] theorem setDram_m_coreTlb (s : State) (pa : Nat) (v : Byte) : (s.setDram pa v).m.coreTlb = s.m.coreTlb := rfl
@[simp] theorem setDram_m_sectorTlb (s : State) (pa : Nat) (v : Byte) : (s.setDram pa v).m.sectorTlb = s.m.sectorTlb := rfl
@[simp] theorem setDram_m_locks (s : State) (pa : Nat) (v : Byte) : (s.setDram pa v).m.locks = s.m.locks := rfl
@[simp] theorem setDram_m_hostLines (s : State) (pa : Nat) (v : Byte) : (s.setDram pa v).m.hostLines = s.m.hostLines := rfl

/-! `State.updHome` -/

@[simp] theorem updHome_agenda (s : State) (l : Nat) (f : HomeLine → HomeLine) : (s.updHome l f).agenda = s.agenda := rfl
@[simp] theorem updHome_freeCtr (s : State) (l : Nat) (f : HomeLine → HomeLine) : (s.updHome l f).freeCtr = s.freeCtr := rfl
@[simp] theorem updHome_x (s : State) (l : Nat) (f : HomeLine → HomeLine) : (s.updHome l f).x = s.x := rfl
@[simp] theorem updHome_y (s : State) (l : Nat) (f : HomeLine → HomeLine) : (s.updHome l f).y = s.y := rfl
@[simp] theorem updHome_e (s : State) (l : Nat) (f : HomeLine → HomeLine) : (s.updHome l f).e = s.e := rfl
@[simp] theorem updHome_d (s : State) (l : Nat) (f : HomeLine → HomeLine) : (s.updHome l f).d = s.d := rfl
@[simp] theorem updHome_h (s : State) (l : Nat) (f : HomeLine → HomeLine) : (s.updHome l f).h = s.h := rfl
@[simp] theorem updHome_b (s : State) (l : Nat) (f : HomeLine → HomeLine) : (s.updHome l f).b = s.b := rfl
@[simp] theorem updHome_m_dram (s : State) (l : Nat) (f : HomeLine → HomeLine) : (s.updHome l f).m.dram = s.m.dram := rfl
@[simp] theorem updHome_m_tags (s : State) (l : Nat) (f : HomeLine → HomeLine) : (s.updHome l f).m.tags = s.m.tags := rfl
@[simp] theorem updHome_m_poison (s : State) (l : Nat) (f : HomeLine → HomeLine) : (s.updHome l f).m.poison = s.m.poison := rfl
@[simp] theorem updHome_m_home (s : State) (l : Nat) (f : HomeLine → HomeLine) : (s.updHome l f).m.home = sputD HomeLine.empty s.m.home l (f (s.homeLine l)) := rfl
@[simp] theorem updHome_m_copies (s : State) (l : Nat) (f : HomeLine → HomeLine) : (s.updHome l f).m.copies = s.m.copies := rfl
@[simp] theorem updHome_m_fetched (s : State) (l : Nat) (f : HomeLine → HomeLine) : (s.updHome l f).m.fetched = s.m.fetched := rfl
@[simp] theorem updHome_m_lastPage (s : State) (l : Nat) (f : HomeLine → HomeLine) : (s.updHome l f).m.lastPage = s.m.lastPage := rfl
@[simp] theorem updHome_m_coreTlb (s : State) (l : Nat) (f : HomeLine → HomeLine) : (s.updHome l f).m.coreTlb = s.m.coreTlb := rfl
@[simp] theorem updHome_m_sectorTlb (s : State) (l : Nat) (f : HomeLine → HomeLine) : (s.updHome l f).m.sectorTlb = s.m.sectorTlb := rfl
@[simp] theorem updHome_m_locks (s : State) (l : Nat) (f : HomeLine → HomeLine) : (s.updHome l f).m.locks = s.m.locks := rfl
@[simp] theorem updHome_m_hostLines (s : State) (l : Nat) (f : HomeLine → HomeLine) : (s.updHome l f).m.hostLines = s.m.hostLines := rfl

/-! `State.setPoison` -/

@[simp] theorem setPoison_agenda (s : State) (pa : Nat) (p : Bool) : (s.setPoison pa p).agenda = s.agenda := rfl
@[simp] theorem setPoison_freeCtr (s : State) (pa : Nat) (p : Bool) : (s.setPoison pa p).freeCtr = s.freeCtr := rfl
@[simp] theorem setPoison_x (s : State) (pa : Nat) (p : Bool) : (s.setPoison pa p).x = s.x := rfl
@[simp] theorem setPoison_y (s : State) (pa : Nat) (p : Bool) : (s.setPoison pa p).y = s.y := rfl
@[simp] theorem setPoison_e (s : State) (pa : Nat) (p : Bool) : (s.setPoison pa p).e = s.e := rfl
@[simp] theorem setPoison_d (s : State) (pa : Nat) (p : Bool) : (s.setPoison pa p).d = s.d := rfl
@[simp] theorem setPoison_h (s : State) (pa : Nat) (p : Bool) : (s.setPoison pa p).h = s.h := rfl
@[simp] theorem setPoison_b (s : State) (pa : Nat) (p : Bool) : (s.setPoison pa p).b = s.b := rfl
@[simp] theorem setPoison_m_dram (s : State) (pa : Nat) (p : Bool) : (s.setPoison pa p).m.dram = s.m.dram := rfl
@[simp] theorem setPoison_m_tags (s : State) (pa : Nat) (p : Bool) : (s.setPoison pa p).m.tags = s.m.tags := rfl
@[simp] theorem setPoison_m_poison (s : State) (pa : Nat) (p : Bool) : (s.setPoison pa p).m.poison = sset s.m.poison (pa / 64) (if p then some () else none) := rfl
@[simp] theorem setPoison_m_home (s : State) (pa : Nat) (p : Bool) : (s.setPoison pa p).m.home = s.m.home := rfl
@[simp] theorem setPoison_m_copies (s : State) (pa : Nat) (p : Bool) : (s.setPoison pa p).m.copies = s.m.copies := rfl
@[simp] theorem setPoison_m_fetched (s : State) (pa : Nat) (p : Bool) : (s.setPoison pa p).m.fetched = s.m.fetched := rfl
@[simp] theorem setPoison_m_lastPage (s : State) (pa : Nat) (p : Bool) : (s.setPoison pa p).m.lastPage = s.m.lastPage := rfl
@[simp] theorem setPoison_m_coreTlb (s : State) (pa : Nat) (p : Bool) : (s.setPoison pa p).m.coreTlb = s.m.coreTlb := rfl
@[simp] theorem setPoison_m_sectorTlb (s : State) (pa : Nat) (p : Bool) : (s.setPoison pa p).m.sectorTlb = s.m.sectorTlb := rfl
@[simp] theorem setPoison_m_locks (s : State) (pa : Nat) (p : Bool) : (s.setPoison pa p).m.locks = s.m.locks := rfl
@[simp] theorem setPoison_m_hostLines (s : State) (pa : Nat) (p : Bool) : (s.setPoison pa p).m.hostLines = s.m.hostLines := rfl

/-! `Thread.vset` -/

@[simp] theorem thread_vset_uid (t : Thread) (n : Nat) (w : Word) : (t.vset n w).uid = t.uid := rfl
@[simp] theorem thread_vset_core (t : Thread) (n : Nat) (w : Word) : (t.vset n w).core = t.core := rfl
@[simp] theorem thread_vset_slice (t : Thread) (n : Nat) (w : Word) : (t.vset n w).slice = t.slice := rfl
@[simp] theorem thread_vset_lane (t : Thread) (n : Nat) (w : Word) : (t.vset n w).lane = t.lane := rfl
@[simp] theorem thread_vset_slot (t : Thread) (n : Nat) (w : Word) : (t.vset n w).slot = t.slot := rfl
@[simp] theorem thread_vset_group (t : Thread) (n : Nat) (w : Word) : (t.vset n w).group = t.group := rfl
@[simp] theorem thread_vset_team (t : Thread) (n : Nat) (w : Word) : (t.vset n w).team = t.team := rfl
@[simp] theorem thread_vset_tix (t : Thread) (n : Nat) (w : Word) : (t.vset n w).tix = t.tix := rfl
@[simp] theorem thread_vset_launch (t : Thread) (n : Nat) (w : Word) : (t.vset n w).launch = t.launch := rfl
@[simp] theorem thread_vset_ctx (t : Thread) (n : Nat) (w : Word) : (t.vset n w).ctx = t.ctx := rfl
@[simp] theorem thread_vset_kind (t : Thread) (n : Nat) (w : Word) : (t.vset n w).kind = t.kind := rfl
@[simp] theorem thread_vset_v (t : Thread) (n : Nat) (w : Word) : (t.vset n w).v = t.v.set n w := rfl
@[simp] theorem thread_vset_p (t : Thread) (n : Nat) (w : Word) : (t.vset n w).p = t.p := rfl
@[simp] theorem thread_vset_q (t : Thread) (n : Nat) (w : Word) : (t.vset n w).q = t.q := rfl
@[simp] theorem thread_vset_pc (t : Thread) (n : Nat) (w : Word) : (t.vset n w).pc = t.pc := rfl
@[simp] theorem thread_vset_hdr (t : Thread) (n : Nat) (w : Word) : (t.vset n w).hdr = t.hdr := rfl
@[simp] theorem thread_vset_count (t : Thread) (n : Nat) (w : Word) : (t.vset n w).count = t.count := rfl
@[simp] theorem thread_vset_mid (t : Thread) (n : Nat) (w : Word) : (t.vset n w).mid = t.mid := rfl
@[simp] theorem thread_vset_name (t : Thread) (n : Nat) (w : Word) : (t.vset n w).name = t.name := rfl
@[simp] theorem thread_vset_status (t : Thread) (n : Nat) (w : Word) : (t.vset n w).status = t.status := rfl
@[simp] theorem thread_vset_starve (t : Thread) (n : Nat) (w : Word) : (t.vset n w).starve = t.starve := rfl
@[simp] theorem thread_vset_fair (t : Thread) (n : Nat) (w : Word) : (t.vset n w).fair = t.fair := rfl
@[simp] theorem thread_vset_wown (t : Thread) (n : Nat) (w : Word) : (t.vset n w).wown = t.wown := rfl
@[simp] theorem thread_vset_trap (t : Thread) (n : Nat) (w : Word) : (t.vset n w).trap = t.trap := rfl
@[simp] theorem thread_vset_secs (t : Thread) (n : Nat) (w : Word) : (t.vset n w).secs = t.secs := rfl
@[simp] theorem thread_vset_tickets (t : Thread) (n : Nat) (w : Word) : (t.vset n w).tickets = t.tickets := rfl
@[simp] theorem thread_vset_ctickets (t : Thread) (n : Nat) (w : Word) : (t.vset n w).ctickets = t.ctickets := rfl
@[simp] theorem thread_vset_couch (t : Thread) (n : Nat) (w : Word) : (t.vset n w).couch = t.couch := rfl
@[simp] theorem thread_vset_wct (t : Thread) (n : Nat) (w : Word) : (t.vset n w).wct = t.wct := rfl
@[simp] theorem thread_vset_amdone (t : Thread) (n : Nat) (w : Word) : (t.vset n w).amdone = t.amdone := rfl
@[simp] theorem thread_vset_helper (t : Thread) (n : Nat) (w : Word) : (t.vset n w).helper = t.helper := rfl
@[simp] theorem thread_vset_recs (t : Thread) (n : Nat) (w : Word) : (t.vset n w).recs = t.recs := rfl
@[simp] theorem thread_vset_fail (t : Thread) (n : Nat) (w : Word) : (t.vset n w).fail = t.fail := rfl

/-! `Thread.setPair` -/

@[simp] theorem thread_setPair_uid (t : Thread) (n : Nat) (w : DWord) : (t.setPair n w).uid = t.uid := rfl
@[simp] theorem thread_setPair_core (t : Thread) (n : Nat) (w : DWord) : (t.setPair n w).core = t.core := rfl
@[simp] theorem thread_setPair_slice (t : Thread) (n : Nat) (w : DWord) : (t.setPair n w).slice = t.slice := rfl
@[simp] theorem thread_setPair_lane (t : Thread) (n : Nat) (w : DWord) : (t.setPair n w).lane = t.lane := rfl
@[simp] theorem thread_setPair_slot (t : Thread) (n : Nat) (w : DWord) : (t.setPair n w).slot = t.slot := rfl
@[simp] theorem thread_setPair_group (t : Thread) (n : Nat) (w : DWord) : (t.setPair n w).group = t.group := rfl
@[simp] theorem thread_setPair_team (t : Thread) (n : Nat) (w : DWord) : (t.setPair n w).team = t.team := rfl
@[simp] theorem thread_setPair_tix (t : Thread) (n : Nat) (w : DWord) : (t.setPair n w).tix = t.tix := rfl
@[simp] theorem thread_setPair_launch (t : Thread) (n : Nat) (w : DWord) : (t.setPair n w).launch = t.launch := rfl
@[simp] theorem thread_setPair_ctx (t : Thread) (n : Nat) (w : DWord) : (t.setPair n w).ctx = t.ctx := rfl
@[simp] theorem thread_setPair_kind (t : Thread) (n : Nat) (w : DWord) : (t.setPair n w).kind = t.kind := rfl
@[simp] theorem thread_setPair_v (t : Thread) (n : Nat) (w : DWord) : (t.setPair n w).v = (t.v.set n (w.extractLsb' 0 32)).set (n + 1) (w.extractLsb' 32 32) := rfl
@[simp] theorem thread_setPair_p (t : Thread) (n : Nat) (w : DWord) : (t.setPair n w).p = t.p := rfl
@[simp] theorem thread_setPair_q (t : Thread) (n : Nat) (w : DWord) : (t.setPair n w).q = t.q := rfl
@[simp] theorem thread_setPair_pc (t : Thread) (n : Nat) (w : DWord) : (t.setPair n w).pc = t.pc := rfl
@[simp] theorem thread_setPair_hdr (t : Thread) (n : Nat) (w : DWord) : (t.setPair n w).hdr = t.hdr := rfl
@[simp] theorem thread_setPair_count (t : Thread) (n : Nat) (w : DWord) : (t.setPair n w).count = t.count := rfl
@[simp] theorem thread_setPair_mid (t : Thread) (n : Nat) (w : DWord) : (t.setPair n w).mid = t.mid := rfl
@[simp] theorem thread_setPair_name (t : Thread) (n : Nat) (w : DWord) : (t.setPair n w).name = t.name := rfl
@[simp] theorem thread_setPair_status (t : Thread) (n : Nat) (w : DWord) : (t.setPair n w).status = t.status := rfl
@[simp] theorem thread_setPair_starve (t : Thread) (n : Nat) (w : DWord) : (t.setPair n w).starve = t.starve := rfl
@[simp] theorem thread_setPair_fair (t : Thread) (n : Nat) (w : DWord) : (t.setPair n w).fair = t.fair := rfl
@[simp] theorem thread_setPair_wown (t : Thread) (n : Nat) (w : DWord) : (t.setPair n w).wown = t.wown := rfl
@[simp] theorem thread_setPair_trap (t : Thread) (n : Nat) (w : DWord) : (t.setPair n w).trap = t.trap := rfl
@[simp] theorem thread_setPair_secs (t : Thread) (n : Nat) (w : DWord) : (t.setPair n w).secs = t.secs := rfl
@[simp] theorem thread_setPair_tickets (t : Thread) (n : Nat) (w : DWord) : (t.setPair n w).tickets = t.tickets := rfl
@[simp] theorem thread_setPair_ctickets (t : Thread) (n : Nat) (w : DWord) : (t.setPair n w).ctickets = t.ctickets := rfl
@[simp] theorem thread_setPair_couch (t : Thread) (n : Nat) (w : DWord) : (t.setPair n w).couch = t.couch := rfl
@[simp] theorem thread_setPair_wct (t : Thread) (n : Nat) (w : DWord) : (t.setPair n w).wct = t.wct := rfl
@[simp] theorem thread_setPair_amdone (t : Thread) (n : Nat) (w : DWord) : (t.setPair n w).amdone = t.amdone := rfl
@[simp] theorem thread_setPair_helper (t : Thread) (n : Nat) (w : DWord) : (t.setPair n w).helper = t.helper := rfl
@[simp] theorem thread_setPair_recs (t : Thread) (n : Nat) (w : DWord) : (t.setPair n w).recs = t.recs := rfl
@[simp] theorem thread_setPair_fail (t : Thread) (n : Nat) (w : DWord) : (t.setPair n w).fail = t.fail := rfl

/-! `Thread.qadd` -/

@[simp] theorem thread_qadd_uid (t : Thread) (i : Nat) : (t.qadd i).uid = t.uid := rfl
@[simp] theorem thread_qadd_core (t : Thread) (i : Nat) : (t.qadd i).core = t.core := rfl
@[simp] theorem thread_qadd_slice (t : Thread) (i : Nat) : (t.qadd i).slice = t.slice := rfl
@[simp] theorem thread_qadd_lane (t : Thread) (i : Nat) : (t.qadd i).lane = t.lane := rfl
@[simp] theorem thread_qadd_slot (t : Thread) (i : Nat) : (t.qadd i).slot = t.slot := rfl
@[simp] theorem thread_qadd_group (t : Thread) (i : Nat) : (t.qadd i).group = t.group := rfl
@[simp] theorem thread_qadd_team (t : Thread) (i : Nat) : (t.qadd i).team = t.team := rfl
@[simp] theorem thread_qadd_tix (t : Thread) (i : Nat) : (t.qadd i).tix = t.tix := rfl
@[simp] theorem thread_qadd_launch (t : Thread) (i : Nat) : (t.qadd i).launch = t.launch := rfl
@[simp] theorem thread_qadd_ctx (t : Thread) (i : Nat) : (t.qadd i).ctx = t.ctx := rfl
@[simp] theorem thread_qadd_kind (t : Thread) (i : Nat) : (t.qadd i).kind = t.kind := rfl
@[simp] theorem thread_qadd_v (t : Thread) (i : Nat) : (t.qadd i).v = t.v := rfl
@[simp] theorem thread_qadd_p (t : Thread) (i : Nat) : (t.qadd i).p = t.p := rfl
@[simp] theorem thread_qadd_q (t : Thread) (i : Nat) : (t.qadd i).q = t.q.modify i (· + 1) := rfl
@[simp] theorem thread_qadd_pc (t : Thread) (i : Nat) : (t.qadd i).pc = t.pc := rfl
@[simp] theorem thread_qadd_hdr (t : Thread) (i : Nat) : (t.qadd i).hdr = t.hdr := rfl
@[simp] theorem thread_qadd_count (t : Thread) (i : Nat) : (t.qadd i).count = t.count := rfl
@[simp] theorem thread_qadd_mid (t : Thread) (i : Nat) : (t.qadd i).mid = t.mid := rfl
@[simp] theorem thread_qadd_name (t : Thread) (i : Nat) : (t.qadd i).name = t.name := rfl
@[simp] theorem thread_qadd_status (t : Thread) (i : Nat) : (t.qadd i).status = t.status := rfl
@[simp] theorem thread_qadd_starve (t : Thread) (i : Nat) : (t.qadd i).starve = t.starve := rfl
@[simp] theorem thread_qadd_fair (t : Thread) (i : Nat) : (t.qadd i).fair = t.fair := rfl
@[simp] theorem thread_qadd_wown (t : Thread) (i : Nat) : (t.qadd i).wown = t.wown := rfl
@[simp] theorem thread_qadd_trap (t : Thread) (i : Nat) : (t.qadd i).trap = t.trap := rfl
@[simp] theorem thread_qadd_secs (t : Thread) (i : Nat) : (t.qadd i).secs = t.secs := rfl
@[simp] theorem thread_qadd_tickets (t : Thread) (i : Nat) : (t.qadd i).tickets = t.tickets := rfl
@[simp] theorem thread_qadd_ctickets (t : Thread) (i : Nat) : (t.qadd i).ctickets = t.ctickets := rfl
@[simp] theorem thread_qadd_couch (t : Thread) (i : Nat) : (t.qadd i).couch = t.couch := rfl
@[simp] theorem thread_qadd_wct (t : Thread) (i : Nat) : (t.qadd i).wct = t.wct := rfl
@[simp] theorem thread_qadd_amdone (t : Thread) (i : Nat) : (t.qadd i).amdone = t.amdone := rfl
@[simp] theorem thread_qadd_helper (t : Thread) (i : Nat) : (t.qadd i).helper = t.helper := rfl
@[simp] theorem thread_qadd_recs (t : Thread) (i : Nat) : (t.qadd i).recs = t.recs := rfl
@[simp] theorem thread_qadd_fail (t : Thread) (i : Nat) : (t.qadd i).fail = t.fail := rfl

/-! `Thread.qsub` -/

@[simp] theorem thread_qsub_uid (t : Thread) (i : Nat) : (t.qsub i).uid = t.uid := rfl
@[simp] theorem thread_qsub_core (t : Thread) (i : Nat) : (t.qsub i).core = t.core := rfl
@[simp] theorem thread_qsub_slice (t : Thread) (i : Nat) : (t.qsub i).slice = t.slice := rfl
@[simp] theorem thread_qsub_lane (t : Thread) (i : Nat) : (t.qsub i).lane = t.lane := rfl
@[simp] theorem thread_qsub_slot (t : Thread) (i : Nat) : (t.qsub i).slot = t.slot := rfl
@[simp] theorem thread_qsub_group (t : Thread) (i : Nat) : (t.qsub i).group = t.group := rfl
@[simp] theorem thread_qsub_team (t : Thread) (i : Nat) : (t.qsub i).team = t.team := rfl
@[simp] theorem thread_qsub_tix (t : Thread) (i : Nat) : (t.qsub i).tix = t.tix := rfl
@[simp] theorem thread_qsub_launch (t : Thread) (i : Nat) : (t.qsub i).launch = t.launch := rfl
@[simp] theorem thread_qsub_ctx (t : Thread) (i : Nat) : (t.qsub i).ctx = t.ctx := rfl
@[simp] theorem thread_qsub_kind (t : Thread) (i : Nat) : (t.qsub i).kind = t.kind := rfl
@[simp] theorem thread_qsub_v (t : Thread) (i : Nat) : (t.qsub i).v = t.v := rfl
@[simp] theorem thread_qsub_p (t : Thread) (i : Nat) : (t.qsub i).p = t.p := rfl
@[simp] theorem thread_qsub_q (t : Thread) (i : Nat) : (t.qsub i).q = t.q.modify i (· - 1) := rfl
@[simp] theorem thread_qsub_pc (t : Thread) (i : Nat) : (t.qsub i).pc = t.pc := rfl
@[simp] theorem thread_qsub_hdr (t : Thread) (i : Nat) : (t.qsub i).hdr = t.hdr := rfl
@[simp] theorem thread_qsub_count (t : Thread) (i : Nat) : (t.qsub i).count = t.count := rfl
@[simp] theorem thread_qsub_mid (t : Thread) (i : Nat) : (t.qsub i).mid = t.mid := rfl
@[simp] theorem thread_qsub_name (t : Thread) (i : Nat) : (t.qsub i).name = t.name := rfl
@[simp] theorem thread_qsub_status (t : Thread) (i : Nat) : (t.qsub i).status = t.status := rfl
@[simp] theorem thread_qsub_starve (t : Thread) (i : Nat) : (t.qsub i).starve = t.starve := rfl
@[simp] theorem thread_qsub_fair (t : Thread) (i : Nat) : (t.qsub i).fair = t.fair := rfl
@[simp] theorem thread_qsub_wown (t : Thread) (i : Nat) : (t.qsub i).wown = t.wown := rfl
@[simp] theorem thread_qsub_trap (t : Thread) (i : Nat) : (t.qsub i).trap = t.trap := rfl
@[simp] theorem thread_qsub_secs (t : Thread) (i : Nat) : (t.qsub i).secs = t.secs := rfl
@[simp] theorem thread_qsub_tickets (t : Thread) (i : Nat) : (t.qsub i).tickets = t.tickets := rfl
@[simp] theorem thread_qsub_ctickets (t : Thread) (i : Nat) : (t.qsub i).ctickets = t.ctickets := rfl
@[simp] theorem thread_qsub_couch (t : Thread) (i : Nat) : (t.qsub i).couch = t.couch := rfl
@[simp] theorem thread_qsub_wct (t : Thread) (i : Nat) : (t.qsub i).wct = t.wct := rfl
@[simp] theorem thread_qsub_amdone (t : Thread) (i : Nat) : (t.qsub i).amdone = t.amdone := rfl
@[simp] theorem thread_qsub_helper (t : Thread) (i : Nat) : (t.qsub i).helper = t.helper := rfl
@[simp] theorem thread_qsub_recs (t : Thread) (i : Nat) : (t.qsub i).recs = t.recs := rfl
@[simp] theorem thread_qsub_fail (t : Thread) (i : Nat) : (t.qsub i).fail = t.fail := rfl

/-! `Thread.jump` -/

@[simp] theorem thread_jump_uid (t : Thread) (a : DWord) : (t.jump a).uid = t.uid := rfl
@[simp] theorem thread_jump_core (t : Thread) (a : DWord) : (t.jump a).core = t.core := rfl
@[simp] theorem thread_jump_slice (t : Thread) (a : DWord) : (t.jump a).slice = t.slice := rfl
@[simp] theorem thread_jump_lane (t : Thread) (a : DWord) : (t.jump a).lane = t.lane := rfl
@[simp] theorem thread_jump_slot (t : Thread) (a : DWord) : (t.jump a).slot = t.slot := rfl
@[simp] theorem thread_jump_group (t : Thread) (a : DWord) : (t.jump a).group = t.group := rfl
@[simp] theorem thread_jump_team (t : Thread) (a : DWord) : (t.jump a).team = t.team := rfl
@[simp] theorem thread_jump_tix (t : Thread) (a : DWord) : (t.jump a).tix = t.tix := rfl
@[simp] theorem thread_jump_launch (t : Thread) (a : DWord) : (t.jump a).launch = t.launch := rfl
@[simp] theorem thread_jump_ctx (t : Thread) (a : DWord) : (t.jump a).ctx = t.ctx := rfl
@[simp] theorem thread_jump_kind (t : Thread) (a : DWord) : (t.jump a).kind = t.kind := rfl
@[simp] theorem thread_jump_v (t : Thread) (a : DWord) : (t.jump a).v = t.v := rfl
@[simp] theorem thread_jump_p (t : Thread) (a : DWord) : (t.jump a).p = t.p := rfl
@[simp] theorem thread_jump_q (t : Thread) (a : DWord) : (t.jump a).q = t.q := rfl
@[simp] theorem thread_jump_pc (t : Thread) (a : DWord) : (t.jump a).pc = a := rfl
@[simp] theorem thread_jump_hdr (t : Thread) (a : DWord) : (t.jump a).hdr = a := rfl
@[simp] theorem thread_jump_count (t : Thread) (a : DWord) : (t.jump a).count = t.count := rfl
@[simp] theorem thread_jump_mid (t : Thread) (a : DWord) : (t.jump a).mid = false := rfl
@[simp] theorem thread_jump_name (t : Thread) (a : DWord) : (t.jump a).name = t.name := rfl
@[simp] theorem thread_jump_status (t : Thread) (a : DWord) : (t.jump a).status = .boundary := rfl
@[simp] theorem thread_jump_starve (t : Thread) (a : DWord) : (t.jump a).starve = t.starve := rfl
@[simp] theorem thread_jump_fair (t : Thread) (a : DWord) : (t.jump a).fair = t.fair := rfl
@[simp] theorem thread_jump_wown (t : Thread) (a : DWord) : (t.jump a).wown = t.wown := rfl
@[simp] theorem thread_jump_trap (t : Thread) (a : DWord) : (t.jump a).trap = t.trap := rfl
@[simp] theorem thread_jump_secs (t : Thread) (a : DWord) : (t.jump a).secs = t.secs := rfl
@[simp] theorem thread_jump_tickets (t : Thread) (a : DWord) : (t.jump a).tickets = t.tickets := rfl
@[simp] theorem thread_jump_ctickets (t : Thread) (a : DWord) : (t.jump a).ctickets = t.ctickets := rfl
@[simp] theorem thread_jump_couch (t : Thread) (a : DWord) : (t.jump a).couch = t.couch := rfl
@[simp] theorem thread_jump_wct (t : Thread) (a : DWord) : (t.jump a).wct = t.wct := rfl
@[simp] theorem thread_jump_amdone (t : Thread) (a : DWord) : (t.jump a).amdone = t.amdone := rfl
@[simp] theorem thread_jump_helper (t : Thread) (a : DWord) : (t.jump a).helper = t.helper := rfl
@[simp] theorem thread_jump_recs (t : Thread) (a : DWord) : (t.jump a).recs = t.recs := rfl
@[simp] theorem thread_jump_fail (t : Thread) (a : DWord) : (t.jump a).fail = t.fail := rfl

/-! `Thread.release` -/

@[simp] theorem thread_release_uid (t : Thread) (a : DWord) : (t.release a).uid = t.uid := rfl
@[simp] theorem thread_release_core (t : Thread) (a : DWord) : (t.release a).core = t.core := rfl
@[simp] theorem thread_release_slice (t : Thread) (a : DWord) : (t.release a).slice = t.slice := rfl
@[simp] theorem thread_release_lane (t : Thread) (a : DWord) : (t.release a).lane = t.lane := rfl
@[simp] theorem thread_release_slot (t : Thread) (a : DWord) : (t.release a).slot = t.slot := rfl
@[simp] theorem thread_release_group (t : Thread) (a : DWord) : (t.release a).group = t.group := rfl
@[simp] theorem thread_release_team (t : Thread) (a : DWord) : (t.release a).team = t.team := rfl
@[simp] theorem thread_release_tix (t : Thread) (a : DWord) : (t.release a).tix = t.tix := rfl
@[simp] theorem thread_release_launch (t : Thread) (a : DWord) : (t.release a).launch = t.launch := rfl
@[simp] theorem thread_release_ctx (t : Thread) (a : DWord) : (t.release a).ctx = t.ctx := rfl
@[simp] theorem thread_release_kind (t : Thread) (a : DWord) : (t.release a).kind = t.kind := rfl
@[simp] theorem thread_release_v (t : Thread) (a : DWord) : (t.release a).v = t.v := rfl
@[simp] theorem thread_release_p (t : Thread) (a : DWord) : (t.release a).p = t.p := rfl
@[simp] theorem thread_release_q (t : Thread) (a : DWord) : (t.release a).q = t.q := rfl
@[simp] theorem thread_release_pc (t : Thread) (a : DWord) : (t.release a).pc = a := rfl
@[simp] theorem thread_release_hdr (t : Thread) (a : DWord) : (t.release a).hdr = a := rfl
@[simp] theorem thread_release_count (t : Thread) (a : DWord) : (t.release a).count = t.count := rfl
@[simp] theorem thread_release_mid (t : Thread) (a : DWord) : (t.release a).mid = false := rfl
@[simp] theorem thread_release_name (t : Thread) (a : DWord) : (t.release a).name = t.name := rfl
@[simp] theorem thread_release_status (t : Thread) (a : DWord) : (t.release a).status = .boundary := rfl
@[simp] theorem thread_release_starve (t : Thread) (a : DWord) : (t.release a).starve = t.starve := rfl
@[simp] theorem thread_release_fair (t : Thread) (a : DWord) : (t.release a).fair = t.fair := rfl
@[simp] theorem thread_release_wown (t : Thread) (a : DWord) : (t.release a).wown = t.wown := rfl
@[simp] theorem thread_release_trap (t : Thread) (a : DWord) : (t.release a).trap = none := rfl
@[simp] theorem thread_release_secs (t : Thread) (a : DWord) : (t.release a).secs = t.secs := rfl
@[simp] theorem thread_release_tickets (t : Thread) (a : DWord) : (t.release a).tickets = t.tickets := rfl
@[simp] theorem thread_release_ctickets (t : Thread) (a : DWord) : (t.release a).ctickets = t.ctickets := rfl
@[simp] theorem thread_release_couch (t : Thread) (a : DWord) : (t.release a).couch = t.couch := rfl
@[simp] theorem thread_release_wct (t : Thread) (a : DWord) : (t.release a).wct = t.wct := rfl
@[simp] theorem thread_release_amdone (t : Thread) (a : DWord) : (t.release a).amdone = t.amdone := rfl
@[simp] theorem thread_release_helper (t : Thread) (a : DWord) : (t.release a).helper = t.helper := rfl
@[simp] theorem thread_release_recs (t : Thread) (a : DWord) : (t.release a).recs = t.recs := rfl
@[simp] theorem thread_release_fail (t : Thread) (a : DWord) : (t.release a).fail = t.fail := rfl

/-! `Thread.pset` -/

@[simp] theorem thread_pset_uid (t : Thread) (n : Nat) (w : Bool) : (t.pset n w).uid = t.uid := by
  unfold Thread.pset; split <;> rfl
@[simp] theorem thread_pset_core (t : Thread) (n : Nat) (w : Bool) : (t.pset n w).core = t.core := by
  unfold Thread.pset; split <;> rfl
@[simp] theorem thread_pset_slice (t : Thread) (n : Nat) (w : Bool) : (t.pset n w).slice = t.slice := by
  unfold Thread.pset; split <;> rfl
@[simp] theorem thread_pset_lane (t : Thread) (n : Nat) (w : Bool) : (t.pset n w).lane = t.lane := by
  unfold Thread.pset; split <;> rfl
@[simp] theorem thread_pset_slot (t : Thread) (n : Nat) (w : Bool) : (t.pset n w).slot = t.slot := by
  unfold Thread.pset; split <;> rfl
@[simp] theorem thread_pset_group (t : Thread) (n : Nat) (w : Bool) : (t.pset n w).group = t.group := by
  unfold Thread.pset; split <;> rfl
@[simp] theorem thread_pset_team (t : Thread) (n : Nat) (w : Bool) : (t.pset n w).team = t.team := by
  unfold Thread.pset; split <;> rfl
@[simp] theorem thread_pset_tix (t : Thread) (n : Nat) (w : Bool) : (t.pset n w).tix = t.tix := by
  unfold Thread.pset; split <;> rfl
@[simp] theorem thread_pset_launch (t : Thread) (n : Nat) (w : Bool) : (t.pset n w).launch = t.launch := by
  unfold Thread.pset; split <;> rfl
@[simp] theorem thread_pset_ctx (t : Thread) (n : Nat) (w : Bool) : (t.pset n w).ctx = t.ctx := by
  unfold Thread.pset; split <;> rfl
@[simp] theorem thread_pset_kind (t : Thread) (n : Nat) (w : Bool) : (t.pset n w).kind = t.kind := by
  unfold Thread.pset; split <;> rfl
@[simp] theorem thread_pset_v (t : Thread) (n : Nat) (w : Bool) : (t.pset n w).v = t.v := by
  unfold Thread.pset; split <;> rfl
@[simp] theorem thread_pset_q (t : Thread) (n : Nat) (w : Bool) : (t.pset n w).q = t.q := by
  unfold Thread.pset; split <;> rfl
@[simp] theorem thread_pset_pc (t : Thread) (n : Nat) (w : Bool) : (t.pset n w).pc = t.pc := by
  unfold Thread.pset; split <;> rfl
@[simp] theorem thread_pset_hdr (t : Thread) (n : Nat) (w : Bool) : (t.pset n w).hdr = t.hdr := by
  unfold Thread.pset; split <;> rfl
@[simp] theorem thread_pset_count (t : Thread) (n : Nat) (w : Bool) : (t.pset n w).count = t.count := by
  unfold Thread.pset; split <;> rfl
@[simp] theorem thread_pset_mid (t : Thread) (n : Nat) (w : Bool) : (t.pset n w).mid = t.mid := by
  unfold Thread.pset; split <;> rfl
@[simp] theorem thread_pset_name (t : Thread) (n : Nat) (w : Bool) : (t.pset n w).name = t.name := by
  unfold Thread.pset; split <;> rfl
@[simp] theorem thread_pset_status (t : Thread) (n : Nat) (w : Bool) : (t.pset n w).status = t.status := by
  unfold Thread.pset; split <;> rfl
@[simp] theorem thread_pset_starve (t : Thread) (n : Nat) (w : Bool) : (t.pset n w).starve = t.starve := by
  unfold Thread.pset; split <;> rfl
@[simp] theorem thread_pset_fair (t : Thread) (n : Nat) (w : Bool) : (t.pset n w).fair = t.fair := by
  unfold Thread.pset; split <;> rfl
@[simp] theorem thread_pset_wown (t : Thread) (n : Nat) (w : Bool) : (t.pset n w).wown = t.wown := by
  unfold Thread.pset; split <;> rfl
@[simp] theorem thread_pset_trap (t : Thread) (n : Nat) (w : Bool) : (t.pset n w).trap = t.trap := by
  unfold Thread.pset; split <;> rfl
@[simp] theorem thread_pset_secs (t : Thread) (n : Nat) (w : Bool) : (t.pset n w).secs = t.secs := by
  unfold Thread.pset; split <;> rfl
@[simp] theorem thread_pset_tickets (t : Thread) (n : Nat) (w : Bool) : (t.pset n w).tickets = t.tickets := by
  unfold Thread.pset; split <;> rfl
@[simp] theorem thread_pset_ctickets (t : Thread) (n : Nat) (w : Bool) : (t.pset n w).ctickets = t.ctickets := by
  unfold Thread.pset; split <;> rfl
@[simp] theorem thread_pset_couch (t : Thread) (n : Nat) (w : Bool) : (t.pset n w).couch = t.couch := by
  unfold Thread.pset; split <;> rfl
@[simp] theorem thread_pset_wct (t : Thread) (n : Nat) (w : Bool) : (t.pset n w).wct = t.wct := by
  unfold Thread.pset; split <;> rfl
@[simp] theorem thread_pset_amdone (t : Thread) (n : Nat) (w : Bool) : (t.pset n w).amdone = t.amdone := by
  unfold Thread.pset; split <;> rfl
@[simp] theorem thread_pset_helper (t : Thread) (n : Nat) (w : Bool) : (t.pset n w).helper = t.helper := by
  unfold Thread.pset; split <;> rfl
@[simp] theorem thread_pset_recs (t : Thread) (n : Nat) (w : Bool) : (t.pset n w).recs = t.recs := by
  unfold Thread.pset; split <;> rfl
@[simp] theorem thread_pset_fail (t : Thread) (n : Nat) (w : Bool) : (t.pset n w).fail = t.fail := by
  unfold Thread.pset; split <;> rfl

end Sys2Proof.Machine
end

