-- ==== Sys2Proof/Laws/Word.lean ====
section
/-! SUPPORT. What delivering codes does, and what the shared operations of an instruction word do: the register words,
and the words that put an instruction in flight. -/

namespace Sys2Proof.Machine

/-! Delivering codes -/

/-- With nothing to deliver, delivering changes nothing. -/
theorem settle_calm {s : State} (h : s.calm) : s.settle = s := by
  have : s.x.threads.filter Thread.freshTrap = [] := by
    rw [List.filter_eq_nil_iff]
    intro t ht
    simp [h t ht]
  simp [State.settle, this]

/-- Threads keep their codes under a map. -/
theorem calm_mapThreads {s : State} {f : Thread → Thread}
    (hf : ∀ t ∈ s.x.threads, (f t).freshTrap = false) : (s.mapThreads f).calm := by
  intro t ht
  simp only [mapThreads_x_threads, List.mem_map] at ht
  obtain ⟨u, hu, rfl⟩ := ht
  exact hf u hu

/-- A thread keeps its code under an update. -/
theorem calm_updThread {s : State} {u : Nat} {f : Thread → Thread} (h : s.calm) (hf : ∀ t, (f t).trap = t.trap) :
    (s.updThread u f).calm := by
  intro t ht
  simp only [updThread_x_threads, List.mem_map] at ht
  obtain ⟨v, hv, rfl⟩ := ht
  split
  · have := h v hv
    unfold Thread.freshTrap at *
    rw [hf]; exact this
  · exact h v hv

/-! Register words -/

/-- What a fixed-latency word does: every thread that it acts on becomes its result, and nothing else changes. -/
theorem alu_each {s : State} {g : Grd} {runs : List (VReg × Nat)} {f : Thread → Res Thread} {r : Thread → Thread}
    (hc : s.calm) (hfit : s.regsFit g runs) (hf : ∀ t ∈ s.x.threads, s.active g t = true → f t = .ok (r t))
    (hr : ∀ t, (r t).trap = t.trap) : s.alu g runs f = s.each g r := by
  have e : s.mapThreads (s.aluThread g runs f) = s.each g r := by
    unfold State.each State.mapThreads
    have : s.x.threads.map (s.aluThread g runs f) =
        s.x.threads.map (fun t => if s.active g t = true then r t else t) := by
      apply List.map_congr_left
      intro t ht
      unfold State.aluThread
      by_cases ha : s.active g t = true
      · have h1 := ha
        unfold State.active at h1
        simp only [h1, Bool.not_true, Bool.false_eq_true, if_false, ha, if_true, hfit t ht ha, hf t ht ha]
      · have h1 : (s.member t && t.guard g) = false := by
          unfold State.active at ha; simpa using ha
        simp [h1, ha]
    rw [this]
  unfold State.alu
  rw [e]
  apply settle_calm
  apply calm_mapThreads
  intro t ht
  split
  · have := hc t ht
    unfold Thread.freshTrap at *
    rw [hr]; exact this
  · exact hc t ht

/-- What a fixed-latency word answers. -/
theorem alu_next {s : State} {g : Grd} {runs : List (VReg × Nat)} {f : Thread → Res Thread} {r : Thread → Thread}
    (hc : s.calm) (hfit : s.regsFit g runs) (hf : ∀ t ∈ s.x.threads, s.active g t = true → f t = .ok (r t))
    (hr : ∀ t, (r t).trap = t.trap) : (Host.Outcome.next (s.alu g runs f) : Out) = .next (s.each g r) :=
  congrArg Host.Outcome.next (alu_each hc hfit hf hr)

/-- The word leaves a thread that it does not act on, and every part of the state but the threads. -/
theorem each_frame (s : State) (g : Grd) (r : Thread → Thread) :
    (s.each g r).agenda = s.agenda ∧ (s.each g r).m = s.m ∧ (s.each g r).y = s.y ∧ (s.each g r).e = s.e ∧
      (s.each g r).d = s.d ∧ (s.each g r).h = s.h ∧ (s.each g r).b = s.b ∧ (s.each g r).x.flights = s.x.flights ∧
      (s.each g r).x.teams = s.x.teams := ⟨rfl, rfl, rfl, rfl, rfl, rfl, rfl, rfl, rfl⟩

/-- A register that a write does not name keeps its value. -/
theorem vget_vset_other (t : Thread) {n k : Nat} (w : Word) (h : k ≠ n) : (t.vset n w).vget k = t.vget k := by
  simp [Thread.vget, List.getD_eq_getElem?_getD, Ne.symm h]

/-- A register below the block limit takes the value written. -/
theorem vget_vset_self (t : Thread) {n : Nat} (w : Word) (h : n < t.v.length) : (t.vset n w).vget n = w := by
  simp [Thread.vget, List.getD_eq_getElem?_getD, h]

/-! Words that put an instruction in flight -/

/-- Parts of the state that `launchFlight` leaves. -/
structure Kept (s s' : State) : Prop where
  agenda : s'.agenda = s.agenda
  freeCtr : s'.freeCtr = s.freeCtr
  clk : s'.x.clk = s.x.clk
  devTime : s'.x.devTime = s.x.devTime
  cur : s'.x.cur = s.x.cur
  issues : s'.x.issues = s.x.issues
  groups : s'.x.groups = s.x.groups
  teams : s'.x.teams = s.x.teams
  m : s'.m = s.m
  y : s'.y = s.y
  e : s'.e = s.e
  d : s'.d = s.d
  h : s'.h = s.h
  b : s'.b = s.b

/-- Everything is left by doing nothing. -/
theorem Kept.refl (s : State) : Kept s s := ⟨rfl, rfl, rfl, rfl, rfl, rfl, rfl, rfl, rfl, rfl, rfl, rfl, rfl, rfl⟩

/-- What two changes leave. -/
theorem Kept.trans {s t u : State} (h : Kept s t) (k : Kept t u) : Kept s u :=
  ⟨k.agenda.trans h.agenda, k.freeCtr.trans h.freeCtr, k.clk.trans h.clk, k.devTime.trans h.devTime, k.cur.trans h.cur,
    k.issues.trans h.issues, k.groups.trans h.groups, k.teams.trans h.teams, k.m.trans h.m, k.y.trans h.y,
    k.e.trans h.e, k.d.trans h.d, k.h.trans h.h, k.b.trans h.b⟩

/-- An instruction in flight changes only the flights, the next uid and its thread's counter. -/
theorem launchFlight_kept (s : State) (t : Thread) (c : Ctl) (op : FlightOp) : Kept s (s.launchFlight t c op) := by
  unfold State.launchFlight
  dsimp only
  split <;> exact ⟨rfl, rfl, rfl, rfl, rfl, rfl, rfl, rfl, rfl, rfl, rfl, rfl, rfl, rfl⟩

/-- The flights after one more. -/
theorem launchFlight_flights (s : State) (t : Thread) (c : Ctl) (op : FlightOp) :
    ∃ f : Flight, (s.launchFlight t c op).x.flights = s.x.flights ++ [f] ∧ f.uid = s.x.nextUid ∧ f.thread = t.uid ∧
      f.op = op ∧ f.qc = (if c.qe = true then some c.qc.toNat else none) ∧ f.window = c.la.toNat ∧ f.posted = false := by
  unfold State.launchFlight
  dsimp only
  split <;> exact ⟨_, rfl, rfl, rfl, rfl, by simp_all, rfl, rfl⟩

/-- The threads after one more flight: its thread's counter rises with QE set, and nothing else changes. -/
theorem launchFlight_threads (s : State) (t : Thread) (c : Ctl) (op : FlightOp) :
    (s.launchFlight t c op).x.threads =
      if c.qe = true then s.x.threads.map (fun u => if u.uid == t.uid then u.qadd c.qc.toNat else u) else s.x.threads := by
  unfold State.launchFlight
  dsimp only
  cases h : c.qe <;> simp

/-- `launchFlight` raises no code. -/
theorem calm_launchFlight {s : State} (h : s.calm) (t : Thread) (c : Ctl) (op : FlightOp) :
    (s.launchFlight t c op).calm := by
  intro u hu
  rw [launchFlight_threads] at hu
  split at hu
  · obtain ⟨v, hv, rfl⟩ := List.mem_map.1 hu
    have := h v hv
    split
    · exact this
    · exact this
  · exact h u hu

/-- Equal but for the counters. -/
def Thread.like (t u : Thread) : Prop := ∃ q, u = { t with q := q }

/-- A thread is like itself. -/
theorem Thread.like_refl (t : Thread) : t.like t := ⟨t.q, rfl⟩

/-- Every thread of `s'` is a thread of `s` but for its counters. -/
def ThreadsLike (s s' : State) : Prop := ∀ u ∈ s'.x.threads, ∃ t ∈ s.x.threads, t.like u

/-- `launchFlight` changes threads by their counters alone. -/
theorem launchFlight_like {s s' : State} (h : ThreadsLike s s') (t : Thread) (c : Ctl) (op : FlightOp) :
    ThreadsLike s (s'.launchFlight t c op) := by
  intro u hu
  rw [launchFlight_threads] at hu
  split at hu
  · obtain ⟨v, hv, rfl⟩ := List.mem_map.1 hu
    obtain ⟨w, hw, q, rfl⟩ := h v hv
    split
    · exact ⟨w, hw, q.modify c.qc.toNat (· + 1), rfl⟩
    · exact ⟨w, hw, q, rfl⟩
  · exact h u hu

/-- The thread of a uid is one of the threads. -/
theorem thread?_mem {s : State} {u : Nat} {t : Thread} (h : s.thread? u = some t) : t ∈ s.x.threads ∧ t.uid = u := by
  unfold State.thread? at h
  exact ⟨List.mem_of_find?_eq_some h, by simpa using List.find?_some h⟩

/-- What a word of flights does: each thread that it acts on puts its instruction in flight, in ascending lane order, and
nothing else changes. -/
theorem lanes_launchEach {s : State} {c : Ctl} {runs : List (VReg × Nat)} {f : State → Thread → Res State}
    {op : Thread → FlightOp} (hc : s.calm)
    (hf : ∀ s' t u, Kept s s' → t ∈ s.x.threads → t.like u → u.guard c.grd = true →
      u.inBlocks runs = true ∧ f s' u = .ok (s'.launchFlight u c (op u))) :
    s.lanes c.grd runs f = s.launchEach c op := by
  have key : ∀ (us : List Nat) (s' : State), Kept s s' → ThreadsLike s s' → s'.calm →
      us.foldl (fun s u =>
        match s.thread? u with
        | none => s
        | some t =>
          if !t.guard c.grd then s
          else if !t.inBlocks runs then s.updThread u fun t => s.trapped t (Cause.of .registerBlock)
          else
            match f s t with
            | .ok s' => s'
            | .error k => s.updThread u fun t => s.trapped t k) s' =
      us.foldl (fun s u =>
        match s.thread? u with
        | none => s
        | some t => if t.guard c.grd then s.launchFlight t c (op t) else s) s' ∧
      (us.foldl (fun s u =>
        match s.thread? u with
        | none => s
        | some t => if t.guard c.grd then s.launchFlight t c (op t) else s) s').calm := by
    intro us
    induction us with
    | nil => intro s' _ _ hcalm; exact ⟨rfl, hcalm⟩
    | cons u us ih =>
      intro s' hk hl hcalm
      simp only [List.foldl_cons]
      cases ht : s'.thread? u with
      | none => exact ih s' hk hl hcalm
      | some t =>
        dsimp only
        by_cases hg : t.guard c.grd = true
        · obtain ⟨t0, ht0, hlike⟩ := hl t (thread?_mem ht).1
          obtain ⟨h1, h2⟩ := hf s' t0 t hk ht0 hlike hg
          simp only [hg, h1, h2, Bool.not_true, Bool.false_eq_true, if_false, if_true]
          exact ih _ (hk.trans (launchFlight_kept _ _ _ _)) (launchFlight_like hl _ _ _) (calm_launchFlight hcalm _ _ _)
        · simp only [hg, Bool.not_false, if_true, Bool.false_eq_true, if_false]
          exact ih s' hk hl hcalm
  obtain ⟨h1, h2⟩ := key s.members s (Kept.refl s) (fun u hu => ⟨u, hu, Thread.like_refl u⟩) hc
  exact (congrArg State.settle h1).trans (settle_calm h2)

/-- What a word does that acts on one thread alone. -/
theorem lanes_solo {s s' : State} {g : Grd} {t : Thread} {runs : List (VReg × Nat)} {f : State → Thread → Res State}
    (hs : s.solo g t) (hb : t.inBlocks runs = true) (hf : f s t = .ok s') (hc : s'.calm) : s.lanes g runs f = s' := by
  obtain ⟨h1, h2, h3⟩ := hs
  unfold State.lanes
  rw [h1]
  simp only [List.foldl_cons, List.foldl_nil, h2, h3, hb, hf, Bool.not_true, Bool.false_eq_true, if_false]
  exact settle_calm hc

end Sys2Proof.Machine
end

