-- ==== Sys2Proof/Laws/Operands.lean ====
section
/-! SUPPORT. What reading an operand answers, and what the shared register words do. -/

namespace Sys2Proof.Machine

/-! Reading -/

/-- A W register of a thread that has a team can be read. -/
theorem wval_ok {s : State} {t : Thread} (h : (s.teamOf t).isSome = true) (n : Nat) : ∃ w, s.wval t n = .ok w := by
  obtain ⟨tm, ht⟩ := Option.isSome_iff_exists.1 h
  refine ⟨(sget t.wown n).getD (tm.w.getD n 0#32), ?_⟩
  simp [State.wval, ht]

/-- A thread with no team cannot read a W register (R241). -/
theorem wval_teamless {s : State} {t : Thread} (h : s.teamOf t = none) (n : Nat) :
    s.wval t n = .error (Cause.of .illegalOperand) := by simp [State.wval, h, illop]

section
variable {s : State} {g : Grd} {b : SrcB} (h : s.canRead g b) {t : Thread} (ht : t ∈ s.x.threads)
  (ha : s.active g t = true)
include h ht ha

/-- Source B of an integer word is its value. -/
theorem srcI_val : s.srcI t b = .ok (s.valI t b) := by
  cases b with
  | w r =>
    obtain ⟨y, hy⟩ := wval_ok (h t ht ha r rfl) r.toNat
    simp [State.valI, State.srcI, hy]
  | _ => simp [State.valI, State.srcI]

/-- Source B of an FP32 word is its value. -/
theorem srcF_val : s.srcF t b = .ok (s.valF t b) := by
  cases b with
  | w r =>
    obtain ⟨y, hy⟩ := wval_ok (h t ht ha r rfl) r.toNat
    simp [State.valF, State.srcF, hy]
  | _ => simp [State.valF, State.srcF]

/-- Source B of a packed-half word is its value. -/
theorem srcH_val (f : Fmt) : s.srcH f t b = .ok (s.valH f t b) := by
  cases b with
  | w r =>
    obtain ⟨y, hy⟩ := wval_ok (h t ht ha r rfl) r.toNat
    simp [State.valH, State.srcH, hy]
  | _ => simp [State.valH, State.srcH]

/-- A 64-bit source B is its value. -/
theorem src64_val (u : Bool) : s.src64 u t b = .ok (s.val64 u t b) := by
  cases b with
  | w r =>
    obtain ⟨y, hy⟩ := wval_ok (h t ht ha r rfl) r.toNat
    simp [State.val64, State.src64, hy, Except.map]
  | _ => simp [State.val64, State.src64]

end

/-! Shared register words -/

/-- A range of registers that a longer list names. -/
theorem regsFit_mono {s : State} {g : Grd} {r1 r2 : List (VReg × Nat)} (h : s.regsFit g r1) (hs : ∀ p ∈ r2, p ∈ r1) :
    s.regsFit g r2 := by
  intro t ht ha
  have := h t ht ha
  unfold Thread.inBlocks at *
  rw [List.all_eq_true] at *
  exact fun p hp => this p (hs p hp)

/-- A word with one integer source. -/
theorem intOp1_each {s : State} {c : Ctl} {d : VReg} {b : SrcB} (f : Word → Word) (hc : s.calm) (hb : s.canRead c.grd b)
    (hr : s.regsFit c.grd ((d, 1) :: bRuns b 1)) :
    s.intOp1 c d b f = s.each c.grd fun t => t.vset d.toNat (f (s.valI t b)) :=
  alu_each hc hr (fun t ht ha => by simp [srcI_val hb ht ha, bind, Except.bind]) fun _ => rfl

/-- A word with two integer sources. -/
theorem intOp2_each {s : State} {c : Ctl} {d a : VReg} {b : SrcB} (f : Word → Word → Word) (hc : s.calm)
    (hb : s.canRead c.grd b) (hr : s.regsFit c.grd (runs3 d a b)) :
    s.intOp2 c d a b f = s.each c.grd fun t => t.vset d.toNat (f (t.vget a.toNat) (s.valI t b)) :=
  alu_each hc hr (fun t ht ha => by simp [srcI_val hb ht ha, bind, Except.bind]) fun _ => rfl

/-- A word with three integer sources. -/
theorem intOp3_each {s : State} {c : Ctl} {d a x : VReg} {b : SrcB} (f : Word → Word → Word → Word) (hc : s.calm)
    (hb : s.canRead c.grd b) (hr : s.regsFit c.grd ((x, 1) :: runs3 d a b)) :
    s.intOp3 c d a b x f =
      s.each c.grd fun t => t.vset d.toNat (f (t.vget a.toNat) (s.valI t b) (t.vget x.toNat)) :=
  alu_each hc hr (fun t ht ha => by simp [srcI_val hb ht ha, bind, Except.bind]) fun _ => rfl

/-- A word with two FP32 sources. -/
theorem fpOp2_each {s : State} {c : Ctl} {d a : VReg} {b : SrcB} (f : Num → Num → Num) (hc : s.calm)
    (hb : s.canRead c.grd b) (hr : s.regsFit c.grd (runs3 d a b)) :
    s.fpOp2 c d a b f =
      s.each c.grd fun t => t.vset d.toNat (toFp32 (f (fp32 (t.vget a.toNat)) (fp32 (s.valF t b)))) :=
  alu_each hc hr (fun t ht ha => by simp [srcF_val hb ht ha, bind, Except.bind]) fun _ => rfl

/-- A word with three FP32 sources. -/
theorem fpOp3_each {s : State} {c : Ctl} {d a x : VReg} {b : SrcB} (f : Num → Num → Num → Num) (hc : s.calm)
    (hb : s.canRead c.grd b) (hr : s.regsFit c.grd ((x, 1) :: runs3 d a b)) :
    s.fpOp3 c d a b x f = s.each c.grd fun t =>
      t.vset d.toNat (toFp32 (f (fp32 (t.vget a.toNat)) (fp32 (s.valF t b)) (fp32 (t.vget x.toNat)))) :=
  alu_each hc hr (fun t ht ha => by simp [srcF_val hb ht ha, bind, Except.bind]) fun _ => rfl

/-- A word with two packed-half sources. -/
theorem halfOp2_each {s : State} {c : Ctl} {bf : Bool} {d a : VReg} {b : SrcB} (f : Num → Num → Num) (hc : s.calm)
    (hb : s.canRead c.grd b) (hr : s.regsFit c.grd (runs3 d a b)) :
    s.halfOp2 c bf d a b f = s.each c.grd fun t => t.vset d.toNat (pack2 (halfFmt bf) fun h =>
      f (halfOf (halfFmt bf) (t.vget a.toNat) h) (halfOf (halfFmt bf) (s.valH (halfFmt bf) t b) h)) :=
  alu_each hc hr (fun t ht ha => by simp [srcH_val hb ht ha, bind, Except.bind]) fun _ => rfl

/-! The same in flights -/

/-- The team of a thread in a state where other lanes of the word are in flight. -/
theorem teamOf_kept {s s' : State} (hk : Kept s s') (t : Thread) (q : List Nat) :
    s'.teamOf { t with q := q } = s.teamOf t := by
  have : s'.team? = s.team? := by funext u; simp [State.team?, hk.teams]
  simp [State.teamOf, this]

/-- A W register in such a state. -/
theorem wval_kept {s s' : State} (hk : Kept s s') (t : Thread) (q : List Nat) (n : Nat) :
    s'.wval { t with q := q } n = s.wval t n := by simp [State.wval, teamOf_kept hk]

/-- A special register in such a state. -/
theorem srval_kept {s s' : State} (hk : Kept s s') (t : Thread) (q : List Nat) (r : SReg) :
    s'.srval { t with q := q } r = s.srval t r := by
  cases r <;> simp [State.srval, State.srTeam, State.srCluster, teamOf_kept hk, State.timeOf, State.now, hk.devTime,
    Thread.srTid, Thread.srGroup]

/-- Source B of an integer word in such a state. -/
theorem srcI_kept {s s' : State} (hk : Kept s s') (t : Thread) (q : List Nat) (b : SrcB) :
    s'.srcI { t with q := q } b = s.srcI t b := by
  cases b <;> simp [State.srcI, wval_kept hk, srval_kept hk, Thread.vget]

/-- Source B of an FP32 word in such a state. -/
theorem srcF_kept {s s' : State} (hk : Kept s s') (t : Thread) (q : List Nat) (b : SrcB) :
    s'.srcF { t with q := q } b = s.srcF t b := by
  cases b <;> simp [State.srcF, wval_kept hk, srval_kept hk, Thread.vget]

end Sys2Proof.Machine
end

