-- ==== Sys2Proof/Laws/Steps.lean ====
section
/-! SUPPORT. Every instruction and every event completes, and what a step adds around one. -/

namespace Sys2Proof.Machine

/-- Every instruction and every event answers a next state. -/
theorem exec_next (i : Instr) (s : State) : ∃ t, exec i s = .next t := by
  cases i
  case pmov c op => cases op <;> exact ⟨_, rfl⟩
  case rbrel c b =>
    cases h : s.rbWaits c.grd with
    | true => exact ⟨s, by simp [exec, execRbrel, h]⟩
    | false => exact ⟨_, by simp only [exec, execRbrel, h]; rfl⟩
  all_goals exact ⟨_, rfl⟩

/-- A step that ends in a state tidies it. -/
theorem step_done {s t : State} (h : s.todo = .done t) : step s = .next t.tidy := by simp [step, h]

/-- A step that runs an event tidies what the event leaves. -/
theorem step_act {s t u : State} {i : Instr} (h : s.todo = .act i t) (e : exec i t = .next u) : step s = .next u.tidy := by
  simp [step, h, e]

/-- A step that runs a word ends the word after it. -/
theorem step_word {s t u : State} {i : Instr} {e : WordEnd} (h : s.todo = .word i t e) (x : exec i t = .next u) :
    step s = .next (u.finishWord e).tidy := by
  simp [step, h, x]

/-- Every step answers a next state. -/
theorem step_next (s : State) : ∃ t, step s = .next t := by
  cases h : s.todo with
  | done t => exact ⟨_, step_done h⟩
  | act i t =>
    obtain ⟨u, hu⟩ := exec_next i t
    exact ⟨_, step_act h hu⟩
  | word i t e =>
    obtain ⟨u, hu⟩ := exec_next i t
    exact ⟨_, step_word h hu⟩

/-- A calm state of a device that does not run is left as it is by what follows a step. -/
theorem tidy_idle {s : State} (h : s.calm) (ha : s.alive = false) : s.tidy = s := by
  simp [State.tidy, ha, settle_calm h]

/-- The agenda says what a step does first. -/
theorem todo_agenda {s : State} {c : Choice} {rest : List Choice} (h : s.agenda = c :: rest) :
    s.todo = ({ s with agenda := rest } : State).choose c := by
  simp [State.todo, h]

/-- An event that may not happen leaves the state. -/
theorem choose_mayNot {s : State} {i : Instr} (h : s.may i = false) : s.choose (.act i) = .done s := by
  simp [State.choose, h]

/-- An event that may happen runs. -/
theorem choose_may {s : State} {i : Instr} (h : s.may i = true) : s.choose (.act i) = .act i s := by
  simp [State.choose, h]

/-- The threads of a bundle are those that issue in the current slice. -/
theorem beginWord_cur (s : State) (c : Issue) : (s.beginWord c).x.cur = (c.core, c.slice) := rfl

/-- Reset holds no thread, so no code waits to be delivered. -/
theorem reset_calm : State.reset.calm := fun _ h => nomatch h

end Sys2Proof.Machine
end

