-- ==== Sys2Proof/Tests/Slice0.lean ====
section
/-! SUPPORT. Tests of the decoder, of well-formedness and of single instructions, and a witness for the hypotheses of each
statement. Expected values come from the rules of spec/ by hand. -/

namespace Sys2Proof.Tests

set_option Elab.async false

open Sys2Proof Sys2Proof.Machine

/-! Words, field by field (R140, R143, R147, R149, R150) -/

/-- A word of the standard form under a negated P9, with LA 3, QC 5 and QE 1. -/
def std (op : BitVec 8) (sub : BitVec 6) (dst sa sb sc : BitVec 8) (kind : BitVec 3) : DWord :=
  op ++ sub ++ 9#6 ++ 1#1 ++ dst ++ sa ++ sb ++ sc ++ 3#4 ++ 5#3 ++ 1#1 ++ kind

/-- A word of the standard form with no guard, with LA 3, QC 5 and QE 1. -/
def stdU (op : BitVec 8) (sub : BitVec 6) (dst sa sb sc : BitVec 8) (kind : BitVec 3) : DWord :=
  op ++ sub ++ 63#6 ++ 0#1 ++ dst ++ sa ++ sb ++ sc ++ 3#4 ++ 5#3 ++ 1#1 ++ kind

/-- A word of the standard form with an I24 immediate under a negated P9. -/
def imm24 (op : BitVec 8) (sub : BitVec 6) (dst sa : BitVec 8) (imm : BitVec 24) : DWord :=
  op ++ sub ++ 9#6 ++ 1#1 ++ dst ++ sa ++ imm ++ 4#3

/-- A word with an I32 immediate under a negated P9. -/
def imm32 (op : BitVec 8) (sub : BitVec 6) (dst : BitVec 8) (imm : BitVec 32) : DWord :=
  op ++ sub ++ 9#6 ++ 1#1 ++ dst ++ imm ++ 5#3

/-- A word of the memory form under a negated P9, with LA 3, QC 5 and QE 1. -/
def memW (op : BitVec 8) (sub : BitVec 6) (data addr : BitVec 8) (am : BitVec 2) (off : BitVec 14) (scope : BitVec 3) : DWord :=
  op ++ sub ++ 9#6 ++ 1#1 ++ data ++ addr ++ am ++ off ++ 3#4 ++ 5#3 ++ 1#1 ++ scope

/-- A word of the conversion form under a negated P9: slot 6, mode RU, USESLOT 1, OVF 2, QC 5, QE 1. -/
def cvW (op dst sa : BitVec 8) (sfmt dfmt : BitVec 4) (ss : BitVec 8) : DWord :=
  op ++ 6#3 ++ 2#2 ++ 1#1 ++ 9#6 ++ 1#1 ++ dst ++ sa ++ sfmt ++ dfmt ++ ss ++ 2#2 ++ 0#2 ++ 5#3 ++ 1#1 ++ 0#3

/-- A paired word under a negated P9: X writes V1 from V2 and V3, Y is `pop` of V4, V6 and `pb`. -/
def pairW (x pop : BitVec 4) (xb pb : BitVec 8) : DWord :=
  9#6 ++ 1#1 ++ 0#1 ++ x ++ 1#8 ++ 2#8 ++ xb ++ pop ++ 4#8 ++ 2#8 ++ pb

/-- Control fields of `std`, `stdU`, `cvW`, and the guard of the others. -/
def g : Ctl := ⟨9#6, true, 3#4, 5#3, true⟩
def u : Ctl := ⟨63#6, false, 3#4, 5#3, true⟩
def u24 : Ctl := ⟨63#6, false, 0#4, 0#3, false⟩
def g24 : Ctl := ⟨9#6, true, 0#4, 0#3, false⟩
def cg : CvCtl := ⟨9#6, true, 6#3, .ru, true, 2#2, 5#3, true⟩
def gr : Grd := ⟨9#6, true⟩

/-- Each word decodes to its instruction, and the well-formed instruction encodes to its word. -/
def reads (paired : Bool) (ws : List (DWord × Instr)) : Bool :=
  ws.all fun p => decide (decode paired p.1 = .ok p.2) && decide (encode p.2 = some p.1) && p.2.wf

/-- No word is an instruction: each gives the error. -/
def rejects (paired : Bool) (e : DecodeErr) (ws : List DWord) : Bool :=
  ws.all fun w => decide (decode paired w = .error e)

/-- R140, R154, R156: integer and logic words. -/
theorem test_decode_integer_1 : reads false [
    (std 0x01#8 (0#6) 165#8 0#8 45#8 0#8 1#3, .mov g 165#8 (.w 45#6)),
    (std 0x0C#8 (0#6) 165#8 0#8 243#8 0#8 2#3, .iabs g 165#8 (.s8 0xF3#8)),
    (std 0x15#8 (0#6) 165#8 0#8 13#8 0#8 3#3, .lnot g 165#8 (.sr .timehi)),
    (std 0x1C#8 (0#6) 165#8 0#8 92#8 0#8 0#3, .popc g 165#8 (.v 92#8)),
    (std 0x1D#8 (0#6) 165#8 0#8 45#8 0#8 1#3, .clz g 165#8 (.w 45#6)),
    (std 0x1E#8 (0#6) 165#8 0#8 243#8 0#8 2#3, .brev g 165#8 (.s8 0xF3#8)),
    (std 0x03#8 (0#6) 37#8 0#8 13#8 0#8 3#3, .movw g 37#6 (.sr .timehi)),
    (std 0x04#8 (0#1 ++ 1#1 ++ 0#4) 165#8 151#8 92#8 0#8 0#3, .iadd g false true 165#8 151#8 (.v 92#8)),
    (std 0x05#8 (1#1 ++ 0#1 ++ 0#4) 165#8 151#8 45#8 0#8 1#3, .isub g true false 165#8 151#8 (.w 45#6)),
    (std 0x07#8 (0#1 ++ 1#1 ++ 0#4) 165#8 151#8 243#8 0#8 2#3, .imul g false true 165#8 151#8 (.s8 0xF3#8)),
    (std 0x06#8 (37#6) 165#8 151#8 13#8 0#8 3#3, .iaddc g 37#6 165#8 151#8 (.sr .timehi)),
    (std 0x08#8 (0#1 ++ 0#5) 165#8 151#8 92#8 0#8 0#3, .imulh g false 165#8 151#8 (.v 92#8)),
    (std 0x09#8 (1#1 ++ 0#1 ++ 0#4) 165#8 151#8 45#8 230#8 1#3, .imad g true false 165#8 151#8 (.w 45#6) 230#8),
    (std 0x0A#8 (0#1 ++ 0#5) 165#8 151#8 243#8 0#8 2#3, .imin g false 165#8 151#8 (.s8 0xF3#8)),
    (std 0x0B#8 (1#1 ++ 0#5) 165#8 151#8 13#8 0#8 3#3, .imax g true 165#8 151#8 (.sr .timehi)),
    (std 0x10#8 (0#1 ++ 1#1 ++ 0#4) 164#8 150#8 45#8 0#8 1#3, .iadd64 g false true 164#8 150#8 (.w 45#6)),
    (std 0x22#8 (1#1 ++ 0#1 ++ 0#4) 164#8 151#8 45#8 230#8 1#3, .imad64 g true false 164#8 151#8 (.w 45#6) 230#8),
    (std 0x0F#8 (5#3 ++ 0#3) 164#8 150#8 243#8 0#8 2#3, .lea g 5#3 164#8 150#8 (.s8 0xF3#8)),
    (std 0x0D#8 (2#3 ++ 1#1 ++ 3#2) 37#8 151#8 13#8 21#8 3#3, .icmp g .lt true (.xor 21#6) 37#6 151#8 (.sr .timehi)),
    (std 0x0E#8 (37#6) 165#8 151#8 92#8 0#8 0#3, .isel g 37#6 165#8 151#8 (.v 92#8)),
    (std 0x11#8 (0#6) 165#8 151#8 45#8 0#8 1#3, .land g 165#8 151#8 (.w 45#6)),
    (std 0x12#8 (0#6) 165#8 151#8 243#8 0#8 2#3, .lor g 165#8 151#8 (.s8 0xF3#8)),
    (std 0x13#8 (0#6) 165#8 151#8 13#8 0#8 3#3, .lxor g 165#8 151#8 (.sr .timehi)),
    (std 0x14#8 (0#6) 165#8 151#8 92#8 0#8 0#3, .landn g 165#8 151#8 (.v 92#8)),
    (std 0x16#8 (0#6) 165#8 151#8 45#8 0#8 1#3, .shl g 165#8 151#8 (.w 45#6)),
    (std 0x17#8 (0#6) 165#8 151#8 243#8 0#8 2#3, .shr g 165#8 151#8 (.s8 0xF3#8)),
    (std 0x18#8 (0#6) 165#8 151#8 13#8 0#8 3#3, .sar g 165#8 151#8 (.sr .timehi)),
    (std 0x19#8 (0#6) 165#8 151#8 92#8 0#8 0#3, .rot g 165#8 151#8 (.v 92#8)),
    (std 0x1A#8 (1#1 ++ 0#5) 165#8 151#8 45#8 230#8 1#3, .bfe g true 165#8 151#8 (.w 45#6) 230#8),
    (std 0x1B#8 (0#6) 165#8 151#8 243#8 230#8 2#3, .bfi g 165#8 151#8 (.s8 0xF3#8) 230#8)] = true := by decide +kernel

/-- R140, R154, R156: integer and logic words. -/
theorem test_decode_integer_2 : reads false [
    (std 0x1F#8 (0#6) 165#8 151#8 13#8 230#8 3#3, .perm g 165#8 151#8 (.sr .timehi) 230#8),
    (std 0x20#8 (37#6) 37#8 23#8 28#8 230#8 0#3, .plop g 37#6 37#6 23#6 28#6 230#8)] = true := by decide +kernel

/-- R140, R154, R156: FP32 words. -/
theorem test_decode_float : reads false [
    (std 0x30#8 (0#1 ++ 0#5) 165#8 151#8 92#8 0#8 0#3, .fadd g false 165#8 151#8 (.v 92#8)),
    (std 0x31#8 (1#1 ++ 0#5) 165#8 151#8 45#8 0#8 1#3, .fsub g true 165#8 151#8 (.w 45#6)),
    (std 0x32#8 (0#1 ++ 0#5) 165#8 151#8 243#8 0#8 2#3, .fmul g false 165#8 151#8 (.s8 0xF3#8)),
    (std 0x33#8 (1#1 ++ 0#1 ++ 0#4) 165#8 151#8 13#8 230#8 3#3, .ffma g true false 165#8 151#8 (.sr .timehi) 230#8),
    (std 0x34#8 (0#6) 165#8 151#8 92#8 0#8 0#3, .fmin g 165#8 151#8 (.v 92#8)),
    (std 0x35#8 (0#6) 165#8 151#8 45#8 0#8 1#3, .fmax g 165#8 151#8 (.w 45#6)),
    (std 0x3F#8 (0#6) 165#8 151#8 243#8 230#8 2#3, .fclamp g 165#8 151#8 (.s8 0xF3#8) 230#8),
    (std 0x36#8 (6#3 ++ 0#1 ++ 3#2) 37#8 151#8 13#8 21#8 3#3, .fcmp g .num (.xor 21#6) 37#6 151#8 (.sr .timehi)),
    (std 0x37#8 (3#2 ++ 0#4) 165#8 0#8 92#8 0#8 0#3, .frnd g .rd 165#8 (.v 92#8)),
    (std 0x38#8 (0#6) 165#8 0#8 45#8 0#8 1#3, .frcp g 165#8 (.w 45#6)),
    (std 0x39#8 (0#6) 165#8 0#8 243#8 0#8 2#3, .frsq g 165#8 (.s8 0xF3#8)),
    (std 0x3A#8 (0#6) 165#8 0#8 13#8 0#8 3#3, .fsqrt g 165#8 (.sr .timehi)),
    (std 0x3B#8 (0#6) 165#8 0#8 92#8 0#8 0#3, .fex2 g 165#8 (.v 92#8)),
    (std 0x3C#8 (0#6) 165#8 0#8 45#8 0#8 1#3, .flg2 g 165#8 (.w 45#6)),
    (std 0x3D#8 (0#6) 165#8 0#8 243#8 0#8 2#3, .fsin g 165#8 (.s8 0xF3#8)),
    (std 0x3E#8 (0#6) 165#8 0#8 13#8 0#8 3#3, .fcos g 165#8 (.sr .timehi))] = true := by decide +kernel

/-- R140, R154, R156: packed-half and dot-product words. -/
theorem test_decode_half : reads false [
    (std 0x40#8 (0#1 ++ 0#5) 165#8 151#8 92#8 0#8 0#3, .hadd2 g false 165#8 151#8 (.v 92#8)),
    (std 0x41#8 (1#1 ++ 0#5) 165#8 151#8 45#8 0#8 1#3, .hmul2 g true 165#8 151#8 (.w 45#6)),
    (std 0x42#8 (0#1 ++ 0#5) 165#8 151#8 243#8 230#8 2#3, .hfma2 g false 165#8 151#8 (.s8 0xF3#8) 230#8),
    (std 0x43#8 (1#1 ++ 2#3 ++ 3#2) 41#8 151#8 13#8 21#8 3#3, .hcmp2 g true .lt (.xor 21#6) 41#6 151#8 (.sr .timehi)),
    (std 0x44#8 (0#1 ++ 1#1 ++ 0#4) 165#8 151#8 92#8 0#8 0#3, .hminmax2 g false true 165#8 151#8 (.v 92#8)),
    (std 0x50#8 (1#1 ++ 0#1 ++ 1#1 ++ 0#3) 165#8 151#8 45#8 230#8 1#3, .dp4 g true false true 165#8 151#8 (.w 45#6) 230#8),
    (std 0x51#8 (0#1 ++ 1#1 ++ 0#1 ++ 0#3) 165#8 151#8 92#8 230#8 0#3, .dp8 g false true false 165#8 151#8 (.v 92#8) 230#8),
    (std 0x52#8 (1#1 ++ 0#5) 165#8 151#8 13#8 230#8 3#3, .dp2h g true 165#8 151#8 (.sr .timehi) 230#8)] = true := by decide +kernel

/-- R140, R154, R156: cross-lane words. -/
theorem test_decode_cross_lane : reads false [
    (stdU 0x58#8 (2#2 ++ 0#4) 165#8 151#8 92#8 230#8 0#3, .shfl u .down 165#8 151#8 (.v 92#8) 230#8),
    (stdU 0x59#8 (2#2 ++ 0#4) 165#8 23#8 0#8 230#8 0#3, .vote u .ballot 165#8 23#6 230#8),
    (stdU 0x5A#8 (5#4 ++ 0#2) 165#8 23#8 92#8 230#8 0#3, .redl u .umax 165#8 23#6 92#8 230#8),
    (stdU 0x5B#8 (5#4 ++ 1#1 ++ 0#1) 165#8 23#8 92#8 230#8 0#3, .scanl u .umax true 165#8 23#6 92#8 230#8),
    (stdU 0x5C#8 (1#1 ++ 0#5) 165#8 0#8 92#8 230#8 0#3, .matchl u true 165#8 92#8 230#8),
    (stdU 0x5D#8 (0#6) 37#8 0#8 0#8 230#8 0#3, .elect u 37#6 230#8),
    (stdU 0x5E#8 (0#6) 165#8 0#8 0#8 230#8 0#3, .actmask u 165#8 230#8)] = true := by decide +kernel

/-- R140, R154, R156: control and convergence words. -/
theorem test_decode_control : reads false [
    (std 0x62#8 (0#6) 0#8 0#8 92#8 0#8 0#3, .brx g 92#8),
    (std 0x64#8 (0#6) 164#8 0#8 92#8 0#8 0#3, .calli g 164#8 92#8),
    (std 0x65#8 (0#6) 0#8 0#8 92#8 0#8 0#3, .ret g 92#8),
    (std 0x66#8 (0#6) 0#8 0#8 0#8 0#8 0#3, .exit g),
    (std 0x67#8 (0#6) 0#8 0#8 0#8 0#8 0#3, .yield_ g),
    (stdU 0x68#8 (0#6) 5#8 151#8 45#8 0#8 1#3, .kdecl u 5#4 151#8 (.w 45#6)),
    (stdU 0x69#8 (0#6) 165#8 7#8 0#8 0#8 0#3, .sign u 165#8 7#4),
    (stdU 0x6A#8 (0#6) 0#8 7#8 92#8 0#8 0#3, .waitk u 7#4 (.v 92#8)),
    (std 0x6B#8 (0#6) 0#8 0#8 92#8 0#8 0#3, .lnmark g (.v 92#8)),
    (std 0x6C#8 (0#6) 37#8 0#8 92#8 0#8 0#3, .rbacq g 37#6 (.v 92#8)),
    (std 0x6D#8 (0#6) 0#8 0#8 92#8 0#8 0#3, .rbrel g (.v 92#8)),
    (std 0x6E#8 (0#6) 165#8 0#8 0#8 0#8 0#3, .rbqry g 165#8),
    (std 0x6F#8 (0#6) 0#8 0#8 243#8 0#8 2#3, .sleepn g (.s8 0xF3#8))] = true := by decide +kernel

/-- R140, R154, R156: memory words of the standard form. -/
theorem test_decode_memory_standard : reads false [
    (std 0x7A#8 (0#1 ++ 1#1 ++ 3#3 ++ 0#1) 0#8 148#8 92#8 230#8 0#3, .cpyg g true 3#3 148#8 (.v 92#8) 230#8),
    (std 0x79#8 (0#1 ++ 1#1 ++ 3#3 ++ 0#1) 0#8 148#8 92#8 230#8 0#3, .cpy g false true 3#3 148#8 (.v 92#8) 230#8),
    (std 0x7B#8 (1#1 ++ 0#5) 0#8 23#8 45#8 228#8 1#3, .cpyt g true 23#5 (.w 45#6) 228#8),
    (std 0x7C#8 (0#6) 0#8 0#8 243#8 0#8 2#3, .disct g (.s8 0xF3#8)),
    (std 0x7F#8 (0#3 ++ 0#3) 0#8 150#8 92#8 0#8 0#3, .cacheopWb g 150#8 (.v 92#8)),
    (std 0x7F#8 (1#3 ++ 0#3) 0#8 150#8 92#8 0#8 0#3, .cacheopWbinv g 150#8 (.v 92#8)),
    (std 0x7F#8 (2#3 ++ 0#3) 0#8 150#8 45#8 0#8 1#3, .cacheopIcinv g 150#8 (.w 45#6)),
    (std 0x80#8 (0#6) 164#8 151#8 243#8 6#8 2#3, .texs g 164#8 151#8 (.s8 0xF3#8) 6#5),
    (std 0x81#8 (0#6) 164#8 151#8 92#8 6#8 0#3, .texl g 164#8 151#8 (.v 92#8) 6#5),
    (std 0x82#8 (0#6) 164#8 151#8 0#8 6#8 0#3, .texf g 164#8 151#8 6#5),
    (std 0x83#8 (0#6) 0#8 151#8 92#8 6#8 0#3, .surfst g 151#8 92#8 6#5),
    (std 0x8D#8 (0#6) 164#8 0#8 0#8 0#8 0#3, .time g 164#8),
    (std 0x8F#8 (0#6) 165#8 23#8 92#8 0#8 0#3, .dqry g 165#8 23#5 (.v 92#8))] = true := by decide +kernel

/-- R140, R154, R156: barrier, section, launch and message words. -/
theorem test_decode_sync : reads false [
    (stdU 0x90#8 (5#4 ++ 0#2) 0#8 0#8 45#8 0#8 1#3, .bar u 5#4 (.w 45#6)),
    (stdU 0x91#8 (0#6) 0#8 0#8 0#8 0#8 0#3, .barc u),
    (stdU 0x92#8 (0#6) 0#8 0#8 0#8 0#8 0#3, .barg u),
    (stdU 0x93#8 (0#6) 37#8 150#8 243#8 0#8 2#3, .osenter u 37#6 150#8 (.s8 0xF3#8)),
    (stdU 0x94#8 (0#6) 0#8 150#8 0#8 0#8 0#3, .osleave u 150#8),
    (stdU 0x95#8 (0#6) 0#8 150#8 0#8 0#8 0#3, .osabort u 150#8),
    (std 0x96#8 (1#1 ++ 0#5) 164#8 150#8 0#8 0#8 0#3, .osstat g true 164#8 150#8),
    (std 0x97#8 (0#6) 0#8 150#8 92#8 0#8 0#3, .launch g 150#8 (.v 92#8)),
    (std 0x98#8 (0#6) 0#8 151#8 92#8 0#8 0#3, .amsend g 151#8 (.v 92#8)),
    (std 0x99#8 (0#6) 0#8 0#8 0#8 0#8 0#3, .amdone g)] = true := by decide +kernel

/-- R140, R154, R156: matrix words. -/
theorem test_decode_matrix : reads false [
    (stdU 0xA0#8 (5#3 ++ 1#1 ++ 0#2) 21#8 144#8 92#8 6#8 0#3, .mma u 5#3 true 21#6 144#8 92#8 6#4),
    (stdU 0xA1#8 (5#3 ++ 1#1 ++ 0#2) 21#8 144#8 88#8 6#8 0#3, .mmac u 5#3 true 21#6 144#8 88#8 6#4),
    (std 0xA2#8 (0#6) 21#8 0#8 0#8 0#8 0#3, .accz g 21#6),
    (std 0xA3#8 (5#3 ++ 0#3) 21#8 0#8 45#8 0#8 1#3, .accld g 5#3 21#6 (.w 45#6)),
    (std 0xA4#8 (5#3 ++ 0#3) 0#8 7#8 243#8 0#8 2#3, .accst g 5#3 7#6 (.s8 0xF3#8)),
    (std 0xA5#8 (0#6) 160#8 7#8 92#8 0#8 0#3, .accrd g 160#8 7#6 (.v 92#8)),
    (std 0xA6#8 (0#6) 21#8 144#8 92#8 0#8 0#3, .accwr g 21#6 144#8 (.v 92#8)),
    (std 0xA7#8 (5#3 ++ 0#3) 165#8 0#8 45#8 0#8 1#3, .mperm g 5#3 165#8 (.w 45#6)),
    (std 0xA8#8 (5#3 ++ 0#3) 0#8 7#8 243#8 0#8 2#3, .fmtq g 5#3 7#6 (.s8 0xF3#8))] = true := by decide +kernel

/-- R140, R154, R156: equivalence words. -/
theorem test_decode_equivalence : reads false [
    (std 0xB0#8 (0#6) 165#8 150#8 0#8 0#8 0#3, .eqopen g 165#8 150#8),
    (std 0xB1#8 (0#6) 165#8 151#8 92#8 230#8 0#3, .unite g 165#8 151#8 (.v 92#8) 230#8),
    (std 0xB2#8 (0#6) 165#8 151#8 0#8 230#8 0#3, .find g 165#8 151#8 230#8),
    (std 0xB3#8 (0#6) 165#8 151#8 0#8 230#8 0#3, .eqsize g 165#8 151#8 230#8),
    (std 0xB4#8 (4#3 ++ 0#3) 165#8 150#8 0#8 230#8 0#3, .relabel g .first 165#8 150#8 230#8),
    (std 0xB5#8 (0#6) 0#8 0#8 92#8 230#8 0#3, .eqsnap g (.v 92#8) 230#8),
    (std 0xB6#8 (0#6) 0#8 0#8 0#8 230#8 0#3, .equndo g 230#8),
    (std 0xB7#8 (0#6) 0#8 0#8 0#8 230#8 0#3, .eqclose g 230#8)] = true := by decide +kernel

/-- R140, R154, R156: traversal words. -/
theorem test_decode_traversal : reads false [
    (std 0xB8#8 (0#6) 165#8 144#8 92#8 0#8 0#3, .trace g 165#8 144#8 92#8),
    (std 0xB9#8 (0#6) 160#8 0#8 45#8 0#8 1#3, .trwait g 160#8 (.w 45#6)),
    (std 0xBA#8 (0#1 ++ 0#5) 160#8 0#8 0#8 0#8 0#3, .trhitGet g 160#8),
    (std 0xBA#8 (1#1 ++ 0#5) 0#8 0#8 243#8 0#8 2#3, .trhitRet g (.s8 0xF3#8)),
    (std 0xBB#8 (0#6) 165#8 144#8 92#8 0#8 0#3, .boxt g 165#8 144#8 92#8),
    (std 0xBC#8 (1#1 ++ 0#1 ++ 0#4) 165#8 144#8 92#8 0#8 0#3, .trit g true false 165#8 144#8 92#8),
    (std 0xBD#8 (0#6) 160#8 144#8 92#8 0#8 0#3, .xform g 160#8 144#8 92#8),
    (std 0xBE#8 (1#2 ++ 0#4) 0#8 144#8 92#8 230#8 0#3, .shadow g 1#2 144#8 92#8 230#8),
    (std 0xBF#8 (5#3 ++ 1#1 ++ 0#2) 165#8 151#8 92#8 0#8 0#3, .rng g 5#3 true 165#8 151#8 (.v 92#8))] = true := by decide +kernel

/-- R140, R154, R156: collective words. -/
theorem test_decode_collective : reads false [
    (std 0xC0#8 (0#6) 165#8 150#8 0#8 0#8 0#3, .coll g 165#8 150#8),
    (std 0xC1#8 (0#6) 165#8 0#8 92#8 0#8 0#3, .collw g 165#8 (.v 92#8)),
    (std 0xC2#8 (0#6) 0#8 150#8 45#8 230#8 1#3, .resid g 150#8 (.w 45#6) 230#8)] = true := by decide +kernel

/-- R140, R154, R156: system words. -/
theorem test_decode_system : reads false [
    (std 0xE0#8 (0#6) 165#8 0#8 243#8 0#8 2#3, .getsr g 165#8 (.s8 0xF3#8)),
    (std 0xE1#8 (0#6) 1#8 0#8 13#8 0#8 3#3, .setsr g true (.sr .timehi)),
    (std 0xE2#8 (0#6) 0#8 0#8 92#8 0#8 0#3, .trap g (.v 92#8)),
    (std 0xE3#8 (0#6) 0#8 0#8 92#8 0#8 0#3, .rett g 92#8),
    (std 0xE4#8 (0#6) 0#8 0#8 0#8 0#8 0#3, .bkpt g),
    (std 0xE5#8 (0#6) 0#8 150#8 45#8 230#8 1#3, .tlbinv g 150#8 (.w 45#6) 230#8),
    (std 0xE6#8 (0#6) 0#8 0#8 243#8 0#8 2#3, .lpsweep g (.s8 0xF3#8)),
    (std 0xE7#8 (0#6) 160#8 0#8 0#8 0#8 0#3, .digest g 160#8),
    (std 0xE8#8 (0#6) 0#8 0#8 13#8 0#8 3#3, .ctxsave g (.sr .timehi)),
    (std 0xE9#8 (0#6) 0#8 0#8 92#8 0#8 0#3, .ctxload g (.v 92#8)),
    (std 0xEA#8 (0#6) 0#8 0#8 0#8 0#8 0#3, .halt g)] = true := by decide +kernel


/-- R143, R154: the words with an I32 immediate, NOP, PMOV, and an I24 immediate. -/
theorem test_decode_immediate : reads false [
    (0x00#8 ++ 0x123456789ABCDE#56, .nop 0x123456789ABCDE#56),
    (imm32 0x02#8 (0#6) 165#8 0xDEADBEEF#32, .movi gr 165#8 0xDEADBEEF#32),
    (imm32 0x60#8 (0#6) 0#8 0xFFFFFFFE#32, .bra gr 0xFFFFFFFE#32),
    (imm32 0x61#8 (37#6) 0#8 5#32, .brp gr 37#6 5#32),
    (imm32 0x63#8 (0#6) 164#8 5#32, .call gr 164#8 5#32),
    (std 0x21#8 (0#1 ++ 1#1 ++ 0#4) 165#8 0#8 0#8 0#8 0#3, .pmov g (.save true 165#8)),
    (std 0x21#8 (1#1 ++ 0#1 ++ 0#4) 0#8 0#8 92#8 0#8 0#3, .pmov g (.load false 92#8)),
    (imm24 0x04#8 (1#1 ++ 0#1 ++ 0#4) 165#8 151#8 0x800001#24, .iadd g24 true false 165#8 151#8 (.i24 0x800001#24)),
    (imm24 0x01#8 (0#6) 165#8 0#8 7#24, .mov g24 165#8 (.i24 7#24)),
    (imm24 0x30#8 (1#1 ++ 0#5) 165#8 151#8 0x3F8000#24, .fadd g24 true 165#8 151#8 (.i24 0x3F8000#24))] = true := by
  decide +kernel

/-- R147, R148, R156: words of the memory form. -/
theorem test_decode_memory : reads false [
    (memW 0x70#8 (1#3 ++ 1#1 ++ 0#2) 165#8 150#8 0#2 0x2001#14 6#3, .ld g .b16 true 165#8 150#8 0x2001#14 6#3),
    (memW 0x71#8 (4#3 ++ 0#3) 164#8 150#8 0#2 0x1FFF#14 7#3, .st g .b128 164#8 150#8 0x1FFF#14 7#3),
    (memW 0x72#8 (3#3 ++ 0#3) 164#8 151#8 1#2 (21#5 ++ 0#9) 5#3, .ldb g .b64 false 164#8 21#5 151#8 5#3),
    (memW 0x73#8 (0#3 ++ 0#3) 165#8 151#8 1#2 (21#5 ++ 0#9) 2#3, .stb g .b8 165#8 21#5 151#8 2#3),
    (memW 0x74#8 (0#3 ++ 1#1 ++ 0#2) 165#8 151#8 2#2 0x2003#14 1#3, .lds g .b8 true 165#8 151#8 0x2003#14 1#3),
    (memW 0x75#8 (2#3 ++ 0#3) 165#8 151#8 2#2 3#14 0#3, .sts g .b32 165#8 151#8 3#14 0#3),
    (memW 0x76#8 (2#3 ++ 0#3) 165#8 151#8 2#2 3#14 2#3, .ldc g .b32 false 165#8 151#8 3#14 2#3),
    (memW 0x77#8 (3#3 ++ 0#3) 164#8 151#8 2#2 3#14 2#3, .stc g .b64 164#8 151#8 3#14 2#3),
    (memW 0x78#8 (0#6) 0#8 150#8 0#2 3#14 1#3, .pref g 150#8 3#14),
    (memW 0x7D#8 (0#6) 165#8 150#8 0#2 3#14 1#3, .tagst g 165#8 150#8 3#14 1#3),
    (memW 0x7E#8 (0#6) 165#8 150#8 0#2 3#14 1#3, .tagld g 165#8 150#8 3#14 1#3),
    (memW 0x88#8 (0#1 ++ 13#5) 165#8 151#8 1#2 (21#5 ++ 0#9) 3#3, .atom g false .dec 165#8 (.desc 21#5 151#8) 3#3),
    (memW 0x88#8 (1#1 ++ 11#5) 164#8 150#8 0#2 3#14 3#3, .atom g true .xchg 164#8 (.ptr 150#8 3#14) 3#3),
    (memW 0x89#8 (1#1 ++ 0#5) 164#8 150#8 0#2 3#14 3#3, .atomc g true 164#8 (.ptr 150#8 3#14) 3#3),
    (memW 0x8A#8 (0#1 ++ 7#5) 165#8 150#8 0#2 3#14 3#3, .red g false .fmax 165#8 (.ptr 150#8 3#14) 3#3),
    (memW 0x8B#8 (1#1 ++ 5#3 ++ 1#1 ++ 0#1) 164#8 150#8 0#2 3#14 3#3, .waitc g true .ge true 164#8 150#8 3#14 3#3),
    (memW 0x8C#8 (0#2 ++ 0#4) 0#8 0#8 0#2 0#14 3#3, .fenceAcq g 3#3),
    (memW 0x8C#8 (1#2 ++ 0#4) 0#8 0#8 0#2 0#14 4#3, .fenceRel g 4#3),
    (memW 0x8C#8 (2#2 ++ 0#4) 0#8 0#8 0#2 0#14 5#3, .fenceAr g 5#3),
    (memW 0x8C#8 (3#2 ++ 0#4) 0#8 0#8 0#2 0#14 6#3, .fenceRef g 6#3),
    (memW 0x8E#8 (0#6) 21#8 150#8 0#2 3#14 6#3, .dload g 21#5 150#8 3#14 6#3)] = true := by decide +kernel

/-- R149: words of the conversion form. -/
theorem test_decode_conversion : reads false [
    (cvW 0x48#8 165#8 151#8 3#4 6#4 0#8, .cvt cg 165#8 151#8 .e4m3 .i8),
    (cvW 0x49#8 165#8 152#8 0#4 9#4 0#8, .cvtpk cg 165#8 152#8 .n4),
    (cvW 0x4A#8 166#8 151#8 2#4 0#4 0#8, .cvtup cg 166#8 151#8 .bf16),
    (cvW 0x4B#8 165#8 152#8 0#4 5#4 230#8, .scaleq cg 165#8 152#8 .e2m1 230#8),
    (cvW 0x4C#8 164#8 151#8 4#4 0#4 230#8, .descale cg 164#8 151#8 .e5m2 230#8)] = true := by decide +kernel

/-- R150, R151, R152: paired words, X being each of the ten operations. -/
theorem test_decode_pair : reads true [
    (pairW 0#4 3#4 3#8 3#8, .pairFadd gr 1#8 2#8 3#8 ⟨.iadd, 4#8, 2#8, 3#8⟩),
    (pairW 1#4 4#4 3#8 3#8, .pairFmul gr 1#8 2#8 3#8 ⟨.and, 4#8, 2#8, 3#8⟩),
    (pairW 2#4 8#4 3#8 0#8, .pairFfma gr 1#8 2#8 3#8 ⟨.mov, 4#8, 2#8, 0#8⟩),
    (pairW 3#4 0#4 3#8 3#8, .pairIadd gr 1#8 2#8 3#8 ⟨.fadd, 4#8, 2#8, 3#8⟩),
    (pairW 4#4 1#4 3#8 3#8, .pairAnd gr 1#8 2#8 3#8 ⟨.fmul, 4#8, 2#8, 3#8⟩),
    (pairW 5#4 5#4 3#8 3#8, .pairOr gr 1#8 2#8 3#8 ⟨.or, 4#8, 2#8, 3#8⟩),
    (pairW 6#4 6#4 3#8 3#8, .pairXor gr 1#8 2#8 3#8 ⟨.xor, 4#8, 2#8, 3#8⟩),
    (pairW 7#4 7#4 3#8 3#8, .pairShl gr 1#8 2#8 3#8 ⟨.shl, 4#8, 2#8, 3#8⟩),
    (pairW 8#4 9#4 0#8 3#8, .pairMov gr 1#8 2#8 ⟨.isel, 4#8, 2#8, 3#8⟩),
    (pairW 9#4 9#4 3#8 3#8, .pairIsel gr 1#8 2#8 3#8 ⟨.isel, 4#8, 2#8, 3#8⟩)] = true := by decide +kernel

/-- R155: reserved opcodes, at the ends of each range. -/
theorem test_decode_reserved : rejects false .illegalOpcode (([0x23, 0x2F, 0x45, 0x47, 0x4D, 0x4F, 0x53, 0x57, 0x5F, 0x9A, 0x9F, 0xA9, 0xAF, 0xC3, 0xDF, 0xEB, 0xFE, 0xFF] : List (BitVec 8)).map
      fun op => std op (0#6) 0#8 0#8 0#8 0#8 0#3) = true := by decide +kernel

/-- R141, R142, R143, R148, R153, R156: fields that raise ILLEGAL_OPERAND where the guard holds: a kind that is not
admitted, a field that must be zero, an index past its limit, an odd pair, a reserved subfield, a mode that is not listed. -/
theorem test_decode_operand : rejects false (.illegalOperand false) [
    std 0x04#8 (0#6) 165#8 151#8 92#8 0#8 6#3,
    std 0x04#8 (0#6) 165#8 151#8 92#8 1#8 0#3,
    std 0x04#8 (0#5 ++ 1#1) 165#8 151#8 92#8 0#8 0#3,
    std 0x04#8 (0#6) 165#8 151#8 64#8 0#8 1#3,
    std 0x0D#8 (6#3 ++ 0#3) 37#8 151#8 92#8 0#8 0#3,
    std 0x0D#8 (0#6) 64#8 151#8 92#8 0#8 0#3,
    std 0x10#8 (0#6) 165#8 150#8 92#8 0#8 0#3,
    std 0x3A#8 (0#6) 165#8 0#8 92#8 0#8 4#3,
    memW 0x70#8 (5#3 ++ 0#3) 164#8 150#8 0#2 0#14 1#3,
    memW 0x70#8 (2#3 ++ 1#1 ++ 0#2) 164#8 150#8 0#2 0#14 1#3,
    memW 0x70#8 (4#3 ++ 0#3) 166#8 150#8 0#2 0#14 1#3,
    memW 0x70#8 (2#3 ++ 0#3) 164#8 150#8 3#2 0#14 1#3,
    memW 0x8A#8 (0#1 ++ 11#5) 164#8 150#8 0#2 0#14 1#3,
    std 0xA2#8 (0#6) 48#8 0#8 0#8 0#8 0#3] = true := by decide +kernel

/-- R142: a guard on an instruction that takes none raises ILLEGAL_OPERAND on every thread. -/
theorem test_decode_unguarded : rejects false (.illegalOperand true) [
    std 0x58#8 (0#6) 165#8 151#8 92#8 230#8 0#3, std 0x91#8 (0#6) 0#8 0#8 0#8 0#8 0#3] = true := by decide +kernel

/-- R122, R149: E8M0 and a reserved format code. -/
theorem test_decode_format : rejects false (.illegalOperand false) [cvW 0x48#8 165#8 151#8 11#4 6#4 0#8] = true := by
  decide +kernel

/-- R152: two results in one bank, four sources, two floating-point operations, a reserved code, MOV with PB, bit 56. -/
theorem test_decode_pair_violation : rejects true .pairViolation [
    9#6 ++ 1#1 ++ 0#1 ++ 3#4 ++ 1#8 ++ 2#8 ++ 3#8 ++ 3#4 ++ 5#8 ++ 2#8 ++ 3#8,
    9#6 ++ 1#1 ++ 0#1 ++ 3#4 ++ 1#8 ++ 2#8 ++ 3#8 ++ 3#4 ++ 4#8 ++ 6#8 ++ 7#8,
    pairW 0#4 1#4 3#8 3#8, pairW 3#4 10#4 3#8 3#8, pairW 3#4 8#4 3#8 1#8,
    9#6 ++ 1#1 ++ 1#1 ++ 3#4 ++ 1#8 ++ 2#8 ++ 3#8 ++ 3#4 ++ 4#8 ++ 2#8 ++ 3#8] = true := by decide +kernel

/-- Ill-formed terms, one for each check of each constructor. -/
theorem test_wf_refuses_1 : ([
    .mov g 165#8 (.i24 1#24),
    .movw g 37#6 (.i24 1#24),
    .movw g 37#6 (.w 1#6),
    .iadd g false true 165#8 151#8 (.i24 1#24),
    .isub g true false 165#8 151#8 (.i24 1#24),
    .iaddc g 37#6 165#8 151#8 (.i24 1#24),
    .imul g false true 165#8 151#8 (.i24 1#24),
    .imulh g false 165#8 151#8 (.i24 1#24),
    .imad g true false 165#8 151#8 (.i24 1#24) 230#8,
    .imad g24 true false 165#8 151#8 (.i24 1#24) 230#8,
    .imin g false 165#8 151#8 (.i24 1#24),
    .imax g true 165#8 151#8 (.i24 1#24),
    .iabs g 165#8 (.i24 1#24),
    .iadd64 g false true 1#8 150#8 (.w 45#6),
    .iadd64 g false true 164#8 1#8 (.w 45#6),
    .iadd64 g false true 164#8 150#8 (.i24 1#24),
    .iadd64 g false true 164#8 150#8 (.v 1#8),
    .imad64 g true false 1#8 151#8 (.w 45#6) 230#8,
    .imad64 g true false 164#8 151#8 (.i24 1#24) 230#8,
    .imad64 g24 true false 164#8 151#8 (.i24 1#24) 230#8,
    .imad64 g true false 164#8 151#8 (.w 45#6) 1#8,
    .lea g 5#3 1#8 150#8 (.s8 0xF3#8),
    .lea g 5#3 164#8 1#8 (.s8 0xF3#8),
    .lea g 5#3 164#8 150#8 (.i24 1#24),
    .icmp g .lt true (.xor 21#6) 37#6 151#8 (.i24 1#24),
    .icmp g24 .lt true (.and 1#6) 37#6 151#8 (.i24 1#24),
    .isel g 37#6 165#8 151#8 (.i24 1#24),
    .land g 165#8 151#8 (.i24 1#24),
    .lor g 165#8 151#8 (.i24 1#24),
    .lxor g 165#8 151#8 (.i24 1#24),
    .landn g 165#8 151#8 (.i24 1#24),
    .lnot g 165#8 (.i24 1#24),
    .shl g 165#8 151#8 (.i24 1#24),
    .shr g 165#8 151#8 (.i24 1#24),
    .sar g 165#8 151#8 (.i24 1#24),
    .rot g 165#8 151#8 (.i24 1#24),
    .bfe g true 165#8 151#8 (.i24 1#24) 230#8,
    .bfe g24 true 165#8 151#8 (.i24 1#24) 230#8,
    .bfi g 165#8 151#8 (.i24 1#24) 230#8,
    .bfi g24 165#8 151#8 (.i24 1#24) 230#8,
    .popc g 165#8 (.i24 1#24),
    .clz g 165#8 (.i24 1#24),
    .brev g 165#8 (.i24 1#24),
    .perm g 165#8 151#8 (.i24 1#24) 230#8,
    .perm g24 165#8 151#8 (.i24 1#24) 230#8,
    .fadd g false 165#8 151#8 (.i24 1#24),
    .fsub g true 165#8 151#8 (.i24 1#24),
    .fmul g false 165#8 151#8 (.i24 1#24),
    .ffma g true false 165#8 151#8 (.i24 1#24) 230#8,
    .ffma g24 true false 165#8 151#8 (.i24 1#24) 230#8,
    .fmin g 165#8 151#8 (.i24 1#24),
    .fmax g 165#8 151#8 (.i24 1#24),
    .fclamp g 165#8 151#8 (.i24 1#24) 230#8,
    .fclamp g24 165#8 151#8 (.i24 1#24) 230#8,
    .fcmp g .num (.xor 21#6) 37#6 151#8 (.i24 1#24),
    .fcmp g24 .num (.and 1#6) 37#6 151#8 (.i24 1#24),
    .frnd g .rd 165#8 (.i24 1#24),
    .frcp g 165#8 (.i24 1#24),
    .frcp g24 165#8 (.i24 1#24),
    .frsq g 165#8 (.i24 1#24)] : List Instr).all (fun i => !i.wf) = true := by decide +kernel

/-- Ill-formed terms, one for each check of each constructor. -/
theorem test_wf_refuses_2 : ([
    .frsq g24 165#8 (.i24 1#24),
    .fsqrt g 165#8 (.i24 1#24),
    .fsqrt g24 165#8 (.i24 1#24),
    .fex2 g 165#8 (.i24 1#24),
    .fex2 g24 165#8 (.i24 1#24),
    .flg2 g 165#8 (.i24 1#24),
    .flg2 g24 165#8 (.i24 1#24),
    .fsin g 165#8 (.i24 1#24),
    .fsin g24 165#8 (.i24 1#24),
    .fcos g 165#8 (.i24 1#24),
    .fcos g24 165#8 (.i24 1#24),
    .hadd2 g false 165#8 151#8 (.i24 1#24),
    .hadd2 g24 false 165#8 151#8 (.i24 1#24),
    .hmul2 g true 165#8 151#8 (.i24 1#24),
    .hmul2 g24 true 165#8 151#8 (.i24 1#24),
    .hfma2 g false 165#8 151#8 (.i24 1#24) 230#8,
    .hfma2 g24 false 165#8 151#8 (.i24 1#24) 230#8,
    .hminmax2 g false true 165#8 151#8 (.i24 1#24),
    .hminmax2 g24 false true 165#8 151#8 (.i24 1#24),
    .hcmp2 g true .lt (.xor 21#6) 63#6 151#8 (.sr .timehi),
    .hcmp2 g true .lt (.xor 21#6) 41#6 151#8 (.i24 1#24),
    .hcmp2 g24 true .lt (.xor 21#6) 41#6 151#8 (.i24 1#24),
    .hcmp2 g24 true .lt (.and 1#6) 41#6 151#8 (.i24 1#24),
    .cvtpk cg 165#8 0#8 .fp32,
    .cvtpk cg 165#8 1#8 .i4,
    .cvtup cg 0#8 151#8 .fp32,
    .cvtup cg 1#8 151#8 .i4,
    .scaleq cg 165#8 0#8 .fp32 230#8,
    .scaleq cg 165#8 1#8 .i4 230#8,
    .descale cg 0#8 151#8 .fp32 230#8,
    .descale cg 1#8 151#8 .i4 230#8,
    .dp4 g true false true 165#8 151#8 (.i24 1#24) 230#8,
    .dp4 g24 true false true 165#8 151#8 (.i24 1#24) 230#8,
    .dp4 g true false true 165#8 151#8 (.s8 1#8) 230#8,
    .dp8 g false true false 165#8 151#8 (.i24 1#24) 230#8,
    .dp8 g24 false true false 165#8 151#8 (.i24 1#24) 230#8,
    .dp8 g false true false 165#8 151#8 (.s8 1#8) 230#8,
    .dp2h g true 165#8 151#8 (.i24 1#24) 230#8,
    .dp2h g24 true 165#8 151#8 (.i24 1#24) 230#8,
    .dp2h g true 165#8 151#8 (.s8 1#8) 230#8,
    .shfl g .down 165#8 151#8 (.v 92#8) 230#8,
    .shfl u .down 165#8 151#8 (.i24 1#24) 230#8,
    .shfl u24 .down 165#8 151#8 (.i24 1#24) 230#8,
    .shfl u .down 165#8 151#8 (.w 1#6) 230#8,
    .shfl u .down 165#8 151#8 (.sr .tid) 230#8,
    .vote g .ballot 165#8 23#6 230#8,
    .vote u .any 64#8 23#6 230#8,
    .redl g .umax 165#8 23#6 92#8 230#8,
    .scanl g .umax true 165#8 23#6 92#8 230#8,
    .matchl g true 165#8 92#8 230#8,
    .matchl u true 165#8 1#8 230#8,
    .elect g 37#6 230#8,
    .actmask g 165#8 230#8,
    .call gr 1#8 5#32,
    .brx g 1#8,
    .calli g 1#8 92#8,
    .calli g 164#8 1#8,
    .ret g 1#8,
    .sleepn g (.i24 1#24),
    .sleepn g24 (.i24 1#24)] : List Instr).all (fun i => !i.wf) = true := by decide +kernel

/-- Ill-formed terms, one for each check of each constructor. -/
theorem test_wf_refuses_3 : ([
    .sleepn g (.w 1#6),
    .sleepn g (.sr .tid),
    .lnmark g (.i24 1#24),
    .lnmark g24 (.i24 1#24),
    .lnmark g (.w 1#6),
    .lnmark g (.sr .tid),
    .rbacq g 37#6 (.i24 1#24),
    .rbacq g24 37#6 (.i24 1#24),
    .rbacq g 37#6 (.w 1#6),
    .rbacq g 37#6 (.sr .tid),
    .rbrel g (.i24 1#24),
    .rbrel g24 (.i24 1#24),
    .rbrel g (.w 1#6),
    .rbrel g (.sr .tid),
    .kdecl g 5#4 151#8 (.w 45#6),
    .kdecl u 5#4 151#8 (.i24 1#24),
    .kdecl u24 5#4 151#8 (.i24 1#24),
    .kdecl u 5#4 151#8 (.s8 1#8),
    .kdecl u 5#4 151#8 (.sr .tid),
    .sign g 165#8 7#4,
    .waitk g 7#4 (.v 92#8),
    .waitk u 7#4 (.i24 1#24),
    .waitk u24 7#4 (.i24 1#24),
    .waitk u 7#4 (.s8 1#8),
    .waitk u 7#4 (.sr .tid),
    .ld g .b16 true 165#8 1#8 0x2001#14 6#3,
    .ld g .b64 false 1#8 150#8 0x2001#14 6#3,
    .ld g .b128 false 2#8 150#8 0x2001#14 6#3,
    .ld g .b32 true 4#8 150#8 0x2001#14 6#3,
    .st g .b128 164#8 1#8 0x1FFF#14 7#3,
    .st g .b64 1#8 150#8 0x1FFF#14 7#3,
    .st g .b128 2#8 150#8 0x1FFF#14 7#3,
    .ldb g .b64 false 1#8 21#5 151#8 5#3,
    .ldb g .b128 false 2#8 21#5 151#8 5#3,
    .ldb g .b32 true 4#8 21#5 151#8 5#3,
    .stb g .b64 1#8 21#5 151#8 2#3,
    .stb g .b128 2#8 21#5 151#8 2#3,
    .lds g .b64 false 1#8 151#8 0x2003#14 1#3,
    .lds g .b128 false 2#8 151#8 0x2003#14 1#3,
    .lds g .b32 true 4#8 151#8 0x2003#14 1#3,
    .lds g .b8 true 165#8 151#8 0x2003#14 2#3,
    .sts g .b64 1#8 151#8 3#14 0#3,
    .sts g .b128 2#8 151#8 3#14 0#3,
    .sts g .b32 165#8 151#8 3#14 2#3,
    .ldc g .b64 false 1#8 151#8 3#14 2#3,
    .ldc g .b128 false 2#8 151#8 3#14 2#3,
    .ldc g .b32 true 4#8 151#8 3#14 2#3,
    .ldc g .b32 false 165#8 151#8 3#14 3#3,
    .stc g .b64 1#8 151#8 3#14 2#3,
    .stc g .b128 2#8 151#8 3#14 2#3,
    .stc g .b64 164#8 151#8 3#14 3#3,
    .pref g 1#8 3#14,
    .tagst g 165#8 1#8 3#14 1#3,
    .tagst g 165#8 150#8 3#14 2#3,
    .tagld g 165#8 1#8 3#14 1#3,
    .tagld g 165#8 150#8 3#14 2#3,
    .dload g 21#5 1#8 3#14 6#3,
    .dqry g 165#8 23#5 (.i24 1#24),
    .dqry g24 165#8 23#5 (.i24 1#24),
    .dqry g 165#8 23#5 (.sr .tid)] : List Instr).all (fun i => !i.wf) = true := by decide +kernel

/-- Ill-formed terms, one for each check of each constructor. -/
theorem test_wf_refuses_4 : ([
    .cpy g false true 3#3 1#8 (.v 92#8) 230#8,
    .cpy g false true 3#3 148#8 (.i24 1#24) 230#8,
    .cpy g24 false true 3#3 148#8 (.i24 1#24) 230#8,
    .cpy g false true 3#3 148#8 (.sr .tid) 230#8,
    .cpy g false false 1#3 148#8 (.v 92#8) 230#8,
    .cpy g false true 7#3 148#8 (.v 92#8) 230#8,
    .cpy g false true 3#3 2#8 (.v 92#8) 230#8,
    .cpy g true true 3#3 148#8 (.v 92#8) 230#8,
    .cpyg g true 3#3 1#8 (.v 92#8) 230#8,
    .cpyg g true 3#3 148#8 (.i24 1#24) 230#8,
    .cpyg g24 true 3#3 148#8 (.i24 1#24) 230#8,
    .cpyg g true 3#3 148#8 (.sr .tid) 230#8,
    .cpyg g true 3#3 148#8 (.v 92#8) 1#8,
    .cpyg g false 1#3 148#8 (.v 92#8) 230#8,
    .cpyg g true 7#3 148#8 (.v 92#8) 230#8,
    .cpyg g true 3#3 2#8 (.v 92#8) 230#8,
    .cpyt g true 23#5 (.i24 1#24) 228#8,
    .cpyt g24 true 23#5 (.i24 1#24) 228#8,
    .cpyt g true 23#5 (.sr .tid) 228#8,
    .cpyt g true 23#5 (.w 45#6) 1#8,
    .disct g (.i24 1#24),
    .disct g24 (.i24 1#24),
    .disct g (.sr .tid),
    .cacheopWb g 1#8 (.v 92#8),
    .cacheopWb g 150#8 (.i24 1#24),
    .cacheopWb g24 150#8 (.i24 1#24),
    .cacheopWb g 150#8 (.sr .tid),
    .cacheopWbinv g 1#8 (.v 92#8),
    .cacheopWbinv g 150#8 (.i24 1#24),
    .cacheopWbinv g24 150#8 (.i24 1#24),
    .cacheopWbinv g 150#8 (.sr .tid),
    .cacheopIcinv g 1#8 (.w 45#6),
    .cacheopIcinv g 150#8 (.i24 1#24),
    .cacheopIcinv g24 150#8 (.i24 1#24),
    .cacheopIcinv g 150#8 (.sr .tid),
    .texs g 1#8 151#8 (.s8 0xF3#8) 6#5,
    .texs g 164#8 151#8 (.i24 1#24) 6#5,
    .texs g24 164#8 151#8 (.i24 1#24) 6#5,
    .texs g 164#8 151#8 (.sr .tid) 6#5,
    .texl g 1#8 151#8 (.v 92#8) 6#5,
    .texl g 164#8 151#8 (.i24 1#24) 6#5,
    .texl g24 164#8 151#8 (.i24 1#24) 6#5,
    .texl g 164#8 151#8 (.sr .tid) 6#5,
    .texf g 1#8 151#8 6#5,
    .atom g false .dec 165#8 (.ptr 1#8 0#14) 3#3,
    .atom g true .iadd 1#8 (.desc 21#5 151#8) 3#3,
    .atom g true .fadd 2#8 (.desc 21#5 151#8) 3#3,
    .atom g true .fmin 2#8 (.desc 21#5 151#8) 3#3,
    .atom g true .fmax 2#8 (.desc 21#5 151#8) 3#3,
    .atomc g true 164#8 (.ptr 1#8 0#14) 3#3,
    .atomc g true 2#8 (.ptr 150#8 3#14) 3#3,
    .atomc g false 1#8 (.ptr 150#8 3#14) 3#3,
    .red g false .fmax 165#8 (.ptr 1#8 0#14) 3#3,
    .red g true .iadd 1#8 (.ptr 150#8 3#14) 3#3,
    .red g true .fadd 2#8 (.ptr 150#8 3#14) 3#3,
    .red g true .fmin 2#8 (.ptr 150#8 3#14) 3#3,
    .red g true .fmax 2#8 (.ptr 150#8 3#14) 3#3,
    .red g false .xchg 165#8 (.ptr 150#8 3#14) 3#3,
    .waitc g true .ge true 164#8 1#8 3#14 3#3,
    .waitc g true .ge true 1#8 150#8 3#14 3#3] : List Instr).all (fun i => !i.wf) = true := by decide +kernel

/-- Ill-formed terms, one for each check of each constructor. -/
theorem test_wf_refuses_5 : ([
    .time g 1#8,
    .bar g 5#4 (.w 45#6),
    .bar u 5#4 (.i24 1#24),
    .bar u24 5#4 (.i24 1#24),
    .bar u 5#4 (.sr .tid),
    .barc g,
    .barg g,
    .osenter g 37#6 150#8 (.s8 0xF3#8),
    .osenter u 37#6 1#8 (.s8 0xF3#8),
    .osenter u 37#6 150#8 (.i24 1#24),
    .osenter u24 37#6 150#8 (.i24 1#24),
    .osenter u 37#6 150#8 (.sr .tid),
    .osleave g 150#8,
    .osleave u 1#8,
    .osabort g 150#8,
    .osabort u 1#8,
    .osstat g true 1#8 150#8,
    .osstat g true 164#8 1#8,
    .launch g 1#8 (.v 92#8),
    .launch g 150#8 (.i24 1#24),
    .launch g24 150#8 (.i24 1#24),
    .launch g 150#8 (.s8 1#8),
    .launch g 150#8 (.sr .tid),
    .amsend g 151#8 (.i24 1#24),
    .amsend g24 151#8 (.i24 1#24),
    .amsend g 151#8 (.s8 1#8),
    .amsend g 151#8 (.sr .tid),
    .mma g 5#3 true 21#6 144#8 92#8 6#4,
    .mma u 5#3 true 48#6 144#8 92#8 6#4,
    .mma u 5#3 true 21#6 1#8 92#8 6#4,
    .mma u 5#3 true 21#6 144#8 1#8 6#4,
    .mmac g 5#3 true 21#6 144#8 88#8 6#4,
    .mmac u 5#3 true 48#6 144#8 88#8 6#4,
    .mmac u 5#3 true 21#6 1#8 88#8 6#4,
    .mmac u 5#3 true 21#6 144#8 1#8 6#4,
    .accz g 48#6,
    .accld g 5#3 48#6 (.w 45#6),
    .accld g 5#3 21#6 (.i24 1#24),
    .accld g24 5#3 21#6 (.i24 1#24),
    .accld g 5#3 21#6 (.sr .tid),
    .accst g 5#3 48#6 (.s8 0xF3#8),
    .accst g 5#3 7#6 (.i24 1#24),
    .accst g24 5#3 7#6 (.i24 1#24),
    .accst g 5#3 7#6 (.sr .tid),
    .accrd g 1#8 7#6 (.v 92#8),
    .accrd g 160#8 48#6 (.v 92#8),
    .accrd g 160#8 7#6 (.i24 1#24),
    .accrd g24 160#8 7#6 (.i24 1#24),
    .accrd g 160#8 7#6 (.sr .tid),
    .accwr g 48#6 144#8 (.v 92#8),
    .accwr g 21#6 1#8 (.v 92#8),
    .accwr g 21#6 144#8 (.i24 1#24),
    .accwr g24 21#6 144#8 (.i24 1#24),
    .accwr g 21#6 144#8 (.sr .tid),
    .mperm g 5#3 165#8 (.i24 1#24),
    .mperm g24 5#3 165#8 (.i24 1#24),
    .mperm g 5#3 165#8 (.sr .tid),
    .fmtq g 5#3 48#6 (.s8 0xF3#8),
    .fmtq g 5#3 7#6 (.i24 1#24),
    .fmtq g24 5#3 7#6 (.i24 1#24)] : List Instr).all (fun i => !i.wf) = true := by decide +kernel

/-- Ill-formed terms, one for each check of each constructor. -/
theorem test_wf_refuses_6 : ([
    .fmtq g 5#3 7#6 (.sr .tid),
    .eqopen g 165#8 1#8,
    .unite g 165#8 151#8 (.i24 1#24) 230#8,
    .unite g24 165#8 151#8 (.i24 1#24) 230#8,
    .unite g 165#8 151#8 (.sr .tid) 230#8,
    .relabel g .first 165#8 1#8 230#8,
    .eqsnap g (.i24 1#24) 230#8,
    .eqsnap g24 (.i24 1#24) 230#8,
    .eqsnap g (.sr .tid) 230#8,
    .trace g 165#8 1#8 92#8,
    .trace g 165#8 144#8 1#8,
    .trwait g 1#8 (.w 45#6),
    .trwait g 160#8 (.i24 1#24),
    .trwait g24 160#8 (.i24 1#24),
    .trwait g 160#8 (.sr .tid),
    .trhitGet g 1#8,
    .trhitRet g (.i24 1#24),
    .trhitRet g24 (.i24 1#24),
    .trhitRet g (.sr .tid),
    .boxt g 165#8 1#8 92#8,
    .boxt g 165#8 144#8 1#8,
    .trit g true false 165#8 1#8 92#8,
    .trit g true false 165#8 144#8 1#8,
    .xform g 1#8 144#8 92#8,
    .xform g 160#8 1#8 92#8,
    .xform g 160#8 144#8 1#8,
    .shadow g 1#2 1#8 92#8 230#8,
    .shadow g 1#2 144#8 1#8 230#8,
    .rng g 5#3 true 165#8 151#8 (.i24 1#24),
    .rng g24 5#3 true 165#8 151#8 (.i24 1#24),
    .rng g 5#3 true 165#8 151#8 (.sr .tid),
    .coll g 165#8 1#8,
    .collw g 165#8 (.i24 1#24),
    .collw g24 165#8 (.i24 1#24),
    .collw g 165#8 (.s8 1#8),
    .collw g 165#8 (.sr .tid),
    .resid g 1#8 (.w 45#6) 230#8,
    .resid g 150#8 (.i24 1#24) 230#8,
    .resid g24 150#8 (.i24 1#24) 230#8,
    .resid g 150#8 (.s8 1#8) 230#8,
    .resid g 150#8 (.sr .tid) 230#8,
    .getsr g 165#8 (.i24 1#24),
    .getsr g24 165#8 (.i24 1#24),
    .setsr g true (.i24 1#24),
    .setsr g24 true (.i24 1#24),
    .trap g (.i24 1#24),
    .trap g24 (.i24 1#24),
    .rett g 1#8,
    .tlbinv g 1#8 (.w 45#6) 230#8,
    .tlbinv g 150#8 (.i24 1#24) 230#8,
    .tlbinv g24 150#8 (.i24 1#24) 230#8,
    .lpsweep g (.i24 1#24),
    .lpsweep g24 (.i24 1#24),
    .digest g 1#8,
    .ctxsave g (.i24 1#24),
    .ctxsave g24 (.i24 1#24),
    .ctxload g (.i24 1#24),
    .ctxload g24 (.i24 1#24),
    .pairFadd gr 1#8 2#8 3#8 ⟨.iadd, 5#8, 2#8, 3#8⟩,
    .pairFadd gr 1#8 2#8 3#8 ⟨.iadd, 4#8, 6#8, 7#8⟩] : List Instr).all (fun i => !i.wf) = true := by decide +kernel

/-- Ill-formed terms, one for each check of each constructor. -/
theorem test_wf_refuses_7 : ([
    .pairFadd gr 1#8 2#8 3#8 ⟨.mov, 4#8, 2#8, 1#8⟩,
    .pairFadd gr 1#8 2#8 3#8 ⟨.fadd, 4#8, 2#8, 3#8⟩,
    .pairFmul gr 1#8 2#8 3#8 ⟨.iadd, 5#8, 2#8, 3#8⟩,
    .pairFmul gr 1#8 2#8 3#8 ⟨.iadd, 4#8, 6#8, 7#8⟩,
    .pairFmul gr 1#8 2#8 3#8 ⟨.mov, 4#8, 2#8, 1#8⟩,
    .pairFmul gr 1#8 2#8 3#8 ⟨.fadd, 4#8, 2#8, 3#8⟩,
    .pairFfma gr 1#8 2#8 3#8 ⟨.iadd, 5#8, 2#8, 3#8⟩,
    .pairFfma gr 1#8 2#8 3#8 ⟨.iadd, 4#8, 6#8, 7#8⟩,
    .pairFfma gr 1#8 2#8 3#8 ⟨.mov, 4#8, 2#8, 1#8⟩,
    .pairFfma gr 1#8 2#8 3#8 ⟨.fadd, 4#8, 2#8, 3#8⟩,
    .pairIadd gr 1#8 2#8 3#8 ⟨.iadd, 5#8, 2#8, 3#8⟩,
    .pairIadd gr 1#8 2#8 3#8 ⟨.iadd, 4#8, 6#8, 7#8⟩,
    .pairIadd gr 1#8 2#8 3#8 ⟨.mov, 4#8, 2#8, 1#8⟩,
    .pairAnd gr 1#8 2#8 3#8 ⟨.iadd, 5#8, 2#8, 3#8⟩,
    .pairAnd gr 1#8 2#8 3#8 ⟨.iadd, 4#8, 6#8, 7#8⟩,
    .pairAnd gr 1#8 2#8 3#8 ⟨.mov, 4#8, 2#8, 1#8⟩,
    .pairOr gr 1#8 2#8 3#8 ⟨.iadd, 5#8, 2#8, 3#8⟩,
    .pairOr gr 1#8 2#8 3#8 ⟨.iadd, 4#8, 6#8, 7#8⟩,
    .pairOr gr 1#8 2#8 3#8 ⟨.mov, 4#8, 2#8, 1#8⟩,
    .pairXor gr 1#8 2#8 3#8 ⟨.iadd, 5#8, 2#8, 3#8⟩,
    .pairXor gr 1#8 2#8 3#8 ⟨.iadd, 4#8, 6#8, 7#8⟩,
    .pairXor gr 1#8 2#8 3#8 ⟨.mov, 4#8, 2#8, 1#8⟩,
    .pairShl gr 1#8 2#8 3#8 ⟨.iadd, 5#8, 2#8, 3#8⟩,
    .pairShl gr 1#8 2#8 3#8 ⟨.iadd, 4#8, 6#8, 7#8⟩,
    .pairShl gr 1#8 2#8 3#8 ⟨.mov, 4#8, 2#8, 1#8⟩,
    .pairMov gr 1#8 2#8 ⟨.iadd, 5#8, 2#8, 3#8⟩,
    .pairIsel gr 1#8 2#8 3#8 ⟨.iadd, 5#8, 2#8, 3#8⟩,
    .pairIsel gr 1#8 2#8 3#8 ⟨.iadd, 4#8, 6#8, 7#8⟩,
    .pairIsel gr 1#8 2#8 3#8 ⟨.mov, 4#8, 2#8, 1#8⟩] : List Instr).all (fun i => !i.wf) = true := by decide +kernel


/-! One thread of a team -/

/-- A launch whose record is zero but for a handler address, a team of one thread, a scratchpad and an accumulator store. -/
def lch : Launch := { mkLaunch ⟨1, 0#64, wordRecord⟩ 0 0 with state := .running, placed := 1 }

/-- Its team: four accumulator tiles and 1024 bytes of scratchpad. -/
def team0 : Team :=
  { uid := 2, launch := 1, ctx := 0, core := 0, logical := 0, cluster := 0, rank := 0, size := 1, w := List.replicate 64 7#32,
    k := List.replicate 16 ConvReg.zero, d := List.replicate 32 0#256, tiles := [[], [], [], []], tpoison := [], spad := [],
    ssize := 1024, spoison := [], pend := [], digest := 0#256, stream := [], spilled := [], swapped := none, left := 0, latch := none,
    spillTrap := false, shadowOf := none, isolated := [], since := 0, stopping := false }

/-- Its group. -/
def grp0 : Group :=
  { uid := 3, core := 0, slice := 0, slot := 0, ordinal := 0, team := some 2, launch := 1, weight := 64, starve := 0, flag := false,
    last := 0, yielded := false }

/-- Its thread, which issues, with registers `v`. -/
def thr (uid lane : Nat) (v : List Word) : Thread :=
  { uid := uid, core := 0, slice := 0, lane := lane, slot := 0, group := 3, team := some 2, tix := lane, launch := 1, ctx := 0,
    kind := .team, v := v, p := 0#64, q := List.replicate 8 0, pc := 0x10008#64, hdr := 0x10000#64, count := 1, mid := false,
    name := 0#128, status := .issued, starve := 0, fair := false, wown := [], trap := none, secs := [], tickets := [],
    ctickets := [], couch := 0, wct := [], amdone := false, helper := false, recs := [], fail := none }

/-- A booted device that runs the threads of a launch alone. -/
def runL (l : Launch) (ts : List Thread) : State :=
  { State.reset with
    x := { State.reset.x with nextUid := 100, threads := ts, groups := [grp0], teams := [team0] }
    d := { State.reset.d with
      ctxs := State.reset.d.ctxs.set 0 { Ctx.reset with enabled := true, priv := true }
      launches := [l] }
    b := { State.reset.b with booted := true } }

/-- The threads of `lch`. -/
def run (ts : List Thread) : State := runL lch ts

/-- 32 registers: the given ones first, then zeros. -/
def regs (vs : List Word) : List Word := vs ++ List.replicate (32 - vs.length) 0#32

/-- One thread with the given registers from V0 up. -/
def one (vs : List Word) : State := run [thr 4 0 (regs vs)]

/-- The state after an instruction. -/
def after (i : Instr) (s : State) : State :=
  match exec i s with
  | .next t => t
  | _ => s

/-- V register `k` of the first thread, and of thread `n`. -/
def vr (s : State) (k : Nat) : Nat := ((s.x.threads.headD (thr 0 0 [])).vget k).toNat
def vrOf (s : State) (n k : Nat) : Nat := (((s.x.threads[n]?).getD (thr 0 0 [])).vget k).toNat

/-- Predicate `k` of the first thread. -/
def pr (s : State) (k : Nat) : Bool := (s.x.threads.headD (thr 0 0 [])).pget k

/-- The code that the first thread has raised. -/
def codeOf (s : State) : Option (BitVec 8) := ((s.x.threads.headD (thr 0 0 [])).trap).map fun r => reportCode r.report

/-- Control fields with no guard and no counter. -/
def c0 : Ctl := ⟨63#6, false, 0#4, 0#3, false⟩
def gr0 : Grd := ⟨63#6, false⟩
def cv0 : CvCtl := ⟨63#6, false, 0#3, .rn, false, 0#2, 0#3, false⟩

/-- What the first flight writes to registers. -/
def flightRegs (s : State) : List (Nat × Nat) :=
  match s.x.flights.map Flight.op with
  | .write rs _ :: _ => rs.map fun r => (r.1, r.2.toNat)
  | _ => []

/-! Integer words (R159 to R169) -/

theorem test_iadd_sat : vr (after (.iadd c0 false true 5#8 0#8 (.v 1#8)) (one [0x7FFFFFFF#32, 1#32])) 5 = 0x7FFFFFFF := by
  decide +kernel
theorem test_iadd_wrap : vr (after (.iadd c0 false false 0#8 0#8 (.v 0#8)) (one [0x80000001#32])) 0 = 2 := by decide +kernel
theorem test_isub_sat_u : vr (after (.isub c0 true true 5#8 0#8 (.v 1#8)) (one [3#32, 4#32])) 5 = 0 := by decide +kernel
theorem test_imul_sat : vr (after (.imul c0 false true 5#8 0#8 (.v 1#8)) (one [0x80000000#32, 2#32])) 5 = 0x80000000 := by
  decide +kernel
theorem test_imulh : vr (after (.imulh c0 false 5#8 0#8 (.v 1#8)) (one [0xFFFFFFFF#32, 0xFFFFFFFF#32])) 5 = 0 := by decide +kernel
theorem test_imulh_u : vr (after (.imulh c0 true 5#8 0#8 (.v 1#8)) (one [0xFFFFFFFF#32, 0xFFFFFFFF#32])) 5 = 0xFFFFFFFE := by
  decide +kernel
theorem test_iaddc : let s := after (.iaddc c0 3#6 5#8 0#8 (.v 1#8)) (one [0xFFFFFFFF#32, 1#32]); vr s 5 = 0 ∧ pr s 3 = true := by
  decide +kernel
theorem test_iadd64 : let s := after (.iadd64 c0 true false 4#8 0#8 (.v 2#8)) (one [0xFFFFFFFF#32, 0#32, 1#32, 0#32])
    vr s 4 = 0 ∧ vr s 5 = 1 := by decide +kernel
theorem test_imad64 : let s := after (.imad64 c0 false false 4#8 0#8 (.v 1#8) 2#8) (one [0xFFFFFFFF#32, 2#32, 0#32, 0#32])
    vr s 4 = 0xFFFFFFFE ∧ vr s 5 = 0xFFFFFFFF := by decide +kernel
theorem test_lea : let s := after (.lea c0 3#3 4#8 0#8 (.v 2#8)) (one [0#32, 1#32, 0xFFFFFFFF#32])
    vr s 4 = 0xFFFFFFF8 ∧ vr s 5 = 0 := by decide +kernel
theorem test_icmp_signed : pr (after (.icmp c0 .lt false .none 2#6 0#8 (.v 1#8)) (one [0xFFFFFFFF#32, 1#32])) 2 = true := by
  decide +kernel
theorem test_icmp_unsigned : pr (after (.icmp c0 .lt true .none 2#6 0#8 (.v 1#8)) (one [0xFFFFFFFF#32, 1#32])) 2 = false := by
  decide +kernel
theorem test_iabs_least : vr (after (.iabs c0 5#8 (.v 0#8)) (one [0x80000000#32])) 5 = 0x80000000 := by decide +kernel
theorem test_s8_sign : vr (after (.mov c0 5#8 (.s8 0xF0#8)) (one [])) 5 = 0xFFFFFFF0 := by decide +kernel
theorem test_shl_amount : vr (after (.shl c0 5#8 0#8 (.v 1#8)) (one [3#32, 33#32])) 5 = 6 := by decide +kernel
theorem test_sar : vr (after (.sar c0 5#8 0#8 (.v 1#8)) (one [0x80000000#32, 31#32])) 5 = 0xFFFFFFFF := by decide +kernel
theorem test_rot : vr (after (.rot c0 5#8 0#8 (.v 1#8)) (one [0x80000001#32, 1#32])) 5 = 3 := by decide +kernel
theorem test_bfe_sign : vr (after (.bfe c0 false 5#8 0#8 (.v 1#8) 2#8) (one [0xF0#32, 4#32, 4#32])) 5 = 0xFFFFFFFF := by
  decide +kernel
theorem test_bfi : vr (after (.bfi c0 5#8 0#8 (.v 1#8) 2#8) (one [0#32, 0xFFFF#32, 0x0804#32])) 5 = 0xFF0 := by decide +kernel
theorem test_clz_zero : vr (after (.clz c0 5#8 (.v 0#8)) (one [0#32])) 5 = 32 := by decide +kernel
theorem test_perm_sign : vr (after (.perm c0 5#8 0#8 (.v 1#8) 2#8) (one [0x80#32, 0x11223344#32, 0x4448#32])) 5 = 0x444444FF := by
  decide +kernel
theorem test_plop : pr (after (.plop c0 63#6 1#6 63#6 0#6 0x20#8) (one [])) 1 = true := by decide +kernel
theorem test_pmov_load : let s := after (.pmov c0 (.load true 0#8)) (one [0xFFFFFFFF#32]); pr s 31 = false ∧ pr s 32 = true := by
  decide +kernel
theorem test_guard_false : vr (after (.mov ⟨63#6, true, 0#4, 0#3, false⟩ 5#8 (.s8 1#8)) (one [])) 5 = 0 := by decide +kernel
theorem test_block_limit : codeOf (after (.mov c0 32#8 (.s8 1#8)) (one [])) = some Code.registerBlock.val := by decide +kernel
theorem test_movw_own : (after (.movw c0 3#6 (.s8 9#8)) (one [])).x.threads.map (fun t => t.wown) = [[(3, 9#32)]] := by
  decide +kernel

/-! Floating point (R113, R114, R170 to R176) -/

theorem test_fadd_tie : vr (after (.fadd c0 false 5#8 0#8 (.v 1#8)) (one [0x3F800000#32, 0x33800000#32])) 5 = 0x3F800000 := by
  decide +kernel
theorem test_fadd_nan : vr (after (.fadd c0 false 5#8 0#8 (.v 1#8)) (one [0x7F800000#32, 0xFF800000#32])) 5 = 0x7FC00000 := by
  decide +kernel
theorem test_fmul : vr (after (.fmul c0 true 5#8 0#8 (.v 1#8)) (one [0x40000000#32, 0x40400000#32])) 5 = 0xC0C00000 := by
  decide +kernel
theorem test_ffma_once : vr (after (.ffma c0 false false 5#8 0#8 (.v 1#8) 2#8) (one [0x3F800001#32, 0x3F800001#32, 0xBF800002#32])) 5 =
    0x28800000 := by decide +kernel
theorem test_fmin_zero : vr (after (.fmin c0 5#8 0#8 (.v 1#8)) (one [0#32, 0x80000000#32])) 5 = 0x80000000 := by decide +kernel
theorem test_fmax_nan : vr (after (.fmax c0 5#8 0#8 (.v 1#8)) (one [0x7FC00001#32, 0xC0000000#32])) 5 = 0xC0000000 := by
  decide +kernel
theorem test_fcmp_zero : pr (after (.fcmp c0 .eq .none 2#6 0#8 (.v 1#8)) (one [0#32, 0x80000000#32])) 2 = true := by decide +kernel
theorem test_frnd_even : vr (after (.frnd c0 .rn 5#8 (.v 0#8)) (one [0x40200000#32])) 5 = 0x40000000 := by decide +kernel
theorem test_frnd_down : vr (after (.frnd c0 .rd 5#8 (.v 0#8)) (one [0xC0200000#32])) 5 = 0xC0400000 := by decide +kernel
theorem test_frcp : flightRegs (after (.frcp c0 5#8 (.v 0#8)) (one [0x40000000#32])) = [(5, 0x3F000000)] := by decide +kernel
theorem test_fsqrt : flightRegs (after (.fsqrt c0 5#8 (.v 0#8)) (one [0x41100000#32])) = [(5, 0x40400000)] := by decide +kernel
theorem test_frsq_neg : flightRegs (after (.frsq c0 5#8 (.v 0#8)) (one [0xBF800000#32])) = [(5, 0x7FC00000)] := by decide +kernel
theorem test_fex2 : flightRegs (after (.fex2 c0 5#8 (.v 0#8)) (one [0x40400000#32])) = [(5, 0x41000000)] := by decide +kernel
theorem test_flg2 : flightRegs (after (.flg2 c0 5#8 (.v 0#8)) (one [0x41000000#32])) = [(5, 0x40400000)] := by decide +kernel
theorem test_hadd2 : vr (after (.hadd2 c0 false 5#8 0#8 (.v 1#8)) (one [0x3C004000#32, 0x3C00C000#32])) 5 = 0x40000000 := by
  decide +kernel
theorem test_hminmax2 : vr (after (.hminmax2 c0 false true 5#8 0#8 (.v 1#8)) (one [0x3C00C000#32, 0x40003C00#32])) 5 = 0x40003C00 := by
  decide +kernel
theorem test_hcmp2 : let s := after (.hcmp2 c0 false .lt .none 2#6 0#8 (.v 1#8)) (one [0x3C00C000#32, 0x3C003C00#32])
    pr s 2 = true ∧ pr s 3 = false := by decide +kernel
theorem test_dp4 : vr (after (.dp4 c0 false false true 5#8 0#8 (.v 1#8) 2#8) (one [0x010101FF#32, 0x01010102#32, 10#32])) 5 = 11 := by
  decide +kernel
theorem test_dp8_sat : vr (after (.dp8 c0 true false false 5#8 0#8 (.v 1#8) 2#8) (one [0x77777777#32, 0x77777777#32, 0x7FFFFFFF#32])) 5 =
    0x7FFFFFFF := by decide +kernel

/-! Conversions and pairs (R117, R150, R178 to R180) -/

theorem test_cvt_n8 : vr (after (.cvt cv0 5#8 0#8 .fp32 .n8) (one [0x43C80000#32])) 5 = 255 := by decide +kernel
theorem test_cvt_i8 : vr (after (.cvt cv0 5#8 0#8 .fp32 .i8) (one [0xC0400000#32])) 5 = 0xFFFFFFFD := by decide +kernel
theorem test_cvtpk : vr (after (.cvtpk cv0 5#8 0#8 .fp16) (one [0x3F800000#32, 0xC0000000#32])) 5 = 0xC0003C00 := by decide +kernel
theorem test_cvtup : let s := after (.cvtup cv0 4#8 0#8 .fp16) (one [0xC0003C00#32]); vr s 4 = 0x3F800000 ∧ vr s 5 = 0xC0000000 := by
  decide +kernel
theorem test_descale : let s := after (.descale cv0 4#8 0#8 .fp16 1#8) (one [0xC0003C00#32, 128#32])
    vr s 4 = 0x40000000 ∧ vr s 5 = 0xC0800000 := by decide +kernel
theorem test_pair_swap : let s := after (.pairMov gr0 0#8 1#8 ⟨.mov, 1#8, 0#8, 0#8⟩) (one [5#32, 6#32]); vr s 0 = 6 ∧ vr s 1 = 5 := by
  decide +kernel

/-! Cross-lane words (R45, R183 to R188): lanes 0 and 2 bring the mask 5 -/

/-- Two threads, in lanes 0 and 2, with a mask in V0, values in V1, and P1 true in lane 2. -/
def two : State := run [thr 4 0 (regs [5#32, 10#32]), { thr 5 2 (regs [5#32, 20#32]) with p := 2#64 }]

theorem test_shfl_xor : let s := after (.shfl c0 .xor 5#8 1#8 (.s8 2#8) 0#8) two; vrOf s 0 5 = 20 ∧ vrOf s 1 5 = 10 := by
  decide +kernel
theorem test_shfl_absent : vrOf (after (.shfl c0 .up 5#8 1#8 (.s8 1#8) 0#8) two) 1 5 = 20 := by decide +kernel
theorem test_vote_ballot : vrOf (after (.vote c0 .ballot 5#8 1#6 0#8) two) 0 5 = 4 := by decide +kernel
theorem test_redl : vrOf (after (.redl c0 .iadd 5#8 2#6 1#8 0#8) two) 1 5 = 30 := by decide +kernel
theorem test_scanl_excl : let s := after (.scanl c0 .iadd true 5#8 2#6 1#8 0#8) two; vrOf s 0 5 = 0 ∧ pr s 2 = false ∧ vrOf s 1 5 = 10 := by
  decide +kernel
theorem test_match : vrOf (after (.matchl c0 false 5#8 1#8 0#8) two) 1 5 = 4 := by decide +kernel
theorem test_actmask : vrOf (after (.actmask c0 5#8 0#8) two) 0 5 = 5 := by decide +kernel
theorem test_elect : pr (after (.elect c0 2#6 0#8) two) 2 = true := by decide +kernel
theorem test_missing : codeOf (after (.actmask c0 5#8 0#8) (one [3#32])) = some Code.missingMember.val := by decide +kernel

/-! Control (R146, R189 to R195) -/

/-- Program counter of the first thread. -/
def pcOf (s : State) : Nat := ((s.x.threads.headD (thr 0 0 [])).pc).toNat

theorem test_bra_back : pcOf (after (.bra gr0 0xFFFFFFFE#32) (one [])) = 0xFFF8 := by decide +kernel
theorem test_call : let s := after (.call gr0 4#8 2#32) (one []); pcOf s = 0x10018 ∧ vr s 4 = 0x10010 := by decide +kernel
theorem test_ret : pcOf (after (.ret c0 0#8) (one [0x200#32, 1#32])) = 0x100000200 := by decide +kernel
theorem test_brx_misaligned : codeOf (after (.brx c0 0#8) (one [4#32])) = some Code.badClause.val := by decide +kernel
theorem test_rbacq : let s := after (.rbacq c0 2#6 (.s8 3#8)) (one []); pr s 2 = true ∧ s.x.threads.map (fun t => t.v.length) = [80] := by
  decide +kernel
theorem test_rbqry : vr (after (.rbqry c0 5#8) (one [])) 5 = 2 * 256 + 126 := by decide +kernel
theorem test_waitk : (after (.waitk c0 1#4 (.v 0#8)) (one [1#32])).x.threads.map (fun t => t.status) = [.issued] := by decide +kernel

/-! Memory (R74, R86, R224) -/

/-- A byte that home holds. -/
def homeOf (s : State) (q : Nat) : Nat := (s.homeByte q).toNat

theorem test_perform_home : let s := (State.reset.performHome none 0 0 0#12 [(3, 0xAB#8)] false).1; homeOf s 3 = 0xAB ∧ homeOf s 4 = 0 := by
  decide +kernel
theorem test_local_store : let s := State.reset.storeLocal 0 0 0#12 0x100 [1#8, 2#8]
    homeOf s 0x100 = 0 ∧ (s.loadCore 0 0 0#12 false 0x100 2).2.bytes = [1#8, 2#8] := by decide +kernel
theorem test_local_other_core : ((State.reset.storeLocal 0 0 0#12 0x100 [1#8]).loadCore 40 0 0#12 false 0x100 1).2.bytes = [0#8] := by
  decide +kernel
theorem test_atom_inc : (atomBytes false .inc 7#64 7#64).toNat = 0 := by decide +kernel
theorem test_atom_dec : (atomBytes true .dec 0#64 9#64).toNat = 9 := by decide +kernel
theorem test_atom_smin : (atomBytes false .smin 0xFFFFFFFF#64 1#64).toNat = 0xFFFFFFFF := by decide +kernel
theorem test_ld_unaligned : codeOf (after (.ld c0 .b32 false 5#8 0#8 2#14 1#3) (one [])) = some Code.align.val := by decide +kernel
theorem test_lds_range : codeOf (after (.lds c0 .b32 false 5#8 0#8 0#14 0#3) (one [1024#32])) = some Code.scratchRange.val := by
  decide +kernel
theorem test_sts_issue : (after (.sts c0 .b16 0#8 1#8 0#14 0#3) (one [0x11223344#32, 6#32])).x.flights.map Flight.op =
    [.storeS 2 6 [0x44#8, 0x33#8] 1] := by decide +kernel
theorem test_sts_complete : let s := after (.instructionComplete 100) (after (.sts c0 .b16 0#8 1#8 0#14 0#3) (one [0x3344#32, 6#32]))
    s.x.teams.map Team.spad = [[(6, 0x44#8), (7, 0x33#8)]] ∧ s.x.flights = [] := by decide +kernel

/-! Matrix, traversal, system words (R249, R271, R284 to R288) -/

theorem test_accwr_complete : let s := after (.instructionComplete 100) (after (.accwr c0 1#6 0#8 (.v 16#8)) (one [7#32]))
    s.x.teams.map (fun k => (k.tileElem 1 0, k.tileElem 0 0)) = [(7#32, 0#32)] := by decide +kernel
theorem test_getsr_core : flightRegs (after (.getsr c0 5#8 (.s8 6#8)) (one [])) = [(5, 0)] := by decide +kernel
theorem test_trap_code : codeOf (after (.trap c0 (.s8 9#8)) (one [])) = some 0x3F#8 := by decide +kernel
theorem test_trap_freezes : ((after (.trap c0 (.s8 9#8)) (one [])).ctx 0).frozen = true := by decide +kernel
theorem test_halt : let s := after (.halt c0) (one []); (s.ctx 0).halted = true ∧ s.x.threads = [] := by decide +kernel
theorem test_exit : (after (.exit c0) (one [])).x.threads = [] := by decide +kernel
theorem test_privileged :
    let s := one []
    codeOf (after (.lpsweep c0 (.s8 0#8)) { s with d := { s.d with ctxs := s.d.ctxs.set 0 { Ctx.reset with enabled := true } } }) =
      some Code.privileged.val := by decide +kernel

/-! The host and the debug port (R353, R355, R449) -/

theorem test_plimit_clamp : let s := after (.plimitWrite 100#32) State.reset; s.h.plimit = 400#12 ∧ s.h.cbudget.head? = some 0#10 := by
  decide +kernel
theorem test_idcode : (after .idcode State.reset).b.dr = (List.range 32).map fun i => (0x0B518F1D#32).getLsbD i := by decide +kernel
theorem test_kill_unfrozen : after (.kill 0) (one []) = one [] := by decide +kernel
theorem test_sha3_empty : sha3 [] = 0x4A43F8804B0AD882FA493BE44DFF80F562D661A05647C15166D71EBFF8C6FFA7#256 := by decide +kernel

/-- R443: an uncorrectable error in a scratchpad sector poisons that sector alone. -/
theorem test_upset_spad : let s := { one [] with x := { (one []).x with teams := [{ team0 with ssize := 1024 }] } }
    let u := s.upset (.spad 2 3) false
    ((u.team? 2).map Team.spoison, u.h.errors.map ErrRec.code, (u.ctx 0).frozen) = (some [(3, ())], [.uncorrectable], false) := by
  decide +kernel

/-- R232, R338: with W = 18 and H = 16, tile 1 shows two columns of pixels: 8 quads, 32 threads. -/
theorem test_tile_size : (tileMembers (17#2048 <<< 160 ||| 15#2048 <<< 176) 1 0).length = 32 := by decide +kernel

/-! Steps (R34, R355) -/

theorem test_step_word : (match step (State.reset.withFetchWord 64 (stdU 0x01#8 (0#6) 5#8 0#8 0xF0#8 0#8 2#3).toNat) with
    | .next t => t.x.threads.map (fun t => ((t.vget 5).toNat, t.status, t.pc.toNat))
    | _ => []) = [(0xFFFFFFF0, .boundary, 0x10010)] := by decide +kernel
theorem test_step_boot : (match step State.reset with
    | .next t => t.b.booted
    | _ => false) = true := by decide +kernel
theorem test_step_frozen : (match step { State.reset with agenda := [.act .debugFreeze, .act (.kill 0)] } with
    | .next t => t.b.frozen
    | _ => false) = true := by decide +kernel

/-! Witnesses: the hypotheses of each statement, at concrete states and operands -/

/-- `lch` with a trap handler. -/
def lchH : Launch := { lch with record := wordRecord ||| (0x80000#4096 <<< 448) }

/-- One thread whose launch has a trap handler. -/
def oneH (vs : List Word) : State := runL lchH [thr 4 0 (regs vs)]

theorem solo_one (vs : List Word) : (one vs).solo gr0 (thr 4 0 (regs vs)) := ⟨rfl, rfl, rfl⟩
theorem calm_one (vs : List Word) : (one vs).calm := by
  intro t ht
  rw [List.mem_singleton.1 ht]
  rfl
theorem solo_oneH (vs : List Word) : (oneH vs).solo gr0 (thr 4 0 (regs vs)) := ⟨rfl, rfl, rfl⟩
theorem calm_oneH (vs : List Word) : (oneH vs).calm := by
  intro t ht
  rw [List.mem_singleton.1 ht]
  rfl
theorem unique_one (vs : List Word) : ∀ u ∈ (one vs).x.threads, u.uid = (thr 4 0 (regs vs)).uid → u = thr 4 0 (regs vs) :=
  fun _ hu _ => List.mem_singleton.1 hu
theorem traph_oneH {vs : List Word} : (oneH vs).traph (thr 4 0 (regs vs)) ≠ 0#64 :=
  show lrTraph lchH.record ≠ 0#64 by decide +kernel
theorem frozen_oneH {vs : List Word} : ((oneH vs).ctx (thr 4 0 (regs vs)).ctx).frozen = false := rfl
theorem quiet_oneH (vs : List Word) : (oneH vs).quiet (thr 4 0 (regs vs)) :=
  ⟨calm_oneH vs, traph_oneH, rfl, rfl, frozen_oneH, rfl, fun _ hu _ => List.mem_singleton.1 hu⟩
theorem team_one (vs : List Word) : (one vs).teamOf (thr 4 0 (regs vs)) = some team0 := rfl
theorem plain_one (vs : List Word) : (one vs).plain (thr 4 0 (regs vs)) := ⟨rfl, rfl, team0, rfl, rfl⟩
theorem plain_oneH (vs : List Word) : (oneH vs).plain (thr 4 0 (regs vs)) := ⟨rfl, rfl, team0, rfl, rfl⟩

/-- The one thread holds 32 registers: a word on registers below 32 meets no code, whatever it reads. -/
theorem fits_one (vs : List Word) (h : vs.length ≤ 32) (runs : List (VReg × Nat)) (hr : ∀ p ∈ runs, p.1.toNat + p.2 ≤ 32) :
    (one vs).regsFit gr0 runs := by
  intro t ht _
  rw [List.mem_singleton.1 ht]
  have hl : (thr 4 0 (regs vs)).v.length = 32 := by
    show (vs ++ List.replicate (32 - vs.length) 0#32).length = 32
    simp; omega
  unfold Thread.inBlocks
  rw [List.all_eq_true]
  intro p hp
  have := hr p hp
  simp only [hl, decide_eq_true_eq]
  omega

theorem reads_one (vs : List Word) (b : SrcB) : (one vs).canRead gr0 b := by
  intro t ht _ r _
  rw [List.mem_singleton.1 ht]
  rfl

theorem ready_one (vs : List Word) (h : vs.length ≤ 32) (b : SrcB) (runs : List (VReg × Nat))
    (hr : ∀ p ∈ runs, p.1.toNat + p.2 ≤ 32) : (one vs).ready gr0 b runs :=
  ⟨calm_one vs, reads_one vs b, fits_one vs h runs hr⟩

theorem wit_IntegerArithmetic : (one [1#32, 2#32]).members = [4] ∧
    (one [1#32, 2#32]).ready c0.grd (.v 1#8) ((6#8, 1) :: runs3 5#8 0#8 (.v 1#8)) ∧
    (one [1#32, 2#32]).ready c0.grd (.w 3#6) (runs3 5#8 0#8 (.w 3#6)) ∧ (one [1#32, 2#32]).calm ∧
    (one [1#32, 2#32]).canRead c0.grd (.v 2#8) ∧
    (one [1#32, 2#32]).regsFit c0.grd ((4#8, 2) :: (0#8, 2) :: bRuns (.v 2#8) 2) ∧
    (one [1#32, 2#32]).regsFit c0.grd ((4#8, 2) :: (0#8, 1) :: (30#8, 2) :: bRuns (.v 2#8) 1) ∧
    (one [1#32, 2#32]).regsFit c0.grd ((4#8, 2) :: (0#8, 2) :: bRuns (.v 2#8) 1) :=
  ⟨rfl, ready_one _ (by decide) _ _ (by decide), ready_one _ (by decide) _ _ (by decide), calm_one _, reads_one _ _,
    fits_one _ (by decide) _ (by decide), fits_one _ (by decide) _ (by decide), fits_one _ (by decide) _ (by decide)⟩

theorem wit_Comparisons : (one [1#32, 2#32]).ready c0.grd (.s8 0x80#8) (runs3 5#8 0#8 (.s8 0x80#8)) :=
  ready_one _ (by decide) _ _ (by decide)

theorem wit_LogicAndBitFields : (one [1#32, 2#32]).ready c0.grd (.v 1#8) (runs3 5#8 0#8 (.v 1#8)) ∧
    (one [1#32, 2#32]).ready c0.grd (.v 1#8) ((31#8, 1) :: runs3 5#8 0#8 (.v 1#8)) :=
  ⟨ready_one _ (by decide) _ _ (by decide), ready_one _ (by decide) _ _ (by decide)⟩

theorem wit_MovesAndPredicates : (one []).calm ∧ (one []).ready c0.grd (.sr .tid) ((31#8, 1) :: bRuns (.sr .tid) 1) ∧
    (one []).regsFit c0.grd [(31#8, 1)] ∧ (one []).ready c0.grd (.v 31#8) (bRuns (.v 31#8) 1) ∧
    ∀ t ∈ (one []).x.threads, (one []).active c0.grd t = true → ((one []).teamOf t).isSome = true :=
  ⟨calm_one _, ready_one _ (by decide) _ _ (by decide), fits_one _ (by decide) _ (by decide),
    ready_one _ (by decide) _ _ (by decide), fun t ht _ => by rw [List.mem_singleton.1 ht]; rfl⟩

/-- The largest finite value of FP16, and the least value that rounds to infinity; E4M3 has no infinity. -/
theorem wit_RoundToNearestEven : (∃ sh, Fmt.fp16.shape = some sh) ∧ (∃ sh, Fmt.e4m3.shape = some sh) ∧
    |(65504 : Rat)| ≤ (maxFinite .fp16).toRat ∧ |(-448 : Rat)| ≤ (maxFinite .e4m3).toRat ∧ Fmt.fp16.hasInf = true ∧
    2 * (maxFinite .fp16).toRat + ((maxFinite .fp16).toRat - (decodeNum .fp16 (maxFiniteBits .fp16 - 1)).toRat) ≤ 2 * (65520 : Rat) := by
  refine ⟨⟨_, rfl⟩, ⟨_, rfl⟩, ?_⟩
  decide +kernel

/-- Finite operands; a NaN; infinities of two signs; zero times an infinity. -/
theorem wit_FloatArithmetic : (one []).ready c0.grd (.v 1#8) ((2#8, 1) :: runs3 5#8 0#8 (.v 1#8)) ∧
    ((fp32 0x3F800000#32).isNan = false ∧ (fp32 0x3F800000#32).isInf = false ∧ (fp32 0x3F800000#32).toRat + (fp32 0x3F800000#32).toRat ≠ 0) ∧
    (fp32 0x7F800001#32).isNan = true ∧ (fp32 0x7F800000#32).isInf = true ∧
    (((fp32 0x7F800000#32).neg? != false) != ((fp32 0xFF800000#32).neg? != false)) = true ∧ (fp32 0x80000000#32).isZero = true :=
  ⟨ready_one _ (by decide) _ _ (by decide), by decide +kernel⟩

/-- NaN starts at 0x7F800001 of either sign. -/
theorem wit_FloatOrder : (one []).ready c0.grd (.v 1#8) ((2#8, 1) :: runs3 5#8 0#8 (.v 1#8)) ∧
    0x7F800000 < (0x7F800001#32).toNat % 2 ^ 31 ∧ 0x7F800000 < (0xFFFFFFFF#32).toNat % 2 ^ 31 ∧
    ¬0x7F800000 < (0xFF800000#32).toNat % 2 ^ 31 :=
  ⟨ready_one _ (by decide) _ _ (by decide), by decide⟩

/-- The ranges of FRND meet at 2^23 and at infinity; operands of the long instructions at the ends of their ranges. -/
theorem wit_RoundingAndLongOperations : (one []).ready c0.grd (.v 1#8) ((5#8, 1) :: bRuns (.v 1#8) 1) ∧
    (0x4AFFFFFF < 0x4B000000 ∧ 0x7F800000 < (0x7F800001#32).toNat % 2 ^ 31) ∧ (fp32 0xC2FC0000#32 = .ofInt (-126)) ∧
    (fp32 0x42FE0000#32 = .ofInt 127) ∧ (0 < (1#32).toNat % 2 ^ 31 ∧ (1#32).toNat % 2 ^ 31 < 0x7F800000) ∧
    0x80000000 < (0x80000001#32).toNat ∧ (fp32 0x43000000#32).toRat = 128 ∧ (fp32 0xC3160000#32).toRat = -150 ∧
    (fp32 0xC2FC0000#32).toRat = -126 ∧ (fp32 0x3FC00000#32).toRat = pow2 0 * (1 + 1 / 2) ∧ (fp32 0x3F400000#32).toRat = 3 / 4 :=
  ⟨ready_one _ (by decide) _ _ (by decide), by decide +kernel⟩

theorem wit_PackedHalvesAndDots : (one []).ready c0.grd (.v 1#8) ((2#8, 1) :: runs3 5#8 0#8 (.v 1#8)) ∧
    (decodeNum .fp16 0x7BFF).isInf = false ∧ (decodeNum .fp16 0x7BFF).isNan = false ∧ (decodeNum .fp16 0x7C01).isNan = true ∧
    (decodeNum .bf16 0x7F81).isNan = true ∧ ((decodeNum .fp16 0x3C00).toRat + (decodeNum .fp16 0x3C00).toRat ≠ 0) ∧
    [fp32 0x3F800000#32, decodeNum .fp16 0x3C00].all (fun n => !n.isNan && !n.isInf) = true :=
  ⟨ready_one _ (by decide) _ _ (by decide), by decide +kernel⟩

/-- The encoding that a conversion gives the thread. -/
def enc0 (f : Fmt) (x : Sys2Proof.Num) : Nat := (roundNum f .rn 0 x).getD 0

/-- A format slot whose elements are E8M0. -/
def e8slot : Slot := ⟨(List.range 16).foldl (fun r k =>
  if Fmt.ofCode (BitVec.ofNat 4 k) = some .e8m0 then BitVec.ofNat 256 k <<< 252 else r) 0#256, 0#256, 0#256, [], true⟩

/-- CVT to N8 past its range, both packed forms, a scale of 2, CONVERT_TRAP under policy 3, and a slot of E8M0 elements. -/
theorem wit_Conversions :
    let s := one [0x43C80000#32, 0x3F800000#32, 128#32]
    s.calm ∧ (∀ t ∈ s.x.threads, s.active cv0.grd t = true → ∀ f, f ≠ .e8m0 → s.cvOvf t cv0 f = .ok 0) ∧
    s.regsFit cv0.grd [(5#8, 1), (0#8, 2), (2#8, 1)] ∧
    (∀ t ∈ s.x.threads, roundNum .n8 .rn 0 (decodeNum .fp32 (t.vget 0).toNat) = some (enc0 .n8 (decodeNum .fp32 (t.vget 0).toNat))) ∧
    (∀ t ∈ s.x.threads, ∀ k, k < 2 → roundNum .fp16 .rn 0 (fp32 (t.vget k)) = some (enc0 .fp16 (fp32 (t.vget k)))) ∧
    (∀ t ∈ s.x.threads, ∀ k, k < 2 → roundNum .fp16 .rn 0 ((fp32 (t.vget k)).div (decodeScale false 128)) =
      some (enc0 .fp16 ((fp32 (t.vget k)).div (decodeScale false 128)))) ∧
    (oneH [0x43C80000#32]).quiet (thr 4 0 (regs [0x43C80000#32])) ∧
    roundNum .n8 .rn 3 (decodeNum .fp32 (0x43C80000 % 2 ^ 32)) = none ∧
    ∃ x, (runL { lch with slots := List.replicate 8 e8slot } []).slotOk (thr 4 0 (regs [])) 0 = .ok x ∧
      slotElem x.record = some .e8m0 := by
  refine ⟨calm_one _, fun t _ _ f hf => ?_, fits_one _ (by decide) _ (by decide), by decide +kernel, by decide +kernel,
    by decide +kernel, quiet_oneH _, by decide +kernel, _, rfl, by decide +kernel⟩
  cases f <;> first | rfl | exact absurd rfl hf

theorem wit_PairedWords : (one []).calm ∧
    (one []).regsFit gr0 ((1#8, 1) :: (2#8, 1) :: (3#8, 1) :: [(4#8, 1), (2#8, 1), (31#8, 1)]) :=
  ⟨calm_one _, fits_one _ (by decide) _ (by decide)⟩

/-- Lanes 0 and 2 join at a mask that names both; a mask that names lane 0 alone of them is a join of lane 0 by itself. -/
theorem wit_CrossLane : two.joins 0#8 5#32 ∧ two.regsFit gr0 ((0#8, 1) :: runs3 5#8 1#8 (.s8 2#8)) := by
  refine ⟨⟨?_, ?_, 3, 0x10008#64, ?_, ?_, ?_, ?_⟩, ?_⟩
  · unfold State.calm; decide +kernel
  · decide +kernel
  · decide +kernel
  · decide +kernel
  · decide +kernel
  · intro l hl
    by_cases h : l < 32
    · interval_cases l <;> first | exact absurd hl (by decide) | decide +kernel
    · rw [BitVec.getLsbD_of_ge _ _ (by omega)] at hl
      exact absurd hl (by decide)
  · unfold State.regsFit; decide +kernel

/-- A lane that a mask names and that has no thread. -/
theorem wit_CrossLane_missing : let t := thr 4 0 (regs [3#32])
    (one [3#32]).solo ⟨63#6, false⟩ t ∧ (one [3#32]).calm ∧ (one [3#32]).regsFit ⟨63#6, false⟩ [(0#8, 1), (5#8, 1)] ∧
    t.status = .issued ∧ 1 < 32 ∧ (t.vget 0).getLsbD 1 = true ∧
    (∀ u ∈ (one [3#32]).x.threads, u.group = t.group → u.arrival? = none ∧ u.isReplay = false) ∧
    (∀ u ∈ (one [3#32]).x.threads, u.uid = t.uid → u = t) ∧
    (∀ u ∈ (one [3#32]).x.threads, u.group = t.group → u.status ≠ .exited → u = t) ∧ 1 ≠ t.lane ∧ (one [3#32]).x.flights = [] :=
  ⟨solo_one _, calm_one _, fits_one _ (by decide) _ (by decide), rfl, by decide, by decide +kernel, by decide +kernel, unique_one _,
    by decide +kernel, by decide, rfl⟩

/-- A lane that a mask names whose thread has not arrived. -/
theorem wit_CrossLane_held : let t := thr 4 0 (regs [3#32])
    let s := run [t, { thr 5 1 (regs []) with status := .boundary }]
    s.solo ⟨63#6, false⟩ t ∧ s.calm ∧ (t.vget 0).getLsbD 1 = true ∧
    (∀ u ∈ s.x.threads, u.group = t.group → u.arrival? = none ∧ u.isReplay = false) ∧
    ∃ u, s.laneThread t.group 1 = some u ∧ u.uid ≠ t.uid ∧ u.trap = none := by
  refine ⟨?_, ?_, ?_, ?_, _, rfl, ?_, ?_⟩
  · unfold State.solo; decide +kernel
  · unfold State.calm; decide +kernel
  all_goals decide +kernel

/-- An aligned target, the next address after it, and one 7 bytes on. -/
theorem wit_Branches : (one [0x208#32, 1#32]).calm ∧ (one [0x208#32, 1#32]).regsFit gr0 [(4#8, 2), (0#8, 2)] ∧
    (∀ t ∈ (one [0x208#32, 1#32]).x.threads, (t.pair 0).toNat % 8 = 0) ∧ (oneH [0x209#32]).solo c0.grd (thr 4 0 (regs [0x209#32])) ∧
    (oneH [0x209#32]).quiet (thr 4 0 (regs [0x209#32])) ∧ ((thr 4 0 (regs [0x209#32])).pair 0).toNat % 8 ≠ 0 ∧
    ((thr 4 0 (regs [0x20F#32])).pair 0).toNat % 8 ≠ 0 :=
  ⟨calm_one _, fits_one _ (by decide) _ (by decide), by decide +kernel, solo_oneH _, quiet_oneH _, by decide +kernel, by decide +kernel⟩

/-- 14 further blocks reach the limit of a thread; one of its two blocks can go; a deadline that has come, and one that has
not. -/
theorem wit_RegisterBlocksAndYield :
    let s := one [14#32, 1#32]
    let f (d : Nat) : Flight := ⟨9, 0, 4, ⟨0#64, 0#64, 0, 1⟩, none, 0, .sleep d, false, [], none⟩
    let sf (d : Nat) : State := { s with x := { s.x with flights := [f d] } }
    s.ready c0.grd (.v 0#8) ((5#8, 1) :: bRuns (.v 0#8) 1) ∧
    (∀ t ∈ s.x.threads, t.v.length / 16 + (s.valI t (.v 0#8)).toNat ≤ 16) ∧
    (∀ t ∈ s.x.threads, (s.valI t (.v 1#8)).toNat < t.v.length / 16 ∧ s.busyThread t.uid = false) ∧
    s.solo c0.grd (thr 4 0 (regs [14#32, 1#32])) ∧
    (sf 0).flight? 9 = some (f 0) ∧ (sf 1).flight? 9 = some (f 1) ∧ 0 ≤ s.timeOf (thr 4 0 []) ∧ s.timeOf (thr 4 0 []) < 1 :=
  ⟨ready_one _ (by decide) _ _ (by decide), by decide +kernel, by decide +kernel, solo_one _, by decide +kernel⟩

theorem wit_RegisterBlocksAndYield_codes :
    let v := [15#32, 2#32]
    let t := thr 4 0 (regs v)
    (oneH v).solo c0.grd t ∧ (oneH v).quiet t ∧ t.inBlocks [(32#8, 1)] = false ∧ t.inBlocks [(31#8, 1)] = true ∧
    (∀ r ∈ [0#8, 1#8], t.inBlocks (bRuns (.v r) 1) = true ∧ (oneH v).srcI t (.v r) = .ok (t.vget r.toNat) ∧ t.vget r.toNat ≠ 0#32) ∧
    16 < t.v.length / 16 + (t.vget 0).toNat ∧ t.v.length / 16 ≤ (t.vget 1).toNat :=
  ⟨solo_oneH _, quiet_oneH _, by decide +kernel⟩

/-! Memory -/

/-- A page of context 0. -/
def page (base frame : Nat) (ro : Bool) (mt : BitVec 2) : TlbEntry := ⟨0, ⟨base, 65536, frame, ro, false, false, mt, false, []⟩⟩

/-- Pages at 0 (memory type 0), 0x10000 (type 1) and 0x20000 (read-only), held by the TLB of core 0. -/
def mapped : MemState :=
  { State.reset.m with coreTlb := [(0, [page 0 0 false 0#2, page 0x10000 0x10000 false 1#2, page 0x20000 0x20000 true 0#2])] }

def oneM (vs : List Word) : State := { one vs with m := mapped }
def oneHM (vs : List Word) : State := { oneH vs with m := mapped }

theorem solo_oneM (vs : List Word) : (oneM vs).solo gr0 (thr 4 0 (regs vs)) := ⟨rfl, rfl, rfl⟩
theorem calm_oneM (vs : List Word) : (oneM vs).calm := calm_one vs
theorem plain_oneM (vs : List Word) : (oneM vs).plain (thr 4 0 (regs vs)) := ⟨rfl, rfl, team0, rfl, rfl⟩
theorem plain_oneHM (vs : List Word) : (oneHM vs).plain (thr 4 0 (regs vs)) := ⟨rfl, rfl, team0, rfl, rfl⟩
theorem solo_oneHM (vs : List Word) : (oneHM vs).solo gr0 (thr 4 0 (regs vs)) := ⟨rfl, rfl, rfl⟩
theorem quiet_oneHM (vs : List Word) : (oneHM vs).quiet (thr 4 0 (regs vs)) := quiet_oneH vs

/-- The access that the checks give, in a page that maps addresses to themselves. -/
def acc (va : Nat) (mt : BitVec 2) (scope : Nat) : Acc := ⟨BitVec.ofNat 64 va, va, mt, none, 0#12, scope⟩

/-- The checks admit an access. -/
def admits (s : State) (t : Thread) (p : DWord) (n : Nat) (modifies reads : Bool) (tensor : BitVec 12) (scope : Nat) (a : Acc) : Bool :=
  let r := s.threadCheck t p n modifies true tensor scope
  p.toNat % n == 0 && r.2 == .go a && (!reads || !r.1.poisonSeen t.core t.ctx a.pa n a.atHome) && !r.1.hostDown a.pa

theorem checked_of {s : State} {t : Thread} {p : DWord} {n : Nat} {m r : Bool} {e : BitVec 12} {c : Nat} {a : Acc}
    (h : admits s t p n m r e c a = true) : s.checked t p n m r e c (s.threadCheck t p n m true e c).1 a := by
  simp only [admits, Bool.and_eq_true, beq_iff_eq, Bool.not_eq_true', Bool.or_eq_true] at h
  refine ⟨h.1.1.1, Prod.ext rfl h.1.1.2, fun hr => ?_, h.2⟩
  rcases h.1.2 with h | h
  · simp [hr] at h
  · exact h

/-- A pointer in V0:V1 to 0xF8, in V2:V3 to a page of type 1, in V4:V5 to a read-only page. -/
def ptrs : List Word := [0xF8#32, 0#32, 0x10000#32, 0#32, 0x20000#32, 0#32]

/-- The last aligned access before a line's end; a buffer descriptor over 16 bytes at 0, in and out of bounds. -/
theorem wit_LoadStoreIssue : let t := thr 4 0 (regs ptrs)
    (oneM ptrs).solo c0.grd t ∧ (oneM ptrs).calm ∧ (oneM ptrs).plain t ∧ t.inBlocks [(0#8, 2), (8#8, 2)] = true ∧
    (∃ s1 a, (oneM ptrs).checked t (t.pair 0 + (0#14).signExtend 64) 8 false true 0#12 1 s1 a) ∧
    (∃ s1 a, (oneM ptrs).checked t (t.pair 0 + (0#14).signExtend 64) 8 true false 0#12 1 s1 a) ∧
    (∃ s1 a, (oneM ptrs).checked t (t.pair 2 + (0#14).signExtend 64) 32 false true 0#12 1 s1 a) ∧
    (∃ s1 a, (oneM ptrs).threadCheck t (t.pair 0 + (3#14).signExtend 64) 1 false true 0#12 1 = (s1, .go a)) ∧
    ∀ s2 b, (one []).threadCheck (thr 4 0 (regs [])) (0#64 + (0x1FFF#14).signExtend 64) 1 false true 0#12 1 ≠ (s2, .go b) := by
  refine ⟨solo_oneM _, calm_oneM _, plain_oneM _, by decide +kernel,
    ⟨_, acc 0xF8 0#2 1, checked_of (by decide +kernel)⟩, ⟨_, acc 0xF8 0#2 1, checked_of (by decide +kernel)⟩,
    ⟨_, acc 0x10000 1#2 1, checked_of (by decide +kernel)⟩, ⟨_, acc 0xFB 0#2 1, Prod.ext rfl (by decide +kernel)⟩, fun s2 b h => ?_⟩
  have : ((one []).threadCheck (thr 4 0 (regs [])) (0#64 + (0x1FFF#14).signExtend 64) 1 false true 0#12 1).2 = .fault .invalid := by
    decide +kernel
  rw [h] at this
  cases this

/-- A buffer descriptor (R59): KIND 1, element size, EXTENT and flags over BASE 0. -/
def buf (extent : Nat) (robust ro : Bool) : BitVec 256 :=
  let find (p : BitVec 256 → Bool) : BitVec 256 := ((List.range 256).map fun i => (1#256 <<< i)).foldl (fun a b => if p b then b else a) 0#256
  let unit := find fun d => descExtent d == 1
  let kind := find fun d => descKind d == 1
  kind ||| (unit * BitVec.ofNat 256 extent) ||| (if robust then find descRobust else 0#256) ||| (if ro then find descRo else 0#256)

def withD (s : State) (d : BitVec 256) : State :=
  { s with x := { s.x with teams := s.x.teams.map fun k => { k with d := List.replicate 32 d } } }

/-- Element 3 of a buffer of 4 bytes is its last; element 4 is out of bounds, with ROBUST and without; an RO buffer. -/
theorem wit_LoadStoreIssue_buffer : let t := thr 4 0 (regs [3#32])
    let s (robust ro : Bool) := withD (oneHM [3#32]) (buf 4 robust ro)
    (descKind (buf 4 false false) = 1 ∧ descExtent (buf 4 false false) = 4 ∧ descEsize (buf 4 false false) = 0 ∧
      ([false, true].all fun r => [false, true].all fun o => descRo (buf 4 r o) == o && descRobust (buf 4 r o) == r) = true) ∧
    (s false false).solo c0.grd t ∧ (s false false).quiet t ∧ (s false false).plain t ∧
    ((t.vget 0).toNat * 1 % 2 ^ 64 + 1 ≤ 4 ∧ 4 < 4 + 1) ∧
    (∃ s1 a, (s false false).checked t (descBase (buf 4 false false) + 3#64) 1 false true (descTensor (buf 4 false false)) 1 s1 a) ∧
    ∃ s1 a, (s false false).checked t (descBase (buf 4 false false) + 3#64) 1 true false (descTensor (buf 4 false false)) 1 s1 a := by
  refine ⟨by decide +kernel, ⟨rfl, rfl, rfl⟩, quiet_oneH [3#32], ⟨rfl, rfl, { team0 with d := List.replicate 32 (buf 4 false false) }, rfl, rfl⟩, by decide +kernel,
    ⟨_, acc 3 0#2 1, checked_of (by decide +kernel)⟩, ⟨_, acc 3 0#2 1, checked_of (by decide +kernel)⟩⟩

/-- Misaligned; refused by the page; without a translation, while the fault ring is enabled and while it is not; past the
scratchpad. -/
theorem wit_AccessCodes : let t := thr 4 0 (regs ptrs)
    let s : State := { one ptrs with h := { State.reset.h with fq := { State.reset.h.fq with ctl := 0x80000000#32 } } }
    (oneHM ptrs).solo c0.grd t ∧ (oneHM ptrs).quiet t ∧ (oneHM ptrs).plain t ∧
    (s.ctx t.ctx).killing = false ∧ (t.pair 0 + (1#14).signExtend 64).toNat % 2 ≠ 0 ∧ (t.pair 0 + (7#14).signExtend 64).toNat % 8 ≠ 0 ∧
    (∃ s1, (oneHM ptrs).threadCheck t (t.pair 4 + (0#14).signExtend 64) 8 true true 0#12 1 = (s1, .code .permission)) ∧
    s.solo c0.grd t ∧ s.calm ∧ s.plain t ∧
    (∃ s1, s.threadCheck t (t.pair 0 + (0#14).signExtend 64) 8 false true 0#12 1 = (s1, .fault .invalid) ∧
      s1.faultWaits t.ctx (t.pair 0) (coreSector t.core) = true) ∧
    (∃ s1, (oneH ptrs).threadCheck t (t.pair 0 + (0#14).signExtend 64) 8 false true 0#12 1 = (s1, .fault .invalid) ∧
      s1.faultWaits t.ctx (t.pair 0) (coreSector t.core) = false) ∧
    ((oneH [1021#32]).quiet (thr 4 0 (regs [1021#32])) ∧ 1021 % 4 ≠ 0 ∧ (1024 % 4 = 0 ∧ team0.ssize < 1024 + 4)) :=
  ⟨solo_oneHM _, quiet_oneHM _, plain_oneHM _, rfl, by decide +kernel, by decide +kernel, ⟨_, Prod.ext rfl (by decide +kernel)⟩,
    solo_one _, calm_one _, plain_one _, ⟨_, Prod.ext rfl (by decide +kernel), by decide +kernel⟩,
    ⟨_, Prod.ext rfl (by decide +kernel), by decide +kernel⟩, quiet_oneH _, by decide, by decide⟩

/-- The last word of the scratchpad, named with rank 0; the tags of a sector; word 7 of a descriptor. -/
theorem wit_ScratchpadAndTagIssue : let t := thr 4 0 (regs ([1020#32, 7#32] ++ ptrs))
    let s := oneM ([1020#32, 7#32] ++ ptrs)
    s.solo c0.grd t ∧ s.calm ∧ s.teamOf t = some team0 ∧ t.isReplay = false ∧
    (t.inBlocks [(0#8, 1), (8#8, 1)] = true ∧ 1020 % 4 = 0 ∧ 1020 + 4 ≤ team0.ssize ∧ s.absentLine team0 1020 4 = none ∧
      team0.spadPoison 1020 4 = false ∧ s.rankTeam team0 (1020 / 2 ^ 24) = some team0) ∧
    (∀ m, ∃ s1 a, s.pageCheck 0 (some (0, 0)) 0 (t.pair 2 + (3#14).signExtend 64) 1 m false false 0#12 1 = (s1, .go a) ∧
      s1.locked 0 (ptrVa (t.pair 2 + (3#14).signExtend 64) / 64 * 64) 64 m = false ∧ s1.poisonSeen 0 0 a.pa 1 true = false) ∧
    s.srcI t (.v 1#8) = .ok 7#32 := by
  refine ⟨solo_oneM _, calm_oneM _, rfl, rfl, by decide +kernel, fun m => ⟨_, acc 0xFB 0#2 1, Prod.ext rfl (by cases m <;> decide +kernel), ?_, ?_⟩, by decide +kernel⟩
  all_goals cases m <;> decide +kernel

/-- An atomic of 8 bytes and its data; a deterministic launch; a WAITC with a deadline and one with none. -/
theorem wit_AtomicAndWaitIssue : let t := thr 4 0 (regs ptrs)
    let s := oneM ptrs
    let d : State := { s with d := { s.d with launches := [{ lch with record := wordRecord ||| 1#4096 <<< 124 }] } }
    s.solo c0.grd t ∧ s.calm ∧ s.plain t ∧ s.maddr t (.ptr 2#8 0#14) 8 true = .ok (.at_ (0x10000#64), 0#12) ∧
    t.inBlocks ((8#8, 4) :: maddrRuns (.ptr 2#8 0#14)) = true ∧
    (∃ s1 a, s.checked t 0x10000#64 8 true true 0#12 2 s1 a) ∧ (∃ s1 a, s.checked t 0x10000#64 8 true false 0#12 2 s1 a ∧ isWindow a.pa = false) ∧
    s.det t = false ∧ d.det t = true ∧
    (∃ s1 a, s.checked t (t.pair 2 + (0#14).signExtend 64) 8 false true 0#12 2 s1 a ∧ (∀ m ∈ s1.y.monitors, m.flight < s1.x.nextUid) ∧
      s1.x.flights = [] ∧ s1.e.rays = [] ∧ (∀ v ∈ s1.x.threads, v.uid = t.uid → v = t)) ∧
    (withD s (buf 4 true false)).maddr t (.desc 0#5 0#8) 4 true = .ok (.robust, 0#12) := by
  refine ⟨solo_oneM _, calm_oneM _, plain_oneM _, by decide +kernel, by decide +kernel,
    ⟨_, acc 0x10000 1#2 2, checked_of (by decide +kernel)⟩, ⟨_, acc 0x10000 1#2 2, checked_of (by decide +kernel), by decide +kernel⟩,
    by decide +kernel, by decide +kernel, ⟨_, acc 0x10000 1#2 2, checked_of (by decide +kernel), ?_, ?_, ?_, ?_⟩, by decide +kernel⟩
  all_goals decide +kernel

/-- A flight of the thread. -/
def fl (op : FlightOp) : Flight := ⟨9, 0, 4, ⟨0x10008#64, 0x10000#64, 0, 1⟩, some 2, 0, op, false, [], none⟩

/-- The state with that flight. -/
def flying (s : State) (op : FlightOp) : State := { s with x := { s.x with flights := [fl op] } }

/-- A range that the copy of another thread writes. -/
def lockAt (lo hi : Nat) : Lock := ⟨77, 0, lo, hi, true⟩
def lockedOn (s : State) (lo hi : Nat) : State := { s with m := { s.m with locks := [lockAt lo hi] } }

/-- A fixed result; loads of 4 bytes, of both halves of 16, before and after the first; one of bytes that are locked. -/
theorem wit_LoadCompletes : let t := thr 4 0 (regs ptrs)
    let s := flying (oneM ptrs) (.write [(5, 1#32)] [(3, true)])
    let l (w : Width) (ps : List (Nat × Nat)) := flying (oneM ptrs) (.load (acc 0 0#2 1) w false 8 ps)
    let ok (w : Width) (ps : List (Nat × Nat)) (o : Nat) : Bool :=
      (l w ps).flight? 9 == some (fl (.load (acc 0 0#2 1) w false 8 ps)) && (l w ps).accessFirst (fl (.load (acc 0 0#2 1) w false 8 ps)) &&
        let r := (l w ps).readAcc t (acc 0 0#2 1) o (min (widthBytes w) 8)
        !(acc 0 0#2 1).refused r.2.tag && !r.2.poison && r.2.bytes.length == min (widthBytes w) 8
    s.flight? 9 = some (fl (.write [(5, 1#32)] [(3, true)])) ∧ s.thread? 4 = some t ∧ s.swappedOut t = false ∧
    ([(Width.b32, [], 0), (.b8, [], 0), (.b64, [], 0), (.b128, [(8, 7)], 0), (.b128, [(0, 2 ^ 64 - 1)], 8), (.b128, [], 8)].all fun k =>
      ok k.1 k.2.1 k.2.2 && (l k.1 k.2.1).sameWord (fl (.load (acc 0 0#2 1) k.1 false 8 k.2.1)) == [fl (.load (acc 0 0#2 1) k.1 false 8 k.2.1)] &&
        !(l k.1 k.2.1).lockedNow (fl (.load (acc 0 0#2 1) k.1 false 8 k.2.1)) t (acc 0 0#2 1) (widthBytes k.1) false) = true ∧
    (lockedOn (l .b32 []) 3 4).lockedNow (fl (.load (acc 0 0#2 1) .b32 false 8 [])) t (acc 0 0#2 1) 4 false = true := by
  decide +kernel

/-- A store and a load that meet in their last bytes; a line that stands in L1, and a set with room for one that does not. -/
theorem wit_MemoryAtHome : ([1#8, 2#8] ≠ [] ∧ 0x13E % 64 + [1#8, 2#8].length ≤ 64 ∧ 0x13F % 64 + 1 ≤ 64 ∧ 0 < 1) ∧
    Memory.wf State.reset.m = true ∧ (∀ l, (State.reset.homeLine l).owner = none) ∧ 0xFE % 256 + [1#8, 2#8].length ≤ 256 ∧
    State.reset.l1Room 0 1 0 ∧ ∃ k ∈ (State.reset.storeLocal 0 0 0#12 0x100 [1#8]).m.copies, k.place = .l1 0 ∧ k.line = 1 :=
  ⟨by decide, rfl, fun _ => rfl, by decide, .inr (by decide +kernel), by decide +kernel⟩

/-- The last aligned stores of a line, at home and in L1, the two widths, and one of 16 bytes. -/
theorem wit_MemoryAtHome_stores : let t := thr 4 0 (regs ptrs)
    let ok (a : Acc) (bs : List Byte) : Bool :=
      let f := fl (.store a bs)
      let s := flying (oneM ptrs) f.op
      s.flight? 9 == some f && s.thread? 4 == some t && !s.swappedOut t && s.accessFirst f && s.sameWord f == [f] &&
        !s.lockedNow f t a bs.length true && !isWindow a.pa && Memory.wf s.m && s.m.copies.isEmpty && a.pa % bs.length == 0
    ok (acc 0xFC 0#2 2) [1#8, 2#8, 3#8, 4#8] = true ∧ (acc 0xFC 0#2 2).atHome = true ∧ ok (acc 0xFF 0#2 1) [1#8] = true ∧
    (acc 0xFF 0#2 1).atHome = false ∧ (∃ w, w ≠ .b128 ∧ [1#8].length = widthBytes w) ∧ ok (acc 0xF0 1#2 1) (List.replicate 16 7#8) = true ∧
    (acc 0xF0 1#2 1).atHome = true ∧ (oneM ptrs).plain t ∧ ∀ l, ((oneM ptrs).homeLine l).owner = none :=
  ⟨by decide +kernel, rfl, by decide +kernel, rfl, ⟨.b8, by decide, rfl⟩, by decide +kernel, rfl, plain_oneM _, fun _ => rfl⟩

/-- Operands at the ends of both widths; an atomic in flight at a word of its own, and a RED that has left its core. -/
theorem wit_Atomics : let t := thr 4 0 (regs ptrs)
    let a := acc 0x10000 1#2 1
    let f := fl (.atom a true .iadd 5#64 8)
    let s := flying (oneM ptrs) f.op
    let r : Flight := { fl (.red a true .iadd 5#64) with posted := true }
    let u : State := { s with x := { s.x with flights := [r] } }
    ((0xFFFFFFFF#64).toNat < 2 ^ 32 ∧ (0xFFFFFFFFFFFFFFFF#64).toNat < 2 ^ 64) ∧ s.plain t ∧
    (s.flight? 9 = some f ∧ s.thread? 4 = some t ∧ s.accessFirst f = true ∧ s.sameWord f = [f] ∧ a.mt = 1#2 ∧
      isWindow a.pa = false ∧ a.tag = none ∧ a.pa % 8 = 0 ∧ s.poisonSeen 0 0 a.pa 8 true = false ∧ s.lockedNow f t a 8 true = false ∧
      Memory.wf s.m = true ∧ s.m.copies = [] ∧ 8 + 1 < t.v.length ∧ s.swappedOut t = false) ∧
    (∀ l, (s.homeLine l).owner = none) ∧
    (u.flight? 9 = some r ∧ u.thread? 4 = some t ∧ u.swappedOut t = false ∧ u.accessFirst r = true ∧ u.sameWord r = [r] ∧
      u.lockedNow r t a 8 true = false ∧ (s.flight? 9).map Flight.posted = some false) :=
  ⟨by decide, ⟨rfl, rfl, team0, rfl, rfl⟩, by decide +kernel, fun _ => rfl, by decide +kernel⟩

/-- Scratchpad accesses at the last byte and of the last 16, and the tag of a sector of stacked DRAM. -/
theorem wit_ScratchpadAndTagsComplete : let t := thr 4 0 (regs ptrs)
    let f := fl (.storeS 2 1023 [7#8] 1)
    let s := flying (oneM ptrs) f.op
    let g := fl (.tagst (acc 0 0#2 1) 5#4)
    let ready (op : FlightOp) (off n : Nat) : Bool := (flying (oneM ptrs) op).spadReady (fl op) team0 off n
    let ok (op : FlightOp) (off n : Nat) : Bool := ready op off n && (flying (oneM ptrs) op).sameSpad (fl op) == [fl op]
    s.plain t ∧ s.teamOf t = some team0 ∧
    (s.flight? 9 = some f ∧ s.thread? 4 = some t ∧ team0.swapped = none ∧ s.isolates t = false ∧ team0.spoison = [] ∧
      swf 0#8 team0.spad = true) ∧
    (ok f.op 1023 1 = true ∧ ok (.storeS 2 1008 (List.replicate 16 7#8) 1) 1008 16 = true ∧
      ok (.loadS 2 1020 1020#64 .b32 false 5 []) 1020 4 = true ∧ ok (.loadS 2 1008 1008#64 .b128 false 5 [(8, 7)]) 1008 16 = true) ∧
    ((flying (oneM ptrs) g.op).accessFirst g = true ∧ (flying (oneM ptrs) g.op).sameWord g = [g] ∧ isStacked 0 = true ∧ Memory.wf s.m = true ∧
      s.poisonSeen 0 0 0 1 true = false ∧
      ([false, true].all fun m => !(flying (oneM ptrs) g.op).lockedNow g t (acc 0 0#2 1).sector 64 m) =
        true) :=
  ⟨⟨rfl, rfl, team0, rfl, rfl⟩, rfl, by decide +kernel, by decide +kernel, by decide +kernel⟩

theorem wit_CanonicalMemory : Memory.wf State.reset.m = true ∧ 0xFE % 256 + [1#8, 2#8].length ≤ 256 ∧ 0xF8 % 256 + 8 ≤ 256 :=
  ⟨rfl, by decide, by decide⟩

/-- Fields of a descriptor or a record: each value at its bit. -/
def fld (fs : List (Nat × Nat)) : Nat := fs.foldl (fun n f => n + f.2 * 2 ^ f.1) 0

/-- A tensor descriptor (R250) over 16 by 2 by 2 by 1 elements, whose tile takes in 16 by 4 by 1 by 1. -/
def tensor : BitVec 256 := BitVec.ofNat 256 (fld [(240, 2), (216, 15), (200, 1), (184, 1), (160, 15), (152, 3)])

/-- Copies at the last bytes of the scratchpad, and of no bytes; a gather of one element; a tile that reaches past its tensor;
ranges that touch; a full lock table. -/
theorem wit_Copies : let vs : List Word := [0x100#32, 0#32, 4#32, 0#32, 16#32, 0#32, 0#32, 0#32, 1008#32]
    let t := thr 4 0 (regs vs)
    let g := thr 4 0 (regs ((vs.take 4) ++ [1#32] ++ (vs.drop 5)))
    let ps := tilePieces tensor false (fun k => (t.vget (4 + k)).toInt - 16) 960
    (one vs).solo c0.grd t ∧ (one vs).calm ∧ (one vs).teamOf t = some team0 ∧ (∀ u ∈ (one vs).x.threads, u.uid = t.uid → u = t) ∧
    t.inBlocks ([(0#8, 4), (4#8, 4)] ++ bRuns (.v 8#8) 1) = true ∧ (one vs).srcI t (.v 8#8) = .ok 1008#32 ∧
    ((t.pair 0).toNat % 16 = 0 ∧ 1008 % 16 = 0 ∧ 1008 + (t.vget 4).toNat ≤ team0.ssize) ∧
    (ptrVa 0x100#64 + 16 ≤ ptrVa 0x110#64 ∧ ptrVa 0xF0#64 + 16 ≤ ptrVa 0x100#64) ∧
    ((g.vget 4).toNat = 1 ∧ (g.pair 2).toNat % 4 = 0 ∧ (g.pair 0).toNat % min 4 16 = 0 ∧ 1008 + 4 * 1 ≤ team0.ssize ∧ (t.vget 5).toNat = 0) ∧
    (descKind tensor = 2 ∧ 960 % 16 = 0 ∧ 960 + tsTile tensor 0 * tsTile tensor 1 * tsTile tensor 2 * tsTile tensor 3 * 2 ^ descEsize tensor ≤
      team0.ssize ∧ descRo tensor = false ∧ ps ≠ []) ∧
    (one vs).m.locks.length + 2 ≤ 512 ∧ (∀ l ∈ pieceLines [⟨.glob 0x100#64, .spad 1008, 16⟩], team0.pendOf l < 15) ∧
    ¬(List.replicate 512 (⟨0, 0, 0, 0, false⟩ : Lock)).length + 1 ≤ 512 := by
  intro vs t g ps
  refine ⟨solo_one _, calm_one _, rfl, unique_one _, ?_⟩
  decide +kernel

/-- A copy with one line left, not begun and begun; one that has landed; one that a code has ended; a thread that waits at a copy
word. -/
def job (ps : List CopyPiece) (begun : Bool) : CopyJob :=
  { uid := 20, thread := 4, team := some 2, ctx := 0, core := 0, flight := 9, tensor := 0#12, ro := false, pieces := ps,
    src := [(0x100#64, 16)], begun := begun, wait := [], landed := [], bad := [], lines := [], wct := [], stalled := none, failed := none }
def copying (ps : List CopyPiece) (begun : Bool) : State :=
  let s := flying (oneM ptrs) (.copyEnd 20)
  { s with e := { s.e with copies := [job ps begun] } }

theorem owners_oneM {vs : List Word} : ∀ l, ((oneM vs).homeLine l).owner = none := fun _ => rfl

theorem wit_Copies_events : let p : CopyPiece := ⟨.glob 0x100#64, .spad 0, 16⟩
    let w : Thread := { thr 4 0 [] with status := .copyWait 2 [0] }
    (copying [p] true).flight? 9 = some (fl (.copyEnd 20)) ∧ ((copying [p] true).e.copies.find? fun j => j.uid == 20) = some (job [p] true) ∧
    (∃ s1 x, (copying [p] false).translate 0 none 0 0x100 false = (s1, .ok (0x100, x))) ∧ (copying [p] false).oneCopy ∧
    ((job [p] true).failed = none ∧ (copying [p] true).passedAt 0 (job [p] true).wait = true ∧ (copying [p] true).passedAt 0 [(0, 0)] = false ∧ (job [p] false).begun = false ∧ Memory.wf (copying [p] false).m = true) ∧
    (match (copying [p] true).copyRead (job [p] true) p.src (chunk p) with
      | (s1, .ok (bs, _)) => (match s1.copyWrite (job [p] true) p.dst bs false with
        | (s2, .ok _) => Memory.wf s2.m && decide (s2.e.copies = (copying [p] true).e.copies)
        | _ => false)
      | _ => false) = true ∧
    ((job [] true).pieces = [] ∧ (job [] true).lines = [] ∧ (copying [] true).homesPassed (job [] true).wct = true ∧
      (copying [] true).homesPassed [(3, 1)] = false) ∧
    ((run [w]).thread? 4 = some w ∧ (run [w]).m.locks.length + 2 ≤ 512 ∧ team0.pendOf 0 < 15 ∧
      ¬(List.replicate 511 (lockAt 0 64)).length + 2 ≤ 512) :=
  ⟨by decide +kernel, by decide +kernel, ⟨_, (page 0 0 false 0#2).x, Prod.ext rfl (by decide +kernel)⟩, List.nodup_nil, by decide +kernel,
    by decide +kernel, by decide +kernel, by decide +kernel⟩

/-- A copy moves bytes between a page that stands in the TLB and the scratchpad, and by an index list. -/
theorem wit_Copies_moves : let s := copying [] true
    let k := job [] true
    let parts (a : DWord) (n : Nat) (modifies : Bool) : Bool := match (s.engCheck 0 0 a n modifies 0#12).2 with
      | .ok ps => ps == [(a.toNat, n)]
      | .error _ => false
    s.thread? k.thread = some (thr 4 0 (regs ptrs)) ∧ k.team = some 2 ∧ s.team? 2 = some team0 ∧ team0.isolated = [] ∧
    s.isolates (thr 4 0 (regs ptrs)) = false ∧ swf 0#8 team0.spad = true ∧ Memory.wf s.m = true ∧
    (parts 0x100#64 16 false && parts 0x200#64 4 false && parts 0xFFC0#64 64 true && !isWindow 0xFFC0) = true ∧
    (match s.engLoad 0 0 0#12 0x200#64 4 with
      | (s2, .ok ix) => (s2.engCheck 0 0 (0x100#64 + BitVec.ofNat 64 (leNat ix.1 * 16 + 0)) 16 false 0#12).2 == .ok [(0x100, 16)]
      | _ => false) = true := by
  decide +kernel

/-- Identifiers at both ends of their range and beyond; fences and TIME with nothing before them; a release whose write
completion time is to come, and one whose has passed. -/
theorem wit_Fences : let t := thr 4 0 (regs [4096#32])
    let u := thr 4 0 (regs ptrs)
    let s (op : FlightOp) := flying (oneM ptrs) op
    (one [1#32]).ready c0.grd (.v 0#8) ((4#8, 2) :: (2#8, 2) :: bRuns (.v 0#8) 1) ∧
    (∀ t ∈ (one [4095#32]).x.threads, (one [4095#32]).active c0.grd t = true → 0 < ((one [4095#32]).valI t (.v 0#8)).toNat ∧
      ((one [4095#32]).valI t (.v 0#8)).toNat < 4096) ∧
    (oneH [4096#32]).solo c0.grd t ∧ (oneH [4096#32]).quiet t ∧ 4096 ≤ ((oneH [4096#32]).valI t (.v 0#8)).toNat ∧
    (∀ op ∈ [FlightOp.fence 0#2 5 false, .fence 1#2 1 false, .fence 1#2 2 false, .fence 2#2 6 false, .fence 2#2 2 true, .fence 3#2 0 false,
        .time 4],
      (s op).flight? 9 = some (fl op) ∧ (s op).thread? 4 = some u ∧ (s op).swappedOut u = false ∧ (s op).accessesDone (fl op) 6 = true ∧
      ((s op).earlier (fl op)).all (fun g => !g.busy) = true) ∧
    (oneM ptrs).oneCopy ∧ Memory.wf (oneM ptrs).m = true ∧
    ((s (.time 4)).now (coreDie u.core) ≤ 1 ∧ (0 : Nat) < { oneM ptrs with x := { (oneM ptrs).x with devTime := [1, 1, 1, 1] } }.now 0) := by
  intro t u s
  exact ⟨ready_one _ (by decide) _ _ (by decide), by decide +kernel, solo_oneH _, quiet_oneH _, by decide +kernel, by decide +kernel,
    List.nodup_nil, by decide +kernel⟩

/-- DISCT and the CACHEOPs of a range of one line, of none, and at the end of its page. -/
theorem wit_CacheEffects : let u := thr 4 0 (regs ptrs)
    let s (op : FlightOp) := flying (oneM ptrs) op
    (∀ op ∈ [FlightOp.disct 5#12, .cacheop 0 0x1FF#64 1 false, .cacheop 1 0x1FF#64 1 false, .cacheop 2 0x1FF#64 0 false],
      (s op).flight? 9 = some (fl op) ∧ (s op).thread? 4 = some u ∧ (s op).swappedOut u = false ∧ (s op).isolates u = false) ∧
    (ptrVa 0x1FF#64 / 256 * 256 = 0x100 ∧ (ptrVa 0x1FF#64 + 1 + 255) / 256 * 256 - 0x100 = 256 ∧ ptrOk 0x1FF#64 = true) ∧
    (ptrVa 0xFF00#64 / 256 * 256 % 65536 + 256 ≤ 65536) ∧ (oneM ptrs).oneCopy ∧
    (∀ op ∈ [0, 1, 2], ∃ s1 x, (s (.cacheop op 0x1FF#64 1 false)).translate 0 none 0 0x100 false = (s1, .ok (0x100, x))) ∧
    let h := (oneM ptrs).touchHome 1 (some 0) 5#12
    ((h.homeLine 1).ctx = some 0 ∧ (h.homeLine 1).tensor = 5#12 ∧ Memory.wf h.m = true) := by
  intro u s
  refine ⟨by decide +kernel, by decide +kernel, by decide +kernel, List.nodup_nil, fun op _ =>
    ⟨_, (page 0 0 false 0#2).x, Prod.ext rfl (show ((s (.time 4)).translate 0 none 0 0x100 false).2 =
      .ok (0x100, (page 0 0 false 0#2).x) by decide +kernel)⟩, by decide +kernel⟩

/-- A header of one level of one RGBA8 texel at the start of a page, and the texel after it. -/
def texDesc1 : BitVec 256 := buf 68 false false
def texState (vs : List Word) : State :=
  { withD (one vs) texDesc1 with m := { mapped with dram := [(62, 0x80#8), (64, 0xFF#8)] } }
def texOne : Tex := ⟨0, 1, 1, [(1, 1, 64)]⟩

/-- What an access of a thread comes to, from its checks. -/
theorem access_go {s s1 : State} {t : Thread} {p : DWord} {n : Nat} {e : BitVec 12} {a : Acc} (hc : s.checked t p n false true e 1 s1 a)
    (hk : s.ownTagFits t p = false) (ha : s1.ownTagFits t a.va = false) (k : State → Acc → Res State) :
    s.access t p n false true true e 1 0 k = k s1 a := by
  have f : s1.ownTag t a = a := by unfold State.ownTag; rw [ha]; rfl
  unfold State.access
  simp only [hk, Bool.not_false, Bool.and_true, hc.2.1, f, hc.2.2.1 rfl, hc.2.2.2]
  rfl

/-- The state after the checks of an access at `o` of the texture, and after it is read. -/
def texGone (s : State) (t : Thread) (o n : Nat) : State :=
  (s.threadCheck t (descBase texDesc1 + BitVec.ofNat 64 o) n false true 0#12 1).1
def texAfter (s : State) (t : Thread) (o n : Nat) : State := ((texGone s t o n).readAcc t (acc o 0#2 1) 0 n).1
def texBytes (s : State) (t : Thread) (o n : Nat) : List Byte := ((texGone s t o n).readAcc t (acc o 0#2 1) 0 n).2.bytes

/-- The checks admit the access, and the thread's team keeps no tags of its own. -/
def texFree (s : State) (t : Thread) (o n : Nat) : Bool :=
  admits s t (descBase texDesc1 + BitVec.ofNat 64 o) n false true 0#12 1 (acc o 0#2 1) &&
    !s.ownTagFits t (descBase texDesc1 + BitVec.ofNat 64 o) && !(texGone s t o n).ownTagFits t (acc o 0#2 1).va

theorem texAccess {t : Thread} {s : State} {o n : Nat} (h : texFree s t o n = true) (k : State → Acc → Res State) :
    s.access t (descBase texDesc1 + BitVec.ofNat 64 o) n false true true (descTensor texDesc1) 1 0 k =
      k (texGone s t o n) (acc o 0#2 1) := by
  simp only [texFree, Bool.and_eq_true, Bool.not_eq_true'] at h
  rw [show descTensor texDesc1 = 0#12 by decide +kernel]
  exact access_go (checked_of h.1.1) h.1.2 h.2 k

theorem texPart_one {t : Thread} {s : State} {o n : Nat} (h : texFree s t o n = true) (h0 : o + n ≤ 68)
    (hn : (descBase texDesc1 + BitVec.ofNat 64 o).toNat % n = 0) (k : State → ReadPart → Res State) :
    s.texPart t texDesc1 o n k = k (texGone s t o n) ⟨some (acc o 0#2 1), n, []⟩ := by
  unfold State.texPart
  rw [show descExtent texDesc1 = 68 by decide +kernel]
  dsimp only
  rw [if_neg (by omega), if_neg (by rw [hn]; decide), texAccess h]

theorem headPart_one {t : Thread} {s : State} {o n : Nat} (h : texFree s t o n = true) (k : State → List Byte → Res State) :
    s.headPart t texDesc1 o n k = k (texAfter s t o n) (texBytes s t o n) := by
  unfold State.headPart
  rw [texAccess h]
  rfl

/-- Texel (0, 0) of level 0 lies inside, (1, 0) outside; both sampling words; coordinates that are finite, and a NaN. -/
theorem wit_Textures : let vs : List Word := [0#32, 0#32, 0#32]
    let t := thr 4 0 (regs vs)
    let s := texState vs
    let s1 := texAfter s t 0 64
    let part : ReadPart := ⟨some (acc 64 0#2 1), 4, []⟩
    s.solo c0.grd t ∧ s.calm ∧ s.plain t ∧ t.inBlocks [(5#8, 4), (0#8, 3), (5#8, 4)] = true ∧
    t.inBlocks ([(16#8, 4), (0#8, 6)] ++ bRuns (.v 4#8) 1) = true ∧ s.srcI t (.v 4#8) = .ok 0#32 ∧
    s.texDesc t 0#5 = .ok texDesc1 ∧ s1.calm ∧ (∀ k, s.texHead t texDesc1 k = k s1 texOne) ∧ texOne.levels[0]? = some (1, 1, 64) ∧
    (texGone s1 t 64 4).calm ∧ (∀ k, s1.texPart t texDesc1 (texOne.pos 0 0 0) 4 k = k (texGone s1 t 64 4) part) ∧
    (∃ s2 a, s1.checked t (descBase texDesc1 + 64#64) 4 true false 0#12 1 s2 a) ∧ 64 + 4 ≤ descExtent texDesc1 ∧
    (∀ k, texParts t texDesc1 4 s1 ((levelTexels texOne 0 0 0 0 0 0 1).map Prod.fst) k = k (texGone s1 t 64 4) [part]) ∧
    (fp32 (t.vget 0)).isNan = false ∧ (fp32 0x7F800001#32).isNan = true := by
  intro vs t s s1 part
  have hd : (texGone s1 t 64 4).x.threads = [t] := by decide +kernel
  have hc : s1.x.threads = [t] := by decide +kernel
  have hr : ∀ k, s1.texPart t texDesc1 64 4 k = k (texGone s1 t 64 4) part :=
    texPart_one (by decide +kernel) (by decide) (by decide +kernel)
  refine ⟨⟨rfl, rfl, rfl⟩, calm_one vs, ⟨rfl, rfl, { team0 with d := List.replicate 32 texDesc1 }, rfl, rfl⟩, by decide +kernel,
    by decide +kernel, by decide +kernel, by decide +kernel, ?_, fun k => ?_, rfl, ?_, hr,
    ⟨_, acc 64 0#2 1, checked_of (by decide +kernel)⟩, by decide +kernel, fun k => ?_, by decide +kernel, by decide +kernel⟩
  · intro u hu; rw [hc] at hu; rw [List.mem_singleton.1 hu]; rfl
  · unfold State.texHead
    rw [show descExtent texDesc1 = 68 by decide +kernel]
    dsimp only
    rw [if_neg (by decide +kernel), show sectorParts (ptrVa (descBase texDesc1)) (min 64 68) = [(0, 64)] by decide +kernel]
    simp only [State.texHead.go]
    rw [headPart_one (by decide +kernel)]
    simp only [show texHeader ([] ++ texBytes s t 0 64 ++ List.replicate (64 - ([] ++ texBytes s t 0 64).length) 0#8) =
      some texOne by decide +kernel]
    rfl
  · intro u hu; rw [hd] at hu; rw [List.mem_singleton.1 hu]; rfl
  · rw [show (levelTexels texOne 0 0 0 0 0 0 1).map Prod.fst = [64] by decide +kernel]
    simp only [texParts, hr]

/-- A texel of 4 bytes that is still to be read, and one that is; of one of 16 bytes the second piece is left. -/
theorem wit_Textures_gather : let t := thr 4 0 (regs ptrs)
    let ok (p : ReadPart) : Bool :=
      let f := fl (.gather (.texel 0) 5 [p] [])
      let s := flying (oneM ptrs) f.op
      s.flight? 9 == some f && s.thread? 4 == some t && !s.swappedOut t && s.accessFirst f && (p.full || s.sameWord f == [f]) &&
        !s.lockedNow f t (acc 0 0#2 1) p.len false &&
        (p.left.all fun o => let r := s.readAcc t (acc 0 0#2 1) o.2 (min 8 (p.len - o.2)); !(acc 0 0#2 1).refused r.2.tag && !r.2.poison)
    let p (n : Nat) (got : List (Nat × Nat)) : ReadPart := ⟨some (acc 0 0#2 1), n, got⟩
    (p 4 [(0, 255)]).full = true ∧ (p 4 []).full = false ∧ (p 4 []).left ≠ [] ∧ (p 16 [(0, 7)]).left = [(8, 8)] ∧
    ok (p 4 [(0, 255)]) = true ∧ ok (p 4 []) = true ∧ ok (p 16 [(0, 7)]) = true := by
  decide +kernel
/-! Synchronisation -/

/-- Thread 4 arrives at a barrier where thread 5 is held, with its flight. -/
def atBarrier (rec : BitVec 4096) (h : Hold) : State :=
  let s := runL { lch with record := rec } [{ thr 4 0 (regs []) with wown := [(3, 7#32)] },
    { thr 5 1 (regs []) with status := .held h, wown := [(3, 9#32)] }]
  { s with x := { s.x with flights := [{ fl (.bar h true) with thread := 5 }] } }

/-- One thread held at barrier 1 of each kind; another that has not arrived. -/
theorem wit_Barriers : let t : Thread := { thr 4 0 (regs []) with wown := [(3, 7#32)] }
    let ok (s : State) (h : Hold) : Prop := s.solo c0.grd t ∧ s.calm ∧ s.teamOf t = some team0 ∧ (s.x.threads.map Thread.uid).Nodup ∧
      (s.x.teams.map Team.uid).Nodup ∧ (∀ f ∈ s.x.flights, f.thread ≠ t.uid ∧ f.uid < s.x.nextUid ∧ f.posted = false) ∧ s.det t = false ∧
      ((s.x.flights.filter fun f => match f.op with | .bar _ _ => true | _ => false).map Flight.thread).Nodup ∧
      t.inBlocks (bRuns (.s8 0#8) 1) = true ∧ s.srcI t (.s8 0#8) = .ok 0#32 ∧ (∀ k ∈ s.m.copies, k.ctx = t.ctx → k.mask = []) ∧
      (∀ u ∈ s.x.threads, u.uid ≠ t.uid → u.atBar = some h ∧ s.arrived u = true)
    let coop := wordRecord ||| 1#4096 <<< 123
    ok (atBarrier wordRecord (.bar 1 0)) (.bar 1 0) ∧ ok (atBarrier wordRecord .barc) .barc ∧ ok (atBarrier coop .barg) .barg ∧
    lrCoop coop = true ∧ lch.placed = lch.clusters ∧ (∀ l, two.launch? 1 = some l → l = lch) ∧
    (∃ u ∈ two.x.threads, u.uid ≠ 4 ∧ u.atBar = none) ∧ (∀ u ∈ two.x.threads, ∀ k, u.atBar = some (.bar 1 k) → k = 0) := by
  refine ⟨?_, ?_, ?_, by decide +kernel, by decide +kernel, fun l h => (Option.some.inj h).symm, by decide +kernel, fun u hu k h => ?_⟩
  · unfold State.solo State.calm; decide +kernel
  · unfold State.solo State.calm; decide +kernel
  · unfold State.solo State.calm; decide +kernel
  · have : ∀ u ∈ two.x.threads, u.atBar = none := by decide +kernel
    rw [this u hu] at h
    cases h

/-- The thread holds no section: sequence 0 of a key without an entry is granted, sequence 1 waits. It holds one: the section
ends, with a waiter of sequence 1 and without; its flights complete. -/
theorem wit_OrderedSections : let key : DWord := 0x20000000A#64
    let t (v : Word) := thr 4 0 (regs [0xA#32, 2#32, v])
    let th : Thread := { t 0#32 with secs := [⟨key, 0#32, true, []⟩] }
    let o : Thread := { thr 5 1 (regs []) with status := .parkedSec }
    let wait : Flight := { fl (.osenter key 1#32 3 false) with uid := 8, thread := 5 }
    let e (ws : List (Nat × Word × Nat)) : KeyEntry := { KeyEntry.fresh 1 0 key with held := true, holder := some 4, waiters := ws }
    let s (op : FlightOp) (ws : List (Nat × Word × Nat)) : State :=
      let r := run [th, o]
      { r with x := { r.x with flights := [fl op, wait] }, y := { State.reset.y with keys := [e ws] } }
    let base (v : Word) : Prop := (run [t v]).solo c0.grd (t v) ∧ (run [t v]).calm ∧ (t v).isReplay = false ∧
      (run [t v]).inShadow (t v) = none ∧ (∀ u ∈ (run [t v]).x.threads, u.uid = 4 → u = t v) ∧
      (t v).inBlocks ((4#8, 2) :: (0#8, 2) :: bRuns (.v 2#8) 1) = true ∧
      (run [t v]).srcI (t v) (.v 2#8) = .ok v ∧ (t v).pair 0 = key ∧ (t v).holds key = false ∧ (t v).secs.length < 4 ∧
      (KeyEntry.fresh 1 0 key).is 1 key = true
    base 0#32 ∧ base 1#32 ∧ (∀ v, (run [t v]).bringKey 0 1 0 key = some (run [t v], KeyEntry.fresh 1 0 key)) ∧
    ((KeyEntry.fresh 1 0 key).held = false ∧ (KeyEntry.fresh 1 0 key).next = 0#32 ∧ (KeyEntry.fresh 1 0 key).next ≠ 1#32) ∧
    th.holds key = true ∧ (run [th]).solo c0.grd th ∧ (run [th]).calm ∧
    (∀ op ∈ [FlightOp.osenter key 0#32 3 true, .osend key false false, .osend key true true, .osstat key true 5], ∀ ws ∈ [[], [(8, 1#32, 0)]],
      (s op ws).flight? 9 = some (fl op) ∧ (s op ws).acquireDone (fl op) = true ∧ (s op ws).accessesDone (fl op) 5 = true ∧
      (s op ws).swappedOut th = false ∧ (s op ws).passed th (fl op).wait = true ∧ th.hasPre key = false ∧ (s op ws).keyEntry 1 key = some (e ws) ∧ (s op ws).y.backing = []) ∧
    ((e []).holder = some 4 ∧ (e []).is 1 key = true ∧ (e [(8, 1#32, 0)]).next + 1#32 = 1#32 ∧ wait.uid ≠ 9 ∧ wait.thread ≠ 4 ∧
      (s (.osend key true true) []).flight? 8 = some wait ∧ (s (.osend key true true) []).thread? 5 = some o) ∧
    (∀ op ws, (s op ws).oneCopy ∧ Memory.wf (s op ws).m = true ∧ ∀ l, ((s op ws).homeLine l).owner = none) := by
  intro key t th o wait e s base
  refine ⟨?_, ?_, fun _ => rfl, by decide +kernel, by decide +kernel, ?_, ?_, by decide +kernel, by decide +kernel,
    fun _ _ => ⟨List.nodup_nil, rfl, fun _ => rfl⟩⟩
  · unfold base State.solo State.calm; decide +kernel
  · unfold base State.solo State.calm; decide +kernel
  · unfold State.solo; decide +kernel
  · unfold State.calm; decide +kernel

/-- A thread in no section, in the section that it names, and in four others. -/
theorem wit_OrderedSections_codes : let key : DWord := 0x20000000A#64
    let t (ks : List DWord) : Thread := { thr 4 0 (regs [0xA#32, 2#32]) with secs := ks.map fun k => ⟨k, 0#32, true, []⟩ }
    let four := [1#64, 2#64, 3#64, 4#64]
    (∀ ks ∈ [[], [key], four], (runL lchH [t ks]).solo c0.grd (t ks) ∧ (runL lchH [t ks]).quiet (t ks) ∧ (t ks).isReplay = false ∧
      (runL lchH [t ks]).inShadow (t ks) = none ∧ (runL lchH [t ks]).x.flights = [] ∧
      (t ks).inBlocks ((4#8, 2) :: (0#8, 2) :: bRuns (.v 2#8) 1) = true ∧ (runL lchH [t ks]).srcI (t ks) (.v 2#8) = .ok 0#32) ∧
    (t []).pair 0 = key ∧ (t []).holds key = false ∧ (t [key]).pair 0 = key ∧ (t [key]).holds key = true ∧
    (t four).pair 0 = key ∧ (t four).holds key = false ∧ 4 ≤ (t four).secs.length := by
  intro key t four
  refine ⟨fun ks hk => ⟨⟨rfl, rfl, rfl⟩, ⟨?_, traph_oneH (vs := []), rfl, rfl, rfl, rfl, fun _ hu _ => List.mem_singleton.1 hu⟩, ?_⟩,
    by decide +kernel⟩
  · intro u hu
    rw [List.mem_singleton.1 hu]
    rfl
  · fin_cases hk <;> decide +kernel

/-- A record of 512 bytes in one page, and one that ends in the next; a message of 256 bytes from the scratchpad's end, and an
empty one; a message handler; a record that enters an empty queue. -/
theorem wit_WorkCreation : let t := thr 4 0 (regs [0#32, 0#32, 0#32, 15#32])
    let s := oneM [0#32, 0#32, 0#32, 15#32]
    let m := thr 4 0 (regs [15#32, 256#32, 768#32, 143#32])
    let sm := runL { lch with msgTab := List.replicate 16 1#256 } [m]
    let h : Thread := { thr 4 0 (regs []) with kind := .message 30 }
    let part (n : Nat) : ReadPart := ⟨some (acc 0 0#2 5), 512, (List.range n).map fun i => (8 * i, i)⟩
    let lf (n : Nat) := fl (.launch [part n] 15 true)
    let g (n : Nat) := flying s (lf n).op
    let msg : Msg := {
      uid := 20, launch := 1, ctx := 0, thread := 4, sender := 0, target := 143, handler := 15, len := 0, payload := [],
      senderTeam := 0#32, name := 0#128, queued := true, group := some 50, pending := 0 }
    let clean (n : Nat) : Bool := !s.hostDown 0 && (sectorsOf 0 n).all fun j => !s.poisonSeen 0 0 (64 * j) 64 true
    s.solo c0.grd t ∧ s.calm ∧ s.inShadow t = none ∧
    (t.inBlocks ((0#8, 3) :: bRuns (.v 3#8) 1) = true ∧ s.srcI t (.v 3#8) = .ok 15#32 ∧ (t.pair 0).toNat % 64 = 0) ∧
    (∃ s1, s.threadCheck t (t.pair 0) 512 false true 0#12 5 = (s1, .go (acc 0 0#2 5))) ∧ clean 512 = true ∧
    ((s.threadCheck t 0xFF00#64 256 false true 0#12 5).2 = .go (acc 0xFF00 0#2 5) ∧
      ((s.threadCheck t 0xFF00#64 256 false true 0#12 5).1.threadCheck t (0xFF00#64 + BitVec.ofNat 64 256) (512 - 256) false true 0#12 5).2 =
        .go (acc 0x10000 1#2 5)) ∧
    sm.solo c0.grd m ∧ sm.calm ∧ sm.teamOf m = some team0 ∧
    (sm.srcI m (.v 3#8) = .ok 143#32 ∧ (sm.msgEntry 1 15).isSome = true ∧ 768 + 256 ≤ team0.ssize ∧ sm.absentLine team0 768 256 = none ∧
      team0.spadPoison 768 256 = false) ∧
    (run [h]).solo c0.grd h ∧ (run [h]).calm ∧ h.amdone = false ∧
    ((∀ n ∈ [0, 63, 64], (g n).flight? 9 = some (lf n) ∧ (g n).swappedOut t = false ∧ (g n).passed t (lf n).wait = true ∧
        ((g n).queue 0 15).length < 64 ∧ (g n).d.bells = []) ∧
      (∀ n ∈ [0, 63], (part n).full = false ∧ (part n).left ≠ [] ∧ (g n).accessFirst (lf n) = true ∧ (g n).sameWord (lf n) = [lf n] ∧
        (g n).lockedNow (lf n) t (acc 0 0#2 5) 512 false = false) ∧ (part 64).full = true ∧
      (g 63).passed t [(0, 0)] = false) ∧
    (msg.queued = true ∧ msg.group.isSome = true ∧ msg.pending = 0 ∧ (flying s (.amsend 20 true)).flight? 9 = some (fl (.amsend 20 true)) ∧
      (flying (run [h]) (.amdone true)).flight? 9 = some (fl (.amdone true))) := by
  intro t s m sm h part lf g msg clean
  refine ⟨solo_oneM _, calm_oneM _, by decide +kernel, by decide +kernel, ⟨_, Prod.ext rfl (by decide +kernel)⟩, by decide +kernel,
    by decide +kernel, ⟨rfl, rfl, rfl⟩, ?_, rfl, by decide +kernel,
    ⟨rfl, rfl, rfl⟩, ?_, rfl, by decide +kernel, by decide +kernel⟩
  all_goals unfold State.calm; decide +kernel

/-- A set of two members of which the thread is one, in generation 0; the generation that a WAITK names, and another. -/
theorem wit_ConvergenceRegisters : let t := thr 4 0 (regs [1#32, 3#32])
    let r : ConvReg := { ConvReg.zero with gmask := 1#32, mmask := 3#32 }
    let tm : Team := { team0 with k := List.replicate 16 r }
    let s (tm : Team) (op : Option FlightOp) : State := { one [1#32, 3#32] with
      x := { (one [1#32, 3#32]).x with teams := [tm], flights := (op.map fl).toList } }
    (one [1#32, 3#32]).solo c0.grd t ∧ (one [1#32, 3#32]).calm ∧ (one [1#32, 3#32]).teamOf t = some team0 ∧
    (∀ u ∈ (one [1#32, 3#32]).x.threads, u.uid = t.uid → u = t) ∧
    (t.inBlocks ((5#8, 1) :: (0#8, 1) :: bRuns (.v 1#8) 1) = true ∧ (one [1#32, 3#32]).srcI t (.v 1#8) = .ok 3#32 ∧ t.vget 0 ≠ 0#32) ∧
    (tm.kget 15).gen ≠ (3#32).setWidth 8 ∧ (tm.kget 15).gen = (0x100#32).setWidth 8 ∧ 15 < tm.k.length ∧
    (∀ op ∈ [FlightOp.kdecl 15 1#32 3#32, .sign 15 5, .waitk 15 3#8 false, .waitk 15 0#8 true], (s tm (some op)).flight? 9 = some (fl op) ∧
      (s tm (some op)).x.flights = [fl op] ∧ (s tm (some op)).accessesDone (fl op) 1 = true ∧ (s tm (some op)).acquireDone (fl op) = true ∧
      (s tm (some op)).heldSigners 2 15 = [] ∧ (s tm (some op)).team? 2 = some tm) ∧
    (tm.kget 15).has t = true ∧ (tm.kget 15).signedBy 4 = false ∧ (tm.kget 15).signed.length + 1 < (tm.kget 15).members.length ∧
    tm.swapped = none := by
  intro t r tm s
  exact ⟨solo_one _, calm_one _, rfl, unique_one _, by decide +kernel⟩
/-! Engines -/

theorem ok_of {ε α : Type} {x : Except ε α} (h : x.isOk = true) : ∃ v, x = .ok v := by
  cases x with
  | ok v => exact ⟨v, rfl⟩
  | error e => exact absurd h (by simp [Except.isOk, Except.toBool])

/-- A slot (R120) of E4M3 elements in blocks of 64, with a permutation table of one entry where `perm`. -/
def slot0 (perm : Bool) : Slot :=
  ⟨BitVec.ofNat 256 (fld ([(252, 3), (250, 2)] ++ if perm then [(246, 1), (240, 1)] else [])), 0#256, 0#256, List.replicate 128 0#16, true⟩

/-- A state of a launch with slots, of one team with 64 KiB of scratchpad, threads and flights. -/
def mat (tm : Team) (ts : List Thread) (fs : List FlightOp) : State :=
  let s := runL { lch with slots := slot0 false :: slot0 true :: List.replicate 6 (slot0 false) } ts
  { s with x := { s.x with teams := [tm], flights := fs.map fl } }
def team1 : Team := { team0 with ssize := 65536 }

/-- The first and the last quarter row of a tile; a packed tile that ends at the scratchpad's end; each flight of a tile. -/
theorem wit_AccumulatorTiles : let t := thr 4 0 (regs [0#32, 255#32, 61440#32])
    let s := mat team1 [t] []
    let f (op : FlightOp) := mat team1 [t] [op]
    let last := ((List.range 512).filter (· ≠ 511)).map fun i => (8 * i, i)
    s.solo c0.grd t ∧ s.calm ∧ s.teamOf t = some team1 ∧ 3 < team1.tiles.length ∧ t.inBlocks ((16#8, 16) :: bRuns (.v 1#8) 1) = true ∧
    (s.srcI t (.v 0#8) = .ok 0#32 ∧ s.srcI t (.v 1#8) = .ok 255#32 ∧ s.srcI t (.v 2#8) = .ok 61440#32) ∧
    (∃ k e, s.matSlot t 0 = .ok (k, e) ∧ (61440 % 256 = 0 ∧ 61440 + 512 * e.bits ≤ team1.ssize ∧ s.absentLine team1 61440 (512 * e.bits) = none ∧
      team1.spadPoison 61440 (512 * e.bits) = false ∧ 61184 + fmtqBytes k e ≤ team1.ssize ∧ s.absentLine team1 61184 (fmtqBytes k e) = none)) ∧
    (∀ op ∈ [FlightOp.accz 3, .accwr 3 63 3 (t.run 16 16), .accrd 3 16 63 3, .accld 3 0 61440 [], .accld 3 0 61440 last,
        .accst 3 0 61440 false none, .accst 3 0 0 true (some [(0, 7)])],
      (f op).flight? 9 = some (fl op) ∧ (f op).swappedOut t = false ∧ (f op).tileFree 2 3 9 = true ∧ (f op).spadFirst (fl op) = true) ∧
    (∀ op n, (f op).absentFor (fl op) team1 61440 n = false) ∧ (last.length + 1) * 8 = 512 * Fmt.e4m3.bits ∧
    (swf 0#32 (team1.tiles.getD 3 []) = true ∧ swf 0#8 team1.spad = true) ∧
    roundNum .e4m3 .rn (slotOvf (slot0 false).record) (fp32 (team1.tileElem 3 0)) = some 0 ∧
    (∃ bs, tileEncode (slot0 false) .fp16 true ((List.range 4096).map fun i => fp32 (team1.tileElem 3 i)) = some bs) := by
  intro t s f last
  refine ⟨⟨rfl, rfl, rfl⟩, ?_, rfl, by decide, by decide +kernel, by decide +kernel, ⟨slot0 false, .e4m3, rfl, by decide +kernel⟩,
    by decide +kernel, fun _ _ => ?_, by decide +kernel, by decide +kernel, by decide +kernel, ?_⟩
  · unfold State.calm; decide +kernel
  · exact List.any_eq_false.2 fun _ _ => Bool.false_ne_true
  · exact Option.isSome_iff_exists.1 (by decide +kernel)

/-- A set of 16 members: none has signed; all but the thread have, with SIGN. The operands name offset 0. -/
theorem wit_MatrixSigning : let r : ConvReg := { ConvReg.zero with gmask := 1#32, mmask := 0xFFFF#32 }
    let tm (sg : List (Nat × Bool)) : Team := { team1 with k := List.replicate 16 { r with signed := sg } }
    let t := thr 4 0 (List.replicate 80 0#32)
    let ts := t :: (List.range 15).map fun i => { thr (5 + i) (i + 1) [] with status := .boundary }
    let ok (sg : List (Nat × Bool)) : Prop := (mat (tm sg) ts []).solo ⟨63#6, false⟩ t ∧ (mat (tm sg) ts []).calm ∧
      (mat (tm sg) ts []).teamOf t = some (tm sg) ∧ ((tm sg).kget 15).members.length = 16 ∧ 0 + 16 * (64 / 16) ≤ t.v.length ∧
      64 + 4 ≤ t.v.length ∧ 15 < (tm sg).k.length ∧ 3 < (tm sg).tiles.length ∧ ((tm sg).kget 15).has t = true ∧
      ((tm sg).kget 15).signedBy 4 = false ∧ (mat (tm sg) ts []).heldSigners 2 15 = [] ∧ (∀ u ∈ ts, u.isReplay = false) ∧
      (ts.map Thread.uid).Nodup ∧ srising (mat (tm sg) ts []).e.latches = true ∧
      ∀ q ∈ ((tm sg).kget 15).members, ((mat (tm sg) ts []).memberThread 2 q).isSome = true
    let all := (List.range 15).map fun i => (5 + i, true)
    ok [] ∧ ok all ∧ ((tm []).kget 15).signed.length + 1 < 16 ∧ ((tm all).kget 15).signed.length + 1 = 16 ∧
    (mat (tm all) ts []).memberThread 2 (((tm all).kget 15).members.headD (0, 0)) = some t ∧
    (∃ o, (mat (tm all) ts []).matCheck (tm all) t ⟨0, true, 3, 0, 64, 15, false⟩ = .ok o) ∧
    ((mat (tm all) ts []).passesOf (coreEngine 0)).length < 64 := by
  intro r tm t ts ok all
  refine ⟨?_, ?_, by decide +kernel, by decide +kernel, by decide +kernel, ok_of (by decide +kernel), by decide +kernel⟩
  · unfold ok State.solo State.calm; decide +kernel
  · unfold ok State.solo State.calm; decide +kernel

/-- A pass and one of a lower priority; an entry that has waited 4096 clocks; the last pair of a permutation table. -/
theorem wit_MatrixPasses : let t := thr 4 0 (regs [126#32])
    let p : Pass := ⟨20, coreEngine 0, 2, 0, 4, [4], 0, 3, List.replicate 4096 0#8, List.replicate 4 0#32, 0#256, false, [], 1, 0, 0, t.site, none, none⟩
    let q : Pass := { p with uid := 21, tile := 2, prio := 0, stamp := 1 }
    let s := { mat team1 [t] [] with e := { State.reset.e with passes := [p, q] } }
    let js := ((List.range (passK .e4m3)).map fun i => (slot0 false).pos (0 + i) / slotBlk (slot0 false).record).eraseDups
    s.calm ∧ p ∈ s.e.passes ∧ s.passReady p = true ∧ (∀ u ∈ s.e.passes, u ≠ p → u.uid ≠ p.uid ∧ u.prio < p.prio) ∧ s.team? p.team = some team1 ∧
    s.thread? p.rank0 = some t ∧ s.matSlot t p.slot = .ok (slot0 false, .e4m3) ∧ (∀ u ∈ s.x.threads, ∀ j i, u.status ≠ .held (.matrix j i)) ∧
    p.tile < team1.tiles.length ∧ (∃ sa, s.scales t (slot0 false).scaleA false 0 1 js = (s, .ok sa)) ∧
    (q.since + 4096 ≤ 4096 ∧ q.prio < 7) ∧ s.solo c0.grd t ∧ t.team ≠ none ∧ t.inBlocks ((5#8, 1) :: bRuns (.v 0#8) 1) = true ∧
    s.matSlot t 1 = .ok (slot0 true, .e4m3) ∧ slotPerm (slot0 true).record = true ∧ s.srcI t (.v 0#8) = .ok 126#32 ∧
    126 < 128 * slotPlen (slot0 true).record := by
  intro t p q s js
  refine ⟨?_, List.Mem.head _, by decide +kernel, fun u hu hn => ?_, rfl, rfl, rfl, fun u hu j i => ?_, by decide, ⟨_, rfl⟩, by decide, ⟨rfl, rfl, rfl⟩,
    by decide, by decide +kernel, rfl, by decide +kernel, by decide +kernel, by decide +kernel⟩
  · unfold State.calm; decide +kernel
  · rcases List.mem_cons.1 hu with h | h
    · exact absurd h hn
    · rw [List.mem_singleton.1 h]; exact ⟨by decide, by decide⟩
  · rw [List.mem_singleton.1 hu]; exact fun h => nomatch h
/-- A request at an engine, for thread 4. -/
def req (i : Instr) (done : Option (List (Nat × Word))) : EqReq := ⟨20, 0, 4, 9, i, 0#64, 1#32, 0#32, 5, done, none, [], none, false⟩

/-- A record of EQOPEN at 0: two elements, PARENT 0x200, SIZE 0x100, no log. -/
def eqMem : MemState := { mapped with dram := [(4, 2#8), (17, 1#8), (25, 2#8)] }
def bind (opens : Nat) : Binding := ⟨0, 0, 1, 0, 0x200#64, 0x100#64, 0#64, 2, 0, opens, false, 0⟩

/-- The state with a request and bindings. -/
def eqState (r : EqReq) (bs : List Binding) : State :=
  let s := flying (oneM []) (.eqv 20)
  { s with m := eqMem, e := { s.e with eqReqs := [r], bindings := bs } }

/-- Two elements of which the second names the first; the request of an instruction that is done. -/
theorem wit_EquivalenceForest : let b := bind 1
    let tx : EqTx := ⟨0, 0, [(0x200, 0#32), (0x204, 0#32), (0x100, 2#32), (0x104, 1#32)], [], [], false, false⟩
    let par : Nat → Nat := fun _ => 0
    let size : Nat → Nat := fun i => 2 - i
    let t := thr 4 0 (regs [0x40#32, 0#32, 1#32])
    let s := one [0x40#32, 0#32, 1#32]
    let d := eqState (req (.find c0 5#8 0#8 2#8) (some [(5, 7#32)])) [b]
    let bad : EqReq := { req (.find c0 5#8 0#8 2#8) none with code := some ⟨.eqNotOpen, 0#8, 0#64, true, false⟩ }
    let coded := eqState bad [b]
    (b.n ≤ 2 ^ 31 ∧ 1 < b.n ∧ (∀ i j, i < 2 → j < 2 → eqAt b.parent i ≠ eqAt b.size j) ∧ (∀ i, i < 2 → par i ≤ i ∧ size i < 2 ^ 32) ∧
      ∀ i, i < 2 → ((tx.words.find? fun w => w.1 == (eqAt b.parent i).toNat).map Prod.snd) = some (BitVec.ofNat 32 (par i)) ∧
        ((tx.words.find? fun w => w.1 == (eqAt b.size i).toNat).map Prod.snd) = some (BitVec.ofNat 32 (size i))) ∧
    s.solo c0.grd t ∧ s.calm ∧ t.inBlocks ([(5#8, 1), (0#8, 2), (2#8, 1)] ++ bRuns (.v 2#8) 1) = true ∧ s.srcI t (.v 2#8) = .ok 1#32 ∧
    ((t.pair 0).toNat % 32 = 0 ∧ (1#32).toNat ≤ 1) ∧
    (d.flight? 9 = some (fl (.eqv 20)) ∧ (d.e.eqReqs.find? fun q => q.uid == 20) = some (req (.find c0 5#8 0#8 2#8) (some [(5, 7#32)])) ∧
      d.homesPassed [] = true ∧ d.swappedOut (thr 4 0 (regs [])) = false) ∧
    ((coded.e.eqReqs.find? fun q => q.uid == 20) = some bad ∧ bad.code = some ⟨.eqNotOpen, 0#8, 0#64, true, false⟩ ∧
      coded.flight? 9 = some (fl (.eqv 20)) ∧ coded.swappedOut (thr 4 0 (regs [])) = false) := by
  intro b tx par size t s d bad coded
  refine ⟨⟨by decide, by decide, ?_, ?_, ?_⟩, solo_one _, calm_one _, by decide +kernel, by decide +kernel, by decide +kernel, by decide +kernel,
    by decide +kernel⟩
  · intro i j hi hj; interval_cases i <;> interval_cases j <;> decide
  · intro i hi; interval_cases i <;> decide
  · intro i hi; interval_cases i <;> decide

/-- EQOPEN of a forest that is not bound, of one that is, and with no slot left; the last close and one before it; an operation
that gives its result, and one whose element is out of range. -/
theorem wit_EquivalenceEngines : let i : Instr := .eqopen c0 5#8 0#8
    let s (bs : List Binding) := eqState (req i none) bs
    let f : BitVec 256 := BitVec.ofNat 256 (leNat ((List.range 32).map fun k => (sget eqMem.dram k).getD 0#8))
    let full := (List.range 64).map fun h => { bind 1 with slot := h, launch := 7 }
    let ok (r : EqReq) (bs : List Binding) : Prop := ((eqState r bs).e.eqReqs.find? fun q => q.uid == r.uid) = some r ∧ r.open_ = true ∧
      (eqState r bs).eqNext r = true ∧ (eqState r bs).thread? r.thread = some (thr 4 0 (regs []))
    ok (req i none) [] ∧ ok (req i none) [bind 1] ∧ ok (req i none) full ∧
    (match (s []).eqRun 0 0 (eqBytes 0#64 32) with
      | (_, .ok (bs, _)) => BitVec.ofNat 256 (leNat bs) == f
      | _ => false) = true ∧
    (f.extractLsb' 1 7 = 0#7 ∧ (f.extractLsb' 32 32).toNat = 2 ∧ f.extractLsb' 64 64 = 0#64 ∧ f.extractLsb' 8 24 = 0#24 ∧
      f.extractLsb' 192 64 = 0x200#64 ∧ f.extractLsb' 128 64 = 0x100#64 ∧ f.getLsbD 0 = false) ∧
    (∀ h ∈ List.range 64, ∃ k ∈ full, k.engine = 0 ∧ k.slot = h) ∧ (∀ k ∈ full, ¬(k.launch = 1 ∧ k.parent = 0x200#64)) ∧
    ok (req (.eqclose c0 0#8) none) [bind 1] ∧ ok (req (.eqclose c0 0#8) none) [bind 2] ∧ ok (req (.equndo c0 0#8) none) [bind 1] ∧
    ok (req (.find c0 5#8 0#8 2#8) none) [bind 1] ∧
    (match (s [bind 1]).eqRun 0 0 ((bind 1).root true 0 >>= fun y => pure (BitVec.ofNat 32 y)) with
      | (s1, .ok (_, tx)) => (s1.eqCommit 0 0 tx.writes tx.poison).2.isOk
      | _ => false) = true ∧
    (match (s [bind 1]).eqRun 0 0 ((bind 1).root true 2 >>= fun y => pure (BitVec.ofNat 32 y)) with
      | (_, .error (.code _ _)) => true
      | _ => false) = true := by
  decide +kernel

/-- A ray. -/
def ray0 (stage : RayStage) (ticket : Option Nat) : Ray :=
  { uid := 20, thread := 4, launch := 1, ctx := 0, core := 0, site := (thr 4 0 []).site, name := 0#128, ray := List.replicate 8 0#32, root := 0#64,
    flags := 0#32, user := 0#32, ticket := ticket, stage := stage, hit := hitWords none, ret := 0#32, ran := false, restart := false, code := none,
    wct := [], target := 0x100#64, chans := [1#32], couch := 0, none := false, stalled := none, came := 0, log := [] }
def raying (t : Thread) (r : Ray) (op : FlightOp) : State :=
  let s := flying (run [t]) op
  { s with m := mapped, e := { s.e with rays := [r] } }

/-- The first and the last ticket; targets aligned to their size; tickets in flight and done; a shader thread. -/
theorem wit_RayInstructions : let v : List Word := List.replicate 8 0#32 ++ [0x40#32, 0#32, 0#32, 0#32, 15#32]
    let t := thr 4 0 (regs v)
    let t15 : Thread := { t with tickets := (List.range 15).map fun k => (k, 30 + k) }
    let t16 : Thread := { t with tickets := [(15, 20)] }
    let h : Thread := { t with kind := .shader 20 }
    let w := raying t16 (ray0 .done none) (.trwait 15 16)
    (one v).solo c0.grd t ∧ (one v).calm ∧ (∀ u ∈ (one v).x.threads, u.uid = t.uid → u = t) ∧ (run [t15]).solo c0.grd t15 ∧ (run [t15]).calm ∧
    (t.inBlocks [(16#8, 1), (0#8, 8), (8#8, 4)] = true ∧ t.vget 10 &&& 0xFF00F0E0#32 = 0#32 ∧ lnBounce t.name ≠ 31 ∧ (t.pair 8).toNat % 64 = 0 ∧
      (∀ z ∈ t15.tickets, z.1 ≠ 15) ∧ (∀ j ∈ List.range 15, ∃ z ∈ t15.tickets, z.1 = j)) ∧
    (t.inBlocks [(0#8, 8), (8#8, 4), (16#8, 4)] = true ∧ (t.pair 10).toNat % 16 = 0) ∧
    (t.inBlocks ((16#8, 8) :: bRuns (.v 12#8) 1) = true ∧ (one v).srcI t (.v 12#8) = .ok 15#32 ∧ (∃ z ∈ t16.tickets, z.1 = 15)) ∧
    (raying h (ray0 .done none) (.trret 0#32)).solo c0.grd h ∧
    ((raying h (ray0 .done none) (.trret 0#32)).ray? 20 = some (ray0 .done none) ∧ w.flight? 9 = some (fl (.trwait 15 16)) ∧
      (t16.tickets.find? fun z => z.1 == 15) = some (15, 20) ∧ w.acquireDone (fl (.trwait 15 16)) = true ∧
      w.passed t16 (ray0 .done none).wct = true ∧ (raying t (ray0 .flying none) (.trace 20 16 0)).flight? 9 = some (fl (.trace 20 16 0))) := by
  intro v t t15 t16 h w
  refine ⟨solo_one _, calm_one _, unique_one _, ⟨rfl, rfl, rfl⟩, ?_, by decide +kernel, by decide +kernel, by decide +kernel, ⟨rfl, rfl, rfl⟩,
    by decide +kernel⟩
  unfold State.calm; decide +kernel

/-- The checks of a part of a run admit it. -/
def partOk (s : State) (t : Thread) (p : DWord) (n : Nat) (a : Acc) : Bool :=
  admits s t p n false true 0#12 1 a && !s.ownTagFits t p && !(s.threadCheck t p n false true 0#12 1).1.ownTagFits t a.va
def partGone (s : State) (t : Thread) (p : DWord) (n : Nat) : State := (s.threadCheck t p n false true 0#12 1).1

theorem part_go {s : State} {t : Thread} {p : DWord} {q : Nat × Nat} {a : Acc} (h : partOk s t (p + BitVec.ofNat 64 q.1) q.2 a = true)
    (k : State → List ReadPart → Res State) (qs : List (Nat × Nat)) (ps : List ReadPart) :
    State.runParts.go t p k s (q :: qs) ps = State.runParts.go t p k (partGone s t (p + BitVec.ofNat 64 q.1) q.2) qs (ps ++ [⟨some a, q.2, []⟩]) := by
  simp only [partOk, Bool.and_eq_true, Bool.not_eq_true'] at h
  rw [State.runParts.go, access_go (checked_of h.1.1) h.1.2 h.2]
  rfl

theorem run1 {s : State} {t : Thread} {p : DWord} {n : Nat} {q : Nat × Nat} {a : Acc} (hp : sectorParts (ptrVa p) n = [q])
    (h : partOk s t (p + BitVec.ofNat 64 q.1) q.2 a = true) (g : State → List ReadPart → Res State)
    (hg : ∃ v, g (partGone s t (p + BitVec.ofNat 64 q.1) q.2) [⟨some a, q.2, []⟩] = .ok v) :
    s.runParts t p n g = g (partGone s t (p + BitVec.ofNat 64 q.1) q.2) [⟨some a, q.2, []⟩] := by
  obtain ⟨v, hv⟩ := hg
  rw [State.runParts, hp, part_go h, State.runParts.go, List.nil_append, hv]

theorem run2 {s s1 : State} {t : Thread} {p : DWord} {n : Nat} {q r : Nat × Nat} {a b : Acc} (hp : sectorParts (ptrVa p) n = [q, r])
    (h : partOk s t (p + BitVec.ofNat 64 q.1) q.2 a = true) (h1 : partGone s t (p + BitVec.ofNat 64 q.1) q.2 = s1)
    (h2 : partOk s1 t (p + BitVec.ofNat 64 r.1) r.2 b = true) (g : State → List ReadPart → State) :
    s.runParts t p n (fun u l => .ok (g u l)) =
      .ok (g (partGone s1 t (p + BitVec.ofNat 64 r.1) r.2) [⟨some a, q.2, []⟩, ⟨some b, r.2, []⟩]) := by
  subst h1
  rw [State.runParts, hp, part_go h, part_go h2, State.runParts.go, List.nil_append, List.singleton_append]

/-- Nodes of 128 and 48 bytes at 0, and the words of a ray; a ray along x that leaves a box of no width as it enters it, and
one that starts on a box's plane with no direction along it; two boxes entered at once; a triangle that a ray meets at its corner. -/
theorem wit_NodeTests : let t := thr 4 0 (regs [])
    let s := oneM []
    let s1 := partGone s t (0#64 + 0#64) 64
    let s2 := partGone s1 t (0#64 + 64#64) 64
    let p (o n : Nat) (got : List (Nat × Nat)) : ReadPart := ⟨some (acc o 0#2 1), n, got⟩
    let got (n : Nat) : List (Nat × Nat) := (List.range (n / 8)).map fun i => (8 * i, i)
    s.solo c0.grd t ∧ s.calm ∧ s2.calm ∧ (∀ n ∈ [4, 5, 8], t.inBlocks [(8#8, n), (16#8, 8), (0#8, 2)] = true) ∧ (t.pair 0).toNat % 64 = 0 ∧
    (∀ g : State → List ReadPart → State, s.runParts t (t.pair 0) 128 (fun u l => .ok (g u l)) = .ok (g s2 [p 0 64 [], p 64 64 []])) ∧
    (∃ s3, s3.calm ∧ ∀ g : State → List ReadPart → State, s.runParts t (t.pair 0) 48 (fun u l => .ok (g u l)) = .ok (g s3 [p 0 48 []])) ∧
    (∀ what ∈ [Gathered.box (List.replicate 8 0#32), .xform (List.replicate 8 0#32), .tri true false (List.replicate 8 0#32)],
      ∀ ps ∈ [[p 0 64 (got 64), p 64 64 (got 64)], [p 0 48 (got 48)]],
      (flying s (.gather what 8 ps [])).flight? 9 = some (fl (.gather what 8 ps [])) ∧ (flying s (.gather what 8 ps [])).swappedOut t = false ∧
        ps.all ReadPart.full = true) ∧
    (List.replicate 8 0#32).length = 8 ∧ (∀ k, k < 12 → finiteNum (recNum (List.replicate 128 0#8) k) = true) ∧
    (∀ k, k < 8 → finiteNum (rayNum (List.replicate 8 0#32) k) = true) ∧
    let one : Word := 0x3F800000#32
    let ray (o : Word) : List Word := [o, 0#32, 0#32, 0#32, one, 0#32, 0#32, 0x7F800000#32]
    let box (i : Nat) : Num := fp32 ([0#32, 0#32, 0#32, 0#32, one, one].getD i 0#32)
    (boxEnter (ray 0#32) box).isSome = true ∧ boxEnter (ray one) box = none ∧
      boxEnter ([0#32, 0x40000000#32] ++ (ray 0#32).drop 2) box = none ∧
      boxEnter (0x7FC00000#32 :: (ray 0#32).drop 1) box = none := by
  intro t s s1 s2 p got
  have hp : t.pair 0 = 0#64 := by decide +kernel
  refine ⟨solo_oneM _, calm_oneM _, ?_, by decide +kernel, by decide +kernel, fun g => ?_,
    ⟨partGone s t (0#64 + 0#64) 48, ?_, fun g => ?_⟩, by decide +kernel, rfl, ?_, ?_, by decide +kernel⟩
  · unfold State.calm; decide +kernel
  · rw [hp]
    exact run2 (q := (0, 64)) (r := (64, 64)) (s1 := s1) (by decide +kernel) (a := acc 0 0#2 1) (b := acc 64 0#2 1) (by decide +kernel) rfl (by decide +kernel) g
  · unfold State.calm; decide +kernel
  · rw [hp]
    exact run1 (q := (0, 48)) (by decide +kernel) (a := acc 0 0#2 1) (by decide +kernel) _ ⟨_, rfl⟩
  · decide +kernel
  · decide +kernel

/-- A triangle in the plane z = 0 with corners at the origin, (1,0,0) and (0,1,0), met at its corner from z = -1 and missed beyond it;
two boxes that a ray enters at one point, before one that it misses. -/
theorem wit_NodeTests_hits :
    let one : Word := 0x3F800000#32
    let words (ws : List Word) (n : Nat) : List Byte := (ws ++ List.replicate (n - ws.length) 0#32).flatMap fun w => loBytes 4 (w.zeroExtend 64)
    let leaf := words [0#32, 0#32, 0#32, one, 0#32, 0#32, 0#32, one, 0#32] 12
    let ray (x : Word) : List Word := [x, 0#32, 0xBF800000#32, 0#32, 0#32, 0#32, one, 0x7F800000#32]
    let cube : List Word := [0#32, 0#32, 0#32, one, one, one]
    let far : List Word := [one, one, one, one, one, one]
    let node := words (far ++ cube ++ cube ++ cube ++ [0x40#32, 0x10000000#32, 0x40#32, 0x10000000#32, 0x40#32, 0x10000000#32]) 32
    (triHit (ray 0#32) leaf false false 0).isSome = true ∧ (triHit (ray one) leaf false false 0).isSome = true ∧
    triHit (ray 0x40000000#32) leaf false false 0 = none ∧
    ((triHit (ray 0#32) leaf true false 0).isSome = true ∨ (triHit (ray 0#32) leaf false true 0).isSome = true) ∧
    (nodeEnter (ray 0#32) node 0 = none ∧ (nodeEnter (ray 0#32) node 1).isSome = true ∧
      nodeEnter (ray 0#32) node 1 = nodeEnter (ray 0#32) node 2 ∧ nodeEnter (ray 0#32) node 3 = none) ∧
    ((boxWords (ray 0#32) node).getD 0 0#32) = 0x0002C906#32 := by
  decide +kernel

/-- A void ray and one that walks a node; a shadow ray whose addition is admitted; a shader that fits on another core, and one
whose invocation comes after another. -/
theorem wit_RayEvents : let t := thr 4 0 (regs [])
    let r (stage : RayStage) (tk : Option Nat) := ray0 stage tk
    let s (r : Ray) : State := { raying t r (.sleep 0) with x := { (run [t]).x with flights := [] } }
    let up : List Word := List.replicate 4 0#32 ++ List.replicate 3 0x3F800000#32 ++ [0x3F800000#32]
    let walk (k : Ray) : Bool := (s k).rayGoes k && match (s k).travRun k.log none (k.traverse t) with
      | (_, _, .ok _) => true
      | _ => false
    let q : Ray := { r (.shader false) (some 0) with uid := 21, came := 7 }
    let sh : State := { s (r (.shader false) (some 0)) with
      e := { State.reset.e with rays := [r (.shader false) (some 0), q] }
      d := { (s (r .flying none)).d with launches := [{ lch with hitTab := [1#256 <<< 128 ||| 0x40#256] }] } }
    let z := s (r .flying none)
    (z.plain t ∧ ∀ l, (z.homeLine l).owner = none) ∧
    ((s (r .flying (some 0))).ray? 20 = some (r .flying (some 0)) ∧ (s (r .flying (some 0))).thread? 4 = some t) ∧
    (walk (r .flying (some 0)) = true ∧ walk { r .flying (some 0) with ray := up } = true ∧ walk (r .flying none) = true) ∧
    (match z.shadowChecks t (r .flying none) with
      | (s2, .ok (as, none)) => s2.shadowFirst t (r .flying none) as && as.length == 1
      | _ => false) = true ∧
    (z.det t = false ∧ isWindow 0x100 = false ∧ 0x100 % 4 = 0 ∧ Memory.wf z.m = true ∧ z.m.copies = [] ∧ (z.ctx 0).killing = false) ∧
    (rayNum (List.replicate 8 0#32) 7).lt (rayNum (List.replicate 8 0#32) 3) = false ∧
    (sh.ray? 21 = some q ∧ (sh.ctx 0).frozen = false ∧ sh.shaderEntry 1 0#32 false = some (0x40#64, 1) ∧
      sh.groupFits 143 7 1 (sh.lweight 1) = some 0 ∧ (sh.e.rays.map Ray.uid).Nodup ∧ (∀ t ∈ sh.x.threads, t.uid < sh.x.nextUid) ∧
      (∀ k ∈ sh.e.rays, k.came = q.came → k = q) ∧ (sh.e.rays.filter fun k => decide (k.came < q.came)).length = 1) := by
  intro t r s up walk q sh z
  exact ⟨⟨⟨rfl, rfl, team0, rfl, rfl⟩, fun _ => rfl⟩, by decide +kernel⟩
/-- A group table at 0 whose first group has `n` devices, and a record of COLL at 64 that adds one FP32 number. -/
def collMem (n : Nat) : MemState := { mapped with dram := [(0, 1#8), (1, BitVec.ofNat 8 (n - 1)), (108, 1#8)].filter fun p => p.2 != 0#8 }
def collRec : BitVec 512 := BitVec.ofNat 512 (fld [(352, 1)])
def collJob (entered : Bool) (status : Option Nat) : CollJob :=
  ⟨20, 4, 0, 0, (thr 4 0 []).site, collRec, none, 0#64, status, entered, none, []⟩
def colling (t : Thread) (n : Nat) (j : CollJob) (op : FlightOp) (wait : Sparse Nat) : State :=
  let s := run [t]
  { s with m := collMem n, x := { s.x with flights := [{ fl op with wait := wait }], devTime := [2, 0, 0, 0] }, e := { s.e with colls := [j] }, b := { s.b with links := 1#12 } }

/-- The first ticket and the last; a collective that releases, that enters, and whose ticket is a repetition; COLLW at
status 1, at status 0 before its release work and after it; peers that agree and one that does not; a link that is down. -/
theorem wit_Collectives : let vs : List Word := [64#32, 0#32, 4#32, 7#32]
    let t := thr 4 0 (regs vs)
    let t7 : Thread := { t with ctickets := (List.range 7).map fun k => (k, 30 + k) }
    let tw : Thread := { t with ctickets := [(7, 20)] }
    let s : State := { one vs with m := collMem 1 }
    let r0 := partGone s t (64#64 + 0#64) 64
    let ps : List ReadPart := [⟨some (acc 64 0#2 1), 64, []⟩]
    let r1 := r0.readAcc t (acc 64 0#2 1) 0 64
    let peer (r : BitVec 512) : PeerPart := ⟨r, [.fin false 0 0], none⟩
    let cl (status : Option Nat) (entered : Bool) (begun : Bool) (wait : Sparse Nat) (ok : State → Flight → CollJob → Bool) : Bool :=
      let f : Flight := { fl (.coll 20 16 0 begun) with wait := wait }
      let j := collJob entered status
      let u := colling t 1 j f.op wait
      u.flight? 9 == some f && u.coll? 20 == some j && !u.swappedOut t && ok u f j
    let cw (status : Nat) (begun : Bool) (ok : State → Flight → Bool) : Bool :=
      let f := fl (.collw 7 16 begun)
      let j := collJob true (some status)
      let u := colling tw 1 j f.op []
      u.flight? 9 == some f && u.coll? 20 == some j && !u.swappedOut tw && u.m.locks.isEmpty &&
        (tw.ctickets.find? fun z => z.1 == 7) == some (7, 20) && ok u f
    s.solo c0.grd t ∧ s.calm ∧ r1.1.calm ∧ s.plain t ∧ (∀ u ∈ s.x.threads, u.uid = t.uid → u = t) ∧
    (∀ g : State → List ReadPart → Res State, (∃ v, g r0 ps = .ok v) → s.runParts t (t.pair 0) 64 g = g r0 ps) ∧
    (∃ bs, r0.readNow t ps = .ok (r1.1, bs) ∧ bs = r1.2.bytes) ∧
    (∃ slot, r1.1.collCheck t (BitVec.ofNat 512 (leNat r1.2.bytes)) = .ok slot) ∧
    (t.inBlocks ([(16#8, 8), (0#8, 2), (2#8, 1)] ++ bRuns (.v 3#8) 1) = true ∧ s.srcI t (.v 3#8) = .ok 7#32 ∧
      (∀ z ∈ t7.ctickets, z.1 ≠ 7) ∧ (∀ j ∈ List.range 7, ∃ z ∈ t7.ctickets, z.1 = j) ∧ (t.pair 0).toNat % 64 = 0 ∧
      r1.1.x.threads = s.x.threads ∧ BitVec.ofNat 512 (leNat r1.2.bytes) = collRec ∧ (∃ z ∈ tw.ctickets, z.1 = 7) ∧ s.x.flights = []) ∧
    ((t.vget 2).toNat % 4 = 0 ∧ (s.engCheck 0 0 (t.pair 0) 4 true 0#12).2.isOk = true) ∧
    (cl none false false [] (fun u f _ => u.accessesDone f 5) && cl (some 2) false false [] (fun _ _ _ => true) &&
      cl (some 2) false true [] (fun _ _ _ => true) && cl none false true [(0, 1)] (fun u f j => u.passed t f.wait && decide (u.m.locks.length + j.ranges.length ≤ 512))) = true ∧
    (cw 1 false (fun _ _ => true) && cw 0 false (fun u f => u.accessesDone f 6 && u.acquireDone f) &&
      cw 0 true fun u f => u.passed tw f.wait && u.homesPassed [] && u.passed tw []) = true ∧
    (let u (n : Nat) := colling t n (collJob true none) (.sleep 9) [];
      (u 2).coll? 20 = some (collJob true none) ∧ (u 2).residFirst (collJob true none) = true ∧ (u 2).groupLinks (collGroup collRec) = (2, true) ∧
      collAgrees (peer (collRec ||| 1#512 <<< 300)).record collRec = false ∧ collAgrees (peer collRec).record collRec = true ∧
      (peer collRec).vals.length = collCount collRec ∧ ((u 2).contribution (collJob true none)).2.isOk = true ∧
      ((u 2).thread? 4).isSome = true ∧ State.groupLinks { (u 2) with b := { (u 2).b with links := 0#12 } } (collGroup collRec) = (2, false)) := by
  intro vs t t7 tw s r0 ps r1 peer cl cw
  have hp : t.pair 0 = 64#64 := by decide +kernel
  refine ⟨⟨rfl, rfl, rfl⟩, calm_one vs, ?_, ⟨rfl, rfl, team0, rfl, rfl⟩, unique_one vs, fun g hg => ?_, ⟨r1.2.bytes, ?_, rfl⟩, ok_of (by decide +kernel), ?_⟩
  · unfold State.calm; decide +kernel
  · rw [hp]
    exact run1 (q := (0, 64)) (by decide +kernel) (a := acc 64 0#2 1) (by decide +kernel) g hg
  · have h : (acc 64 0#2 1).refused r1.2.tag = false := by decide +kernel
    simp only [State.readNow, ps, List.foldl_cons, List.foldl_nil]
    show (if (acc 64 0#2 1).refused r1.2.tag then (.error (Cause.at .tagMismatch (acc 64 0#2 1).va) : Res (State × List Byte)) else _) = _
    rw [h]
    rfl
  · decide +kernel

/-- A residual buffer of no bytes, one that is yet to be locked, locked, and written; a result that lands, without a residual
buffer and with one; the values of a reduction. -/
theorem wit_Collectives_lands : let t := thr 4 0 (regs [])
    let st (n : Nat) (w : Option (Sparse Nat)) (locks : List Lock) : State :=
      let s := flying (oneM []) (.resid 3 [(0x100, 8)] 0x100#64 n w)
      { s with m := { s.m with locks := locks } }
    let ok (n : Nat) (w : Option (Sparse Nat)) (locks : List Lock) : Bool :=
      let s := st n w locks
      s.flight? 9 == some (fl (.resid 3 [(0x100, 8)] 0x100#64 n w)) && s.thread? 4 == some t && !s.swappedOut t && s.e.colls.isEmpty &&
        Memory.wf s.m
    let u := oneM []
    let ys := [fp32 0x3F800000#32]
    let lands (w : Bool) : Bool :=
      let r := u.engCheck 0 0 (collDst collRec) 4 true 0#12
      let q := if w then r.1.engStore 0 0 0#12 64#64 (ys.flatMap fun x => natBytes 4 (toFp32 x).toNat) false else (r.1, .ok [])
      r.2.isOk && q.2.isOk && (q.1.engStore 0 0 0#12 (collDst collRec) (natBytes 4 0x3F800000) false).2.isOk
    (ok 0 none [] && ok 8 none [] && ok 8 none [lockOf 9 0 0x100#64 8 true] && ok 8 (some []) [lockOf 9 0 0x100#64 8 true]) = true ∧
    (∀ l, ((st 8 none [lockOf 9 0 0x100#64 8 true]).homeLine l).owner = none) ∧
    (isWindow 0x100 = false ∧ (st 8 (some []) []).homesPassed [] = true) ∧
    (collDfmt collRec = some .fp32 ∧ (ys.map fun y => roundNum .fp32 .rn 1 y) = [0x3F800000].map some ∧ fmtBytes .fp32 = 4 ∧
      lands false = true ∧ lands true = true) ∧
    (∀ p ∈ [ys], p.length = 1 ∧ ∀ v ∈ p, v.isNan = false ∧ v.isInf = false) ∧ floorLog2 (fp32 0x3F800000#32).abs.toRat = 0 := by
  intro t st ok u ys lands
  exact ⟨by decide +kernel, fun _ => rfl, by decide +kernel⟩

/-- A privileged context and one that is not; the first and the last context; each flight of the group. -/
theorem wit_SystemInstructions : let vs : List Word := [0#32, 0#32, 63#32, 15#32]
    let t := thr 4 0 (regs vs)
    let user (s : State) : State := { s with d := { s.d with ctxs := s.d.ctxs.set 0 { Ctx.reset with enabled := true } } }
    (one vs).solo c0.grd t ∧ (one vs).calm ∧ (one vs).teamOf t = some team0 ∧ (∀ u ∈ (one vs).x.threads, u.uid = t.uid → u = t) ∧
    (user (oneH vs)).quiet t ∧ (user (oneH vs)).solo c0.grd t ∧
    t.inBlocks ([(16#8, 8), (0#8, 2), (2#8, 1)] ++ bRuns (.v 3#8) 1) = true ∧ (one vs).srcI t (.v 3#8) = .ok 15#32 ∧
    (SReg.ofCode 0#8 = some .tid ∧ SReg.ofCode 14#8 = some .ctx ∧ SReg.ofCode 12#8 = some .time) ∧
    ((one vs).ctx 0).priv = true ∧ ((t.vget 2).toNat ≤ 63 ∧ ptrVa (t.pair 0) % 65536 = 0 ∧ 15 ≠ t.ctx ∧ t.ctx < (one vs).d.ctxs.length) ∧
    ((user (oneH vs)).ctx 0).priv = false ∧
    (∀ op ∈ [FlightOp.setsr false 63#32, .tlbinv 0 65536 63, .lpsweep 0, .ctxload 63, .ctxsave 63 false, .ctxsave 63 true],
      (flying (oneM vs) op).flight? 9 = some (fl op) ∧ (flying (oneM vs) op).swappedOut t = false ∧
      (∀ u ∈ (flying (oneM vs) op).x.teams, u.ctx = 63 → u.swapped ≠ none) ∧ (∀ u ∈ (flying (oneM vs) op).x.threads, u.ctx = 63 → u.team ≠ none) ∧
      (flying (oneM vs) op).e.tiles = []) := by
  intro vs t user
  exact ⟨solo_one _, calm_one _, rfl, unique_one _, ⟨calm_oneH vs, traph_oneH (vs := vs), rfl, rfl, rfl, rfl, unique_one vs⟩, ⟨rfl, rfl, rfl⟩,
    by decide +kernel⟩

/-- TRAP with a handler and without; a trapped thread whose handler fits; a launch trap; a handler's RETT to a target that is
aligned, to one that is not, and for a launch trap; its return with a flight before it and with none; an EXIT. -/
theorem wit_Traps : let t := thr 4 0 (regs [1#32])
    let r : TrapRec := { report := 0#512, fall := 0x10008#64, handler := none, freezing := false, suppressed := false, fresh := false, arrival := 0 }
    let x : Thread := { thr 5 0 (regs []) with trap := some r, group := 8 }
    let h : Thread := { thr 4 0 (regs [0x40#32, 0#32, 0x44#32, 0#32]) with kind := .handler 5, team := none }
    let z : Thread := { h with kind := .launchTrap 1 }
    let sx : State := runL lchH [x]
    let sl : State := runL { lchH with traps := [0#512] } []
    let sh (h : Thread) (fs : List Flight) : State := { runL lchH [h, { x with status := .held .barc }] with
      x := { (runL lchH [h, { x with status := .held .barc }]).x with flights := fs } }
    let rf := fl (.rett 0x40#64)
    (one [1#32]).solo c0.grd t ∧ (one [1#32]).calm ∧ (∀ u ∈ (one [1#32]).x.threads, u.uid = t.uid → u = t) ∧ (oneH [1#32]).solo c0.grd t ∧
    ((sh h []).solo c0.grd h ∧ (sh h []).calm ∧ (sh z []).solo c0.grd z ∧ (sh z []).calm) ∧
    ((one [1#32]).x.flights = [] ∧ t.isHandler = false ∧ t.isReplay = false ∧ t.ctx < (one [1#32]).d.ctxs.length ∧
      (one [1#32]).srcI t (.v 0#8) = .ok 1#32 ∧ (one [1#32]).traph t = 0#64 ∧ (oneH [1#32]).traph t ≠ 0#64) ∧
    (sx.thread? 5 = some x ∧ (sx.handlersDue 1).head? = some x ∧ (sx.ctx 0).frozen = false ∧ sx.groupFits 0 7 2 (sx.lweight 1) = some 0 ∧ sx.preferCore x 0 = true ∧
      (∀ u ∈ sx.x.threads, u.uid < sx.x.nextUid) ∧ (sx.x.threads.map Thread.uid).Nodup) ∧
    (sl.thread? 1 = none ∧ sl.launch? 1 = some { lchH with traps := [0#512] } ∧ (sl.ctx 0).frozen = false ∧
      sl.groupFits 143 7 2 (sl.lweight 1) = some 0) ∧
    (h.isHandler = true ∧ h.inBlocks [(0#8, 2)] = true ∧ h.inBlocks [(2#8, 2)] = true ∧ (h.pair 0).toNat % 8 = 0 ∧ (h.pair 2).toNat % 8 ≠ 0 ∧
      z.isHandler = true ∧ (z.pair 2).toNat % 8 ≠ 0 ∧ (∀ u ∈ (sh h []).x.threads, u.uid = h.uid → u = h) ∧ (sh h []).x.flights = [] ∧
      ((sh h []).ctx h.ctx).frozen = false ∧ h.ctx < (sh h []).d.ctxs.length) ∧
    ((sh h [rf]).flight? 9 = some rf ∧ (sh h [rf]).thread? 4 = some h ∧ (sh h [rf]).swappedOut h = false ∧
      (∀ g ∈ (sh h [rf]).x.flights, g.thread = 4 → g.uid < 9 → g.posted = true) ∧
      (∃ g ∈ (sh h [{ fl (.sleep 9) with uid := 8 }, rf]).x.flights, g.thread = 4 ∧ g.uid < 9 ∧ g.posted = false) ∧
      (sh h [rf]).thread? 5 = some { x with status := .held .barc } ∧ x.group ≠ h.group ∧ h.secs = [] ∧ h.status ≠ .exited ∧
      ((sh h [rf]).x.threads.map Thread.uid).Nodup) ∧
    ((∀ k ∈ (one []).x.teams, ∃ v ∈ (one []).x.threads, v.team = some k.uid ∧ (v.status = .exited → (one []).needed v.uid = true)) ∧
      (∀ g ∈ (one []).x.groups, g.team = none → ∃ v ∈ (one []).x.threads, v.group = g.uid ∧ (v.status = .exited → (one []).needed v.uid = true)) ∧
      (one []).busyThread 4 = false ∧ (flying (one []) (.sleep 9)).busyThread 4 = true ∧
      (flying (one []) (.exit false)).flight? 9 = some (fl (.exit false))) := by
  intro t r x h z sx sl sh rf
  refine ⟨solo_one _, calm_one _, unique_one _, solo_oneH _, ⟨⟨rfl, rfl, rfl⟩, ?_, ⟨rfl, rfl, rfl⟩, ?_⟩, ?_, ?_, ?_, ?_, ?_, ?_⟩
  any_goals unfold State.calm
  all_goals decide +kernel

/-- Two ready threads of one slice at a clause of one NOP; a word on a watched thread. -/
theorem wit_ClauseIssue : let t (uid lane : Nat) : Thread := { thr uid lane (regs []) with status := .boundary, pc := 0x10000#64, starve := 255 }
    let s0 : State := { run [t 4 0, { t 5 1 with starve := 256 }] with m := { mapped with dram := [(0x10007, 0xB0#8)] } }
    let s : State := { s0 with x := { s0.x with threads := s0.x.threads.map fun t => if 256 ≤ t.starve then { t with fair := true } else t } }
    let w : Thread := { thr 4 0 (regs [9#32]) with name := 1#128 }
    (run [w]).solo c0.grd w ∧ (run [w]).calm ∧ s0.issue? 0 0 = none ∧ (s.x.threads.map Thread.uid).Nodup ∧ (s.x.groups.map Group.uid).Nodup ∧
    (s.bundle 0 0).any (fun b => b.1.uid == 5 && b.2.map Thread.uid == [4, 5] && b.1.stand == (0x10000#64, 0)) = true ∧
    (∀ t ∈ s.x.threads, ∀ u ∈ s.x.threads, t.group = u.group → t.lane = u.lane → t = u) ∧
    (match s.fetchClause 0 0 0x10000#64 0 with
      | (_, .ok f) => headerOk f.header && (firstBadWord f.header f.words).isNone && !hdrLmark f.header
      | _ => false) = true ∧
    lnWatched w.name = true ∧ w.isReplay = false ∧ lnWatched (t 4 0).name = false ∧
    w.inBlocks (bRuns (.v 0#8) 1) = true ∧ (run [w]).srcI w (.v 0#8) = .ok 9#32 := by
  intro t s0 s w
  refine ⟨⟨rfl, rfl, rfl⟩, ?_, ?_⟩
  · unfold State.calm; decide +kernel
  · decide +kernel
/-- A dirty line of core 0 whose store is old and whose lease ends now. -/
def dirtyLine : Copy := ⟨.l1 0, 1, 0, 0#12, 5, [], [(3, 7#8)], 0, none⟩
def dirty : State :=
  { oneM [] with m := { mapped with copies := [dirtyLine] }, x := { (oneM []).x with clk := 131072, devTime := [5, 5, 5, 5] } }

/-- A WAITC for a word that equals `k`, its thread, and its monitor. -/
def waiter : Thread := { thr 4 0 (regs []) with status := .parkedMon }
def waitOp (k : DWord) : FlightOp := .waitc (acc 0x10000 1#2 2) false .eq true k 5 2
def monOf (dl : Option Nat) (w : Option (DWord × Bool)) : Monitor := ⟨9, 0, dl, false, w, true, 0⟩
def waiting (k : DWord) (n : Monitor) : State :=
  { flying (run [waiter]) (waitOp k) with m := mapped, y := { State.reset.y with monitors := [n] } }

/-- A couched entry that has been sent. -/
def couched : CouchEntry := ⟨1, 0x100, 0, .fadd, false, 0x3F800000#64, 0#12, 0, 0, 0, 0, false⟩
def sentOne : State := { oneM [] with y := { State.reset.y with sent := [⟨1, 0, [couched]⟩] } }

/-- The dirty line; waiters whose condition holds, fails, and whose deadline has come; a couched entry whose turn it is. -/
theorem wit_MemoryEvents :
    (∀ l, (dirty.homeLine l).owner = none) ∧ (∀ k n l, ((waiting k n).homeLine l).owner = none) ∧
    (Memory.wf dirty.m = true ∧ dirty.m.copies = [dirtyLine] ∧ 2 * 65536 ≤ dirty.x.clk - dirtyLine.since ∧ dirtyLine.mask ≠ [] ∧
      dirtyLine.expiry ≤ dirty.now (Place.die dirtyLine.place)) ∧
    ([monOf none (some (3#64, true)), monOf (some 0) none, monOf none none].all fun n => [0#64, 1#64].all fun i =>
      let s := waiting i n
      let f := fl (waitOp i)
      s.thread? 4 == some waiter && (s.x.threads.all fun w => w.uid != 4 || w == waiter) && s.waitOf 4 == some (f, n) &&
        s.y.monitors.find? (fun q => q.flight == 9) == some n && s.acquireDone f && !s.swappedOut waiter && s.accessFirst f &&
        Memory.wf s.m && (s.m.copies.all fun c => c.mask.isEmpty) && !s.poisonSeen 0 0 0x10000 4 true && decide (0 ≤ s.timeOf waiter)) = true ∧
    (waitHolds false .eq true ((waiting 0#64 (monOf none none)).homeWord 0x10000 false) 0#64 = true ∧
      waitHolds false .eq true ((waiting 1#64 (monOf none none)).homeWord 0x10000 false) 1#64 = false ∧ 5 + 1 < waiter.v.length) ∧
    (sentOne.launch? 1 = some lch ∧ sentOne.couchReady 1 = some ⟨1, 0, [couched]⟩ ∧ Memory.wf sentOne.m = true ∧ couched.pa % 4 = 0 ∧
      isWindow couched.pa = false) :=
  ⟨fun _ => rfl, fun _ _ _ => rfl, by decide +kernel, by decide +kernel, by decide +kernel, by decide +kernel⟩

/-- The dispatcher's states: a queued record, launches of context 0, and no thread. -/
def disp (q : List QRec) (ls : List Launch) : State :=
  let s := oneM []
  { s with
    x := { s.x with threads := [], groups := [], teams := [] }
    d := { s.d with launches := ls, queues := if q.isEmpty then [] else [(15, q)] } }

/-- A record that is refused and one that is not; waits that hold, and one that does not; the first cluster on the last core; a
message that fits; a tile whose records are written. -/
theorem wit_Dispatch : let q (r : BitVec 4096) : QRec := ⟨50, 0x400#64, r⟩
    let wait := wordRecord ||| BitVec.ofNat 4096 (fld [(1024, 0x100), (1088, 1)])
    let l (r : BitVec 4096) : Launch := mkLaunch (q r) 0 15
    let p : Launch := { l wordRecord with state := .placing }
    let kind1 : Launch := { l (wordRecord ||| 1#4096 <<< 125) with state := .placing }
    let m : Msg := ⟨60, 4, 1, 0, 143, 15, 8, List.replicate 8 1#8, 0, 0#32, 0#128, true, none, 0⟩
    let ms : State := { disp [] [{ lch with msgTab := List.replicate 16 (1#256 <<< 128 ||| 0x40#256) }] with e := { State.reset.e with msgs := [m] } }
    ((disp [q 0#4096] []).queue 0 15 = [q 0#4096] ∧ (disp [q 0#4096] []).launch? 50 = none ∧
      (disp [q 0#4096] []).headCode (l 0#4096) = some .illegalOperand ∧ srising (disp [q 0#4096] []).d.queues = true ∧
      (disp [q wordRecord] []).headCode (l wordRecord) = none) ∧
    (∀ r ∈ [l wordRecord, l wait], (disp [q r.record] [r]).launch? 50 = some r ∧ (disp [q r.record] [r]).launchWaits r = false) ∧
    (((disp [q wordRecord] [l wordRecord]).dreads (l wordRecord) 0 ((lrWaits wordRecord).map fun w => (w.1, 8))).2 = [] ∧ lrKind wordRecord = 0 ∧
      lrHandlers wordRecord = 0#64 ∧ lrHittab wordRecord = 0#64 ∧ lrFmttab wordRecord = 0#64) ∧
    (((disp [q wait] [l wait]).dreads (l wait) 0 ((lrWaits wait).map fun w => (w.1, 8))).2 = [.ok (List.replicate 8 0#8)] ∧
      lrWaits wait = [(0x100#64, 1#64)]) ∧
    (∀ n ∈ [p, kind1], (disp [] [n]).mayPlace n = true ∧ (disp [] [n]).launchWaits n = false ∧ (disp [] [n]).placeSpot n 143 = [(0, [143])] ∧
      (disp [] [n]).coreTaken 143 = false) ∧
    lrKind kind1.record = 1 ∧ (lrDet p.record = false ∧ p.replay = none) ∧
    ((ms.e.msgs.find? fun k => k.target == m.target && k.queued && k.group.isNone) = some m ∧ (ms.ctx 0).frozen = false ∧
      ms.msgEntry 1 15 = some (1#256 <<< 128 ||| 0x40#256) ∧ ms.groupFits 143 7 1 (ms.lweight 1) = some 0 ∧ m.payload.length = m.len) ∧
    (let k : Tile := ⟨70, 50, 0, 0, 0, none, 0#128, []⟩
     let s : State := { disp [] [kind1] with e := { State.reset.e with tiles := [k] } }
     (s.e.tiles.find? fun t => t.uid == 70) = some k ∧ s.launch? 50 = some kind1 ∧
      (match s.tileTrace kind1 k none with
        | (s1, log, .ok xs) =>
          let r := (s1.updTile 70 fun t => { t with log := log }).tileChecks kind1 k xs
          r.2.isOk && !xs.isEmpty && (xs.foldl (fun (a : Option State) x => a.bind fun u =>
            match u.tileWrite kind1 k x.1 x.2.1 x.2.2 with
            | (v, .ok _) => some v
            | _ => none) (some r.1)).isSome
        | _ => false) = true) := by
  intro q wait l p kind1 m ms
  refine ⟨?_, ?_, ?_, ?_, ?_, ?_, ?_, ?_, ?_⟩
  all_goals decide +kernel

/-- A launch whose one cluster has ended, with SIGNAL and SIGVAL 1. -/
def over_ (rel : Bool) (sig : Nat) : Launch :=
  { lch with ended := [0], released := rel, record := wordRecord ||| BitVec.ofNat 4096 (fld [(1536, sig), (1600, 1)]) }

/-- A launch that has stood stalled since a clock, with a handler and without; one that has been trapped for it, and its handler's end. -/
def stuck (since : Nat) (h : Bool) : Launch := { (if h then lchH else lch) with stallSince := some since }
def fired (stop : Option Nat) : Launch := { lch with stallSince := some 0, stallFired := true, stallEnd := stop }
def stuckState (l : Launch) : State :=
  let s := runL l [{ thr 4 0 (regs []) with status := .parkedSec }]
  { s with x := { s.x with clk := 1048576 } }

/-- A launch that is not over; one that is, released and not, before its writes have completed, without a signal, with one, and
with one that has no place; one that has stood stalled for 2^20 clocks, one clock less, and again after its handler's end. -/
theorem wit_LaunchEnd : ((one []).launch? 1 = some lch ∧ (one []).launchOver lch = false) ∧
    ([over_ false 0, over_ true 0, over_ true 0x100, over_ true 0x20000, { over_ true 0 with wct := [(0, 1)] }].all fun l =>
      let s := disp [] [l]
      s.launch? 1 == some l && s.launchOver l && !lrDet l.record && s.allPassed l.wct == l.wct.isEmpty && s.d.dfails.isEmpty && s.h.faults.isEmpty) = true ∧
    (match (disp [] [over_ true 0x100]).engCheck 0 0 0x100#64 8 true 0#12 with
      | (s1, .ok [(pa, 8)]) => pa == 0x100 && Memory.wf s1.m && s1.x.threads.isEmpty && s1.launch? 1 == some (over_ true 0x100)
      | _ => false) = true ∧
    (match (disp [] [over_ true 0x20000]).engCheck 0 0 0x20000#64 8 true 0#12 with
      | (s1, .error (.code _ _)) => !(s1.ctx 0).frozen && s1.launch? 1 == some (over_ true 0x20000)
      | _ => false) = true ∧
    ([stuck 0 false, stuck 1 false, stuck 0 true, fired none, fired (some 0), fired (some 1)].all fun l =>
      (stuckState l).launch? 1 == some l && (stuckState l).stalledNow l && !((stuckState l).ctx 0).frozen) = true ∧
    ((one []).stalledNow lch = false ∧ lch.stallFired = false ∧ lch.stallSince = none ∧ lch.ctx < (one []).d.ctxs.length) ∧
    ((∀ t ∈ (stuckState lch).x.threads, t.isHandler = true → t.status = .exited) ∧ lrTraph (stuck 0 true).record ≠ 0#64 ∧
      lrTraph (stuck 0 false).record = 0#64 ∧ (stuckState lch).x.clk < 1 + 1048576 ∧ 0 + 1048576 ≤ (stuckState lch).x.clk) := by
  decide +kernel

/-- Core 0 alone has a budget, which one team takes up: a cluster of a higher priority has waited 65,536 core clocks, alone, beside a tile job, and as a
cooperative launch; the team of the launch itself is swappable; a context whose slice is over. -/
theorem wit_AskedToLeave : let saved : Launch := { lch with record := wordRecord ||| 1#4096 <<< 712 }
    let l : Launch := { mkLaunch ⟨50, 0#64, wordRecord⟩ 0 15 with state := .placing }
    let own : Launch := { saved with state := .placing, placed := 0, resv := [0] }
    let s (ls : List Launch) (t : Thread) : State := { run [t] with
      x := { (run [t]).x with clk := 131072 }
      d := { (run [t]).d with launches := ls, ctxs := ((run [t]).d.ctxs).set 1 { Ctx.reset with enabled := true, tslice := 1 } }
      h := { State.reset.h with cbudget := (List.replicate 144 0#10).set 0 64#10 } }
    let t := { thr 4 0 (regs []) with status := .boundary }
    let a := s [saved, l] t
    let b := s [own] { t with status := .parkedSec }
    let kind1 : Launch := { mkLaunch ⟨51, 0#64, wordRecord ||| 1#4096 <<< 125⟩ 0 0 with state := .placing }
    let c : State := { s [saved, kind1, l] t with e := { State.reset.e with tiles := [⟨70, 51, 0, 0, 0, none, 0#128, []⟩] } }
    let coop : Launch := { l with record := wordRecord ||| 1#4096 <<< 123 }
    let g := s [saved, coop] t
    let y : State := { a with d := { a.d with launches := [{ saved with ctx := 1 }, l] }, x := { a.x with teams := [{ team0 with ctx := 1 }] } }
    (a.launch? 50 = some l ∧ l.next = some (0, 0) ∧ l.state = .placing ∧ a.nextFits l = false ∧ l.resv = [] ∧ 2 * 65536 ≤ a.x.clk - l.starve ∧
      [0] ∈ l.rects 0 ∧ (∀ n ∈ a.d.launches, 0 ∉ n.resv)) ∧
    ((a.x.teams.map Team.uid).Nodup ∧ team0 ∈ a.x.teams ∧ team0.stopping = false) ∧
    (∀ u ∈ [a, c], u.launch? 50 = some l ∧ u.mayPlace l = true ∧ u.nextFits l = false ∧ u.reservedFrom l 0 = false ∧
      [0].map ((u.withoutTiles l.prio).coreVictims l 0) = [[2]].map some ∧ l.coop = false ∧ ∀ t ∈ u.x.teams, t.stopping = false) ∧
    (kind1 ∈ c.d.launches ∧ kind1.tileJobs = true ∧ kind1.held = none ∧ kind1.prio < l.prio ∧ ∃ k ∈ c.e.tiles, k.launch = 51 ∧ k.core = 0) ∧
    (g.launch? 50 = some coop ∧ coop.next = some (0, 0) ∧ g.mayPlace coop = true ∧ g.nextFits coop = false ∧
      2 * 8192 ≤ g.x.clk - coop.starve ∧ coop.coop = true ∧ (g.withoutTiles coop.prio).gridVictims coop = some [2]) ∧
    (a.savable team0 = true ∧ (∀ u ∈ a.together team0, (a.spillTeam u).2 = true)) ∧
    (b.launch? 1 = some own ∧ own.next = some (0, 0) ∧ b.swappable team0 = true ∧ team0.core ∈ own.resv ∧ b.rectFits own 0 own.resv = false) ∧
    (y.mayPlace l = true ∧ y.nextFits l = false ∧ (y.ctx 0).enabled = true ∧ (y.ctx 1).tslice ≠ 0 ∧
      2 ^ ((y.ctx 1).tslice + 10) ≤ (y.x.clk - team0.since) / 2 ∧ y.savable { team0 with ctx := 1 } = true) := by
  intro saved l own s t a b kind1 c coop g y
  refine ⟨?_, ?_, ?_, ?_, ?_, ?_, ?_, ?_⟩
  all_goals decide +kernel

/-- A team that has been asked to stop, with a waiting TRWAIT and with couched entries that do not fit; a swapped team that
fits on its own core and on the last one; teams that are not restored: not swapped, without room,
and second in order. -/
theorem wit_SaveAndRestore : let tm : Team := { team0 with stopping := true }
    let t := { thr 4 0 (regs []) with status := .boundary }
    let e : CouchEntry := ⟨1, 0x100, 0, .fadd, false, 0x3F800000#64, 0#12, 0, 0, 0, 0, false⟩
    let s (l : Launch) (saved : Bool) (fs : List Flight) (es : List CouchEntry) : State := { runL l [t] with
      x := { (runL l [t]).x with teams := [tm], flights := fs }
      d := { (runL l [t]).d with ctxs := [{ Ctx.reset with enabled := true, saved := saved }] }
      y := { State.reset.y with couch := if es.isEmpty then [] else [(0, es)] } }
    let k : Team := { team0 with swapped := some 1 }
    let r : State := { run [t] with x := { (run [t]).x with teams := [k] } }
    let k2 : Team := { team0 with uid := 5, swapped := some 2 }
    let r2 : State := { run [t, { t with uid := 6, team := some 5, group := 7 }] with x := { (run [t, { t with uid := 6, team := some 5, group := 7 }]).x with teams := [k, k2] } }
    (∀ u ∈ [s lch false [] [], s lch false [fl (.trwait 0 5)] [], s lch false [] [e], s lchH true [] [e]],
      u.team? 2 = some tm ∧ (∀ k ∈ u.x.teams, k.uid = 2 → k = tm) ∧ (u.x.threads.map Thread.uid).Nodup ∧ u.together tm = [tm] ∧
      u.canSave tm = true ∧ srising u.y.couch = true) ∧
    ((s lch false [] []).spillFits tm = true ∧ (s lch false [fl (.trwait 0 5)] []).spillFits tm = true ∧ (fl (.trwait 0 5)).abandoned t = true ∧
      ((s lch false [] []).couchBuf 0).filter (fun e => e.ofTeam tm) = [] ∧
      (s lch false [fl (.trwait 0 5)] []).thread? 4 = some t ∧ t.trap = none ∧
      (s lch false [fl (.trwait 0 5)] []).x.flights.filter (fun g => g.thread == 4) = [fl (.trwait 0 5)] ∧
      (s lch false [] [e]).spillFits tm = false ∧ (s lchH true [] [e]).spillFits tm = false ∧ ((s lchH true [] [e]).ctx 0).saved = true ∧
      ((s lchH true [] [e]).ctx 0).frozen = false ∧ lrTraph lchH.record ≠ 0#64) ∧
    (∀ core ∈ [0, 143], r.team? 2 = some k ∧ (∀ u ∈ r.x.teams, u.uid = 2 → u = k) ∧ r.restorable k = true ∧ r.restoreFits k core = true ∧
      r.restoreBefore k = false ∧ (r.launch? 1).map Launch.coop = some false ∧
      (r.x.groups.map Group.uid).Nodup ∧ (∀ c ∈ k.k, c = ConvReg.zero) ∧ ∀ t ∈ r.x.threads, t.fail = none ∧ t.status = .boundary) ∧
    ((run [t]).team? 2 = some team0 ∧ (run [t]).restorable team0 = false ∧ r.restoreFits k 144 = false ∧ r2.team? 5 = some k2 ∧
      r2.restorable k2 = true ∧ r2.restoreBefore k2 = true) := by
  intro tm t e s k r k2 r2
  refine ⟨?_, ?_, ?_, ?_⟩
  all_goals decide +kernel

/-- What the device writes in an area has states between its bytes, and an area of no bytes takes none. -/
theorem wit_SaveAndRestore_areas (s : State) (core ctx len : Nat) (p : DWord) : Memory.wf State.reset.m = true ∧
    (∀ l, (State.reset.homeLine l).owner = none) ∧ (Config.areaBytes s.freeCtr).filter (fun b => decide (b.1 < 0)) = [] ∧
    let bs := (Config.areaBytes s.freeCtr).filter fun b => decide (b.1 < len)
    ∃ σ : Nat → State, σ 0 = s.takeFree.2 ∧ ∀ k b, bs[k]? = some b →
      σ (k + 1) = match (σ k).areaPa core ctx (p + BitVec.ofNat 64 b.1) true with
        | (u, some pa) => (u.writeHome ctx 0#12 pa [b.2] false).1
        | (u, none) => u := by
  refine ⟨rfl, fun _ => rfl, List.filter_eq_nil_iff.2 fun b _ => by simp, fun k => Nat.rec s.takeFree.2 (fun k u =>
    match ((Config.areaBytes s.freeCtr).filter fun b => decide (b.1 < len))[k]? with
    | none => u
    | some b => match u.areaPa core ctx (p + BitVec.ofNat 64 b.1) true with
      | (u, some pa) => (u.writeHome ctx 0#12 pa [b.2] false).1
      | (u, none) => u) k, rfl, fun k b h => ?_⟩
  simp only [h]

/-- At 2 ns the dies are late by no more than the bound; at 3 they are. Guard states that may end, and one that may not. -/
theorem wit_TimeAgreement : State.reset.h.lc.length = 4 ∧ 3 < State.reset.h.lc.length ∧
    (let s (n : Nat) : State := { State.reset with x := { State.reset.x with devTime := [0, n, 0, 0] } }
     ¬2 < max ((s 2).now 0) ((s 2).now 1) - min ((s 2).now 0) ((s 2).now 1) ∧
      2 < max ((s 3).now 0) ((s 3).now 1) - min ((s 3).now 0) ((s 3).now 1)) ∧
    (let l : LeaseClock := { LeaseClock.reset with guard := true }
     l.guard = true ∧ l.calm + 1000000 ≤ 1000000 ∧ 999999 < l.calm + 1000000) := by
  decide +kernel
/-! The host and the board -/

/-- A device with one host link up. -/
def hosted (s : State) : State := { s with b := { s.b with pcie := 1#2 } }

/-- The answer is a next state. -/
def isNext (o : Host.Outcome State Fault Refusal) : Bool :=
  match o with
  | .next _ => true
  | _ => false

/-- Settings at both ends of a field; samples of a monitor that takes each, and one that takes one of 256; contexts that one bit
of CTXEN changes. -/
theorem wit_HostRegisters : (399 < 400 ∧ max 400 (min 399 2800) = 400 ∧ max 400 (min 4095 2800) = 2800) ∧
    16 * 3 + 15 < State.reset.h.health.length ∧
    (let h : Health := { Health.reset with ctl := 2#64, seen := 255 }; (h.ctl.extractLsb' 0 2).toNat = 2 ∧ h.seen % 256 ≠ 0 ∧ (h.seen + 1) % 256 = 0) ∧
    State.reset.h.quoting = false ∧ (State.reset.ctx 63).enabled = false ∧ (∀ k, k < 64 → (State.reset.ctx k).enabled = false) ∧
    ((one []).ctx 0).enabled = true ∧ (∀ k, k < 64 → k ≠ 0 → ((one []).ctx k).enabled = false) ∧
    ((3 ≠ 4 ∧ 3 ≠ 8 ∧ 3 ≠ 16) ∧ 0x104 % 8 ≠ 0 ∧ 0x100 % 16 = 0 ∧ isNext (exec (.registerWrite 0x100 8 5#128) State.reset) = true) ∧
    (hosted State.reset).b.pcie.getLsbD 0 = true ∧ State.reset.b.pcie = 0#2 := by
  decide +kernel

/-- A context's descriptor at CTXBASE 0: admitted, with its table at 0x1000, and with one at 0x1001. -/
def ctxMem (root : Nat) : MemState := { mapped with dram := [(56, BitVec.ofNat 8 root), (57, 0x10#8)].filter fun p => p.2 != 0#8 }
def frozenCtx (killing : Bool) (s : State) : State :=
  { s with d := { s.d with ctxs := s.d.ctxs.set 0 { Ctx.reset with enabled := true, frozen := true, killing := killing } } }

/-- Contexts enabled and not, in use and not, frozen and not, being killed with something left and with nothing; a thread that a
freezing code stopped, and one whose code was kept back. -/
theorem wit_HostOnContexts : let trap (freezing sup : Bool) : TrapRec := ⟨0#512, 0x10008#64, none, freezing, sup, false, 0⟩
    let t (r : Option TrapRec) : Thread := { thr 4 0 (regs []) with status := .boundary, trap := r }
    let bs (root : Nat) := ({ State.reset with m := ctxMem root }.physRead 0 64)
    let d (root : Nat) : BitVec 512 := BitVec.ofNat 512 (leNat (bs root).2)
    (0 < (one []).d.ctxs.length ∧ ((one []).ctx 0).enabled = true ∧ ((one []).ctx 0).frozen = false ∧
      (hosted (one [])).b.pcie.getLsbD 0 = true ∧ (hosted (one [])).b.pcie.getLsbD 1 = false) ∧
    (∃ u ∈ (one []).x.threads, u.ctx = 0 ∧ (one []).swappedOut u = false) ∧
    ((State.reset.ctx 0).enabled = false ∧ State.reset.x.threads = [] ∧ State.reset.x.teams = [] ∧ State.reset.d.queues = [] ∧
      State.reset.d.launches = []) ∧
    (∀ root ∈ [0, 1], (bs root).1.d = State.reset.d) ∧
    ((d 0).extractLsb' 16 432 = 0#432 ∧ (d 0).extractLsb' 1 7 = 0#7 ∧ ((d 0).extractLsb' 8 4).toNat < 8 ∧
      ((d 0).extractLsb' 448 64).toNat = 4096 ∧ (bs 0).1.isDram 4096 = true ∧ ((d 1).extractLsb' 448 64).toNat % 4096 ≠ 0) ∧
    (((frozenCtx false (run [t none])).ctx 0).frozen = true ∧ ((frozenCtx false (run [t none])).ctx 0).killing = false) ∧
    (((frozenCtx true State.reset).ctx 0).killing = true ∧ (frozenCtx true State.reset).gone 0 = true ∧
      (frozenCtx true (run [t none])).gone 0 = false) ∧
    (∀ u ∈ (frozenCtx false (run [t (some (trap false true))])).x.threads, u.isHandler = false ∧ ∀ r ∈ u.trap, r.freezing = false) ∧
    ((frozenCtx false (run [t (some (trap true false))])).thread? 4 = some (t (some (trap true false))) ∧
      (frozenCtx false (run [t (some (trap true false))])).busyThread 4 = false ∧ team0.shadowOf = none ∧ lch.digests = []) ∧
    (let k := frozenCtx false sentOne
     let f := flying k (.store (acc 0 0#2 1) [1#8])
     ((k.ctx 0).frozen = true ∧ (k.ctx 0).killing = false ∧ k.b.fatal = false ∧ ({ k with b := { k.b with fatal := true } } : State).b.fatal = true) ∧
      ((fl (.store (acc 0 0#2 1) [1#8])).op.lands = true ∧ f.thread? 4 = some (thr 4 0 (regs [])) ∧ f.isolates (thr 4 0 (regs [])) = false ∧
        (fl (.sleep 9)).op.lands = false) ∧
      ((k.d.launches.filter fun l => l.ctx == 0) = [lch] ∧ k.y.sent = [⟨1, 0, [couched]⟩] ∧ 0 ∈ lch.teamOrder ∧ lch.teamOrder.Nodup ∧
        couched.pa % 4 = 0 ∧ isWindow couched.pa = false ∧ Memory.wf k.m = true ∧ k.m.copies = [] ∧ (frozenCtx false (run [])).y.sent = [])) := by
  intro trap t bs d
  refine ⟨?_, ?_, ?_, ?_, ?_, ?_, ?_, ?_, ?_, ?_⟩
  all_goals decide +kernel

/-- A fault of a parked thread and an error record that parks it. -/
def pfault (id : Option (BitVec 32)) : PFault := ⟨30, id, 0, 0x40000#64, 0, .invalid, 0, 0, (4, 16), [(.thread 4, 0x40000#64)]⟩
def errRec (id : Option (BitVec 32)) : ErrRec := ⟨31, id, 0x100, 0, .uncorrectable, 9, 0, 0, true, false, false, 0, 0x40000#64⟩
def ringState (head ctl : Word) (park : ParkWhy) (id : Option (BitVec 32)) : State :=
  let s := runL lchH [{ thr 4 0 (regs []) with status := .parkedMem park }]
  let r : Ring := { State.reset.h.fq with ctl := ctl, head := head }
  { s with h := { s.h with faults := [pfault id], errors := [errRec id], fq := r, er := r } }

/-- Rings with room, full at 64 entries, full of records that are not yet counted, and disabled; a record that may be counted and
one that may not; a thread parked on a page, and on poison, and one whose team is Swapped. -/
theorem wit_RecordRings : let on : Word := 0x80000000#32
    let s (head ctl : Word) (id : Option (BitVec 32)) := ringState head ctl (.page 30) id
    let e (id : Option (BitVec 32)) := ringState 0#32 on (.poison 31) id
    let sw (s : State) : State := { s with x := { s.x with teams := [{ team0 with swapped := some 1 }] } }
    let t : Thread := { thr 4 0 (regs []) with status := .parkedMem (.page 30) }
    let te : Thread := { thr 4 0 (regs []) with status := .parkedMem (.poison 31) }
    (((s 63#32 on none).h.faults.find? fun g => g.uid == 30) = some (pfault none) ∧
      ((s 63#32 on none).h.errors.find? fun g => g.uid == 31) = some (errRec none)) ∧
    (¬2 ^ (min ((s 63#32 on none).h.fq.ctl.extractLsb' 16 4).toNat 10 + 6) ≤ ((s 63#32 on none).h.fq.head - (s 63#32 on none).h.fq.tail).toNat ∧
      2 ^ (min ((s 64#32 on none).h.fq.ctl.extractLsb' 16 4).toNat 10 + 6) ≤ ((s 64#32 on none).h.fq.head - (s 64#32 on none).h.fq.tail).toNat ∧
      2 ^ (min ((s 63#32 on none).h.fq.ctl.extractLsb' 16 4).toNat 10 + 6) ≤ ((s 63#32 on none).h.fq.head - (s 63#32 on none).h.fq.tail).toNat + [(0, 9)].length) ∧
    (let d : State := { State.reset with x := { State.reset.x with devTime := [5, 5, 5, 5] } };
      d.now 0 < (0, 6).2 ∧ (0, 5).2 ≤ d.now 0 ∧ State.reset.h.fq.head = State.reset.h.fq.tail ∧ (hosted d).b.pcie.getLsbD 0 = true) ∧
    (on.getLsbD 31 = true ∧ (0#32).getLsbD 31 = false ∧ Memory.wf (s 63#32 on none).m = true ∧ (s 63#32 on none).isDram (32 * 63) = true) ∧
    (∀ n, ((s 63#32 on none).homeLine n).owner = none) ∧
    (State.reset.h.faults = [] ∧ State.reset.h.errors = []) ∧
    ((s 0#32 on (some 5#32)).thread? 4 = some t ∧ t.trap = none ∧ 0 < (s 0#32 on (some 5#32)).d.ctxs.length ∧
      ((s 0#32 on (some 5#32)).h.faults.find? fun g => g.id == some 5#32) = some (pfault (some 5#32)) ∧
      (s 0#32 on none).h.faults = [pfault none]) ∧
    (((s 0#32 on none).teamOf t).any (fun tm => tm.swapped.isSome) = false ∧
      ((sw (s 0#32 on (some 5#32))).teamOf t).any (fun tm => tm.swapped.isSome) = true ∧ (sw (s 0#32 on (some 5#32))).thread? 4 = some t) ∧
    ((s 0#32 on none).quiet t ∧ (s 0#32 on (some 5#32)).quiet t ∧ (sw (s 0#32 on (some 5#32))).quiet t) ∧
    ((e none).thread? 4 = some te ∧ (e none).x.flights = [] ∧ (e none).e.passes = [] ∧ (∀ u ∈ (e none).x.threads, u = te) ∧
      te.isReplay = false ∧ ((e none).ctx 0).frozen = false ∧ (e none).h.errors = [errRec none] ∧
      ((e (some 5#32)).h.errors.find? fun g => g.id == some 5#32) = some (errRec (some 5#32))) ∧
    (e none).calm := by
  intro on s e sw t te
  refine ⟨?_, ?_, ?_, ?_, fun _ => rfl, ?_, ?_, ?_, ?_, ?_, ?_⟩
  any_goals unfold State.calm
  all_goals first
    | decide +kernel
    | (unfold State.quiet State.calm; decide +kernel)

/-- A link window of 256 bytes at 0x100; the last byte that it admits and the next. -/
def linked : State :=
  { State.reset with
    b := { State.reset.b with links := 1#12 }
    h := { State.reset.h with linkwin := State.reset.h.linkwin.set 0 (BitVec.ofNat 128 (0x100 + 2 ^ 64 * 0x100)) } }

/-- Accesses inside the windows and beyond them; a snoop of a line that no lease covers; a sector that is DRAM and one that is
not. -/
theorem wit_OutsideAccess : let w := linked.h.linkwin.getD 0 0#128
    (Memory.wf linked.m = true ∧ linked.isDram 0x100 = true ∧ linked.isDram 0x1FF = true ∧ linked.isDram (2 ^ 46) = false) ∧
    (∀ l, (linked.homeLine l).owner = none) ∧ (linked.h.apbase.toNat % 2 ^ 48 + 0x100 = 0x100 ∧ 0x100 < 2 ^ 36) ∧
    (linked.b.links.getLsbD 0 = true ∧ linked.b.links.getLsbD 1 = false) ∧
    ((w.extractLsb' 0 48).toNat ≤ 0x1FF ∧ 0x1FF + 1 ≤ (w.extractLsb' 0 48).toNat + (w.extractLsb' 64 48).toNat ∧
      ¬0x1FF + 2 ≤ (w.extractLsb' 0 48).toNat + (w.extractLsb' 64 48).toNat) ∧
    linked.guarded (homeDie 0x100) = false ∧
    (2 ^ 46 = (0x400000000000#64).toNat % 2 ^ 48 + 0 ∧ 0 < 2 ^ 36 ∧ ¬2 ^ 36 ≤ 2 ^ 36 - 1) ∧
    (isHostMem (256 * 2 ^ 39) = true ∧ linked.homeLine (2 ^ 39) = HomeLine.empty ∧ linked.guarded (homeDie (256 * 2 ^ 39)) = false ∧
      ([(255, 1#8)].map Prod.fst).Nodup) ∧
    (homeDie 0x100 < linked.h.corr.length ∧ srising linked.m.poison = true) ∧
    (((one []).thread? 4).isSome = true ∧ 0 < (one []).d.ctxs.length) := by
  intro w
  refine ⟨?_, fun _ => rfl, ?_, ?_, ?_, ?_, ?_, ?_, ?_, ?_⟩
  all_goals decide +kernel

/-- A link and a port that are up, at 15 and at 16 flits sent again, and that are down; a collective that uses the link; images
that verify and do not. -/
theorem wit_LinksAndBoot : let s (n : Nat) : State := { colling (thr 4 0 []) 2 (collJob true none) (.sleep 9) [] with
      b := { State.reset.b with booted := true, links := 1#12, ports := 1#12, resends := n :: List.replicate 11 0, presends := n :: List.replicate 11 0 } }
    let b (v : Bool) : BootIn := ⟨[1#8], v, [], 0#4, 0, 0xFFF#12, 3#2, 0#2⟩
    ((s 15).h.linkerr.length = 4 ∧ (s 15).b.resends.length = 12 ∧ (s 15).b.presends.length = 12 ∧ (s 15).d.ctxs.length = 64) ∧
    ((s 15).b.links.getLsbD 0 = true ∧ (s 15).b.links.getLsbD 11 = false ∧ (s 15).b.ports.getLsbD 0 = true ∧ (s 15).b.ports.getLsbD 11 = false) ∧
    ((s 15).b.resends.getD 0 0 < 16 ∧ 16 ≤ (s 16).b.resends.getD 0 0 ∧ (s 15).b.presends.getD 0 0 < 16 ∧ 16 ≤ (s 16).b.presends.getD 0 0) ∧
    ((s 16).collUses (collJob true none) 0 = true ∧ ((s 16).thread? 4).isSome = true ∧ (∀ k ∈ State.reset.d.ctxs, k.priv = false) ∧
      (∀ k ∈ State.reset.e.colls, State.reset.collUses k 0 = false)) ∧
    (State.reset.b.booted = false ∧ (s 0).b.booted = true ∧ (s 0).b.fatal = false ∧ (b true).verified = true ∧ (b false).verified = false) := by
  intro s b
  refine ⟨?_, ?_, ?_, ?_, ?_⟩
  all_goals decide +kernel

/-- A code of no instruction of the port, whatever the codes of SAMPLE/PRELOAD and EXTEST. -/
theorem wit_DebugPort : ∃ code, code ∉ [0x01#8, 0x20#8, 0x21#8, 0x22#8, Config.sampleCode, Config.extestCode] := by
  have h (a b : BitVec 8) : ∃ code ∈ [2#8, 3#8, 4#8], code ≠ a ∧ code ≠ b ∧ code ∉ [0x01#8, 0x20#8, 0x21#8, 0x22#8] := by
    by_cases h2 : 2#8 ≠ a ∧ 2#8 ≠ b
    · exact ⟨2#8, by decide, h2.1, h2.2, by decide⟩
    · by_cases h3 : 3#8 ≠ a ∧ 3#8 ≠ b
      · exact ⟨3#8, by decide, h3.1, h3.2, by decide⟩
      · refine ⟨4#8, by decide, ?_, ?_, by decide⟩ <;> rintro rfl <;> simp_all <;> exact absurd (h2.trans h3.symm) (by decide)
  obtain ⟨c, -, ha, hb, hc⟩ := h Config.sampleCode Config.extestCode
  exact ⟨c, by simp_all⟩

theorem chainInsert_ne (k : Nat) (ks : List Nat) : chainInsert k ks ≠ [] := by
  cases ks with
  | nil => exact List.cons_ne_nil _ _
  | cons x r =>
    unfold chainInsert
    split <;> exact List.cons_ne_nil _ _

/-- Some chain holds the machine's first bit, and has an end. -/
theorem wit_DebugPort_chain : let s : State := { State.reset with b := { State.reset.b with frozen := true, chainsel := Config.chainOf 0 } }
    s.b.frozen = true ∧ State.reset.b.frozen = false ∧ 0 < 64 * s.elements.length ∧ (∃ k, (s.chain s.b.chainsel)[0]? = some k) ∧
    (s.chain s.b.chainsel).length ≤ (s.chain s.b.chainsel).length := by
  intro s
  have h : 0 < 64 * s.elements.length := by
    unfold State.elements ExecState.elements
    simp only [List.length_append]
    have : 0 < (numEl s.x.clk).length := by decide
    omega
  refine ⟨rfl, rfl, h, ?_, Nat.le_refl _⟩
  have hm : 0 ∈ (List.range (64 * s.elements.length)).filter fun k => Config.chainOf k == s.b.chainsel :=
    List.mem_filter.2 ⟨List.mem_range.2 h, beq_self_eq_true _⟩
  cases hl : s.chain s.b.chainsel with
  | cons k r => exact ⟨k, rfl⟩
  | nil =>
    unfold State.chain at hl
    cases hf : (List.range (64 * s.elements.length)).filter fun k => Config.chainOf k == s.b.chainsel with
    | nil => rw [hf] at hm; cases hm
    | cons x r => rw [hf] at hl; exact absurd hl (chainInsert_ne _ _)

/-! The machine -/

/-- An instruction with its operands at the ends of their ranges, and its word. -/
theorem wit_DecodeOfEncode : let i : Instr := .ffma ⟨62#6, true, 15#4, 7#3, true⟩ true false 255#8 255#8 (.v 255#8) 255#8
    i.wf = true ∧ ∃ w, encode i = some w := by
  intro i
  exact ⟨by decide +kernel, Option.isSome_iff_exists.1 (by decide +kernel)⟩

theorem wit_EncodeOfDecode : (∃ i, decode false 0#64 = .ok i) ∧
    ∃ i, decode true (63#6 ++ 0#1 ++ 0#1 ++ 0#4 ++ 1#8 ++ 2#8 ++ 3#8 ++ 8#4 ++ 4#8 ++ 6#8 ++ 0#8) = .ok i :=
  ⟨⟨.nop 0#56, by decide +kernel⟩, ok_of (by decide +kernel)⟩

/-- A placed NOP; a long-latency word whose window closes inside its clause; reserved and violating words; events that may and
may not run. -/
theorem wit_StepRunsWord : let s (w : DWord) := State.reset.withFetchWord 64 w.toNat
    let s0 (w : DWord) : State := { s w with agenda := [] }
    let ok (w : DWord) : Bool := (s w).agenda == [.word 0 0] && (s w).b.booted && !(s w).b.frozen && ((s w).x.threads.all fun t => !t.isReplay) && ((s0 w).issue? 0 0).any (fun c =>
      decide (c.pos < c.words.length) && c.next == w && !(s0 w).wordHeld c ((s0 w).sliceMembers 0 0)) && !((s0 w).sliceMembers 0 0).isEmpty
    let frcp : DWord := 0x3800000000000000#64
    ok 0#64 = true ∧ (decode false 0#64).toOption = some (.nop 0#56) ∧ wordLong false 0#64 = false ∧
    (ok frcp = true ∧ (decode false frcp).toOption.isSome = true ∧ wordLong false frcp = true ∧ wordLa frcp < 1) ∧
    (let f : State := flying (s 0#64) (.write [] []);
      ((s0 0#64).issue? 0 0).any (fun c => ((s0 0#64).sliceMembers 0 0).all fun t =>
        State.wordHeld { f with x := { f.x with flights := [{ fl (.write [] []) with thread := t.uid }] } } c [t]) = true) ∧
    (ok 0xFF00000000000000#64 = true ∧ decode false 0xFF00000000000000#64 = .error .illegalOpcode) ∧
    (∀ b, State.reset.may (.boot b) = true) ∧ State.reset.may .quote = false ∧ (s 0#64).may .quote = true ∧
    ((s 0#64).issue? 0 0).any (fun c => decide (c.pos < c.words.length)) = true ∧ ((s 0#64).x.threads.any fun t => t.inSlice 0 0) = true ∧
    (∀ t ∈ (s 0#64).x.threads, t.isReplay = false) ∧
    (ok 0x0D03F000000000FF#64 = true ∧ decode false 0x0D03F000000000FF#64 = .error (.illegalOperand false) ∧
      wordLong false 0x0D03F000000000FF#64 = false) ∧
    (ok 0x5803F000000000FF#64 = true ∧ decode false 0x5803F000000000FF#64 = .error (.illegalOperand true) ∧
      (wordLong false 0x5803F000000000FF#64 = false ∨ 1 ≤ wordLa 0x5803F000000000FF#64)) := by
  intro s s0 ok frcp
  refine ⟨?_, ?_, ?_, ?_, ?_, ?_, fun _ => rfl, ?_, ?_, ?_, ?_, ?_⟩
  all_goals decide +kernel

end Sys2Proof.Tests
end

section
/-! Time agreement (R8, R98, R409, R410): what one die's comparison leaves, what the four leave together, and which leased
copies are dropped. Settles O48. -/

namespace Sys2Proof.Machine

/-! Lists -/

/-- An element of a list in which one element was changed. -/
theorem getD_modify {α : Type} {l : List α} {i : Nat} (h : i < l.length) (f : α → α) (j : Nat) (a : α) :
    (l.modify i f).getD j a = if i = j then f (l.getD j a) else l.getD j a := by
  rcases eq_or_ne i j with rfl | hij
  · simp [List.getD_eq_getElem?_getD, h]
  · simp [List.getD_eq_getElem?_getD, hij]

/-- A fold of `max` over a list that is not empty gives one of its elements. -/
theorem foldl_max_mem {l : List Nat} (h : l ≠ []) : l.foldl max 0 ∈ l := by
  obtain ⟨m, hm⟩ := Option.ne_none_iff_exists'.1 fun hn => h (List.max?_eq_none_iff.1 hn)
  simpa [List.foldl_max, hm] using (List.max?_eq_some_iff.1 hm).1

/-- A fold of `max` is at least each element. -/
theorem le_foldl_max {l : List Nat} {n : Nat} (h : n ∈ l) : n ≤ l.foldl max 0 := by
  obtain ⟨m, hm⟩ := Option.ne_none_iff_exists'.1 fun hn => List.ne_nil_of_mem h (List.max?_eq_none_iff.1 hn)
  simpa [List.foldl_max, hm] using (List.max?_eq_some_iff.1 hm).2 n h

/-- The number whose bits are those of the positions below `k` at which `p` holds. -/
def bitsWhere (p : Nat → Prop) [DecidablePred p] (k : Nat) : Nat :=
  (List.range k).foldl (fun n e => if p e then n + 2 ^ e else n) 0

theorem bitsWhere_succ (p : Nat → Prop) [DecidablePred p] (k : Nat) :
    bitsWhere p (k + 1) = if p k then bitsWhere p k + 2 ^ k else bitsWhere p k := by
  simp [bitsWhere, List.range_succ]

/-- Later positions add above the bits so far. -/
theorem bitsWhere_lt (p : Nat → Prop) [DecidablePred p] (k : Nat) : bitsWhere p k < 2 ^ k := by
  induction k with
  | zero => simp [bitsWhere]
  | succ k ih =>
    rw [bitsWhere_succ, pow_succ]
    split <;> omega

theorem testBit_bitsWhere (p : Nat → Prop) [DecidablePred p] {k e : Nat} (h : e < k) :
    (bitsWhere p k).testBit e = decide (p e) := by
  induction k with
  | zero => omega
  | succ k ih =>
    rw [bitsWhere_succ]
    rcases Nat.lt_succ_iff_lt_or_eq.1 h with hlt | rfl
    · split
      · rw [Nat.add_comm, Nat.testBit_two_pow_add_gt hlt, ih hlt]
      · exact ih hlt
    · have hfree := Nat.testBit_lt_two_pow (bitsWhere_lt p e)
      split
      · rw [Nat.add_comm, Nat.testBit_two_pow_add_eq, hfree]; simp [*]
      · simp [*]

/-! One die's comparison -/

/-- How far two dies' times differ. -/
def State.dieGap (s : State) (d e : Nat) : Nat := max (s.now d) (s.now e) - min (s.now d) (s.now e)

/-- How far the peer of link `j` of a die differs; nothing where no link is trained. -/
def State.linkGap (s : State) (peers : List Int) (d j : Nat) : Nat :=
  if s.b.links.getLsbD (3 * d + j) then (peers.getD (3 * d + j) 0).natAbs else 0

/-- All that a die compares. -/
def State.gaps (s : State) (peers : List Int) (d : Nat) : List Nat :=
  (List.range 4).map (s.dieGap d) ++ (List.range 3).map (s.linkGap peers d)

/-- A die differs from another by more than `a`, or from a peer by more than `b`. -/
def State.apart (s : State) (peers : List Int) (d a b : Nat) : Bool :=
  ((List.range 4).any fun e => decide (a < s.dieGap d e)) || (List.range 3).any fun j => decide (b < s.linkGap peers d j)

theorem apart_iff (s : State) (peers : List Int) (d a b : Nat) :
    s.apart peers d a b = true ↔ (∃ e, e < 4 ∧ a < s.dieGap d e) ∨ ∃ j, j < 3 ∧ b < s.linkGap peers d j := by
  simp [State.apart]

theorem mem_gaps {s : State} {peers : List Int} {d n : Nat} :
    n ∈ s.gaps peers d ↔ (∃ e, e < 4 ∧ s.dieGap d e = n) ∨ ∃ j, j < 3 ∧ s.linkGap peers d j = n := by
  simp [State.gaps]

/-- The lease clock of a die after its comparison (R409, R410). -/
def State.compared (s : State) (peers : List Int) (d : Nat) (l : LeaseClock) : LeaseClock :=
  { skew := BitVec.ofNat 32 (max l.skew.toNat (min ((s.gaps peers d).foldl max 0) 0xFFFFFFFF))
    die := BitVec.ofNat 4 (bitsWhere (fun e => 1 < s.dieGap d e) 4)
    link := BitVec.ofNat 3 (bitsWhere (fun j => 20 < s.linkGap peers d j) 3)
    event := l.event || s.apart peers d 2 40
    guard := l.guard || s.apart peers d 1 20
    calm := if s.apart peers d 1 20 then s.now d else l.calm }

/-- SKEW saturates, so the 32 bits hold the larger value exactly. -/
theorem compared_skew_toNat (s : State) (peers : List Int) (d : Nat) (l : LeaseClock) :
    (s.compared peers d l).skew.toNat = max l.skew.toNat (min ((s.gaps peers d).foldl max 0) 0xFFFFFFFF) := by
  have := l.skew.isLt
  simp only [State.compared, BitVec.toNat_ofNat]
  omega

theorem le_compared_skew {s : State} {peers : List Int} {d n : Nat} (l : LeaseClock) (h : n ∈ s.gaps peers d) :
    min n 0xFFFFFFFF ≤ (s.compared peers d l).skew.toNat := by
  have := le_foldl_max h
  rw [compared_skew_toNat]
  omega

/-- SKEW is the old one, or one of the differences. -/
theorem compared_skew_cases (s : State) (peers : List Int) (d : Nat) (l : LeaseClock) :
    (s.compared peers d l).skew = l.skew ∨
      ∃ n ∈ s.gaps peers d, (s.compared peers d l).skew.toNat = min n 0xFFFFFFFF := by
  have hv := compared_skew_toNat s peers d l
  rcases max_choice l.skew.toNat (min ((s.gaps peers d).foldl max 0) 0xFFFFFFFF) with hm | hm
  · exact .inl (BitVec.eq_of_toNat_eq (hv.trans hm))
  · exact .inr ⟨_, foldl_max_mem (by simp [State.gaps]), hv.trans hm⟩

theorem compared_die {s : State} {d e : Nat} (peers : List Int) (l : LeaseClock) (h : e < 4) :
    (s.compared peers d l).die.getLsbD e = decide (1 < s.dieGap d e) := by
  simp only [State.compared, BitVec.getLsbD_ofNat, testBit_bitsWhere _ h, h, decide_true, Bool.true_and]

theorem compared_link {s : State} {d j : Nat} (peers : List Int) (l : LeaseClock) (h : j < 3) :
    (s.compared peers d l).link.getLsbD j = decide (20 < s.linkGap peers d j) := by
  simp only [State.compared, BitVec.getLsbD_ofNat, testBit_bitsWhere _ h, h, decide_true, Bool.true_and]

/-- A record that reports a disagreement seen at a time (R98, R447). -/
def ErrRec.reportsLeaseClock (r : ErrRec) (now : Nat) : Prop :=
  r.code = .leaseClock ∧ (r.unit = 11 ∨ r.unit = 12) ∧ r.parked = false ∧ r.time = now

/-- A state whose lease clocks are others, with records added. -/
def State.withClocks (s : State) (lc : List LeaseClock) (u : Nat) (rs : List ErrRec) : State :=
  { s with x := { s.x with nextUid := u }, h := { s.h with lc := lc, errors := s.h.errors ++ rs } }

/-- The first die that differs by more than R8 allows. -/
def State.overDie (s : State) (d : Nat) : Option Nat := (List.range 4).find? fun e => decide (2 < s.dieGap d e)

/-- The first link whose peer differs by more than R8 allows. -/
def State.overLink (s : State) (peers : List Int) (d : Nat) : Option Nat :=
  (List.range 3).find? fun j => decide (40 < s.linkGap peers d j)

theorem overDie_or_overLink (s : State) (peers : List Int) (d : Nat) :
    ((s.overDie d).isSome || (s.overLink peers d).isSome) = s.apart peers d 2 40 := by
  rw [Bool.eq_iff_iff, apart_iff]
  simp [State.overDie, State.overLink]

/-- A record of a disagreement, added to a state whose lease clocks have changed. -/
theorem addError_withClocks (s : State) (lc : List LeaseClock) (index d : Nat) {unit : Nat} (h : unit = 11 ∨ unit = 12) :
    ∃ u rs, ((s.withClocks lc s.x.nextUid []).addError 0 .leaseClock unit index 0 false false false 0 d).1 = s.withClocks lc u rs ∧
      ∃ r ∈ rs, r.reportsLeaseClock (s.now d) := by
  let r : ErrRec := ⟨s.x.nextUid, none, 0, s.now d, .leaseClock, unit, index, 0, false, false, false, 0, 0#64⟩
  refine ⟨s.x.nextUid + 1, [r], ?_, r, List.mem_singleton_self r, rfl, h, rfl, rfl⟩
  simp only [State.addError, State.withClocks, List.append_nil]
  rfl

/-- One die's comparison changes its lease clock (R409, R410), and adds a record where EVENT becomes set (R98; that it is then
alone is the model's choice, log 15). -/
theorem dieAgreement_withClocks (s : State) (peers : List Int) (d : Nat) :
    ∃ u rs, s.dieAgreement peers d = s.withClocks (s.h.lc.modify d (s.compared peers d)) u rs ∧
      ((s.h.lc.getD d LeaseClock.reset).event = false → s.apart peers d 2 40 = true → ∃ r ∈ rs, r.reportsLeaseClock (s.now d)) := by
  unfold State.dieAgreement
  extract_lets dies links big off overDie overLink upd was _ s1
  have hover : (overDie.isSome || overLink.isSome) = s.apart peers d 2 40 := overDie_or_overLink s peers d
  have hoff : off = s.apart peers d 1 20 := rfl
  have hupd : upd = s.compared peers d := by
    funext l
    simp only [upd, State.compared, Bool.or_assoc, hover, hoff]
    rfl
  have hs1 : s1 = s.withClocks (s.h.lc.modify d (s.compared peers d)) s.x.nextUid [] := by
    simp only [State.withClocks, List.append_nil, ← hupd]
    rfl
  rw [hs1]
  clear_value overDie overLink
  split
  · next hwas => exact ⟨_, _, rfl, fun hev => by simp [was, hev] at hwas⟩
  · rcases overDie with _ | e
    · rcases overLink with _ | j
      · exact ⟨_, _, rfl, fun _ h => by simp [← hover] at h⟩
      · obtain ⟨u, rs, h, hr⟩ := addError_withClocks s (s.h.lc.modify d (s.compared peers d)) (3 * d + j) d (.inl rfl)
        exact ⟨u, rs, h, fun _ _ => hr⟩
    · obtain ⟨u, rs, h, hr⟩ := addError_withClocks s (s.h.lc.modify d (s.compared peers d)) (diePort d e) d (.inr rfl)
      exact ⟨u, rs, h, fun _ _ => hr⟩

/-! The four dies together -/

/-- Comparing dies in turn changes the lease clock of each, by what the state before the first comparison holds: a comparison
reads only device times, links and the peers. -/
theorem foldl_dieAgreement (peers : List Int) {ds : List Nat} (hnd : ds.Nodup) (s : State) (hlen : ∀ d ∈ ds, d < s.h.lc.length) :
    ∃ lc u rs, ds.foldl (fun s d => s.dieAgreement peers d) s = s.withClocks lc u rs ∧
      (∀ d ∈ ds, lc.getD d LeaseClock.reset = s.compared peers d (s.h.lc.getD d LeaseClock.reset)) ∧
      (∀ d ∉ ds, lc.getD d LeaseClock.reset = s.h.lc.getD d LeaseClock.reset) ∧
      ∀ d ∈ ds, (s.h.lc.getD d LeaseClock.reset).event = false → s.apart peers d 2 40 = true →
        ∃ r ∈ rs, r.reportsLeaseClock (s.now d) := by
  induction ds generalizing s with
  | nil => exact ⟨s.h.lc, s.x.nextUid, [], by simp [State.withClocks], by simp, fun _ _ => rfl, by simp⟩
  | cons d ds ih =>
    obtain ⟨hd, hnd⟩ := List.nodup_cons.1 hnd
    obtain ⟨u, rs, h, hr⟩ := dieAgreement_withClocks s peers d
    have hmod := getD_modify (hlen d List.mem_cons_self) (s.compared peers d)
    obtain ⟨lc, v, qs, hfold, hin, hout, hq⟩ := ih hnd (s.dieAgreement peers d) fun e he => by
      simpa [h, State.withClocks] using hlen e (List.mem_cons_of_mem _ he)
    rw [h] at hfold hin hout hq
    have hother : ∀ e ∈ ds, (s.h.lc.modify d (s.compared peers d)).getD e LeaseClock.reset = s.h.lc.getD e LeaseClock.reset :=
      fun e he => by rw [hmod, if_neg]; rintro rfl; exact hd he
    refine ⟨lc, v, rs ++ qs, ?_, ?_, ?_, ?_⟩
    · rw [List.foldl_cons, h, hfold]; simp [State.withClocks]
    · intro e he
      rcases List.mem_cons.1 he with rfl | he
      · exact (hout _ hd).trans ((hmod _ _).trans (if_pos rfl))
      · exact (hin e he).trans (congrArg _ (hother e he))
    · intro e he
      obtain ⟨hne, he⟩ := List.ne_and_not_mem_of_not_mem_cons he
      exact (hout e he).trans ((hmod _ _).trans (if_neg hne.symm))
    · intro e he hev hap
      rcases List.mem_cons.1 he with rfl | he
      · obtain ⟨r, hm, hr⟩ := hr hev hap
        exact ⟨r, List.mem_append_left _ hm, hr⟩
      · obtain ⟨r, hm, hr⟩ := hq e he ((congrArg _ (hother e he)).trans hev) hap
        exact ⟨r, List.mem_append_right _ hm, hr⟩

/-! Leased copies -/

/-- Which copies a drop leaves: a copy that is owned or whose home is not guarded as it is, and of another one its masked
bytes alone, where it has some (R409). -/
theorem mem_dropGuarded {s : State} {c : Copy} :
    c ∈ s.dropGuarded.m.copies ↔
      (c ∈ s.m.copies ∧ (c.own.isSome = true ∨ s.guarded (homeDie (256 * c.line)) = false)) ∨
      ∃ b ∈ s.m.copies, b.own = none ∧ s.guarded (homeDie (256 * b.line)) = true ∧ b.mask ≠ [] ∧ c = { b with sectors := [] } := by
  simp only [State.dropGuarded, List.mem_filterMap]
  constructor
  · rintro ⟨b, hb, hk⟩
    split at hk
    · next h =>
      obtain rfl := Option.some.inj hk
      exact .inl ⟨hb, by simpa using h⟩
    · next h =>
      split at hk
      · cases hk
      · next hm =>
        obtain rfl := Option.some.inj hk
        simp only [Bool.or_eq_true, not_or, Bool.not_eq_true', Bool.not_eq_true, Bool.not_eq_false] at h
        exact .inr ⟨b, hb, by simpa using h.1, h.2, by simpa using hm, rfl⟩
  · rintro (⟨hc, h⟩ | ⟨b, hb, ho, hg, hm, rfl⟩)
    · exact ⟨c, hc, by rw [if_pos]; simpa using h⟩
    · exact ⟨b, hb, by simp [ho, hg, hm]⟩

/-! The events -/

/-- The state in which the hubs have kept what each link's peer is ahead by (log 15). -/
def State.keepPeers (s : State) (peers : List Int) : State :=
  { s with b := { s.b with peers := (List.range 12).map fun n => peers.getD n 0 } }

/-- TIME_AGREEMENT_CHECK: lease clocks and records of the four dies, then the drop of leased copies. -/
theorem exec_timeAgreementCheck (s : State) (peers : List Int) (hlen : s.h.lc.length = 4) :
    ∃ lc u rs, exec (.timeAgreementCheck peers) s = .next ((s.keepPeers peers).withClocks lc u rs).dropGuarded ∧
      (∀ d, d < 4 → lc.getD d LeaseClock.reset = s.compared peers d (s.h.lc.getD d LeaseClock.reset)) ∧
      ∀ d, d < 4 → (s.h.lc.getD d LeaseClock.reset).event = false → s.apart peers d 2 40 = true →
        ∃ r ∈ rs, r.reportsLeaseClock (s.now d) := by
  obtain ⟨lc, u, rs, hfold, hlc, -, hrs⟩ := foldl_dieAgreement peers (List.nodup_range (n := 4)) (s.keepPeers peers)
    fun d hd => by simpa [State.keepPeers, hlen] using hd
  refine ⟨lc, u, rs, ?_, fun d hd => hlc d (List.mem_range.2 hd), fun d hd => hrs d (List.mem_range.2 hd)⟩
  rw [← hfold]
  rfl

/-- GUARD_EXIT leaves the guard state after 1,000,000 ns of agreement (R410). -/
theorem exec_guardExit_calm {s : State} {d : Nat} (hg : (s.h.lc.getD d LeaseClock.reset).guard = true)
    (hc : (s.h.lc.getD d LeaseClock.reset).calm + 1000000 ≤ s.now d) :
    exec (.guardExit d) s = .next { s with h := { s.h with lc := s.h.lc.modify d fun l => { l with guard := false } } } := by
  refine congrArg Host.Outcome.next (if_pos ?_)
  simp only [hg, hc, decide_true, Bool.and_true]

/-- GUARD_EXIT leaves a state that is not guarded, or not for long enough in agreement. -/
theorem exec_guardExit_keep {s : State} {d : Nat} (h : (s.h.lc.getD d LeaseClock.reset).guard = false ∨
    s.now d < (s.h.lc.getD d LeaseClock.reset).calm + 1000000) : exec (.guardExit d) s = .next s := by
  refine congrArg Host.Outcome.next (if_neg fun hand => ?_)
  obtain ⟨hg, hc⟩ := (Bool.and_eq_true _ _).mp hand
  rcases h with h | h
  · exact absurd hg (Bool.not_eq_true _ ▸ h)
  · exact absurd (of_decide_eq_true hc) (Nat.not_le.2 h)

/-- A write of CLR zeroes SKEW alone (R410). -/
theorem write_clr (l : LeaseClock) : l.write 4#64 = { l with skew := 0#32 } := by
  simp [LeaseClock.write]

/-- LCSTAT_CLEAR zeroes SKEW alone. -/
theorem exec_lcstatClear (d : Nat) (s : State) :
    exec (.lcstatClear d) s = .next { s with h := { s.h with lc := s.h.lc.modify d fun l => { l with skew := 0#32 } } } := by
  simp only [exec, execLcstatClear, updAt, write_clr]

end Sys2Proof.Machine

namespace Sys2Proof

open Machine

/-- Settles O48: each die's part is read off `State.compared`, the copies off `mem_dropGuarded`. That a record is owed only
where EVENT becomes set, and that the hubs keep the peers' leads, is the model's choice (log 15). -/
theorem timeAgreement : Obligations.TimeAgreement := by
  refine ⟨fun s peers hlen => ?_, fun s d _ => ⟨exec_guardExit_calm, exec_guardExit_keep, exec_lcstatClear d s⟩⟩
  obtain ⟨lc, u, rs, hx, hlc, hrs⟩ := exec_timeAgreementCheck s peers hlen
  refine ⟨_, rs, hx, rfl, rfl, rfl, rfl, rfl, rfl, fun d hd => ?_, ?_⟩
  · intro l k die link off late
    have hk : k = s.compared peers d l := hlc d hd
    have hoff : s.apart peers d 1 20 = true ↔ off := apart_iff s peers d 1 20
    have hlate : s.apart peers d 2 40 = true ↔ late := apart_iff s peers d 2 40
    rw [hk]
    refine ⟨?_, ?_, ?_, ?_, fun e he => compared_die peers l he, fun j hj => compared_link peers l hj, ?_, ?_, ?_, ?_, ?_⟩
    · simp [State.compared, hoff]
    · simp [State.compared, hlate]
    · exact fun h => if_pos (hoff.2 h)
    · exact fun h => if_neg (mt hoff.1 h)
    · exact (le_max_left _ _).trans_eq (compared_skew_toNat s peers d l).symm
    · exact fun e he => le_compared_skew l (mem_gaps.2 (.inl ⟨e, he, rfl⟩))
    · exact fun j hj => le_compared_skew l (mem_gaps.2 (.inr ⟨j, hj, rfl⟩))
    · refine (compared_skew_cases s peers d l).imp_right ?_
      rintro ⟨n, hn, hv⟩
      rcases mem_gaps.1 hn with ⟨e, he, rfl⟩ | ⟨j, hj, rfl⟩
      · exact .inl ⟨e, he, hv⟩
      · exact .inr ⟨j, hj, hv⟩
    · exact fun hev h => hrs d hd hev (hlate.2 h)
  · intro guarded
    have hg (c : Copy) : ((s.keepPeers peers).withClocks lc u rs).guarded (homeDie (256 * c.line)) = true ↔ guarded c :=
      Bool.or_eq_true _ _ ▸ Iff.rfl
    refine ⟨fun c hc ho hgd => ?_, fun c hc h => ?_, fun c hc hgd ho hm => ?_, fun c hc => ?_⟩
    · rcases mem_dropGuarded.1 hc with ⟨-, h⟩ | ⟨b, -, -, -, hm, rfl⟩
      · simp [ho, (hg c).2 hgd] at h
      · exact ⟨rfl, hm⟩
    · exact mem_dropGuarded.2 (.inl ⟨hc, h.symm.imp_right fun hn => Bool.eq_false_of_not_eq_true (mt (hg c).1 hn)⟩)
    · exact mem_dropGuarded.2 (.inr ⟨c, hc, ho, (hg c).2 hgd, hm, rfl⟩)
    · rcases mem_dropGuarded.1 hc with ⟨h, -⟩ | ⟨b, hb, -, -, -, rfl⟩
      · exact ⟨c, h, rfl⟩
      · exact ⟨b, hb, rfl⟩

end Sys2Proof
end

section
/-! What a step does with a word of an open clause and with an event (R34, R37, R38, R137, R355, R389, R449), and the placed
word (log 5). Settles O59. -/

namespace Sys2Proof.Machine

/-! Threads that are no replay's: the trace takes no part in their words (R435, R438) -/

/-- The open clause of a slice stands in that slice. -/
theorem issue?_place {s : State} {core slice : Nat} {c : Issue} (h : s.issue? core slice = some c) :
    c.core = core ∧ c.slice = slice := by
  simpa using List.find?_some h

/-- A bundle without threads of a replay forgets nothing before its word. -/
theorem traceBegin_noReplay {s : State} {us : List Thread} (h : ∀ t ∈ us, t.isReplay = false) : s.traceBegin us = s := by
  unfold State.traceBegin
  induction us with
  | nil => rfl
  | cons t us ih =>
    rw [List.foldl_cons, h t List.mem_cons_self]
    exact ih fun u hu => h u (List.mem_cons_of_mem _ hu)

/-- A word has its plain effect where no thread is a replay's. -/
theorem replayWord_noReplay {s : State} (h : ∀ t ∈ s.x.threads, t.isReplay = false) (i : Instr) (w : DWord) :
    s.replayWord i w = none := by
  have hany : (s.members.filterMap s.thread?).any Thread.isReplay = false := by
    refine List.any_eq_false.2 fun t ht => ?_
    obtain ⟨u, -, hu⟩ := List.mem_filterMap.1 ht
    simp [h t (thread?_mem hu).1]
  unfold State.replayWord
  exact if_pos (by rw [hany]; rfl)

/-- A word adds nothing to a trace where no thread is a replay's. -/
theorem traceWord_noReplay {s : State} (h : ∀ t ∈ s.x.threads, t.isReplay = false) (us : List Thread) (i : Option Instr)
    (paired : Bool) (w : DWord) (u0 : Nat) : s.traceWord us i paired w u0 = s := by
  refine List.foldl_fixed' (fun t => ?_) us
  cases hn : s.thread? t.uid with
  | none => rfl
  | some now =>
    have hnow := h now (thread?_mem hn).1
    cases hk : now.kind with
    | replay m named => simp [Thread.isReplay, hk] at hnow
    | _ => simp only [hk]

/-! The word takes its turn -/

/-- The members stand at their word, and no other thread moves. -/
theorem beginWord_threads (s : State) (c : Issue) : (s.beginWord c).x.threads = s.x.threads.map fun t =>
    if t.inSlice c.core c.slice then { t with pc := wordAddr c.hdr c.pos } else t := rfl

/-- A word's turn re-creates no thread. -/
theorem beginWord_noReplay {s : State} (h : ∀ t ∈ s.x.threads, t.isReplay = false) (c : Issue) :
    ∀ t ∈ (s.beginWord c).x.threads, t.isReplay = false := by
  intro t ht
  rw [beginWord_threads] at ht
  obtain ⟨u, hu, rfl⟩ := List.mem_map.1 ht
  split <;> exact h u hu

/-- A thread stands in a slice's bundle where it issues there and has raised nothing. -/
theorem inSlice_iff (t : Thread) (core slice : Nat) :
    t.inSlice core slice = true ↔ t.status = .issued ∧ t.core = core ∧ t.slice = slice ∧ t.trap = none := by
  simp [Thread.inSlice, and_assoc]

/-! The plan of a word with members (R38, R389) -/

/-- The window of a long-latency word closes inside its clause (R38). -/
def Issue.closesInside (c : Issue) : Bool := wordLong c.paired c.next && decide (wordLa c.next < c.words.length - c.pos)

section
variable {s : State} {c : Issue} (hm : s.sliceMembers c.core c.slice ≠ []) (hp : c.pos < c.words.length)
include hm hp

/-- A clause with a member and a word left does not close. -/
theorem not_closes : ((s.sliceMembers c.core c.slice).isEmpty || decide (c.words.length ≤ c.pos)) = false := by
  simp [hm, hp]

theorem wordPlan_ok {i : Instr} (hd : decode c.paired c.next = .ok i) : s.wordPlan c =
    if c.closesInside then .raiseAll .lookaheadHazard
    else if s.wordHeld c (s.sliceMembers c.core c.slice) || s.overfull c i then .wait else .run i := by
  simp only [State.wordPlan, not_closes hm hp, hd]
  rfl

theorem wordPlan_illegalOperand {all : Bool} (hd : decode c.paired c.next = .error (.illegalOperand all)) : s.wordPlan c =
    if c.closesInside then .raiseAll .lookaheadHazard
    else if s.wordHeld c (s.sliceMembers c.core c.slice) then .wait else .encoding all := by
  simp only [State.wordPlan, not_closes hm hp, hd]
  rfl

theorem wordPlan_illegalOpcode (hd : decode c.paired c.next = .error .illegalOpcode) :
    s.wordPlan c = .raiseAll .illegalOpcode := by
  simp only [State.wordPlan, not_closes hm hp, hd]
  rfl

theorem wordPlan_pairViolation (hd : decode c.paired c.next = .error .pairViolation) :
    s.wordPlan c = .raiseAll .pairViolation := by
  simp only [State.wordPlan, not_closes hm hp, hd]
  rfl

/-- A word that decodes issues unless its window closes inside its clause, it is held back or it asks for too much. -/
theorem wordPlan_run {i : Instr} (hd : decode c.paired c.next = .ok i) (hl : c.closesInside = false)
    (hh : s.wordHeld c (s.sliceMembers c.core c.slice) = false) (ho : s.overfull c i = false) : s.wordPlan c = .run i := by
  simp [wordPlan_ok hm hp hd, hl, hh, ho]

theorem wordPlan_ok_wait {i : Instr} (hd : decode c.paired c.next = .ok i) (hl : c.closesInside = false)
    (hh : s.wordHeld c (s.sliceMembers c.core c.slice) = true ∨ s.overfull c i = true) : s.wordPlan c = .wait := by
  simp [wordPlan_ok hm hp hd, hl, hh]

theorem wordPlan_ok_lookahead {i : Instr} (hd : decode c.paired c.next = .ok i) (hl : c.closesInside = true) :
    s.wordPlan c = .raiseAll .lookaheadHazard := by
  simp [wordPlan_ok hm hp hd, hl]

/-- Operand fields that no instruction takes raise their code where the word would issue. -/
theorem wordPlan_encoding {all : Bool} (hd : decode c.paired c.next = .error (.illegalOperand all)) (hl : c.closesInside = false)
    (hh : s.wordHeld c (s.sliceMembers c.core c.slice) = false) : s.wordPlan c = .encoding all := by
  simp [wordPlan_illegalOperand hm hp hd, hl, hh]

theorem wordPlan_illegalOperand_wait {all : Bool} (hd : decode c.paired c.next = .error (.illegalOperand all))
    (hl : c.closesInside = false) (hh : s.wordHeld c (s.sliceMembers c.core c.slice) = true) : s.wordPlan c = .wait := by
  simp [wordPlan_illegalOperand hm hp hd, hl, hh]

theorem wordPlan_illegalOperand_lookahead {all : Bool} (hd : decode c.paired c.next = .error (.illegalOperand all))
    (hl : c.closesInside = true) : s.wordPlan c = .raiseAll .lookaheadHazard := by
  simp [wordPlan_illegalOperand hm hp hd, hl]

end

/-! A step whose turn is a word -/

/-- What is left to do after the word of an open clause. -/
def State.wordEnd (s : State) (c : Issue) (ins : Option Instr) : WordEnd :=
  ⟨c.core, c.slice, (s.sliceMembers c.core c.slice).map fun t => { t with pc := wordAddr c.hdr c.pos }, ins, c.paired, c.next,
    s.x.nextUid + 1⟩

/-- The threads at which a test holds raise a code, which is delivered (R374, R379). -/
def State.raiseWhere (b : State) (hit : Thread → Bool) (code : Code) : State :=
  (b.mapThreads fun t => if hit t then b.trapped t (Cause.of code) else t).settle

/-- A word's turn of a running device takes up the slice's open clause. -/
theorem todo_word {s : State} {core slice : Nat} {rest : List Choice} {c : Issue} (ha : s.agenda = .word core slice :: rest)
    (hb : s.b.booted = true) (hf : s.b.frozen = false) (hc : ({ s with agenda := rest } : State).issue? core slice = some c) :
    s.todo = ({ s with agenda := rest } : State).wordTurn c := by
  simp [todo_agenda ha, State.choose, hc, State.alive, hb, hf]

theorem wordTurn_wait {s : State} {c : Issue} (hp : s.wordPlan c = .wait) : s.wordTurn c = .done s := by
  simp [State.wordTurn, hp]

section
variable {s : State} {c : Issue} (hr : ∀ t ∈ s.x.threads, t.isReplay = false)
include hr

/-- The word's turn begins with the members at the word, and no more. -/
theorem wordTurn_begin : (s.beginWord c).traceBegin (s.sliceMembers c.core c.slice) = s.beginWord c :=
  traceBegin_noReplay fun t ht => hr t (List.mem_filter.1 ht).1

theorem wordTurn_raiseAll {code : Code} (hp : s.wordPlan c = .raiseAll code) :
    s.wordTurn c = .done (((s.beginWord c).raiseWhere (s.beginWord c).member code).closeClause c.core c.slice) := by
  simp only [State.wordTurn, hp, wordTurn_begin hr]
  rfl

theorem wordTurn_encoding {all : Bool} (hp : s.wordPlan c = .encoding all) : s.wordTurn c =
    .done (((s.beginWord c).raiseWhere (fun t => (s.beginWord c).member t && (all || t.guard (wordGuard c.next)))
      .illegalOperand).finishWord (s.wordEnd c none)) := by
  simp only [State.wordTurn, hp, wordTurn_begin hr]
  rfl

theorem wordTurn_run {i : Instr} (hp : s.wordPlan c = .run i) :
    s.wordTurn c = .word i (s.beginWord c) (s.wordEnd c (some i)) := by
  simp only [State.wordTurn, hp, wordTurn_begin hr, replayWord_noReplay (beginWord_noReplay hr c)]
  rfl

end

section
variable {s s0 : State} {c : Issue} (ht : s.todo = s0.wordTurn c)
include ht

/-- A word that is held back leaves the state (log 20). -/
theorem step_wait (hp : s0.wordPlan c = .wait) : step s = .next s0.tidy := step_done (ht.trans (wordTurn_wait hp))

variable (hr : ∀ t ∈ s0.x.threads, t.isReplay = false)
include hr

/-- A word with a code that no guard holds back ends its clause. -/
theorem step_raiseAll {code : Code} (hp : s0.wordPlan c = .raiseAll code) :
    step s = .next (((s0.beginWord c).raiseWhere (s0.beginWord c).member code).closeClause c.core c.slice).tidy :=
  step_done (ht.trans (wordTurn_raiseAll hr hp))

/-- A word whose operand fields no instruction takes is a word like any other but for its code (R389). -/
theorem step_encoding {all : Bool} (hp : s0.wordPlan c = .encoding all) : step s =
    .next (((s0.beginWord c).raiseWhere (fun t => (s0.beginWord c).member t && (all || t.guard (wordGuard c.next)))
      .illegalOperand).finishWord (s0.wordEnd c none)).tidy :=
  step_done (ht.trans (wordTurn_encoding hr hp))

/-- A word that may issue runs what it decodes to, and then its clause goes on or ends. -/
theorem step_run {i : Instr} (hp : s0.wordPlan c = .run i) :
    step s = match exec i (s0.beginWord c) with
      | .next u => .next (u.finishWord (s0.wordEnd c (some i))).tidy
      | o => o := by
  obtain ⟨u, hu⟩ := exec_next i (s0.beginWord c)
  simp only [hu, step_word (ht.trans (wordTurn_run hr hp)) hu]

end

/-! A step whose turn is an event -/

/-- A step whose turn is an event that may happen runs it, and then what follows every step. -/
theorem step_may {s : State} {i : Instr} {rest : List Choice} (ha : s.agenda = .act i :: rest) (hm : s.may i = true) :
    step s = match exec i { s with agenda := rest } with
      | .next u => .next u.tidy
      | o => o := by
  obtain ⟨u, hu⟩ := exec_next i { s with agenda := rest }
  simp only [hu, step_act ((todo_agenda ha).trans (choose_may (s := { s with agenda := rest }) hm)) hu]

/-- A step whose turn is an event that may not happen does nothing but what follows every step (log 3). -/
theorem step_mayNot {s : State} {i : Instr} {rest : List Choice} (ha : s.agenda = .act i :: rest) (hm : s.may i = false) :
    step s = .next ({ s with agenda := rest } : State).tidy :=
  step_done ((todo_agenda ha).trans (choose_mayNot (s := { s with agenda := rest }) hm))

/-- BOOT is the only event of the board controller that boots. -/
theorem bootEvent_false {i : Instr} (h : ∀ b, i ≠ .boot b) : bootEvent i = false := by
  unfold bootEvent
  split
  · next b => exact absurd rfl (h b)
  · rfl

theorem may_word {s : State} {i : Instr} (h : i.layout.isSome = true) : s.may i = false := by
  simp [State.may, ← Option.not_isSome, h]

theorem may_frozen {s : State} {i : Instr} (hf : s.b.frozen = true) (hd : debugEvent i = false) : s.may i = false := by
  simp [State.may, hf, hd]

theorem may_unbooted {s : State} {i : Instr} (hb : s.b.booted = false) (hd : debugEvent i = false) (hi : ∀ b, i ≠ .boot b) :
    s.may i = false := by
  simp [State.may, hb, hd, bootEvent_false hi]

theorem may_event {s : State} {i : Instr} (h : i.layout = none) (hb : s.b.booted = true) (hf : s.b.frozen = false) :
    s.may i = true := by
  simp [State.may, h, hb, hf]

/-! What follows a word (R34, R133, R137) -/

/-- A closed clause is no open clause of its slice. -/
theorem closeClause_issue? (s : State) (core slice : Nat) : (s.closeClause core slice).issue? core slice = none := by
  unfold State.closeClause
  split
  · assumption
  · refine List.find?_eq_none.2 fun i hi => ?_
    simpa only [Bool.not_eq_true', Bool.not_eq_true] using (List.mem_filter.1 hi).2

/-- The members left at the end of a clause stand at the boundary after it. -/
theorem closeClause_threads {s : State} {core slice : Nat} {c : Issue} (hc : s.issue? core slice = some c) :
    (s.closeClause core slice).x.threads = s.x.threads.map fun t =>
      if t.status == .issued && t.core == core && t.slice == slice then t.fallThrough (wordAddr c.hdr c.words.length) else t := by
  simp only [State.closeClause, hc]

section
variable {u : State} {e : WordEnd} {c : Issue} (hc : u.issue? e.core e.slice = some c)
  (hr : ∀ t ∈ u.x.threads, t.isReplay = false)
include hc hr

theorem finishWord_noReplay : u.finishWord e =
    if (u.sliceMembers e.core e.slice).isEmpty || decide (c.words.length ≤ c.pos) then u.closeClause e.core e.slice else u := by
  simp only [State.finishWord, traceWord_noReplay hr, State.endWord, hc]

/-- A clause with a word and a member left stays open. -/
theorem finishWord_open (hp : c.pos < c.words.length) (hm : ∃ t ∈ u.x.threads, t.inSlice e.core e.slice = true) :
    u.finishWord e = u := by
  obtain ⟨t, ht, hi⟩ := hm
  have hne : u.sliceMembers e.core e.slice ≠ [] := List.ne_nil_of_mem (List.mem_filter.2 ⟨ht, hi⟩)
  simp [finishWord_noReplay hc hr, hne, hp]

/-- A clause closes after its last word. -/
theorem finishWord_last (hp : c.words.length ≤ c.pos) : u.finishWord e = u.closeClause e.core e.slice := by
  simp [finishWord_noReplay hc hr, hp]

end

/-! The placed word (log 5) -/

/-- A state whose one open clause is another. -/
def State.withIssue (s : State) (c : Issue) : State := { s with x := { s.x with issues := [c] } }

@[simp] theorem withIssue_agenda (s : State) (c : Issue) : (s.withIssue c).agenda = s.agenda := rfl
@[simp] theorem withIssue_b (s : State) (c : Issue) : (s.withIssue c).b = s.b := rfl
@[simp] theorem withIssue_x_threads (s : State) (c : Issue) : (s.withIssue c).x.threads = s.x.threads := rfl
@[simp] theorem withIssue_x_flights (s : State) (c : Issue) : (s.withIssue c).x.flights = s.x.flights := rfl
@[simp] theorem withIssue_e (s : State) (c : Issue) : (s.withIssue c).e = s.e := rfl

/-- The clause is open in its own slice. -/
theorem withIssue_issue? (s : State) (c : Issue) : (s.withIssue c).issue? c.core c.slice = some c := by
  simp [State.withIssue, State.issue?]

/-- The state in which a placed word stands, but for the word: NOP takes its place. -/
def placed : State := State.reset.withWord false 0#64

/-- The open clause of a placed word: its class is the word's. -/
def placedIssue (w : DWord) : Issue :=
  ⟨0, 0, lrEntry wordRecord, 0xB000000000000000#64 ||| (BitVec.ofNat 64 ((opClass (bits w 56 8)).getD 0) <<< 52) ||| 0#64, [w], 0,
    placed.x.nextUid⟩

/-- A placed word decides no more of its state than the clause that holds it. -/
theorem withFetchWord_reset (w : DWord) : State.reset.withFetchWord 64 w.toNat = placed.withIssue (placedIssue w) := by
  have hnone : placed.x.issues.dropLast = [] := by decide +kernel
  have hlast : State.reset.withWord false w =
      { placed with x := { placed.x with issues := placed.x.issues.dropLast ++ [placedIssue w] } } := by
    unfold placedIssue placed State.withWord
    dsimp only
    generalize State.placeTeam _ _ _ _ _ _ _ = r
    simp only [List.dropLast_concat]
    rfl
  rw [State.withFetchWord, BitVec.ofNat_toNat, BitVec.setWidth_eq]
  exact hlast.trans (by rw [hnone]; rfl)

/-- The placed word is what the next step runs, and nothing is in flight. -/
theorem placed_idle : placed.agenda = [.word 0 0] ∧ placed.b.booted = true ∧ placed.b.frozen = false ∧ placed.x.flights = [] ∧
    placed.e.rays = [] := by decide +kernel

/-- A placed word stands alone, and unpaired. -/
theorem placedIssue_paired (w : DWord) : (placedIssue w).paired = false := by
  simp [Issue.paired, placedIssue, hdrPair]

/-- One thread stands at a placed word: its registers and predicates are zero, and nothing has befallen it. -/
theorem placed_thread : ∃ t, placed.x.threads = [t] ∧ t.inSlice 0 0 = true ∧ t.isReplay = false ∧ t.freshTrap = false ∧
    t.v = List.replicate 256 0#32 ∧ t.p = 0#64 := by
  obtain ⟨t, ht⟩ := List.length_eq_one_iff.1 (by decide +kernel : placed.x.threads.length = 1)
  have hall : ∀ t ∈ placed.x.threads, t.inSlice 0 0 = true ∧ t.isReplay = false ∧ t.freshTrap = false ∧
    t.v = List.replicate 256 0#32 ∧ t.p = 0#64 := by decide +kernel
  exact ⟨t, ht, hall t (ht ▸ List.mem_singleton_self t)⟩

section
variable {s : State} (hf : s.x.flights = [])
include hf

/-- Nothing in flight asks for sectors. -/
theorem requests_noFlight (core : Nat) : s.requests core = 0 := by simp [State.requests, hf]

theorem overfull_noFlight (c : Issue) (i : Instr) : s.overfull c i = false := by simp [State.overfull, requests_noFlight hf]

/-- Nothing holds a word back where nothing is in flight (R37, R75, R93). -/
theorem wordHeld_noFlight (hy : s.e.rays = []) {ms : List Thread} (hr : ∀ t ∈ ms, t.isReplay = false) (c : Issue) :
    s.wordHeld c ms = false := by
  have hwaits (t : Thread) : s.wordWaits c.paired c.next t = false := by
    simp [State.wordWaits, State.blocked, State.reaching, State.busyThread, hf, hy]
  have htrace (t : Thread) (ht : t ∈ ms) : s.traceHolds t = false := by simp [State.traceHolds, hr t ht]
  simpa [State.wordHeld, requests_noFlight hf, hwaits] using htrace

end

end Sys2Proof.Machine

namespace Sys2Proof

open Machine

/-- Settles O59: a word's turn by its plan, an event by whether it may happen, what follows a word by whether its clause ends, and
the placed word by the state that it stands in. That an event that may not happen leaves the state is the model's choice (log 3),
as are the words that a fence in flight holds back (log 20) and the placing of a word (log 5). -/
theorem stepRunsWord : Obligations.StepRunsWord := by
  refine ⟨?_, fun s i rest ha => ⟨step_may ha, step_mayNot ha, may_word, may_frozen, may_unbooted, may_event⟩,
    fun u e c hc hr => ⟨finishWord_open hc hr, fun hp => ?_⟩, fun w => ?_⟩
  · intro s core slice rest c ha hb hf s0 ms at_ hc hm hp hr
    obtain ⟨rfl, rfl⟩ := issue?_place hc
    have ht : s.todo = s0.wordTurn c := todo_word ha hb hf hc
    have hraise {code : Code} := step_raiseAll (code := code) ht hr
    refine ⟨s0.beginWord c, rfl, rfl, rfl, rfl, rfl, ?_, fun i hd hl hh ho => ?_, fun i hd hl hh => ?_, fun i hd hl => ?_,
      fun all hd => ⟨fun hl => ?_, fun hl hh => ?_, fun hl hh => ?_⟩, fun hd => ?_, fun hd => ?_⟩
    · simp only [beginWord_threads, inSlice_iff]
      rfl
    · exact ⟨s0.wordEnd c (some i), rfl, rfl, rfl, step_run ht hr (wordPlan_run hm hp hd hl hh ho)⟩
    · exact step_wait ht (wordPlan_ok_wait hm hp hd hl hh)
    · exact hraise (wordPlan_ok_lookahead hm hp hd hl)
    · exact hraise (wordPlan_illegalOperand_lookahead hm hp hd hl)
    · exact step_wait ht (wordPlan_illegalOperand_wait hm hp hd hl hh)
    · exact ⟨s0.wordEnd c none, rfl, rfl, rfl, step_encoding ht hr (wordPlan_encoding hm hp hd hl hh)⟩
    · exact hraise (wordPlan_illegalOpcode hm hp hd)
    · exact hraise (wordPlan_pairViolation hm hp hd)
  · rw [finishWord_last hc hr hp]
    exact ⟨closeClause_issue? .., by simp [closeClause_threads hc, Thread.fallThrough, wordAddr, and_assoc]⟩
  · rw [withFetchWord_reset]
    obtain ⟨t, ht, hin, hr, hfresh, hv, hp⟩ := placed_thread
    obtain ⟨hagenda, hb, hf, hflights, hrays⟩ := placed_idle
    have hms : (placed.withIssue (placedIssue w)).sliceMembers 0 0 = [t] := by
      simp [State.sliceMembers, ht, hin]
    refine ⟨by simp [hagenda], by simp [hb], by simp [hf], placedIssue w, t, withIssue_issue? _ (placedIssue w), rfl, rfl,
      placedIssue_paired w, hms, by simp [ht], hr, hv, hp, ?_, ?_, ?_⟩
    · exact wordHeld_noFlight (by simpa using hflights) (by simpa using hrays) (by simpa using hr) _
    · exact overfull_noFlight (by simpa using hflights) _
    · simpa [State.calm, ht] using hfresh

end Sys2Proof
end

section
/-! Looking up threads and teams after a named update, and what completing an instruction in flight does (R36). -/

namespace Sys2Proof.Machine

/-! Looking up after an update -/

/-- The thread of a uid after every thread has changed and kept its uid. -/
theorem thread?_mapThreads {s : State} {f : Thread → Thread} (h : ∀ t, (f t).uid = t.uid) (u : Nat) :
    (s.mapThreads f).thread? u = (s.thread? u).map f := by
  have hc : ((fun t : Thread => t.uid == u) ∘ f) = fun t => t.uid == u := funext fun t => by simp [h]
  unfold State.thread?
  rw [mapThreads_x_threads, List.find?_map, hc]

/-- The thread of a uid after one thread has changed and kept its uid. -/
theorem thread?_updThread {s : State} {w : Nat} {f : Thread → Thread} (h : ∀ t, (f t).uid = t.uid) (u : Nat) :
    (s.updThread w f).thread? u = (s.thread? u).map fun t => if u = w then f t else t := by
  unfold State.updThread
  rw [thread?_mapThreads (fun t => by split <;> simp [h])]
  cases ht : s.thread? u with
  | none => rfl
  | some t => simp [(thread?_mem ht).2]

/-- The team of a uid after one team has changed and kept its uid. -/
theorem team?_updTeam {s : State} {w : Nat} {f : Team → Team} (h : ∀ t, (f t).uid = t.uid) (u : Nat) :
    (s.updTeam w f).team? u = (s.team? u).map fun t => if u = w then f t else t := by
  have hc : ((fun t : Team => t.uid == u) ∘ fun t : Team => if t.uid == w then f t else t) = fun t => t.uid == u := by
    funext t
    simp only [Function.comp_apply]
    split <;> simp [h]
  unfold State.team? State.updTeam
  simp only [List.find?_map, hc]
  cases ht : s.x.teams.find? fun t => t.uid == u with
  | none => rfl
  | some t =>
    have : t.uid = u := by simpa using List.find?_some ht
    simp [this]

/-- The team of a uid has that uid. -/
theorem team?_uid {s : State} {u : Nat} {tm : Team} (h : s.team? u = some tm) : tm.uid = u := by
  simpa using List.find?_some h

/-- A thread's team is the team of its own uid. -/
theorem teamOf_team? {s : State} {t : Thread} {tm : Team} (h : s.teamOf t = some tm) :
    t.team = some tm.uid ∧ s.team? tm.uid = some tm := by
  obtain ⟨u, hu, ht⟩ := Option.bind_eq_some_iff.1 h
  rw [team?_uid ht]
  exact ⟨hu, ht⟩

@[simp] theorem mapThreads_team? (s : State) (f : Thread → Thread) : (s.mapThreads f).team? = s.team? := rfl
@[simp] theorem updThread_team? (s : State) (u : Nat) (f : Thread → Thread) : (s.updThread u f).team? = s.team? := rfl
@[simp] theorem dropFlight_team? (s : State) (u : Nat) : (s.dropFlight u).team? = s.team? := rfl
@[simp] theorem dropFlight_thread? (s : State) (u : Nat) : (s.dropFlight u).thread? = s.thread? := rfl
@[simp] theorem updTeam_thread? (s : State) (u : Nat) (f : Team → Team) : (s.updTeam u f).thread? = s.thread? := rfl

/-- A convergence register after one of a team has changed. -/
theorem kget_modify {tm : Team} {k : Nat} (f : ConvReg → ConvReg) (hk : k < tm.k.length) (j : Nat) :
    ({ tm with k := tm.k.modify k f } : Team).kget j = if k = j then f (tm.kget j) else tm.kget j := by
  rcases eq_or_ne k j with rfl | h
  · simp [Team.kget, List.getD_eq_getElem?_getD, hk]
  · simp [Team.kget, List.getD_eq_getElem?_getD, h]

/-! Completing an instruction in flight -/

/-- A thread as the completion of a flight leaves it: its counter falls, where the word has one that has not fallen yet. -/
def Flight.counted (f : Flight) (t : Thread) : Thread :=
  if t.uid = f.thread ∧ f.posted = false then
    match f.qc with
    | some q => t.qsub q
    | none => t
  else t

/-- Completing a flight takes it away and lowers its thread's counter, and does nothing else. -/
theorem finish_eq (s : State) (f : Flight) : s.finish f = (s.dropFlight f.uid).mapThreads f.counted := by
  have hid (g : Thread → Thread) (hg : ∀ t, g t = t) : (s.dropFlight f.uid).mapThreads g = s.dropFlight f.uid := by
    obtain rfl : g = id := funext hg
    unfold State.mapThreads
    rw [List.map_id]
  unfold State.finish
  cases hq : f.qc with
  | none => exact (hid _ fun t => by simp [Flight.counted, hq]).symm
  | some q =>
    cases hp : f.posted with
    | true => exact (hid _ fun t => by simp [Flight.counted, hp]).symm
    | false =>
      refine congrArg (State.mapThreads _) (funext fun t => ?_)
      simp [Flight.counted, hq, hp]

/-- The counters are all that the completion of a flight changes of a thread. -/
theorem counted_like (f : Flight) (t : Thread) : t.like (f.counted t) := by
  unfold Flight.counted
  split
  · split
    · exact ⟨_, rfl⟩
    · exact t.like_refl
  · exact t.like_refl

section
variable (f : Flight) (t : Thread)

@[simp] theorem counted_uid : (f.counted t).uid = t.uid := by obtain ⟨q, h⟩ := counted_like f t; rw [h]
@[simp] theorem counted_v : (f.counted t).v = t.v := by obtain ⟨q, h⟩ := counted_like f t; rw [h]
@[simp] theorem counted_p : (f.counted t).p = t.p := by obtain ⟨q, h⟩ := counted_like f t; rw [h]
@[simp] theorem counted_pc : (f.counted t).pc = t.pc := by obtain ⟨q, h⟩ := counted_like f t; rw [h]
@[simp] theorem counted_team : (f.counted t).team = t.team := by obtain ⟨q, h⟩ := counted_like f t; rw [h]
@[simp] theorem counted_trap : (f.counted t).trap = t.trap := by obtain ⟨q, h⟩ := counted_like f t; rw [h]
@[simp] theorem counted_status : (f.counted t).status = t.status := by obtain ⟨q, h⟩ := counted_like f t; rw [h]
@[simp] theorem counted_kind : (f.counted t).kind = t.kind := by obtain ⟨q, h⟩ := counted_like f t; rw [h]

end

@[simp] theorem finish_team? (s : State) (f : Flight) : (s.finish f).team? = s.team? := by rw [finish_eq]; rfl

theorem finish_thread? (s : State) (f : Flight) (u : Nat) : (s.finish f).thread? u = (s.thread? u).map f.counted := by
  rw [finish_eq, thread?_mapThreads (counted_uid f)]; rfl

/-- INSTRUCTION_COMPLETE of a flight that can go on does what its operation does. -/
theorem exec_instructionComplete {s : State} {f : Flight} (hf : s.flight? f.uid = some f) (hm : s.mayComplete f = true) :
    exec (.instructionComplete f.uid) s = .next (s.completeOp f) := by
  simp [exec, execInstructionComplete, hf, hm]

/-- A flight of a team on its core, which waits for no error record, can go on. -/
theorem mayComplete_of {s : State} {f : Flight} {t : Thread} (ht : s.thread? f.thread = some t) (hs : s.swappedOut t = false)
    (hst : f.stalled = none) : s.mayComplete f = true := by
  simp [State.mayComplete, hst, ht, hs]

/-- Each run of registers lies below the block limit. -/
theorem inBlocks_cons {t : Thread} {r : VReg × Nat} {rs : List (VReg × Nat)} :
    t.inBlocks (r :: rs) = true ↔ r.1.toNat + r.2 ≤ t.v.length ∧ t.inBlocks rs = true := by
  simp [Thread.inBlocks]

@[simp] theorem inBlocks_nil (t : Thread) : t.inBlocks [] = true := rfl

end Sys2Proof.Machine
end

section
/-! The state after reset. Settles O55. -/

namespace Sys2Proof.Machine

/-- Every context is the reset context. -/
theorem reset_ctx (c : Nat) : State.reset.ctx c = Ctx.reset :=
  (List.getD_eq_getElem?_getD ..).trans (List.getElem?_getD_replicate_default_eq ..)

/-- A machine that has not booted takes up BOOT and the debug port's events alone. -/
theorem may_reset {i : Instr} (h : State.reset.may i = true) : debugEvent i = true ∨ ∃ b, i = .boot b := by
  by_contra hn
  obtain ⟨hd, hb⟩ := not_or.1 hn
  rw [may_unbooted rfl (by simpa using hd) (by simpa using hb)] at h
  exact Bool.false_ne_true h

end Sys2Proof.Machine

namespace Sys2Proof

open Machine

/-- Settles O55: each field is read off `State.reset`, and what may happen first is `may_reset`. -/
theorem resetState : Obligations.ResetState := by
  refine ⟨rfl, rfl, rfl, rfl, rfl, rfl, rfl, rfl, rfl, rfl, rfl, fun _ => rfl, fun _ => rfl, rfl, reset_calm, fun c _ => ?_, rfl,
    fun _ hk => List.getElem?_replicate_of_lt hk, fun d hd => ?_, fun o ho => ?_, rfl, fun _ => rfl, fun i hi => ?_⟩
  · simp [reset_ctx, Ctx.reset]
  · interval_cases d <;> exact ⟨rfl, rfl⟩
  · revert o
    decide
  · rcases may_reset hi with hd | ⟨b, rfl⟩
    · refine ⟨⟨[], false, [], 0, 0, 0, 0, 0⟩, .inr ?_⟩
      cases i <;> simp_all [debugEvent]
    · exact ⟨b, .inl rfl⟩

end Sys2Proof
end

section
/-! Convergence registers: KDECL, SIGN and WAITK (R47, R196 to R198). Settles O30. -/

namespace Sys2Proof.Machine

/-- Putting an instruction in flight leaves every team. -/
@[simp] theorem launchFlight_team? (s : State) (t : Thread) (c : Ctl) (op : FlightOp) :
    (s.launchFlight t c op).team? = s.team? := by
  funext u
  simp [State.team?, (launchFlight_kept s t c op).teams]

/-- A team on its core is not swapped out. -/
theorem swappedOut_of {s : State} {t : Thread} {tm : Team} (ht : s.teamOf t = some tm) (hs : tm.swapped = none) :
    s.swappedOut t = false := by
  simp [State.swappedOut, ht, hs]

/-- A register of a team after it has changed. -/
theorem updK_team? {s : State} {tm : Team} {k : Nat} (f : ConvReg → ConvReg) (ht : s.team? tm.uid = some tm) :
    (s.updK tm.uid k f).team? tm.uid = some { tm with k := tm.k.modify k f } := by
  unfold State.updK
  rw [team?_updTeam (fun _ => by rfl), ht]
  simp

@[simp] theorem updK_thread? (s : State) (team k : Nat) (f : ConvReg → ConvReg) : (s.updK team k f).thread? = s.thread? := rfl

/-- Where no thread is a replay's, the set that must sign is the declared set. -/
theorem kSet_noReplay {s : State} (h : ∀ u ∈ s.x.threads, u.isReplay = false) (tm : Team) (r : ConvReg) :
    s.kSet tm r = r.members := by
  have hany : (s.x.threads.any fun t => t.team == some tm.uid && t.isReplay) = false :=
    List.any_eq_false.2 fun t ht => by simp [h t ht]
  simp [State.kSet, hany]

/-- No signer is held after a change that keeps each thread's team, status and trap. -/
theorem heldSigners_mapThreads {s : State} {g : Thread → Thread} (hteam : ∀ t, (g t).team = t.team)
    (hstatus : ∀ t, (g t).status = t.status) (htrap : ∀ t, (g t).trap = t.trap) (team k : Nat) :
    (s.mapThreads g).heldSigners team k = (s.heldSigners team k).map g := by
  unfold State.heldSigners
  rw [mapThreads_x_threads, List.filter_map]
  refine congrArg (List.map g) (List.filter_congr fun t _ => ?_)
  simp [hteam, hstatus, htrap]

/-- With no signer held, a set that is short of a signer waits. -/
theorem kTry_short {s : State} {tm : Team} {k : Nat} (ht : s.team? tm.uid = some tm)
    (hr : ∀ u ∈ s.x.threads, u.isReplay = false) (hn : (tm.kget k).signed.length < (tm.kget k).members.length)
    (hh : s.heldSigners tm.uid k = []) (bundle : List Nat) : s.kTry tm.uid k bundle = s := by
  unfold State.kTry
  simp only [ht, kSet_noReplay hr]
  rw [if_pos (by simp [hn.ne])]
  simp [State.kMissing, ht, hh]

section
variable {s : State} {t : Thread} {tm : Team} {k : Nat} {f : Flight}
  (ht : s.thread? f.thread = some t) (htm : s.teamOf t = some tm)
include ht htm

/-- KDECL with no earlier one of its register in flight, and no signature, writes the sets. -/
theorem doneKdecl_writes {gm mm : Word} (hfirst : ∀ h ∈ s.x.flights, h.uid = f.uid ∨ f.uid < h.uid)
    (hs : (tm.kget k).signed = []) :
    s.doneKdecl f k gm mm = (s.updK tm.uid k fun r => { r with gmask := gm, mmask := mm, signed := [] }).finish f := by
  have hbefore (p : Flight → Bool) : (s.x.flights.any fun g => decide (g.uid < f.uid) && p g) = false :=
    List.any_eq_false.2 fun g hg => by
      have : ¬ g.uid < f.uid := by have := hfirst g hg; omega
      simp [this]
  unfold State.doneKdecl
  simp only [ht, htm, hs, Bool.and_assoc, hbefore]
  rfl

/-- SIGN of a member that has not signed gives it the generation and records its signature; a set still short of a signer
then waits. -/
theorem doneSign_signs {d : Nat} (hk : k < tm.k.length) (hdone : s.accessesDone f 1 = true) (hhas : (tm.kget k).has t = true)
    (hnot : (tm.kget k).signedBy t.uid = false) (hr : ∀ u ∈ s.x.threads, u.isReplay = false)
    (hheld : s.heldSigners tm.uid k = []) (hn : (tm.kget k).signed.length + 1 < (tm.kget k).members.length) :
    s.doneSign f k d = ((s.finish f).updThread t.uid fun u => u.vset d ((tm.kget k).gen.zeroExtend 32)).updK tm.uid k
      fun r => { r with signed := r.signed ++ [(t.uid, true)] } := by
  let s' : State := ((s.dropFlight f.uid).mapThreads f.counted).updThread t.uid fun u => u.vset d ((tm.kget k).gen.zeroExtend 32)
  have hteam : s'.team? tm.uid = some tm := (teamOf_team? htm).2
  have hreplay : ∀ u ∈ (s'.updK tm.uid k fun r => { r with signed := r.signed ++ [(t.uid, true)] }).x.threads,
      u.isReplay = false := by
    intro u hu
    obtain ⟨v, hv, rfl⟩ := List.mem_map.1 hu
    obtain ⟨w, hw, rfl⟩ := List.mem_map.1 hv
    have := hr w hw
    split <;> simpa [Thread.isReplay] using this
  have hnone : s'.heldSigners tm.uid k = [] := by
    have h1 : ((s.dropFlight f.uid).mapThreads f.counted).heldSigners tm.uid k = [] := by
      rw [heldSigners_mapThreads (counted_team f) (counted_status f) (counted_trap f)]
      exact congrArg (List.map _) hheld
    have h2 := heldSigners_mapThreads (s := (s.dropFlight f.uid).mapThreads f.counted)
      (g := fun u => if u.uid == t.uid then u.vset d ((tm.kget k).gen.zeroExtend 32) else u)
      (fun u => by split <;> rfl) (fun u => by split <;> rfl) (fun u => by split <;> rfl) tm.uid k
    exact h2.trans (congrArg _ h1)
  unfold State.doneSign
  simp only [hdone, ht, htm, hhas, hnot, kSet_noReplay hr, finish_eq, Bool.not_true, Bool.or_false, Bool.false_eq_true, if_false,
    beq_self_eq_true, if_true]
  refine kTry_short (tm := { tm with k := tm.k.modify k _ }) (updK_team? _ hteam) hreplay ?_ hnone []
  rw [kget_modify _ hk]
  simpa [ConvReg.members] using hn

/-- WAITK whose generation has moved on, and whose acquire is done, completes. -/
theorem doneWaitk_completes {g : BitVec 8} {moved : Bool} (hm : moved = true ∨ (tm.kget k).gen ≠ g)
    (ha : s.acquireDone f = true) : s.doneWaitk f k g moved =
      (s.finish f).updThread t.uid fun u => if u.status = .held (.waitk k g) then u.past else u := by
  have : (!moved && (tm.kget k).gen == g) = false := by
    rcases hm with rfl | h
    · rfl
    · simp [h]
  unfold State.doneWaitk
  simp [ht, htm, this, ha]

end

end Sys2Proof.Machine

namespace Sys2Proof

open Machine

/-- Settles O30: the words issue by `lanes_solo`; what completes is one lemma for each. That WAITK of a generation that has passed
completes at once, and does nothing, is the model's choice (log 76). -/
theorem convergenceRegisters : Obligations.ConvergenceRegisters := by
  intro s t tm c k d a b y hsolo hcalm htm huniq _ hin hy hk
  obtain ⟨hteam, htm'⟩ := teamOf_team? htm
  obtain ⟨hdin, hain, hbin⟩ : d.toNat + 1 ≤ t.v.length ∧ a.toNat + 1 ≤ t.v.length ∧ t.inBlocks (bRuns b 1) = true := by
    simpa [inBlocks_cons] using hin
  refine ⟨fun ha hb => ?_, ?_, fun hg => ?_, fun hg => ?_, fun f hf hft hsw hst => ?_⟩
  · refine congrArg Host.Outcome.next (lanes_solo hsolo (by simp [inBlocks_cons, *]) ?_ (calm_launchFlight hcalm _ _ _))
    simp [hy, hteam, ha, hb, bind, Except.bind]
  · refine congrArg Host.Outcome.next (lanes_solo hsolo (by simp [inBlocks_cons, *]) ?_ (calm_launchFlight hcalm _ _ _))
    simp [hteam]
  · refine congrArg Host.Outcome.next (lanes_solo hsolo hbin ?_ hcalm)
    simp [hy, htm, hg, bind, Except.bind]
  · refine congrArg Host.Outcome.next (lanes_solo hsolo hbin ?_
      (calm_updThread (calm_launchFlight hcalm _ _ _) fun _ => rfl))
    simp [hy, htm, hg, bind, Except.bind]
  have ht : s.thread? f.thread = some t := hft ▸ hsolo.2.1
  have hex := exec_instructionComplete hf (mayComplete_of ht (swappedOut_of htm hsw) hst)
  refine ⟨fun g m hop hfirst hs => ?_, fun hop hdone hhas hnot _ hheld hr hshort => ?_, fun moved hop hm ha => ?_⟩
  · rw [State.completeOp, hop] at hex
    simp only [doneKdecl_writes ht htm hfirst hs] at hex
    refine ⟨_, _, hex, (congrFun (finish_team? ..) _).trans (updK_team? _ htm'), ?_, fun j hj => ?_⟩
    · rw [kget_modify _ hk, if_pos rfl, ← hs]
    · rw [kget_modify _ hk, if_neg hj.symm]
  · rw [State.completeOp, hop] at hex
    simp only [doneSign_signs ht htm hk hdone hhas hnot hr hheld hshort] at hex
    refine ⟨_, _, (f.counted t).vset d.toNat ((tm.kget k.toNat).gen.zeroExtend 32), hex, updK_team? _ (by simpa using htm'),
      ?_, by simp, ?_⟩
    · rw [updK_thread?, thread?_updThread (fun _ => by rfl), finish_thread?, hsolo.2.1]
      simp
    · rw [kget_modify _ hk, if_pos rfl]
  · rw [hex, State.completeOp, hop]
    exact congrArg _ (doneWaitk_completes ht htm hm ha)

end Sys2Proof
end

section
/-! A machine with a few threads and nothing else, and the statements that such a machine refutes: O12, O14, O19 and O42. -/

namespace Sys2Proof.Machine

/-- A thread of no team in lane 0 of slice 0 of core 0, with 16 registers, whose word issues. -/
def lone : Thread := { mkThread 1 0 0 0 0 1 none 0 0 0 .team 1 0#64 0#128 with status := .issued }

/-- The machine after reset with threads of its own. -/
def withThreads (ts : List Thread) : State := { State.reset with x := { ExecState.reset with threads := ts } }

/-- What an instruction leaves. -/
def leaves {α : Type} (i : Instr) (s : State) (f : State → α) : Option α :=
  match exec i s with
  | .next s' => some (f s')
  | _ => none

theorem leaves_of {α : Type} {i : Instr} {s s' : State} (h : exec i s = .next s') (f : State → α) : leaves i s f = some (f s') := by
  simp [leaves, h]

/-- Always: the guard P63. -/
def always : Ctl := ⟨63#6, false, 0#4, 0#3, false⟩

/-! A join of the thread's own lane (R45, R188) -/

/-- A thread whose mask register names its own lane and no other. -/
def selfMasked : Thread := { lone with v := 1#32 :: List.replicate 15 0#32 }

/-- Its ACTMASK waits for nobody: it executes, and writes its register. -/
theorem actmask_self : leaves (.actmask always 1#8 0#8) (withThreads [selfMasked]) (fun s => (s.thread? 1).map Thread.v) =
    some (some (1#32 :: 1#32 :: List.replicate 14 0#32)) := rfl

/-! Two threads of one uid -/

/-- A thread with no register block that bears the uid of another. -/
def shadowed : Thread := { lone with v := [], status := .boundary }

/-- SLEEPN reads V0 of the thread that the uid finds, which has none. -/
theorem sleepn_shadowed : leaves (.sleepn always (.v 0#8)) (withThreads [shadowed, lone]) (fun s => s.x.threads.map fun t => t.trap.isSome) =
    some [true, true] := rfl

/-! A 16-byte load of locked bytes (R85, R103) -/

/-- A 16-byte load of address 0 of which no piece has been read. -/
def freshLoad : Flight :=
  ⟨1, 0, 1, ⟨0#64, 0#64, 0, 0⟩, none, 0, .load ⟨0#64, 0, 0#2, none, 0#12, 1⟩ .b128 false 0 [], false, [], none⟩

/-- The load in flight, and a copy's lock on its bytes. -/
def lockedLoad : State :=
  { withThreads [lone] with
    x := { (withThreads [lone]).x with flights := [freshLoad] }
    m := { MemState.reset with locks := [⟨9, 0, 0, 16, true⟩] } }

/-- It chooses the piece to read, which takes a free value, before it meets the lock. -/
theorem lockedLoad_takes : leaves (.instructionComplete 1) lockedLoad State.freeCtr = some 1 := rfl

/-- The code alone takes none. -/
theorem failFlight_lockedLoad : (lockedLoad.failFlight freshLoad (Cause.at .rangeLock 0#64)).freeCtr = 0 := rfl

/-! A mark of a thread whose earlier records are still to be formed (R429) -/

/-- A watched thread with a record that an instruction in flight is still to form. -/
def awaiting : Thread := { lone with name := 1#128, recs := [(5, none)] }

/-- Its LNMARK stands behind that record. -/
theorem lnmark_awaiting : leaves (.lnmark always (.s8 0#8)) (withThreads [awaiting]) (fun s => s.x.threads.map fun t => t.recs.length) =
    some [2] := rfl

/-- A record that enters the ring, which is off, changes no thread. -/
theorem pushRecord_awaiting (r : BitVec 512) : ((withThreads [awaiting]).pushRecord r).x.threads = [awaiting] := rfl

end Sys2Proof.Machine

namespace Sys2Proof

open Machine

/-- Refutes O12: a thread whose mask names its own lane alone has nobody to wait for. Its ACTMASK executes at once and writes its
register, where the statement's last part says that every mask with a named lane leaves the thread's registers. -/
theorem not_crossLane : ¬ Obligations.CrossLane := by
  rintro ⟨-, h⟩
  obtain ⟨s', t', hex, ht, hv, -⟩ := h (withThreads [selfMasked]) always 1#8 0#8 selfMasked 0 ⟨rfl, rfl, rfl⟩
    (by simp [State.calm, withThreads]; rfl) (by simp [State.regsFit, withThreads]; decide) rfl (by decide) rfl
    (by simp only [withThreads, List.mem_singleton, forall_eq]; exact fun _ => ⟨rfl, rfl⟩) (by simp [withThreads])
  have hleft := leaves_of hex fun s => (s.thread? 1).map Thread.v
  rw [actmask_self, show s'.thread? 1 = some t' from ht, Option.map_some, hv] at hleft
  exact absurd hleft (by decide)

/-- Refutes O14: the statement's last part does not ask that uids are unique. Of two threads of one uid the word finds the first,
which has no register block, so that SLEEPN without QE raises REGISTER_BLOCK and does not leave the state. -/
theorem not_registerBlocksAndYield : ¬ Obligations.RegisterBlocksAndYield := by
  rintro ⟨-, -, h⟩
  have hready : (withThreads [shadowed, lone]).ready always.grd (.v 0#8) (bRuns (.v 0#8) 1) := by
    refine ⟨?_, ?_, ?_⟩
    · simp only [State.calm, withThreads, List.mem_cons, List.not_mem_nil, or_false, forall_eq_or_imp, forall_eq]
      exact ⟨rfl, rfl⟩
    · exact fun _ _ _ _ h => nomatch h
    · simp only [State.regsFit, withThreads, List.mem_cons, List.not_mem_nil, or_false, forall_eq_or_imp, forall_eq]
      exact ⟨(nomatch ·), fun _ => rfl⟩
  have hleft := leaves_of ((h _ _ _ hready).2.1 rfl) fun s => s.x.threads.map fun t => t.trap.isSome
  rw [sleepn_shadowed] at hleft
  exact absurd hleft (by decide)

/-- Refutes O19: of a 16-byte load with both pieces left the choice of the piece takes a free value (log 9) before the lock is met,
so that what is left is not the failure of the flight alone. -/
theorem not_loadCompletes : ¬ Obligations.LoadCompletes := by
  rintro ⟨-, h⟩
  have hex := (h lockedLoad freshLoad lone ⟨0#64, 0, 0#2, none, 0#12, 1⟩ .b128 false 0 [] 0 0 rfl rfl rfl rfl rfl rfl rfl).1 rfl
  have hleft := leaves_of hex State.freeCtr
  rw [show freshLoad.uid = 1 from rfl, lockedLoad_takes, failFlight_lockedLoad] at hleft
  exact absurd hleft (by decide)

/-- Refutes O42: the record of LNMARK does not enter the ring where one of the thread's earlier causes is still to form its own; it
stands behind it (R429). -/
theorem not_clauseIssue : ¬ Obligations.ClauseIssue := by
  rintro ⟨-, -, h⟩
  obtain ⟨s', r, hex, rfl, -⟩ := (h (withThreads [awaiting]) awaiting always (.s8 0#8) 0#32 ⟨rfl, rfl, rfl⟩
    (by simp only [State.calm, withThreads, List.mem_singleton, forall_eq]; rfl) rfl rfl).2 rfl rfl
  have hleft := leaves_of hex fun s => s.x.threads.map fun t => t.recs.length
  rw [lnmark_awaiting, pushRecord_awaiting] at hleft
  exact absurd hleft (by decide)

end Sys2Proof
end

section
/-! What memory leaves alone: an operation of the caches, the homes or the translation changes memory, the monitors that it wakes
(R96), and the write completion times that threads and launches wait past (R91, R94); nothing else. -/

namespace Sys2Proof.Machine

/-- From `s` to `s'` only memory, monitors and write completion times have changed. -/
structure MemOnly (s s' : State) : Prop where
  x : ∃ w : Thread → Sparse Nat, s'.x = { s.x with threads := s.x.threads.map fun t => { t with wct := w t } }
  d : ∃ w : Launch → Sparse Nat, s'.d = { s.d with launches := s.d.launches.map fun l => { l with wct := w l } }
  y : ∃ ms, s'.y = { s.y with monitors := ms }
  e : s'.e = s.e
  h : s'.h = s.h
  b : s'.b = s.b

namespace MemOnly

/-- A change of memory alone. -/
theorem of_eq {s s' : State} (hx : s'.x = s.x) (hd : s'.d = s.d) (hy : s'.y = s.y) (he : s'.e = s.e) (hh : s'.h = s.h)
    (hb : s'.b = s.b) : MemOnly s s' :=
  ⟨⟨Thread.wct, by simp [hx]⟩, ⟨Launch.wct, by simp [hd]⟩, ⟨_, hy⟩, he, hh, hb⟩

@[refl] theorem refl (s : State) : MemOnly s s := of_eq rfl rfl rfl rfl rfl rfl

theorem trans {s t u : State} (h : MemOnly s t) (k : MemOnly t u) : MemOnly s u := by
  obtain ⟨⟨w, hx⟩, ⟨v, hd⟩, ⟨ms, hy⟩, he, hh, hb⟩ := h
  obtain ⟨⟨w', hx'⟩, ⟨v', hd'⟩, ⟨ms', hy'⟩, he', hh', hb'⟩ := k
  refine ⟨⟨fun t => w' { t with wct := w t }, ?_⟩, ⟨fun l => v' { l with wct := v l }, ?_⟩, ⟨ms', ?_⟩, he'.trans he,
    hh'.trans hh, hb'.trans hb⟩
  · rw [hx', hx]; simp [Function.comp_def]
  · rw [hd', hd]; simp [Function.comp_def]
  · rw [hy', hy]

/-- A fold of such changes is one. -/
theorem foldl {α : Type} {f : State → α → State} (l : List α) (s : State) (hf : ∀ s a, MemOnly s (f s a)) :
    MemOnly s (l.foldl f s) :=
  foldl_keeps (P := MemOnly s) l s (refl s) fun b a _ hb => hb.trans (hf b a)

/-- A fold of such changes that gathers a result beside the state. -/
theorem foldl_fst {α β : Type} {f : State × β → α → State × β} (l : List α) (a : State × β)
    (hf : ∀ a x, MemOnly a.1 (f a x).1) : MemOnly a.1 (l.foldl f a).1 :=
  foldl_keeps (P := fun p => MemOnly a.1 p.1) l a (refl a.1) fun b x _ hb => hb.trans (hf b x)

end MemOnly

/-! Homes -/

theorem memOnly_setDram (s : State) (pa : Nat) (b : Byte) : MemOnly s (s.setDram pa b) := .of_eq rfl rfl rfl rfl rfl rfl
theorem memOnly_updHome (s : State) (l : Nat) (f : HomeLine → HomeLine) : MemOnly s (s.updHome l f) := .of_eq rfl rfl rfl rfl rfl rfl
theorem memOnly_setPoison (s : State) (pa : Nat) (p : Bool) : MemOnly s (s.setPoison pa p) := .of_eq rfl rfl rfl rfl rfl rfl
theorem memOnly_putCopy (s : State) (c : Copy) : MemOnly s (s.putCopy c) := .of_eq rfl rfl rfl rfl rfl rfl

theorem memOnly_flushHome (s : State) (l : Nat) : MemOnly s (s.flushHome l) := by
  unfold State.flushHome
  exact (MemOnly.foldl _ s fun s (p : Nat × Byte) => memOnly_setDram s (256 * l + p.1) p.2).trans (memOnly_updHome _ _ _)

theorem memOnly_evictHome (s : State) (l : Nat) : MemOnly s (s.evictHome l) :=
  (memOnly_flushHome s l).trans (memOnly_updHome _ _ _)

theorem memOnly_sliceRoom (s : State) (j : Nat) : MemOnly s (s.sliceRoom j) := by
  unfold State.sliceRoom
  dsimp only
  split
  · rfl
  · split
    · exact .of_eq rfl rfl rfl rfl rfl rfl
    · split
      · exact memOnly_evictHome _ _
      · rfl

theorem memOnly_touchHome (s : State) (l : Nat) (c : Option Nat) (t : BitVec 12) : MemOnly s (s.touchHome l c t) := by
  have hroom : MemOnly s (if (s.homeLine l).held then s else s.sliceRoom (homeSlice (256 * l))) := by
    split
    · rfl
    · exact memOnly_sliceRoom _ _
  have hline (u : State) : MemOnly u (let hl := u.homeLine l
      if hl.ctx == c then (if t == 0#12 then u else u.updHome l fun k => { k with tensor := t })
      else (u.flushHome l).updHome l fun k => { k with ctx := c, tensor := t }) := by
    dsimp only
    split_ifs
    · rfl
    · exact memOnly_updHome _ _ _
    · exact (memOnly_flushHome _ _).trans (memOnly_updHome _ _ _)
  exact hroom.trans (hline _)

theorem memOnly_mergeHome (s : State) (l : Nat) (c : Option Nat) (t : BitVec 12) (bs : Sparse Byte) (bad : Bool) :
    MemOnly s (s.mergeHome l c t bs bad) := by
  refine ((memOnly_touchHome s l c t).trans (memOnly_updHome _ _ _)).trans (MemOnly.foldl _ _ fun s k => ?_)
  split_ifs
  · exact memOnly_setPoison _ _ _
  · exact memOnly_setPoison _ _ _
  · rfl

theorem memOnly_wakeLine (s : State) (l : Nat) (c : Option Nat) : MemOnly s (s.wakeLine l c) :=
  ⟨⟨Thread.wct, by simp [State.wakeLine]⟩, ⟨Launch.wct, by simp [State.wakeLine]⟩, ⟨_, rfl⟩, rfl, rfl, rfl⟩

theorem memOnly_updatePath (s : State) (core : Option Nat) (l c : Nat) (t : BitVec 12) (bs : Sparse Byte) (bad : Bool) :
    MemOnly s (s.updatePath core l c t bs bad) := by
  unfold State.updatePath
  split
  · rfl
  · exact memOnly_putCopy _ _

/-- Collecting a write completion time changes nothing else of threads and launches. -/
theorem memOnly_collectCore (s : State) (core c l w : Nat) : MemOnly s (s.collectCore core c l w) := by
  unfold State.collectCore
  split
  · rfl
  · refine ⟨⟨fun t => if t.core == core && t.ctx == c then wctAdd t.wct (homeDie (256 * l)) w else t.wct, ?_⟩,
      ⟨fun n => if n.ctx == c then wctAdd n.wct (homeDie (256 * l)) w else n.wct, ?_⟩, ⟨_, rfl⟩, rfl, rfl, rfl⟩
    · refine congrArg (fun ts => ({ s.x with threads := ts } : ExecState)) (List.map_congr_left fun t _ => ?_)
      split <;> simp [*]
    · refine congrArg (fun ls => ({ s.d with launches := ls } : DispState)) (List.map_congr_left fun n _ => ?_)
      split <;> simp [*]

theorem memOnly_recall (s : State) (l : Nat) : MemOnly s (s.recall l) := by
  unfold State.recall
  split
  · rfl
  · next core _ =>
    refine (memOnly_updHome _ _ _).trans (MemOnly.foldl _ _ fun s c => ?_)
    have hmerge := (memOnly_mergeHome s l (some c.ctx) c.tensor c.mask false).trans
      (memOnly_updatePath _ (some core) l c.ctx c.tensor c.mask false)
    refine MemOnly.trans (MemOnly.trans (hmerge.trans ?_) (memOnly_putCopy _ _)) (memOnly_wakeLine _ _ _)
    split
    · rfl
    · exact memOnly_collectCore _ _ _ _ _

theorem memOnly_performHome (s : State) (core : Option Nat) (l c : Nat) (t : BitVec 12) (bs : Sparse Byte) (bad : Bool) :
    MemOnly s (s.performHome core l c t bs bad).1 := by
  unfold State.performHome
  split
  · rfl
  · have hrecall : MemOnly s (if s.ownedBy core l c then s else s.recall l) := by
      split
      · rfl
      · exact memOnly_recall _ _
    have hhost (u : State) :
        MemOnly u (if isHostMem (256 * l) then { u with m := { u.m with hostLines := sput u.m.hostLines l true } } else u) := by
      split
      · exact .of_eq rfl rfl rfl rfl rfl rfl
      · rfl
    exact (((hrecall.trans (memOnly_mergeHome _ l (some c) t bs bad)).trans (memOnly_updatePath _ core l c t bs bad)).trans
      (hhost _)).trans (memOnly_wakeLine _ _ _)

theorem memOnly_writeHome (s : State) (c : Nat) (t : BitVec 12) (pa : Nat) (bs : List Byte) (bad : Bool) :
    MemOnly s (s.writeHome c t pa bs bad).1 :=
  MemOnly.foldl_fst _ (s, 0) fun _ _ => memOnly_performHome _ _ _ _ _ _ _

/-! L1 -/

theorem memOnly_writeBackOf (s : State) (c : Copy) (sel : Nat → Bool) (bad : Bool) : MemOnly s (s.writeBackOf c sel bad).1 := by
  unfold State.writeBackOf
  dsimp only
  split
  · split
    · rfl
    · exact ((memOnly_putCopy _ _).trans (memOnly_performHome _ _ _ _ _ _ _)).trans (memOnly_collectCore _ _ _ _ _)
  · rfl

theorem memOnly_evict (s : State) (c : Copy) : MemOnly s (s.evict c) := by
  have hback := memOnly_writeBackOf s c (fun _ => true) false
  have hdrop (u : State) (cs : List Copy) : MemOnly u { u with m := { u.m with copies := cs } } :=
    .of_eq rfl rfl rfl rfl rfl rfl
  unfold State.evict State.writeBack
  dsimp only
  split
  · exact (hback.trans (memOnly_updHome _ c.line fun h => { h with owner := none })).trans (hdrop _ _)
  · exact hback.trans (hdrop _ _)

theorem memOnly_shrinkL1 (s : State) (core : Nat) : MemOnly s (s.shrinkL1 core) := MemOnly.foldl _ s memOnly_evict

theorem memOnly_releaseCore (s : State) (core c : Nat) : MemOnly s (s.releaseCore core c).1 :=
  MemOnly.foldl_fst _ (s, []) fun _ _ => memOnly_writeBackOf _ _ _ _

/-! Translation, and the areas that the device writes -/

theorem memOnly_physRead (s : State) (pa n : Nat) : MemOnly s (s.physRead pa n).1 := by
  unfold State.physRead
  split
  · exact MemOnly.foldl _ _ memOnly_recall
  · rfl

theorem memOnly_leaf (s : State) (level va : Nat) (e : DWord) : MemOnly s (s.leaf level va e).1 := by
  unfold State.leaf
  dsimp only
  split_ifs
  · rfl
  · rfl
  · rfl
  · rfl
  · exact memOnly_physRead _ _ _

theorem memOnly_walk (va k : Nat) : ∀ (s : State) (table : Nat), MemOnly s (s.walk va k table).1 := by
  induction k with
  | zero =>
    intro s table
    unfold State.walk
    dsimp only
    split_ifs
    · exact memOnly_physRead _ _ _
    · exact (memOnly_physRead _ _ _).trans (memOnly_leaf _ _ _ _)
  | succ k ih =>
    intro s table
    unfold State.walk
    dsimp only
    split_ifs
    · exact memOnly_physRead _ _ _
    · exact (memOnly_physRead _ _ _).trans (memOnly_leaf _ _ _ _)
    · exact (memOnly_physRead _ _ _).trans (ih _ _)
    · exact memOnly_physRead _ _ _
    · exact memOnly_physRead _ _ _

theorem memOnly_translate (s : State) (core : Nat) (lane : Option (Nat × Nat)) (c va : Nat) (modifies : Bool) :
    MemOnly s (s.translate core lane c va modifies).1 := by
  have hfill (s : State) (x : Xlat) (k : XlatStep) : MemOnly s (s.fillXlat core lane c x k) := .of_eq rfl rfl rfl rfl rfl rfl
  unfold State.translate
  dsimp only
  split
  · exact hfill _ _ _
  · split
    · exact memOnly_walk _ _ _ _
    · split
      · exact memOnly_walk _ _ _ _
      · exact (memOnly_walk _ _ _ _).trans (hfill _ _ _)

theorem memOnly_pageCheck (s : State) (core : Nat) (lane : Option (Nat × Nat)) (c : Nat) (p : DWord) (n : Nat)
    (modifies exec tags : Bool) (tensor : BitVec 12) (scope : Nat) :
    MemOnly s (s.pageCheck core lane c p n modifies exec tags tensor scope).1 := by
  have ht := memOnly_translate s core lane c (ptrVa p) modifies
  unfold State.pageCheck
  split
  · rfl
  · split
    · next h => rw [h] at ht; exact ht
    · next h =>
      rw [h] at ht
      dsimp only
      split_ifs <;> exact ht

theorem memOnly_areaPa (s : State) (core c : Nat) (p : DWord) (modifies : Bool) : MemOnly s (s.areaPa core c p modifies).1 := by
  have hp := memOnly_pageCheck s core none c p 1 modifies false true 0#12 5
  unfold State.areaPa
  split <;> next h => rw [h] at hp; exact hp

theorem memOnly_areaWrite (s : State) (core c : Nat) (p : DWord) (len : Nat) : MemOnly s (s.areaWrite core c p len).1 := by
  have htake : MemOnly s s.takeFree.2 := .of_eq rfl rfl rfl rfl rfl rfl
  refine htake.trans (MemOnly.foldl _ _ fun s b => ?_)
  have hpa := memOnly_areaPa s core c (p + BitVec.ofNat 64 b.1) true
  split
  · next h =>
    rw [h] at hpa
    exact hpa.trans (memOnly_writeHome _ _ _ _ _ _)
  · next h =>
    rw [h] at hpa
    exact hpa

end Sys2Proof.Machine
end

section
/-! The last signer of a set issues its matrix pass (R47, R247, R253, R254). Settles O32. -/

namespace Sys2Proof.Machine

/-! Threads of distinct uids -/

section
variable {s : State} (hu : (s.x.threads.map Thread.uid).Nodup)
include hu

/-- Threads of one uid are one thread. -/
theorem thread_uid_inj {t u : Thread} (ht : t ∈ s.x.threads) (h : u ∈ s.x.threads) (e : u.uid = t.uid) : u = t :=
  List.inj_on_of_nodup_map hu h ht e

/-- The thread of a uid is the one of it in the state. -/
theorem thread?_of_mem {t : Thread} (ht : t ∈ s.x.threads) : s.thread? t.uid = some t := by
  have : (s.thread? t.uid).isSome = true := List.find?_isSome.2 ⟨t, ht, beq_self_eq_true _⟩
  obtain ⟨u, hu'⟩ := Option.isSome_iff_exists.1 this
  rw [hu', thread_uid_inj hu ht (thread?_mem hu').1 (thread?_mem hu').2]

/-- The threads of one uid are the one thread. -/
theorem filter_uid {t : Thread} (ht : t ∈ s.x.threads) : s.x.threads.filter (fun u => u.uid == t.uid) = [t] := by
  refine List.perm_singleton.1 ((List.perm_ext_iff_of_nodup (hu.of_map.filter _) (List.nodup_singleton t)).2 fun u => ?_)
  rw [List.mem_filter, List.mem_singleton, beq_iff_eq]
  exact ⟨fun ⟨h, e⟩ => thread_uid_inj hu ht h e, by rintro rfl; exact ⟨ht, rfl⟩⟩

/-- The one thread of a bundle is issuing, with no code raised. -/
theorem solo_member {g : Grd} {t : Thread} (hs : s.solo g t) : s.member t = true := by
  obtain ⟨hm, ht, -⟩ := hs
  have : t.uid ∈ s.members := hm ▸ List.mem_singleton_self _
  obtain ⟨l, -, hl⟩ := List.mem_filterMap.1 this
  obtain ⟨v, hv, hvu⟩ := Option.map_eq_some_iff.1 hl
  obtain ⟨hvm, hmem⟩ := List.mem_filter.1 (List.mem_of_find?_eq_some hv)
  rwa [thread_uid_inj hu (thread?_mem ht).1 hvm hvu] at hmem

theorem solo_status {g : Grd} {t : Thread} (hs : s.solo g t) : t.status = .issued ∧ t.trap = none := by
  have := solo_member hu hs
  simp only [State.member, Bool.and_eq_true, beq_iff_eq, Option.isNone_iff_eq_none] at this
  exact ⟨this.1.1.1, this.2⟩

end

/-! Signing -/

/-- A thread as its signature leaves it: its instruction is counted, and it is held. -/
def Thread.signing (t : Thread) (c : Ctl) (h : Hold) (u : Thread) : Thread :=
  if u.uid = t.uid then { (if c.qe then u.qadd c.qc.toNat else u) with status := .held h } else u

section
variable (t : Thread) (c : Ctl) (h : Hold) (u : Thread)

@[simp] theorem signing_uid : (t.signing c h u).uid = u.uid := by unfold Thread.signing; split_ifs <;> rfl
@[simp] theorem signing_team : (t.signing c h u).team = u.team := by unfold Thread.signing; split_ifs <;> rfl
@[simp] theorem signing_v : (t.signing c h u).v = u.v := by unfold Thread.signing; split_ifs <;> rfl
@[simp] theorem signing_pc : (t.signing c h u).pc = u.pc := by unfold Thread.signing; split_ifs <;> rfl
@[simp] theorem signing_trap : (t.signing c h u).trap = u.trap := by unfold Thread.signing; split_ifs <;> rfl
@[simp] theorem signing_kind : (t.signing c h u).kind = u.kind := by unfold Thread.signing; split_ifs <;> rfl
@[simp] theorem signing_launch : (t.signing c h u).launch = u.launch := by unfold Thread.signing; split_ifs <;> rfl
@[simp] theorem signing_place : (t.signing c h u).place = u.place := by unfold Thread.signing; split_ifs <;> rfl
@[simp] theorem signing_status_self : (t.signing c h t).status = .held h := by simp [Thread.signing]

end

/-- The state with a thread's signature for a register of its team, and the thread held. -/
def State.signed (s : State) (t : Thread) (c : Ctl) (tm : Team) (k : Nat) (ins : Instr) : State :=
  ((s.launchFlight t c (.matrix 0)).updK tm.uid k fun r => { r with signed := r.signed ++ [(t.uid, false)] }).updThread t.uid
    fun u => { u with status := .held (.matrix k ins) }

section
variable (s : State) (t : Thread) (c : Ctl) (tm : Team) (k : Nat) (ins : Instr)

theorem signed_threads : (s.signed t c tm k ins).x.threads = s.x.threads.map (t.signing c (.matrix k ins)) := by
  show ((s.launchFlight t c (.matrix 0)).x.threads).map _ = _
  rw [launchFlight_threads]
  split
  · next h =>
    rw [List.map_map]
    refine List.map_congr_left fun u _ => ?_
    by_cases hu : u.uid = t.uid <;> simp [Thread.signing, h, hu]
  · next h =>
    refine List.map_congr_left fun u _ => ?_
    by_cases hu : u.uid = t.uid <;> simp [Thread.signing, h, hu]

theorem signed_flights : ∃ f : Flight, (s.signed t c tm k ins).x.flights = s.x.flights ++ [f] ∧ f.thread = t.uid ∧
    f.op = .matrix 0 := by
  obtain ⟨f, hf, -, ht, ho, -⟩ := launchFlight_flights s t c (.matrix 0)
  exact ⟨f, hf, ht, ho⟩

theorem signed_e : (s.signed t c tm k ins).e = s.e := (launchFlight_kept s t c (.matrix 0)).e
theorem signed_clk : (s.signed t c tm k ins).x.clk = s.x.clk := (launchFlight_kept s t c (.matrix 0)).clk
theorem signed_launch? : (s.signed t c tm k ins).launch? = s.launch? := by
  funext u
  show ((s.launchFlight t c (.matrix 0)).d.launches).find? _ = _
  rw [(launchFlight_kept s t c (.matrix 0)).d]
  rfl

theorem signed_team? (ht : s.team? tm.uid = some tm) : (s.signed t c tm k ins).team? tm.uid =
    some { tm with k := tm.k.modify k fun r => { r with signed := r.signed ++ [(t.uid, false)] } } :=
  updK_team? (s := s.launchFlight t c (.matrix 0)) _ (by simpa using ht)

theorem signed_thread? (u : Nat) :
    (s.signed t c tm k ins).thread? u = (s.thread? u).map (t.signing c (.matrix k ins)) := by
  have h := thread?_mapThreads (s := s) (signing_uid t c (.matrix k ins)) u
  unfold State.thread? at h ⊢
  rwa [mapThreads_x_threads, ← signed_threads s t c tm] at h

theorem signed_memberThread (p : Nat × Nat) : (s.signed t c tm k ins).memberThread tm.uid p =
    (s.memberThread tm.uid p).map (t.signing c (.matrix k ins)) := by
  unfold State.memberThread
  rw [signed_threads, List.find?_map]
  refine congrArg (Option.map _) (congrArg (List.find? · _) (funext fun u => ?_))
  simp

end

/-- A signer held for a register: a thread of the team, with no code raised, held at a matrix instruction that names it. -/
theorem mem_heldSigners {s : State} {team k : Nat} {u : Thread} : u ∈ s.heldSigners team k ↔
    u ∈ s.x.threads ∧ u.team = some team ∧ u.trap = none ∧ ∃ ins, u.status = .held (.matrix k ins) := by
  unfold State.heldSigners
  rw [List.mem_filter]
  refine and_congr_right fun _ => ?_
  rw [Bool.and_eq_true, Bool.and_eq_true, and_assoc, beq_iff_eq, Option.isNone_iff_eq_none]
  refine and_congr_right fun _ => and_congr_right fun _ => ?_
  split
  · next j ins h => simp [h]
  · next h => simpa using fun j => h k j

section
variable {s : State} {t : Thread} {tm : Team} (c : Ctl) {k : Nat} (ins : Instr) (hu : (s.x.threads.map Thread.uid).Nodup)
  (ht : t ∈ s.x.threads) (hteam : t.team = some tm.uid) (htrap : t.trap = none)
include hu ht hteam htrap

/-- After a signature, the signers held are those held before and the one that signs. -/
theorem signing_mem_heldSigners {u : Thread} (hmem : u ∈ s.x.threads) :
    t.signing c (.matrix k ins) u ∈ (s.signed t c tm k ins).heldSigners tm.uid k ↔
      u.uid = t.uid ∨ u ∈ s.heldSigners tm.uid k := by
  have hin : t.signing c (.matrix k ins) u ∈ (s.signed t c tm k ins).x.threads := by
    rw [signed_threads]
    exact List.mem_map_of_mem hmem
  rw [mem_heldSigners, mem_heldSigners]
  by_cases h : u.uid = t.uid
  · obtain rfl := thread_uid_inj hu ht hmem h
    simp [hin, hteam, htrap]
  · have : t.signing c (.matrix k ins) u = u := by simp [Thread.signing, h]
    rw [this] at hin ⊢
    simp [h, hin, hmem]

/-- After a signature a thread's uid is a held signer's where the thread was held before, or is the one that signs. -/
theorem signed_held_uid {u : Thread} (hmem : u ∈ s.x.threads) :
    ((s.signed t c tm k ins).heldSigners tm.uid k).any (fun h => h.uid == u.uid) = true ↔
      u.uid = t.uid ∨ u ∈ s.heldSigners tm.uid k := by
  rw [List.any_eq_true, ← signing_mem_heldSigners c ins hu ht hteam htrap hmem]
  constructor
  · rintro ⟨h, hh, e⟩
    have hin := (mem_heldSigners.1 hh).1
    rw [signed_threads] at hin
    obtain ⟨v, hv, rfl⟩ := List.mem_map.1 hin
    obtain rfl := thread_uid_inj hu hmem hv (by simpa using e)
    exact hh
  · exact fun h => ⟨_, h, by simp⟩

omit htrap in
/-- One thread's bundle that signs leaves the set with one signature more, and the set tries to issue. -/
theorem matSign_signed {m : MatIns} {nb : Nat} (hs : s.solo ⟨63#6, false⟩ t) (hc : s.calm) (htm : s.teamOf t = some tm)
    (hn : (tm.kget m.k).members.length = 16 ∨ (tm.kget m.k).members.length = 32 ∨ (tm.kget m.k).members.length = 64)
    (ha8 : m.a < 256) (hb8 : m.b < 256) (hnb : nb = if m.conv then 8 else 4)
    (ha : m.a + 16 * (64 / (tm.kget m.k).members.length) ≤ t.v.length) (hb : m.b + nb ≤ t.v.length)
    (htile : m.tile < tm.tiles.length) (hhas : (tm.kget m.k).has t = true) (hnot : (tm.kget m.k).signedBy t.uid = false)
    (hheld : ∀ h ∈ s.heldSigners tm.uid m.k, h.pc = t.pc) :
    s.matSign c ins m = (s.signed t c tm m.k ins).kTry tm.uid m.k [t.uid] := by
  have hsize : ((tm.kget m.k).members.length != 16 && (tm.kget m.k).members.length != 32 &&
      (tm.kget m.k).members.length != 64) = false := by
    rcases hn with h | h | h <;> simp [h]
  have hlen : m.a + 16 ≤ t.v.length := by
    rcases hn with h | h | h <;> rw [h] at ha <;> omega
  have hpc : ((s.heldSigners tm.uid m.k).any fun h => h.pc != t.pc) = false :=
    List.any_eq_false.2 fun h hh => by simp [hheld h hh]
  have hcalm : (s.signed t c tm m.k ins).calm :=
    calm_updThread (s := (s.launchFlight t c (.matrix 0)).updK tm.uid m.k _) (calm_launchFlight hc t c _) fun _ => rfl
  have hteams : (((s.signed t c tm m.k ins).x.threads.filter fun u => [t.uid].contains u.uid).filterMap
      Thread.team).eraseDups = [tm.uid] := by
    have : ((fun u : Thread => [t.uid].contains u.uid) ∘ t.signing c (.matrix m.k ins)) = fun u => u.uid == t.uid := by
      funext u
      simp [Bool.beq_eq_decide_eq]
    rw [signed_threads, List.filter_map, this, filter_uid hu ht]
    simp [hteam, List.eraseDups_cons]
  unfold State.matSign
  dsimp only
  rw [lanes_solo (s' := s.signed t c tm m.k ins) hs ?_ ?_ hcalm]
  · rw [hs.1, hteams]
    rfl
  · rw [inBlocks_cons, inBlocks_cons, ← hnb]
    simp [Nat.mod_eq_of_lt ha8, Nat.mod_eq_of_lt hb8, hlen, hb]
  · simp only [htm, hsize, hhas, hnot, hpc, Nat.not_lt.2 ha, Nat.not_le.2 htile]
    simp [State.signed]

end

/-- A set that is short of a signer waits, where each of its members is there and has not ended before it signed. -/
theorem kTry_waits {s : State} {tm : Team} {k : Nat} (ht : s.team? tm.uid = some tm)
    (hr : ∀ u ∈ s.x.threads, u.isReplay = false) (hn : (tm.kget k).signed.length < (tm.kget k).members.length)
    (hm : ∀ q ∈ (tm.kget k).members, ∃ u, s.memberThread tm.uid q = some u ∧
      (u.status = .exited → (tm.kget k).signedBy u.uid = true)) (bundle : List Nat) : s.kTry tm.uid k bundle = s := by
  unfold State.kTry
  simp only [ht, kSet_noReplay hr]
  rw [if_pos (by simp [hn.ne])]
  unfold State.kMissing
  simp only [ht, kSet_noReplay hr]
  split
  · rfl
  · rw [if_neg]
    rw [List.any_eq_true]
    rintro ⟨q, hq, hgone⟩
    obtain ⟨u, hmu, hex⟩ := hm q hq
    simp only [hmu, Bool.and_eq_true, beq_iff_eq] at hgone
    simp [hex hgone.1] at hgone

/-! Issuing the pass -/

/-- A fold after which what one element brings about stays. -/
theorem foldl_reaches {α β : Type} {P Q : β → Prop} {f : β → α → β} {a : α} {l : List α} (ha : a ∈ l)
    (hP : ∀ b x, P b → P (f b x)) (hQ : ∀ b, ∀ x ∈ l, Q b → Q (f b x)) (hPQ : ∀ b, P b → Q (f b a)) (b : β) (hb : P b) :
    Q (l.foldl f b) := by
  induction l generalizing b with
  | nil => exact absurd ha List.not_mem_nil
  | cons x l ih =>
    rcases List.mem_cons.1 ha with rfl | h
    · exact foldl_keeps l _ (hPQ b hb) fun b x hx => hQ b x (List.mem_cons_of_mem _ hx)
    · exact ih h (fun b x hx => hQ b x (List.mem_cons_of_mem _ hx)) (f b x) (hP b x hb)

/-- The rows of A that the registers of a set's signers supply, by rank (R247). -/
def State.passRows (s : State) (tm : Team) (m : MatIns) (r : ConvReg) : List Byte :=
  (r.members.map fun p => s.memberThread tm.uid p).flatMap fun t => match t with
    | some t => if (s.heldSigners tm.uid m.k).any fun h => h.uid == t.uid then rowBytes t m.a (64 / r.members.length)
        else List.replicate (64 * (64 / r.members.length)) 0#8
    | none => List.replicate (64 * (64 / r.members.length)) 0#8

/-- The pass of a completed set with its signers (R254). -/
def State.passFor (s : State) (tm : Team) (m : MatIns) (hs : List Thread) (r0 : Thread) (o : MatOps) (rows : List Byte) : Pass :=
  { uid := s.x.nextUid, engine := coreEngine tm.core, team := tm.uid, core := tm.core, rank0 := r0.uid,
    signers := hs.map Thread.uid, slot := m.f, tile := m.tile, rows := rows, b := o.words,
    desc := o.desc, conv := m.conv, lines := spadLines o.off o.len,
    prio := ((s.launch? tm.launch).map fun l => l.queue / 4).getD 0, stamp := s.x.nextUid, since := s.x.clk,
    site := r0.site, stalled := none, failed := none }

/-- A pass enters its engine's table. -/
def State.enterPass (s : State) (p : Pass) : State :=
  { s with x := { s.x with nextUid := p.uid + 1 }, e := { s.e with passes := s.e.passes ++ [p] } }

/-- A signer whose set has issued: its instruction is the pass's, and it goes on. -/
def State.signerGoesOn (s : State) (pass : Nat) (bundle : List Nat) (t : Thread) : State :=
  (match s.signFlight t.uid with
    | some f => s.updFlight f.uid fun g => { g with op := .matrix pass }
    | none => s).updThread t.uid fun t => t.goOn bundle

/-- A pass enters its engine's table, its signers go on, and the register closes its generation (R254). -/
def State.issuePass (s : State) (p : Pass) (hs : List Thread) (k : Nat) (bundle : List Nat) : State :=
  (hs.foldl (fun u t => u.signerGoesOn p.uid bundle t) (s.enterPass p)).closeK p.team k

/-- A completed set whose checks pass issues once. -/
theorem matIssue_eq {s : State} {tm : Team} {m : MatIns} {r : ConvReg} {r0 : Thread} {o : MatOps}
    (hr0 : (r.members.map fun p => s.memberThread tm.uid p).head? = some (some r0)) (ho : s.matCheck tm r0 m = .ok o)
    (bundle : List Nat) :
    let l := s.latchA tm m (s.passRows tm m r)
    let hs := s.heldSigners tm.uid m.k
    s.matIssue tm m r bundle = l.2.issuePass (l.2.passFor tm m hs r0 o l.1) hs m.k bundle := by
  unfold State.matIssue
  simp only [hr0, ho, Option.join_some]
  rfl

section
variable (s : State) (tm : Team) (m : MatIns) (regs : List Byte)

/-- The latch leaves everything but the latches. -/
theorem latchA_frame : ∃ ls, (s.latchA tm m regs).2 = { s with e := { s.e with latches := ls } } := by
  unfold State.latchA
  dsimp only
  split
  · split_ifs <;> exact ⟨_, rfl⟩
  · split_ifs <;> exact ⟨_, rfl⟩

/-- With nothing latched, the registers supply A, and REUSE latches them. -/
theorem latchA_free (h : sget s.e.latches tm.core = none) : (s.latchA tm m regs).1 = regs ∧
    sget (s.latchA tm m regs).2.e.latches tm.core = if m.reuse then some (tm.uid, m.k, regs) else none := by
  unfold State.latchA
  simp only [h]
  split
  · exact ⟨trivial, sget_sput_self ..⟩
  · exact ⟨trivial, h⟩

/-- Rows latched for this team and register supply A; REUSE keeps them. -/
theorem latchA_own {l : List Byte} (hr : srising s.e.latches = true) (h : sget s.e.latches tm.core = some (tm.uid, m.k, l)) :
    (s.latchA tm m regs).1 = l ∧
      sget (s.latchA tm m regs).2.e.latches tm.core = if m.reuse then some (tm.uid, m.k, l) else none := by
  unfold State.latchA
  simp only [h, beq_self_eq_true, Bool.and_self, if_true]
  split
  · exact ⟨trivial, h⟩
  · exact ⟨trivial, sget_sdel_self hr⟩

/-- Rows latched for another stay, and the registers supply A. -/
theorem latchA_other {o j : Nat} {l : List Byte} (h : sget s.e.latches tm.core = some (o, j, l))
    (hn : ¬ (o = tm.uid ∧ j = m.k)) : (s.latchA tm m regs).1 = regs ∧
      sget (s.latchA tm m regs).2.e.latches tm.core = some (o, j, l) := by
  have : (o == tm.uid && j == m.k) = false := by simpa using hn
  unfold State.latchA
  simp only [h, this]
  exact ⟨rfl, h⟩

end

/-! The signers go on -/

theorem goOn_uid (t : Thread) (bundle : List Nat) : (t.goOn bundle).uid = t.uid := by
  unfold Thread.goOn Thread.past
  split_ifs <;> rfl

section
variable (s : State) (pass : Nat) (bundle : List Nat) (u : Thread)

theorem signerGoesOn_frame : (s.signerGoesOn pass bundle u).x.teams = s.x.teams ∧ (s.signerGoesOn pass bundle u).e = s.e := by
  unfold State.signerGoesOn
  split <;> exact ⟨rfl, rfl⟩

theorem signerGoesOn_thread? (w : Nat) : (s.signerGoesOn pass bundle u).thread? w =
    (s.thread? w).map fun v => if w = u.uid then v.goOn bundle else v := by
  unfold State.signerGoesOn
  rw [thread?_updThread fun v => goOn_uid v bundle]
  cases s.signFlight u.uid <;> rfl

/-- A flight of a signer, or of its pass, stays one. -/
theorem signerGoesOn_flight {t : Nat} {P : FlightOp → Prop} (hP : P (.matrix pass))
    (h : ∃ g ∈ s.x.flights, g.thread = t ∧ P g.op) : ∃ g ∈ (s.signerGoesOn pass bundle u).x.flights, g.thread = t ∧ P g.op := by
  obtain ⟨g, hg, ht, hop⟩ := h
  unfold State.signerGoesOn
  split
  · next f _ =>
    refine ⟨if g.uid == f.uid then { g with op := .matrix pass } else g, List.mem_map_of_mem hg, ?_⟩
    split
    · exact ⟨ht, hP⟩
    · exact ⟨ht, hop⟩
  · exact ⟨g, hg, ht, hop⟩

/-- The signer's own flight becomes its pass's. -/
theorem signerGoesOn_own (h : ∃ g ∈ s.x.flights, g.thread = u.uid ∧ (g.op = .matrix 0 ∨ g.op = .matrix pass)) :
    ∃ g ∈ (s.signerGoesOn pass bundle u).x.flights, g.thread = u.uid ∧ g.op = .matrix pass := by
  obtain ⟨g, hg, ht, hop⟩ := h
  rcases hop with hop | hop
  · have hsome : (s.signFlight u.uid).isSome = true := List.find?_isSome.2 ⟨g, hg, by simp [ht, hop]⟩
    obtain ⟨f, hf⟩ := Option.isSome_iff_exists.1 hsome
    have hthread : f.thread = u.uid := by
      have := List.find?_some hf
      simp only [Bool.and_eq_true, beq_iff_eq] at this
      exact this.1
    refine ⟨{ f with op := .matrix pass }, ?_, hthread, rfl⟩
    have := List.mem_map_of_mem (f := fun g => if g.uid == f.uid then { g with op := FlightOp.matrix pass } else g)
      (List.mem_of_find?_eq_some hf)
    unfold State.signerGoesOn
    rw [hf]
    simpa using this
  · exact signerGoesOn_flight s pass bundle u (P := (· = .matrix pass)) rfl ⟨g, hg, ht, hop⟩

end

/-- Closing a generation keeps each matrix instruction in flight. -/
theorem closeK_flight {s : State} {team k : Nat} {pass : Nat} {g : Flight} (hg : g ∈ s.x.flights) (hop : g.op = .matrix pass) :
    ∃ h ∈ (s.closeK team k).x.flights, h.thread = g.thread ∧ h.op = .matrix pass := by
  refine ⟨_, List.mem_map_of_mem hg, ?_⟩
  simp [hop]

theorem closeK_team? {s : State} {tm : Team} {k : Nat} (ht : s.team? tm.uid = some tm) :
    (s.closeK tm.uid k).team? tm.uid = some { tm with k := tm.k.modify k ConvReg.close } := by
  unfold State.closeK
  exact updK_team? _ ht

/-- A complete set with a signer held issues, with room in its engine's table. -/
theorem kTry_issues {s : State} {tm : Team} {k : Nat} {m : MatIns} {ins : Instr} (ht : s.team? tm.uid = some tm)
    (hr : ∀ u ∈ s.x.threads, u.isReplay = false) (hpos : (tm.kget k).signed ≠ [])
    (hn : (tm.kget k).signed.length = (tm.kget k).members.length) (hne : s.heldSigners tm.uid k ≠ [])
    (hh : ∀ h ∈ s.heldSigners tm.uid k, h.status = .held (.matrix k ins)) (hm : matIns? ins = some m)
    (hroom : (s.passesOf (coreEngine tm.core)).length < 64) (hsw : tm.swapped = none) (bundle : List Nat) :
    s.kTry tm.uid k bundle = s.matIssue tm m (tm.kget k) bundle := by
  obtain ⟨h, hs, hcons⟩ := List.exists_cons_of_ne_nil hne
  unfold State.kTry
  simp only [ht, kSet_noReplay hr, hn, hcons, hh h (hcons ▸ List.mem_cons_self), hm]
  rw [if_neg (by simp [hpos]), if_neg (by simp [hsw, hroom])]

/-- The checks of a set read the slot, the operands of rank 0, and the team's descriptors and scratchpad size. -/
theorem matCheck_congr {s s' : State} {tm tm' : Team} {r r' : Thread} (hl : s'.launch? = s.launch?) (hr : r'.launch = r.launch)
    (hv : r'.v = r.v) (hd : tm'.d = tm.d) (hs : tm'.ssize = tm.ssize) (m : MatIns) :
    s'.matCheck tm' r' m = s.matCheck tm r m := by
  have hslot : s'.matSlot r' m.f = s.matSlot r m.f := by
    unfold State.matSlot State.slotOk State.slot?
    rw [hl, hr]
  have hrun : r'.run = r.run := by
    unfold Thread.run Thread.vget
    rw [hv]
  unfold State.matCheck
  rw [hslot, hrun, hd, hs]

/-- The operands that the checks leave for the pass are those of rank 0. -/
theorem matCheck_words {s : State} {tm : Team} {r0 : Thread} {m : MatIns} {o : MatOps} (h : s.matCheck tm r0 m = .ok o) :
    o.words = r0.run m.b (if m.conv then 8 else 4) := by
  unfold State.matCheck at h
  cases hs : s.matSlot r0 m.f with
  | error c => simp [hs, bind, Except.bind] at h
  | ok p =>
    simp only [hs, bind, Except.bind, illop] at h
    generalize r0.run m.b (if m.conv = true then 8 else 4) = ws at h ⊢
    split_ifs at h <;> cases h <;> rfl

/-- A fold of signers that go on keeps the teams and the engines. -/
theorem signersGoOn_frame (pass : Nat) (bundle : List Nat) (hs : List Thread) (s : State) :
    (hs.foldl (fun u t => u.signerGoesOn pass bundle t) s).x.teams = s.x.teams ∧
      (hs.foldl (fun u t => u.signerGoesOn pass bundle t) s).e = s.e :=
  foldl_keeps (P := fun u : State => u.x.teams = s.x.teams ∧ u.e = s.e) hs s ⟨rfl, rfl⟩ fun u t _ ⟨hx, he⟩ =>
    ⟨(signerGoesOn_frame u pass bundle t).1.trans hx, (signerGoesOn_frame u pass bundle t).2.trans he⟩

section
variable {s : State} {pass : Nat} {bundle : List Nat} {hs : List Thread} {h : Thread} (hh : h ∈ hs)
include hh

/-- A signer of the bundle that is issuing goes on in it. -/
theorem signersGoOn_thread? (ht : s.thread? h.uid = some h) (hb : bundle.contains h.uid = true) :
    (hs.foldl (fun u t => u.signerGoesOn pass bundle t) s).thread? h.uid = some { h with status := .issued } := by
  have hgo (st : Status) : ({ h with status := st } : Thread).goOn bundle = { h with status := .issued } := if_pos hb
  refine foldl_reaches (P := fun u : State => ∃ st, u.thread? h.uid = some { h with status := st })
    (Q := fun u : State => u.thread? h.uid = some { h with status := .issued }) hh ?_ ?_ ?_ s ⟨h.status, ht⟩
  · rintro u x ⟨st, hu⟩
    rw [signerGoesOn_thread?, hu]
    split_ifs
    · exact ⟨.issued, congrArg some (hgo st)⟩
    · exact ⟨st, rfl⟩
  · intro u x _ hu
    rw [signerGoesOn_thread?, hu]
    split_ifs
    · exact congrArg some (hgo .issued)
    · rfl
  · rintro u ⟨st, hu⟩
    simp only [signerGoesOn_thread?, hu, if_true, Option.map_some]
    exact congrArg some (hgo st)

/-- A signer's instruction becomes its pass's. -/
theorem signersGoOn_flight (hf : ∃ g ∈ s.x.flights, g.thread = h.uid ∧ g.op = .matrix 0) :
    ∃ g ∈ (hs.foldl (fun u t => u.signerGoesOn pass bundle t) s).x.flights, g.thread = h.uid ∧ g.op = .matrix pass := by
  refine foldl_reaches (P := fun u : State => ∃ g ∈ u.x.flights, g.thread = h.uid ∧ (g.op = .matrix 0 ∨ g.op = .matrix pass))
    (Q := fun u : State => ∃ g ∈ u.x.flights, g.thread = h.uid ∧ g.op = .matrix pass) hh ?_ ?_ ?_ s ?_
  · exact fun u x hu => signerGoesOn_flight u pass bundle x (P := fun op => op = .matrix 0 ∨ op = .matrix pass) (.inr rfl) hu
  · exact fun u x _ hu => signerGoesOn_flight u pass bundle x (P := (· = .matrix pass)) rfl hu
  · exact fun u hu => signerGoesOn_own u pass bundle h hu
  · obtain ⟨g, hg, hop⟩ := hf
    exact ⟨g, hg, hop.1, .inl hop.2⟩

end

section
variable {s : State} {p : Pass} {hs : List Thread} {k : Nat} {bundle : List Nat}

theorem issuePass_e : (s.issuePass p hs k bundle).e = { s.e with passes := s.e.passes ++ [p] } :=
  (signersGoOn_frame p.uid bundle hs (s.enterPass p)).2

theorem issuePass_team? {tm : Team} (hp : p.team = tm.uid) (ht : s.team? tm.uid = some tm) :
    (s.issuePass p hs k bundle).team? tm.uid = some { tm with k := tm.k.modify k ConvReg.close } := by
  unfold State.issuePass
  rw [hp]
  refine closeK_team? ?_
  unfold State.team?
  rw [(signersGoOn_frame p.uid bundle hs (s.enterPass p)).1]
  exact ht

theorem issuePass_thread? {h : Thread} (hh : h ∈ hs) (ht : s.thread? h.uid = some h) (hb : bundle.contains h.uid = true) :
    (s.issuePass p hs k bundle).thread? h.uid = some { h with status := .issued } :=
  signersGoOn_thread? (s := s.enterPass p) hh ht hb

theorem issuePass_flight {h : Thread} (hh : h ∈ hs) (hf : ∃ g ∈ s.x.flights, g.thread = h.uid ∧ g.op = .matrix 0) :
    ∃ g ∈ (s.issuePass p hs k bundle).x.flights, g.thread = h.uid ∧ g.op = .matrix p.uid := by
  obtain ⟨g, hg, ht, ho⟩ := signersGoOn_flight (s := s.enterPass p) (pass := p.uid) (bundle := bundle) hh hf
  obtain ⟨f, hf, hft, hfo⟩ := closeK_flight hg ho
  exact ⟨f, hf, hft.trans ht, hfo⟩

end

section
variable {s : State} {t : Thread} {tm : Team} (c : Ctl) {k : Nat} (ins : Instr)

/-- A register with one thread's signature more. -/
def ConvReg.sign (r : ConvReg) (u : Nat) : ConvReg := { r with signed := r.signed ++ [(u, false)] }

/-- The team with one thread's signature more for a register. -/
def Team.sign (tm : Team) (k u : Nat) : Team := { tm with k := tm.k.modify k fun r => r.sign u }

theorem kget_sign (hk : k < tm.k.length) : (tm.sign k t.uid).kget k = (tm.kget k).sign t.uid :=
  (kget_modify _ hk k).trans (if_pos rfl)

theorem signed_noReplay (hr : ∀ u ∈ s.x.threads, u.isReplay = false) :
    ∀ u ∈ (s.signed t c tm k ins).x.threads, u.isReplay = false := by
  rw [signed_threads]
  intro u hu
  obtain ⟨v, hv, rfl⟩ := List.mem_map.1 hu
  simpa [Thread.isReplay] using hr v hv

/-- A set still short after a signature waits. -/
theorem signed_kTry_short (hteam : s.team? tm.uid = some tm) (hk : k < tm.k.length)
    (hr : ∀ u ∈ s.x.threads, u.isReplay = false) (hn : (tm.kget k).signed.length + 1 < (tm.kget k).members.length)
    (hm : ∀ q ∈ (tm.kget k).members, ∃ u, s.memberThread tm.uid q = some u ∧
      (u.status = .exited → (tm.kget k).signedBy u.uid = true)) (bundle : List Nat) :
    (s.signed t c tm k ins).kTry tm.uid k bundle = s.signed t c tm k ins := by
  refine kTry_waits (tm := tm.sign k t.uid) (signed_team? _ _ _ _ _ _ hteam) (signed_noReplay c ins hr) ?_ ?_ bundle
  · rw [kget_sign hk]
    simpa [ConvReg.sign, ConvReg.members] using hn
  · rw [kget_sign hk]
    intro q hq
    obtain ⟨u, hmu, hex⟩ := hm q hq
    refine ⟨t.signing c (.matrix k ins) u, (signed_memberThread s t c tm k ins q).trans (by rw [hmu]; rfl), fun he => ?_⟩
    have hstatus : u.status = .exited := by
      unfold Thread.signing at he
      split_ifs at he
      exact he
    have := hex hstatus
    rw [signing_uid]
    simp only [ConvReg.signedBy, ConvReg.sign, List.any_append] at this ⊢
    rw [this, Bool.true_or]

end

section
variable {s : State} {t : Thread} {tm : Team} (c : Ctl) {m : MatIns} {ins : Instr}
  (hu : (s.x.threads.map Thread.uid).Nodup) (ht : t ∈ s.x.threads) (hteam : t.team = some tm.uid) (htrap : t.trap = none)
include hu ht hteam htrap

/-- The rows that the signers supply: those of the one that signs, and of each thread held before. -/
theorem signed_passRows (hm : ∀ q ∈ (tm.kget m.k).members, ∃ u, s.memberThread tm.uid q = some u) :
    (s.signed t c tm m.k ins).passRows (tm.sign m.k t.uid) m ((tm.kget m.k).sign t.uid) =
      (tm.kget m.k).members.flatMap fun q => match s.memberThread tm.uid q with
        | some u => if u.uid = t.uid ∨ u ∈ s.heldSigners tm.uid m.k then rowBytes u m.a (64 / (tm.kget m.k).members.length)
            else List.replicate (64 * (64 / (tm.kget m.k).members.length)) 0#8
        | none => [] := by
  unfold State.passRows
  rw [List.flatMap_map]
  refine List.flatMap_congr fun q hq => ?_
  obtain ⟨u, hmu⟩ := hm q hq
  have hmem : u ∈ s.x.threads := List.mem_of_find?_eq_some hmu
  have hheld := signed_held_uid (k := m.k) c ins hu ht hteam htrap hmem
  have hrow (n : Nat) : rowBytes (t.signing c (.matrix m.k ins) u) m.a n = rowBytes u m.a n := by
    simp [rowBytes, Thread.run, Thread.vget]
  have hmu' : (s.signed t c tm m.k ins).memberThread (tm.sign m.k t.uid).uid q = some (t.signing c (.matrix m.k ins) u) :=
    (signed_memberThread ..).trans (by rw [hmu]; rfl)
  simp only [hmu, hmu', signing_uid, hrow]
  exact if_congr hheld rfl rfl

end

end Sys2Proof.Machine

namespace Sys2Proof

open Machine

/-- Settles O32: `matSign_signed` leaves one signature more; then the set waits (`signed_kTry_short`), or issues (`kTry_issues`,
`matIssue_eq`) and its signers go on. -/
theorem matrixSigning : Obligations.MatrixSigning := by
  intro s t tm c f reuse x a b k ins conv hsolo hcalm htm hins r n nb hn ha hb hk hx hhas hnot hheld hr huniq _ hlatch hsw hmem
    rows
  obtain ⟨hteam, htm'⟩ := teamOf_team? htm
  obtain ⟨hthread, -⟩ := thread?_mem hsolo.2.1
  obtain ⟨-, htrap⟩ := solo_status huniq hsolo
  let m : MatIns := ⟨f.toNat, reuse, x.toNat, a.toNat, b.toNat, k.toNat, conv⟩
  have hm : matIns? ins = some m := by
    rcases hins with ⟨rfl, rfl⟩ | ⟨rfl, rfl⟩ <;> rfl
  have hsign : exec ins s = .next ((s.signed t c tm k.toNat ins).kTry tm.uid k.toNat [t.uid]) := by
    have h := matSign_signed (m := m) (nb := nb) c ins huniq hthread hteam hsolo hcalm htm hn a.isLt b.isLt rfl ha hb hx hhas hnot
      fun h hh => (hheld h hh).1
    refine Eq.trans ?_ (congrArg Host.Outcome.next h)
    rcases hins with ⟨rfl, rfl⟩ | ⟨rfl, rfl⟩ <;> rfl
  refine ⟨fun hshort => ?_, fun r0 o hlast hr0 ho hroom => ?_⟩
  · rw [signed_kTry_short c ins htm' hk hr hshort hmem] at hsign
    obtain ⟨g, hg, hgt, hgo⟩ := signed_flights s t c tm k.toNat ins
    exact ⟨_, _, _, g, hsign, (signed_thread? ..).trans (by rw [hsolo.2.1]; rfl), by simp, by simp, by simp,
      signed_team? _ _ _ _ _ _ htm', kget_sign hk, by rw [signed_e], by simp [hg], hgt, hgo⟩
  let S := s.signed t c tm k.toNat ins
  let T := tm.sign k.toNat t.uid
  obtain ⟨q, qs, hq⟩ := List.exists_cons_of_length_pos (l := r.members) (by omega)
  have hhead : r.members.headD (0, 0) = q := by rw [hq]; rfl
  rw [hhead] at hr0
  have hS : S.team? tm.uid = some T := signed_team? _ _ _ _ _ _ htm'
  have hkget : T.kget k.toNat = r.sign t.uid := kget_sign hk
  have hself : t.signing c (.matrix k.toNat ins) t ∈ S.heldSigners tm.uid k.toNat :=
    (signing_mem_heldSigners c ins huniq hthread hteam htrap hthread).2 (.inl rfl)
  have hstatus : ∀ h ∈ S.heldSigners tm.uid k.toNat, h.status = .held (.matrix k.toNat ins) := by
    intro h hh
    have hin := (mem_heldSigners.1 hh).1
    rw [signed_threads] at hin
    obtain ⟨v, hv, rfl⟩ := List.mem_map.1 hin
    rcases (signing_mem_heldSigners c ins huniq hthread hteam htrap hv).1 hh with e | hv'
    · obtain rfl := thread_uid_inj huniq hthread hv e
      exact signing_status_self ..
    · by_cases e : v.uid = t.uid
      · obtain rfl := thread_uid_inj huniq hthread hv e
        exact signing_status_self ..
      · simpa [Thread.signing, e] using (hheld v hv').2
  have hissue : S.kTry tm.uid k.toNat [t.uid] = S.matIssue T m (r.sign t.uid) [t.uid] := by
    rw [← hkget]
    exact kTry_issues (tm := T) hS (signed_noReplay c ins hr) (by rw [hkget]; simp [ConvReg.sign])
      (by rw [hkget]; exact List.length_append.trans hlast) (List.ne_nil_of_mem hself) hstatus hm
      (by unfold State.passesOf; rw [signed_e]; exact hroom) hsw _
  have hr0' : ((r.sign t.uid).members.map fun p => S.memberThread T.uid p).head? =
      some (some (t.signing c (.matrix k.toNat ins) r0)) := by
    show (r.members.map fun p => S.memberThread tm.uid p).head? = _
    rw [hq, List.map_cons, List.head?_cons, signed_memberThread, hr0]
    rfl
  have ho' : S.matCheck T (t.signing c (.matrix k.toNat ins) r0) m = .ok o :=
    (matCheck_congr (signed_launch? ..) (signing_launch ..) (signing_v ..) rfl rfl m).trans ho
  have hrows : S.passRows T m (r.sign t.uid) = rows :=
    signed_passRows (m := m) c huniq hthread hteam htrap fun q hq => (hmem q hq).imp fun _ h => h.1
  have heq := matIssue_eq hr0' ho' [t.uid]
  rw [hrows] at heq
  rw [show exec ins s = _ from hsign, hissue, heq]
  obtain ⟨ls, hls⟩ := latchA_frame S T m rows
  have hx : (S.latchA T m rows).2.x = S.x := by rw [hls]
  have he : (S.latchA T m rows).2.e.passes = s.e.passes := by rw [hls]; exact congrArg (·.passes) (signed_e s t c tm k.toNat ins)
  have hlt : S.e.latches = s.e.latches := congrArg (·.latches) (signed_e s t c tm k.toNat ins)
  obtain ⟨g, hg, hgt, hgo⟩ := signed_flights s t c tm k.toNat ins
  have huid : (t.signing c (.matrix k.toNat ins) t).uid = t.uid := signing_uid ..
  refine ⟨_, { t.signing c (.matrix k.toNat ins) t with status := .issued }, { T with k := T.k.modify k.toNat ConvReg.close },
    (S.latchA T m rows).2.passFor T m (S.heldSigners T.uid m.k) (t.signing c (.matrix k.toNat ins) r0) o (S.latchA T m rows).1,
    rfl, ?_, rfl, rfl, signing_uid .., rfl, rfl, rfl, matCheck_words ho, rfl, ?_, ?_, fun hnone => ?_, fun o j l hsome => ?_,
    ?_, ?_, ?_, signing_v .., rfl, ?_⟩
  · rw [issuePass_e, he]
  · exact (congrArg (·.clk) hx).trans (signed_clk ..)
  · exact List.mem_map.2 ⟨_, hself, huid⟩
  · rw [issuePass_e]
    exact latchA_free S T m rows (hlt ▸ hnone)
  · rw [issuePass_e]
    split
    · next h =>
      obtain ⟨rfl, rfl⟩ := h
      exact latchA_own S T m rows (hlt ▸ hlatch) (hlt ▸ hsome)
    · next h => exact latchA_other S T m rows (hlt ▸ hsome) h
  · exact issuePass_team? (tm := T) rfl (by unfold State.team?; rw [hx]; exact hS)
  · refine (kget_modify _ (by simpa [T, Team.sign] using hk) _).trans ?_
    rw [if_pos rfl, hkget]
    rfl
  · rw [← huid]
    exact issuePass_thread? hself (by
      unfold State.thread?; rw [hx, huid]; exact (signed_thread? ..).trans (by rw [hsolo.2.1]; rfl)) (by simp)
  · rw [← huid]
    refine issuePass_flight hself ⟨g, ?_, hgt.trans huid.symm, hgo⟩
    rw [hx, hg]
    exact List.mem_append_right _ (List.mem_singleton_self g)

end Sys2Proof
end

section
/-! Barriers: an arrival with its fence done, and the completion of a round (R32, R89, R232, R233). Settles O27. -/

namespace Sys2Proof.Machine

/-! The threads of a barrier in the order of their issue -/

/-- The instruction waits at a barrier. -/
def Flight.atBarrier (f : Flight) : Bool := match f.op with | .bar _ _ => true | _ => false

theorem atBarrier_of {f : Flight} {h : Hold} {q : Bool} (hf : f.op = .bar h q) : f.atBarrier = true := by
  simp [Flight.atBarrier, hf]

theorem barFlight_eq (s : State) (u : Nat) : s.barFlight u = s.x.flights.find? fun f => f.thread == u && f.atBarrier := rfl

theorem barOrder_eq (s : State) (ts : List Thread) :
    s.barOrder ts = (s.x.flights.filter Flight.atBarrier).filterMap fun f => ts.find? fun t => t.uid == f.thread := by
  unfold State.barOrder
  rw [List.filterMap_filter]
  refine List.filterMap_congr fun f _ => ?_
  unfold Flight.atBarrier
  cases f.op <;> rfl

section
variable {s : State} {ts : List Thread}

theorem mem_of_mem_barOrder {u : Thread} (h : u ∈ s.barOrder ts) : u ∈ ts := by
  rw [barOrder_eq] at h
  obtain ⟨f, -, hf⟩ := List.mem_filterMap.1 h
  exact List.mem_of_find?_eq_some hf

/-- With one barrier instruction a thread, no thread stands in the order twice. -/
theorem barOrder_nodup (h : ((s.x.flights.filter Flight.atBarrier).map Flight.thread).Nodup) :
    ((s.barOrder ts).map Thread.uid).Nodup := by
  rw [barOrder_eq]
  refine h.sublist ?_
  generalize s.x.flights.filter Flight.atBarrier = fs
  induction fs with
  | nil => exact .slnil
  | cons f fs ih =>
    cases hf : ts.find? fun t => t.uid == f.thread with
    | none =>
      simp only [List.filterMap_cons, hf]
      exact ih.cons _
    | some u =>
      have : u.uid = f.thread := by simpa using List.find?_some hf
      simp only [List.filterMap_cons, hf, List.map_cons, this]
      exact ih.cons_cons _

/-- A thread with a barrier instruction in flight stands in the order. -/
theorem mem_barOrder (hn : (ts.map Thread.uid).Nodup) {u : Thread} (hu : u ∈ ts) (hf : (s.barFlight u.uid).isSome = true) :
    u ∈ s.barOrder ts := by
  obtain ⟨f, hf⟩ := Option.isSome_iff_exists.1 hf
  rw [barFlight_eq] at hf
  have hp := List.find?_some hf
  simp only [Bool.and_eq_true, beq_iff_eq] at hp
  rw [barOrder_eq]
  refine List.mem_filterMap.2 ⟨f, List.mem_filter.2 ⟨List.mem_of_find?_eq_some hf, hp.2⟩, ?_⟩
  have hsome : (ts.find? fun t => t.uid == f.thread).isSome = true := List.find?_isSome.2 ⟨u, hu, by simp [hp.1]⟩
  obtain ⟨v, hv⟩ := Option.isSome_iff_exists.1 hsome
  have hvu : v.uid = u.uid := by simpa [hp.1] using List.find?_some hv
  rw [hv, List.inj_on_of_nodup_map hn (List.mem_of_find?_eq_some hv) hu hvu]

/-- Where each thread has a barrier instruction in flight, the order holds just these threads. -/
theorem barOrder_perm (h : ((s.x.flights.filter Flight.atBarrier).map Flight.thread).Nodup) (hn : (ts.map Thread.uid).Nodup)
    (hf : ∀ u ∈ ts, (s.barFlight u.uid).isSome = true) : (s.barOrder ts).Perm ts :=
  (List.perm_ext_iff_of_nodup (barOrder_nodup h).of_map hn.of_map).2 fun u =>
    ⟨mem_of_mem_barOrder, fun hu => mem_barOrder hn hu (hf u hu)⟩

end

/-! Threads go on past a barrier -/

/-- What becomes of a thread where the threads of some uids go on: it may go on, its counters may fall, and its own W writes
may become its team's. -/
def Thread.passes (go : List Nat) (bundle : List Nat) (u v : Thread) : Prop :=
  ∃ q w, v = { (if u.uid ∈ go then u.goOn bundle else u) with q := q, wown := w }

theorem passes_refl (b : List Nat) (u : Thread) : u.passes [] b u := ⟨u.q, u.wown, rfl⟩

theorem goOn_q_wown (u : Thread) (b : List Nat) (q : List Nat) (w : Sparse Word) :
    ({ u with q := q, wown := w } : Thread).goOn b = { u.goOn b with q := q, wown := w } := by
  show (if b.contains u.uid then _ else _) = _
  unfold Thread.goOn
  split
  · rfl
  · show (if u.site.word + 1 == u.count then _ else _) = _
    unfold Thread.past
    split <;> rfl

section
variable {go go' : List Nat} {b : List Nat} {u v w : Thread}

theorem passes_uid (h : u.passes go b v) : v.uid = u.uid := by
  obtain ⟨q, w, rfl⟩ := h
  split
  · exact goOn_uid u b
  · rfl

theorem passes_of_not_mem (h : u.passes go b v) (hn : u.uid ∉ go) : ∃ q w, v = { u with q := q, wown := w } := by
  obtain ⟨q, w, rfl⟩ := h
  exact ⟨q, w, by rw [if_neg hn]⟩

theorem passes_of_mem (h : u.passes go b v) (hn : u.uid ∈ go) : ∃ q w, v = { u.goOn b with q := q, wown := w } := by
  obtain ⟨q, w, rfl⟩ := h
  exact ⟨q, w, by rw [if_pos hn]⟩

/-- Threads go on one list after another, where the lists share none. -/
theorem passes_trans (h : u.passes go b v) (k : v.passes go' b w) (hd : u.uid ∈ go → u.uid ∉ go') : u.passes (go ++ go') b w := by
  have hv := passes_uid h
  by_cases hu : u.uid ∈ go
  · obtain ⟨q, x, rfl⟩ := passes_of_mem h hu
    obtain ⟨q', x', rfl⟩ := passes_of_not_mem k (hv ▸ hd hu)
    exact ⟨q', x', by rw [if_pos (List.mem_append_left _ hu)]⟩
  · obtain ⟨q, x, rfl⟩ := passes_of_not_mem h hu
    by_cases hu' : u.uid ∈ go'
    · obtain ⟨q', x', rfl⟩ := passes_of_mem k hu'
      exact ⟨q', x', by rw [if_pos (List.mem_append_right _ hu'), goOn_q_wown]⟩
    · obtain ⟨q', x', rfl⟩ := passes_of_not_mem k hu'
      exact ⟨q', x', by rw [if_neg (by simp [hu, hu'])]⟩

end

/-- The state with its threads changed and some of its flights. -/
def State.withPassed (s : State) (g : Thread → Thread) (p : Flight → Bool) : State :=
  { s with x := { s.x with threads := s.x.threads.map g, flights := s.x.flights.filter p } }

/-- From `s` to `s'`, the threads of some uids have gone on: flights of them alone have ended, and nothing else has changed. -/
def State.passedTo (s : State) (go : List Nat) (b : List Nat) (s' : State) : Prop :=
  ∃ g p, s' = s.withPassed g p ∧ (∀ u : Thread, u.passes go b (g u)) ∧
    ∀ f ∈ s.x.flights, f.thread ∉ go → (∀ h ∈ s.x.flights, h.uid = f.uid → h.thread = f.thread) → p f = true

theorem passedTo_refl (s : State) (b : List Nat) : s.passedTo [] b s :=
  ⟨id, fun _ => true, by simp [State.withPassed], fun u => passes_refl b u, fun _ _ _ _ => rfl⟩

theorem passedTo_trans {s s' s'' : State} {go go' b : List Nat} (h : s.passedTo go b s') (k : s'.passedTo go' b s'')
    (hd : go.Disjoint go') : s.passedTo (go ++ go') b s'' := by
  obtain ⟨g, p, rfl, hg, hp⟩ := h
  obtain ⟨g', p', rfl, hg', hp'⟩ := k
  refine ⟨g' ∘ g, fun f => p f && p' f, ?_, fun u => passes_trans (hg u) (hg' _) fun h => hd h, fun f hf hn hu => ?_⟩
  · simp [State.withPassed, List.filter_filter, Bool.and_comm]
  · rw [List.mem_append, not_or] at hn
    have h1 := hp f hf hn.1 hu
    simp only [h1, Bool.true_and]
    exact hp' f (List.mem_filter.2 ⟨hf, h1⟩) hn.2 fun h hh => hu h (List.mem_filter.1 hh).1

theorem passes_counted (f : Flight) (b : List Nat) (u : Thread) : u.passes [] b (f.counted u) := by
  obtain ⟨q, h⟩ := counted_like f u
  exact ⟨q, u.wown, h⟩

theorem passes_goOn (t : Nat) (b : List Nat) (u : Thread) : u.passes [t] b (if u.uid == t then u.goOn b else u) := by
  by_cases h : u.uid = t
  · simpa [h] using ⟨_, _, (by simp [h] : u.goOn b = { (if u.uid ∈ [t] then u.goOn b else u) with })⟩
  · exact ⟨u.q, u.wown, by simp [h]⟩

/-- One thread goes on past its barrier. -/
theorem passedTo_barPass (s : State) (t : Thread) (b : List Nat) : s.passedTo [t.uid] b (s.barPass t b) := by
  unfold State.barPass
  cases hf : s.barFlight t.uid with
  | none =>
    refine ⟨fun u => if u.uid == t.uid then u.goOn b else u, fun _ => true, ?_, passes_goOn t.uid b, fun _ _ _ _ => rfl⟩
    simp [State.withPassed, State.updThread, State.mapThreads]
  | some f =>
    have hp := List.find?_some hf
    simp only [Bool.and_eq_true, beq_iff_eq] at hp
    refine ⟨(fun u => if u.uid == t.uid then u.goOn b else u) ∘ f.counted, fun h => h.uid != f.uid, ?_,
      fun u => passes_trans (passes_counted f b u) (passes_goOn t.uid b _) (nomatch ·), fun h hh hn hu => ?_⟩
    · simp [State.withPassed, State.updThread, State.mapThreads, finish_eq, State.dropFlight]
    · rw [bne_iff_ne]
      rintro e
      have := hu f (List.mem_of_find?_eq_some hf) e.symm
      exact hn (List.mem_singleton.2 (this.symm.trans hp.1))

/-- All threads of a list go on, each once. -/
theorem passedTo_passAll {go : List Thread} (hn : (go.map Thread.uid).Nodup) (s : State) (b : List Nat) :
    s.passedTo (go.map Thread.uid) b (go.foldl (fun s t => s.barPass t b) s) := by
  induction go generalizing s with
  | nil => exact passedTo_refl s b
  | cons t go ih =>
    rw [List.map_cons, List.nodup_cons] at hn
    exact passedTo_trans (passedTo_barPass s t b) (ih hn.2 _) (List.singleton_disjoint.2 hn.1)

/-! Arriving -/

/-- A thread arrives at a barrier with its fence done: it is held, and its instruction is in flight. -/
def State.arriving (s : State) (t : Thread) (c : Ctl) (h : Hold) (f : Flight) : State :=
  { s with x := { s.x with nextUid := s.x.nextUid + 1, flights := s.x.flights ++ [f],
                           threads := s.x.threads.map (t.signing c h) } }

/-- The arrival's release work is done at once where the core holds no byte of the context to send, and the thread waits past
no write completion time. -/
theorem releaseWork_clean {s : State} {t : Thread} (hw : t.wct = []) (hm : ∀ k ∈ s.m.copies, k.ctx = t.ctx → k.mask = [])
    (hd : s.det t = false) (level : Nat) : s.releaseWork t level = (s, []) := by
  have hc : s.releaseCore t.core t.ctx = (s, []) := by
    have : (s.m.copies.filter fun k => k.place == .l1 t.core && k.ctx == t.ctx && !k.mask.isEmpty) = [] := by
      refine List.filter_eq_nil_iff.2 fun k hk => ?_
      by_cases h : k.ctx = t.ctx
      · simp [hm k hk h]
      · simp [h]
    unfold State.releaseCore
    rw [this]
    rfl
  unfold State.releaseWork
  rw [hc, hw]
  simp only [hd]
  split
  · rfl
  · split <;> simp [wctJoin]

/-- The fence of an arrival that no access comes before is done at once (R89). -/
theorem barBegin_first {s : State} {f : Flight} {t : Thread} {h : Hold} (hop : f.op = .bar h false)
    (ht : s.thread? f.thread = some t) (he : s.earlier f = []) (hd : s.det t = false)
    (hr : s.releaseWork t h.level = (s, [])) :
    s.barBegin f = s.updFlight f.uid fun g => { g with op := .bar h true, wait := [] } := by
  have hshadow : s.shadowsTested f = true := by simp [State.shadowsTested, ht, hd]
  have hdone : s.accessesDone f h.level = true := by simp [State.accessesDone, he, hshadow]
  unfold State.barBegin
  simp only [hop, ht, hd, hdone, Bool.false_and, Bool.not_true, Bool.or_false, Bool.false_eq_true, if_false]
  cases s.teamOf t <;> simp [hr]

/-- The instruction that `launchFlight` puts in flight. -/
def State.flightOf (s : State) (t : Thread) (c : Ctl) (op : FlightOp) : Flight :=
  ⟨s.x.nextUid, ((s.x.issues.find? fun i => i.core == t.core && i.slice == t.slice).map Issue.stamp).getD 0, t.uid, t.site,
    if c.qe then some c.qc.toNat else none, c.la.toNat, op, false, [], none⟩

/-- A thread held with its instruction in flight. -/
theorem launchFlight_held (s : State) (t : Thread) (c : Ctl) (h : Hold) (op : FlightOp) :
    (s.launchFlight t c op).updThread t.uid (fun t => { t with status := .held h }) = s.arriving t c h (s.flightOf t c op) := by
  unfold State.launchFlight State.flightOf
  cases hq : c.qe with
  | false =>
    simp only [State.updThread, State.mapThreads, State.arriving, State.mk.injEq, ExecState.mk.injEq, and_true, true_and,
      List.map_inj_left, Bool.false_eq_true, if_false, beq_iff_eq]
    intro u _
    by_cases hu : u.uid = t.uid <;> simp [Thread.signing, hq, hu]
  | true =>
    simp only [State.updThread, State.mapThreads, State.arriving, State.mk.injEq, ExecState.mk.injEq, and_true, true_and,
      List.map_map, List.map_inj_left, if_true, beq_iff_eq, Function.comp_apply]
    intro u _
    by_cases hu : u.uid = t.uid <;> simp [Thread.signing, hq, hu]

/-- A thread is held at a barrier, and its fence begins. -/
def State.fenced (s : State) (t : Thread) (c : Ctl) (h : Hold) : State :=
  let s' := (s.launchFlight t c (.bar h false)).updThread t.uid fun t => { t with status := .held h }
  match s'.flight? s.x.nextUid with
  | some f => s'.barBegin f
  | none => s'

theorem arriving_thread? (s : State) (t : Thread) (c : Ctl) (h : Hold) (f : Flight) (u : Nat) :
    (s.arriving t c h f).thread? u = (s.thread? u).map (t.signing c h) :=
  thread?_mapThreads (s := s) (signing_uid t c h) u

/-- A thread with no access in flight that its fence must wait for arrives at once. -/
theorem fenced_arriving {s : State} {t : Thread} {c : Ctl} {h : Hold} (ht : s.thread? t.uid = some t)
    (hf : ∀ f ∈ s.x.flights, f.thread ≠ t.uid ∧ f.uid < s.x.nextUid) (hd : s.det t = false) (hw : t.wct = [])
    (hm : ∀ k ∈ s.m.copies, k.ctx = t.ctx → k.mask = []) :
    ∃ f : Flight, f.uid = s.x.nextUid ∧ f.thread = t.uid ∧ f.op = .bar h true ∧ f.wait = [] ∧
      s.fenced t c h = s.arriving t c h f := by
  obtain ⟨f, huid, hthread, hop, hS⟩ : ∃ f : Flight, f.uid = s.x.nextUid ∧ f.thread = t.uid ∧ f.op = .bar h false ∧
      (s.launchFlight t c (.bar h false)).updThread t.uid (fun t => { t with status := .held h }) = s.arriving t c h f :=
    ⟨_, rfl, rfl, rfl, launchFlight_held s t c h _⟩
  have hflight : (s.arriving t c h f).flight? s.x.nextUid = some f := by
    have : (s.x.flights.find? fun g => g.uid == s.x.nextUid) = none :=
      List.find?_eq_none.2 fun g hg => by simpa using (hf g hg).2.ne
    simp [State.flight?, State.arriving, List.find?_append, this, huid]
  have hself : (s.arriving t c h f).thread? f.thread = some (t.signing c h t) := by
    rw [hthread, arriving_thread?, ht]
    rfl
  have hearlier : (s.arriving t c h f).earlier f = [] := by
    refine List.filter_eq_nil_iff.2 fun g hg => ?_
    rcases List.mem_append.1 hg with hg | hg
    · simp [hthread, (hf g hg).1]
    · simp [List.mem_singleton.1 hg]
  have hdet : (s.arriving t c h f).det (t.signing c h t) = false := by
    unfold State.det
    rw [signing_launch]
    exact hd
  have hwork := releaseWork_clean (s := s.arriving t c h f) (t := t.signing c h t) (by
      unfold Thread.signing; split_ifs <;> exact hw) (by
      unfold Thread.signing; split_ifs <;> exact hm) hdet h.level
  have hmap : (s.x.flights.map fun g => if g.uid == f.uid then { g with op := FlightOp.bar h true, wait := [] } else g) =
      s.x.flights := by
    refine (List.map_congr_left fun g hg => ?_).trans (List.map_id _)
    simp [huid, (hf g hg).2.ne]
  refine ⟨{ f with op := .bar h true, wait := [] }, huid, hthread, rfl, rfl, ?_⟩
  unfold State.fenced
  simp only [hS, hflight]
  rw [barBegin_first hop hself hearlier hdet hwork]
  simp only [State.updFlight, State.arriving, List.map_append, hmap]
  simp

/-! What arriving leaves -/

@[simp] theorem signing_wown (t : Thread) (c : Ctl) (h : Hold) (u : Thread) : (t.signing c h u).wown = u.wown := by
  unfold Thread.signing; split_ifs <;> rfl
@[simp] theorem signing_tix (t : Thread) (c : Ctl) (h : Hold) (u : Thread) : (t.signing c h u).tix = u.tix := by
  unfold Thread.signing; split_ifs <;> rfl
theorem signing_other {t u : Thread} (c : Ctl) (h : Hold) (hu : u.uid ≠ t.uid) : t.signing c h u = u := if_neg hu

/-- A hold at a barrier. -/
def Hold.isBar (h : Hold) : Prop := (∃ n k, h = .bar n k) ∨ h = .barc ∨ h = .barg

theorem atBar_held {t : Thread} {h : Hold} (hb : h.isBar) (hs : t.status = .held h) (ht : t.trap = none) : t.atBar = some h := by
  unfold Thread.atBar
  rcases hb with ⟨n, k, rfl⟩ | rfl | rfl <;> simp [hs, ht]

/-- A thread that is not held is at no barrier. -/
theorem atBar_none {t : Thread} (h : t.status = .issued ∨ t.status = .boundary) : t.atBar = none := by
  unfold Thread.atBar
  rcases h with h | h <;> simp [h]

section
variable {s : State} {t : Thread} {c : Ctl} {h : Hold} {f : Flight} (hf : f.thread = t.uid) (hop : f.op = .bar h true)
include hf hop

theorem arriving_barFlight_self (hs : ∀ g ∈ s.x.flights, g.thread ≠ t.uid) :
    (s.arriving t c h f).barFlight t.uid = some f := by
  have hnone : (s.x.flights.find? fun g => g.thread == t.uid && g.atBarrier) = none :=
    List.find?_eq_none.2 fun g hg => by simp [hs g hg]
  rw [barFlight_eq, State.arriving, List.find?_append, hnone]
  simp [hf, atBarrier_of hop]

omit hop in
theorem arriving_barFlight_other {u : Nat} (hu : u ≠ t.uid) : (s.arriving t c h f).barFlight u = s.barFlight u := by
  rw [barFlight_eq, State.arriving, List.find?_append]
  simp [hf, hu.symm, barFlight_eq]

omit hop in
theorem arriving_arrived_other {u : Thread} (hu : u.uid ≠ t.uid) : (s.arriving t c h f).arrived u = s.arrived u := by
  unfold State.arrived
  rw [arriving_barFlight_other hf hu]
  rfl

/-- The thread that arrives has arrived, and each thread that had is still there. -/
theorem arriving_arrived (hb : h.isBar) (hw : f.wait = []) (hs : ∀ g ∈ s.x.flights, g.thread ≠ t.uid) (ht : t.trap = none)
    (hu : (s.x.threads.map Thread.uid).Nodup) (hmem : t ∈ s.x.threads) {u : Thread} (hin : u ∈ s.x.threads)
    (hheld : u.uid ≠ t.uid → u.atBar = some h ∧ s.arrived u = true) :
    (t.signing c h u).atBar = some h ∧ (s.arriving t c h f).arrived (t.signing c h u) = true := by
  by_cases e : u.uid = t.uid
  · obtain rfl := thread_uid_inj hu hmem hin e
    have hat : (u.signing c h u).atBar = some h := atBar_held hb (signing_status_self ..) (by simpa using ht)
    refine ⟨hat, ?_⟩
    unfold State.arrived
    rw [hat, signing_uid, arriving_barFlight_self hf hop hs]
    simp [hop, State.passed, State.passedAt, hw]
  · rw [signing_other c h e, arriving_arrived_other hf e]
    exact hheld e

/-- One barrier instruction a thread, still. -/
theorem arriving_barriers (hs : ∀ g ∈ s.x.flights, g.thread ≠ t.uid)
    (hn : ((s.x.flights.filter Flight.atBarrier).map Flight.thread).Nodup) :
    (((s.arriving t c h f).x.flights.filter Flight.atBarrier).map Flight.thread).Nodup := by
  have : t.uid ∉ (s.x.flights.filter Flight.atBarrier).map Flight.thread := by
    intro hm
    obtain ⟨g, hg, he⟩ := List.mem_map.1 hm
    exact hs g (List.mem_filter.1 hg).1 he
  have hsplit : (s.arriving t c h f).x.flights.filter Flight.atBarrier = s.x.flights.filter Flight.atBarrier ++ [f] := by
    simp [State.arriving, atBarrier_of hop]
  rw [hsplit, List.map_append]
  exact hn.append (List.nodup_singleton _) (by simpa [hf] using this)

end

theorem arriving_uids (s : State) (t : Thread) (c : Ctl) (h : Hold) (f : Flight) :
    (s.arriving t c h f).x.threads.map Thread.uid = s.x.threads.map Thread.uid := by
  simp [State.arriving, Function.comp_def]

/-- A thread of a team that has not ended. -/
theorem mem_liveOf {s : State} {k : Nat} {u : Thread} :
    u ∈ s.liveOf k ↔ u ∈ s.x.threads ∧ u.team = some k ∧ u.status ≠ .exited := by
  simp [State.liveOf]

theorem arriving_liveOf {s : State} {t : Thread} {c : Ctl} {h : Hold} {f : Flight} (hu : (s.x.threads.map Thread.uid).Nodup)
    (hmem : t ∈ s.x.threads) (ht : t.status ≠ .exited) (k : Nat) :
    (s.arriving t c h f).liveOf k = (s.liveOf k).map (t.signing c h) := by
  unfold State.liveOf State.arriving
  rw [List.filter_map]
  refine congrArg (List.map _) (List.filter_congr fun u hin => ?_)
  by_cases e : u.uid = t.uid
  · obtain rfl := thread_uid_inj hu hmem hin e
    have h1 : (u.status != .exited) = true := bne_iff_ne.2 ht
    have h2 : ((u.signing c h u).status != .exited) = true := by rw [signing_status_self]; rfl
    simp only [Function.comp_apply, signing_team, h1, h2]
  · simp [signing_other c h e]

/-! Instances that do not complete -/

section
variable {s : State} {team : Nat} {t : Thread} (ht : t ∈ s.liveOf team) (b : List Nat)
include ht

theorem barDead_idle (hn : t.atBar = none) : s.barDead team = s := by
  unfold State.barDead
  dsimp only
  rw [if_pos]
  rw [Bool.or_eq_true, List.any_eq_true]
  exact .inr ⟨t, ht, by simp [hn]⟩

theorem barcTry_idle (hn : t.atBar ≠ some .barc) : s.barcTry team b = s := by
  unfold State.barcTry
  split
  · rfl
  · next tm htm =>
    refine if_neg ?_
    rw [Bool.and_eq_true, List.all_eq_true, not_and]
    intro _ hall
    have hin : t ∈ (s.clusterTeams tm).flatMap s.liveOf := by
      refine List.mem_flatMap.2 ⟨team, ?_, ht⟩
      refine List.mem_map.2 ⟨tm, List.mem_filter.2 ⟨List.mem_of_find?_eq_some htm, by simp⟩, team?_uid htm⟩
    have := hall t hin
    simp [hn] at this

theorem bargTry_idle {tm : Team} (htm : s.team? team = some tm) (hsh : tm.shadowOf = none) (hn : t.atBar ≠ some .barg) :
    s.bargTry tm.launch b = s := by
  unfold State.bargTry
  split
  · rfl
  · refine if_neg ?_
    rw [Bool.and_eq_true, List.all_eq_true, not_and]
    intro _ hall
    have hin : t ∈ ((s.x.teams.filter fun k => k.launch == tm.launch && k.shadowOf.isNone).map Team.uid).flatMap s.liveOf := by
      refine List.mem_flatMap.2 ⟨team, ?_, ht⟩
      refine List.mem_map.2 ⟨tm, List.mem_filter.2 ⟨List.mem_of_find?_eq_some htm, by simp [hsh]⟩, team?_uid htm⟩
    have := hall t hin
    simp [hn] at this

end

/-- The numbers of the team barriers at which threads of a team wait. -/
def State.barNums (s : State) (team : Nat) : List Nat :=
  ((s.liveOf team).filterMap fun t => match t.atBar with
    | some (.bar n _) => some n
    | _ => none).eraseDups

/-- The barriers of a team wider than it, and the mismatch of its own. -/
def State.barWide (s : State) (team : Nat) (b : List Nat) : State :=
  let s := s.barcTry team b
  let s := match s.team? team with
    | some tm => s.bargTry tm.launch b
    | none => s
  s.barDead team

theorem barCheck_eq (s : State) (team : Nat) (b : List Nat) :
    s.barCheck team b = ((s.barNums team).foldl (fun s n => s.barTry team n b) s).barWide team b := rfl

/-- Where no thread of a team waits for its team alone, only wider barriers can complete. -/
theorem barCheck_wide {s : State} {team : Nat} (b : List Nat) (h : ∀ u ∈ s.liveOf team, ∀ n k, u.atBar ≠ some (.bar n k)) :
    s.barCheck team b = s.barWide team b := by
  have : s.barNums team = [] := by
    unfold State.barNums
    refine (congrArg List.eraseDups (List.filterMap_eq_nil_iff.2 fun u hu => ?_)).trans List.eraseDups_nil
    split
    · next n k e => exact absurd e (h u hu n k)
    · rfl
  rw [barCheck_eq, this]
  rfl

/-- A thread of a team that is at no barrier holds up the wider ones. -/
theorem barWide_idle {s : State} {tm : Team} {t u : Thread} (b : List Nat) (htm : s.team? tm.uid = some tm) (hsh : tm.shadowOf = none)
    (ht : t ∈ s.liveOf tm.uid) (hc : t.atBar ≠ some .barc) (hg : t.atBar ≠ some .barg) (hu : u ∈ s.liveOf tm.uid)
    (hn : u.atBar = none) : s.barWide tm.uid b = s := by
  unfold State.barWide
  simp only [barcTry_idle ht b hc, htm, bargTry_idle ht b htm hsh hg]
  exact barDead_idle hu hn

/-- The barriers of a bundle of one thread are its team's. -/
theorem barWord_solo {s : State} {t : Thread} {team : Nat} (hu : (s.x.threads.map Thread.uid).Nodup)
    (ht : s.thread? t.uid = some t) (hteam : t.team = some team) : s.barWord [t.uid] = (s.barCheck team [t.uid]).settle := by
  have : (s.x.threads.filter fun u => [t.uid].contains u.uid) = [t] := by
    rw [← filter_uid hu (thread?_mem ht).1]
    exact List.filter_congr fun u _ => by simp [Bool.beq_eq_decide_eq]
  unfold State.barWord
  rw [this]
  simp [hteam, List.eraseDups_cons]

end Sys2Proof.Machine
end

section
/-! A barrier completes: its threads go on, and the W writes of a team become visible (R32, R232, R233). Settles O27. -/

namespace Sys2Proof.Machine

/-! Each thread goes on -/

theorem past_status (t : Thread) : t.past.status = .boundary := by unfold Thread.past; split <;> rfl
theorem past_v (t : Thread) : t.past.v = t.v := by unfold Thread.past; split <;> rfl
theorem past_team (t : Thread) : t.past.team = t.team := by unfold Thread.past; split <;> rfl
theorem past_trap (t : Thread) : t.past.trap = t.trap := by unfold Thread.past; split <;> rfl

section
variable {t u v : Thread} {go b : List Nat}

theorem passes_trap (h : u.passes go b v) : v.trap = u.trap := by
  obtain ⟨q, w, rfl⟩ := h
  unfold Thread.goOn
  split_ifs
  · rfl
  · exact past_trap u
  · rfl

theorem passes_team (h : u.passes go b v) : v.team = u.team := by
  obtain ⟨q, w, rfl⟩ := h
  unfold Thread.goOn
  split_ifs
  · rfl
  · exact past_team u
  · rfl

/-- The thread whose word completes the barrier stays in its bundle. -/
theorem passes_bundle (h : u.passes go [u.uid] v) (hm : u.uid ∈ go) : v.status = .issued ∧ v.v = u.v ∧ v.pc = u.pc := by
  obtain ⟨q, w, rfl⟩ := passes_of_mem h hm
  simp [Thread.goOn]

/-- A thread held before stands past its own word. -/
theorem passes_held (h : u.passes go [t.uid] v) (hm : u.uid ∈ go) (hn : u.uid ≠ t.uid) :
    v.status = .boundary ∧ v.v = u.v ∧ v.pc = u.past.pc := by
  obtain ⟨q, w, rfl⟩ := passes_of_mem h hm
  simp [Thread.goOn, hn, past_status, past_v]

/-- A thread that goes on is at no barrier, and is issuing or at a boundary. -/
theorem passes_atBar (h : u.passes go b v) (hm : u.uid ∈ go) : v.atBar = none ∧ v.status ≠ .exited := by
  have hs : v.status = .issued ∨ v.status = .boundary := by
    obtain ⟨q, w, rfl⟩ := passes_of_mem h hm
    unfold Thread.goOn
    split_ifs
    · exact .inl rfl
    · exact .inr (past_status u)
  exact ⟨atBar_none hs, by rcases hs with h | h <;> simp [h]⟩

end

/-- The thread whose word completes a barrier goes on, and so does each other thread of a list past its own word. -/
def State.goesPast (s : State) (t : Thread) (us : List Thread) : Prop :=
  (∃ t', s.thread? t.uid = some t' ∧ t'.status = .issued ∧ t'.v = t.v ∧ t'.pc = t.pc) ∧
    ∀ u ∈ us, u.uid ≠ t.uid → ∃ u', s.thread? u.uid = some u' ∧ u'.status = .boundary ∧ u'.pc = u.past.pc ∧ u'.v = u.v

section
variable {s r : State} {t : Thread} {c : Ctl} {h : Hold} {f : Flight} {g : Thread → Thread} {go : List Nat}
  (hr : r.x.threads = (s.arriving t c h f).x.threads.map g) (hg : ∀ u : Thread, u.passes go [t.uid] (g u))
include hr hg

/-- A thread after an arrival and the threads that go on. -/
theorem passed_thread? {u : Thread} (hu : s.thread? u.uid = some u) : r.thread? u.uid = some (g (t.signing c h u)) := by
  have h1 := thread?_mapThreads (s := s.arriving t c h f) (fun v => passes_uid (hg v)) u.uid
  rw [arriving_thread?, hu] at h1
  unfold State.thread? at h1 ⊢
  rwa [mapThreads_x_threads, ← hr] at h1

theorem passed_uids : r.x.threads.map Thread.uid = s.x.threads.map Thread.uid := by
  rw [hr, List.map_map]
  refine Eq.trans (List.map_congr_left fun u _ => ?_) (arriving_uids s t c h f)
  exact passes_uid (hg u)

theorem passed_goesPast (hu : (s.x.threads.map Thread.uid).Nodup) (ht : t ∈ s.x.threads) (htgo : t.uid ∈ go) {us : List Thread}
    (hus : ∀ u ∈ us, u ∈ s.x.threads ∧ u.uid ∈ go) : r.goesPast t us := by
  constructor
  · have h1 := hg (t.signing c h t)
    obtain ⟨h2, h3, h4⟩ := passes_bundle (u := t.signing c h t) (go := go) (v := g (t.signing c h t)) (by simpa using h1)
      (by simpa using htgo)
    exact ⟨_, passed_thread? hr hg (thread?_of_mem hu ht), h2, h3.trans (by simp), h4.trans (by simp)⟩
  · intro u hin hne
    obtain ⟨hmem, hugo⟩ := hus u hin
    have h1 := hg (t.signing c h u)
    rw [signing_other c h hne] at h1
    obtain ⟨h2, h3, h4⟩ := passes_held h1 hugo hne
    refine ⟨_, passed_thread? hr hg (thread?_of_mem hu hmem), ?_⟩
    rw [signing_other c h hne]
    exact ⟨h2, h4, h3⟩

theorem passed_calm (hc : s.calm) : r.calm := by
  intro v hv
  rw [hr] at hv
  obtain ⟨w, hw, rfl⟩ := List.mem_map.1 hv
  obtain ⟨u, hin, rfl⟩ := List.mem_map.1 hw
  have := hc u hin
  unfold Thread.freshTrap at this ⊢
  rwa [passes_trap (hg _), signing_trap]

/-- A thread of a team that has not ended stood in the team before. -/
theorem passed_liveOf {k : Nat} {v : Thread} (hv : v ∈ r.liveOf k) : ∃ w ∈ (s.arriving t c h f).x.threads, v = g w ∧
    w.team = some k ∧ (w.uid ∉ go → w.status ≠ .exited) := by
  obtain ⟨hmem, hteam, hlive⟩ := mem_liveOf.1 hv
  rw [hr] at hmem
  obtain ⟨w, hw, rfl⟩ := List.mem_map.1 hmem
  refine ⟨w, hw, rfl, (passes_team (hg w)).symm.trans hteam, fun hn => ?_⟩
  obtain ⟨q, x, e⟩ := passes_of_not_mem (hg w) hn
  rwa [e] at hlive

/-- The thread whose word completes the barrier is a live thread of its team that is at no barrier. -/
theorem passed_self (hu : (s.x.threads.map Thread.uid).Nodup) (ht : t ∈ s.x.threads) (htgo : t.uid ∈ go) {k : Nat}
    (hteam : t.team = some k) : ∃ t', r.thread? t.uid = some t' ∧ t'.team = some k ∧ t' ∈ r.liveOf k ∧ t'.atBar = none := by
  have h1 := hg (t.signing c h t)
  obtain ⟨hat, hlive⟩ := passes_atBar h1 (by simpa using htgo)
  have h2 := passed_thread? hr hg (thread?_of_mem hu ht)
  have h3 : (g (t.signing c h t)).team = some k := (passes_team h1).trans (by simpa using hteam)
  exact ⟨_, h2, h3, mem_liveOf.2 ⟨(thread?_mem h2).1, h3, hlive⟩, hat⟩

end

/-! A team barrier -/

/-- Threads of a team that have arrived at its barrier of a number, in the order of their issue. -/
def State.barHeld (s : State) (team n : Nat) : List Thread :=
  s.barOrder ((s.liveOf team).filter fun t => (match t.atBar with | some (.bar m _) => m == n | _ => false) && s.arrived t)

/-- The round of a team barrier completes: W writes become visible, the threads go on, and the team's interval ends. -/
def State.barGo (s : State) (team : Nat) (go : List Thread) (b : List Nat) : State :=
  (go.foldl (fun s t => s.barPass t b) (s.showW team go)).digestTeam team

/-- Arrivals that complete the team barrier at which a thread waits; none for the whole team. -/
def Thread.barCount (t : Thread) : Nat := match t.atBar with | some (.bar _ c) => c | _ => 0

/-- The round of a team barrier that holds these threads completes where it can. -/
def State.barTryOn (s : State) (team : Nat) (ts : List Thread) (b : List Nat) : State :=
  match ts with
  | [] => s
  | h :: _ =>
    if !(if h.barCount == 0 then ts.length == (s.liveOf team).length else decide (h.barCount ≤ ts.length + s.absent team)) then s
    else s.barGo team (if h.barCount == 0 then ts else ts.take h.barCount) b

theorem barTry_eq (s : State) (team n : Nat) (b : List Nat) :
    s.barTry team n b = s.barTryOn team (s.barHeld team n) b := rfl

theorem barCount_of {t : Thread} {n k : Nat} (h : t.atBar = some (.bar n k)) : t.barCount = k := by
  simp [Thread.barCount, h]

section
variable {s : State} {team n : Nat} (b : List Nat)

theorem mem_barHeld {u : Thread} (h : u ∈ s.barHeld team n) :
    u ∈ s.liveOf team ∧ s.arrived u = true ∧ ∃ k, u.atBar = some (.bar n k) := by
  obtain ⟨hlive, hp⟩ := List.mem_filter.1 (mem_of_mem_barOrder h)
  rw [Bool.and_eq_true] at hp
  refine ⟨hlive, hp.2, ?_⟩
  have hbar := hp.1
  split at hbar
  · next m k e => exact ⟨k, by rw [e, beq_iff_eq.1 hbar]⟩
  · exact absurd hbar Bool.false_ne_true

/-- With every live thread arrived, the round holds them all. -/
theorem barHeld_perm (hall : ∀ u ∈ s.liveOf team, (∃ k, u.atBar = some (.bar n k)) ∧ s.arrived u = true)
    (hu : (s.x.threads.map Thread.uid).Nodup) (hb : ((s.x.flights.filter Flight.atBarrier).map Flight.thread).Nodup) :
    (s.barHeld team n).Perm (s.liveOf team) := by
  unfold State.barHeld
  rw [List.filter_eq_self.2 fun u hin => by
    obtain ⟨⟨k, h1⟩, h2⟩ := hall u hin
    simp [h1, h2]]
  refine barOrder_perm hb (hu.sublist (List.filter_sublist.map _)) fun u hin => ?_
  have := (hall u hin).2
  unfold State.arrived at this
  cases hf : s.barFlight u.uid with
  | none => simp [hf] at this
  | some f => rfl

/-- A round that waits for the whole team completes with all its live threads there. -/
theorem barTry_all (hk : ∀ u ∈ s.barHeld team n, u.atBar = some (.bar n 0)) (hne : s.barHeld team n ≠ [])
    (hl : (s.barHeld team n).length = (s.liveOf team).length) : s.barTry team n b = s.barGo team (s.barHeld team n) b := by
  rw [barTry_eq]
  obtain ⟨u, us, hcons⟩ := List.exists_cons_of_ne_nil hne
  have hcount := barCount_of (hk u (hcons ▸ List.mem_cons_self))
  rw [hcons] at hl ⊢
  simp only [State.barTryOn, hcount, hl]
  simp

/-- It waits while it is short of a live thread. -/
theorem barTry_short (hk : ∀ u ∈ s.barHeld team n, u.atBar = some (.bar n 0))
    (hl : (s.barHeld team n).length ≠ (s.liveOf team).length) : s.barTry team n b = s := by
  rw [barTry_eq]
  cases hcons : s.barHeld team n with
  | nil => rfl
  | cons u us =>
    have hcount := barCount_of (hk u (hcons ▸ List.mem_cons_self))
    rw [hcons] at hl
    simp only [State.barTryOn, hcount]
    rw [if_pos (by simpa using hl)]

/-- A round completes with threads that have arrived at it, or does nothing. -/
theorem barTry_cases : s.barTry team n b = s ∨ ∃ go : List Thread, go.Sublist (s.barHeld team n) ∧
    s.barTry team n b = s.barGo team go b := by
  rw [barTry_eq]
  cases s.barHeld team n with
  | nil => exact .inl rfl
  | cons u us =>
    simp only [State.barTryOn]
    split_ifs
    · exact .inl rfl
    · exact .inr ⟨_, List.Sublist.refl _, rfl⟩
    · exact .inl rfl
    · exact .inr ⟨_, List.take_sublist _ _, rfl⟩

end

/-- W of a team after the writes of threads have become visible, the highest thread index last (R32). -/
def wShown (ts : List Thread) (w : List Word) : List Word :=
  ((ts.foldr insertTix []).flatMap fun t => t.wown).foldl (fun w p => w.set p.1 p.2) w

/-- A team after its barrier has completed with threads: their W writes are visible, and a deterministic launch's interval has
ended (R32, R319). -/
def State.teamShown (s : State) (team : Nat) (go : List Thread) : Team → Team :=
  (fun k => if k.uid == team then (if ((s.launch? k.launch).map fun l => lrDet l.record).getD false then
      { k with digest := digestStep k.digest k.stream, stream := [] } else k) else k) ∘
    fun k => if k.uid == team then { k with w := wShown go k.w } else k

/-- A completed barrier changes W of its team, and the digest. -/
theorem teamShown_eq (s : State) (team : Nat) (go : List Thread) (k : Team) : ∃ d st,
    s.teamShown team go k = { k with w := if k.uid = team then wShown go k.w else k.w, digest := d, stream := st } := by
  unfold State.teamShown
  by_cases h : k.uid = team
  · simp only [h, Function.comp_apply, beq_self_eq_true, if_true]
    split <;> exact ⟨_, _, rfl⟩
  · exact ⟨k.digest, k.stream, by simp [h]⟩

/-- What a completed team barrier leaves: its threads have gone on, flights of them alone have ended, and W of the team, with its
digest, has changed. -/
theorem barGo_passed {s : State} (team : Nat) {go : List Thread} (hn : (go.map Thread.uid).Nodup) (b : List Nat) :
    ∃ (g : Thread → Thread) (p : Flight → Bool), s.barGo team go b = { s with x := { s.x with
        threads := s.x.threads.map g, flights := s.x.flights.filter p, teams := s.x.teams.map (s.teamShown team go) } } ∧
      (∀ u : Thread, u.passes (go.map Thread.uid) b (g u)) ∧
      ∀ f ∈ s.x.flights, f.thread ∉ go.map Thread.uid → (∀ h ∈ s.x.flights, h.uid = f.uid → h.thread = f.thread) →
        p f = true := by
  obtain ⟨g, p, hs, hg, hp⟩ := passedTo_passAll hn (s.showW team go) b
  refine ⟨g ∘ fun t => if go.any fun u => u.uid == t.uid then { t with wown := [] } else t, p,
    (congrArg (State.digestTeam · team) hs).trans ?_, fun u => ?_, hp⟩
  · simp only [State.withPassed, State.showW, State.mapThreads, State.digestTeam, State.updTeam, State.teamShown, List.map_map,
      wShown]
    rfl
  · refine passes_trans (go := []) ?_ (hg _) (nomatch ·)
    dsimp only
    split
    · exact ⟨u.q, [], by simp⟩
    · exact passes_refl b u

/-! W writes become visible -/

theorem insertTix_perm (t : Thread) (ts : List Thread) : (insertTix t ts).Perm (t :: ts) := by
  induction ts with
  | nil => exact .refl _
  | cons u ts ih =>
    unfold insertTix
    split
    · exact .refl _
    · exact (ih.cons u).trans (.swap t u ts)

theorem insertTix_sorted {t : Thread} {ts : List Thread} (h : ts.Pairwise fun u v => u.tix ≤ v.tix) :
    (insertTix t ts).Pairwise fun u v => u.tix ≤ v.tix := by
  induction ts with
  | nil => exact List.pairwise_singleton _ _
  | cons u ts ih =>
    obtain ⟨hu, hts⟩ := List.pairwise_cons.1 h
    unfold insertTix
    split
    · next hlt =>
      refine List.pairwise_cons.2 ⟨fun v hv => ?_, h⟩
      rcases List.mem_cons.1 hv with rfl | hv
      · exact hlt.le
      · exact hlt.le.trans (hu v hv)
    · next hge =>
      refine List.pairwise_cons.2 ⟨fun v hv => ?_, ih hts⟩
      rcases List.mem_cons.1 ((insertTix_perm t ts).subset hv) with rfl | hv
      · exact Nat.le_of_not_lt hge
      · exact hu v hv

/-- Sorting threads by thread index keeps them. -/
theorem sortTix_perm (ts : List Thread) : (ts.foldr insertTix []).Perm ts := by
  induction ts with
  | nil => exact .refl _
  | cons t ts ih => exact (insertTix_perm t _).trans (ih.cons t)

theorem sortTix_sorted (ts : List Thread) : (ts.foldr insertTix []).Pairwise fun u v => u.tix ≤ v.tix := by
  induction ts with
  | nil => exact .nil
  | cons t ts ih => exact insertTix_sorted ih

/-- Writes of a list leave a register that none of them names. -/
theorem getD_sets_other {ps : Sparse Word} {i : Nat} (h : ∀ p ∈ ps, p.1 ≠ i) (w : List Word) :
    (ps.foldl (fun w p => w.set p.1 p.2) w).getD i 0#32 = w.getD i 0#32 :=
  foldl_keeps (P := fun x : List Word => x.getD i 0#32 = w.getD i 0#32) ps w rfl fun x p hp hx => by
    rw [← hx]
    simp [List.getD_eq_getElem?_getD, h p hp]

theorem length_sets (ps : Sparse Word) (w : List Word) : (ps.foldl (fun w p => w.set p.1 p.2) w).length = w.length :=
  foldl_keeps (P := fun x : List Word => x.length = w.length) ps w rfl fun x p _ hx => by simpa using hx

/-- A register that the writes of a list name gets the value that all of them give it. -/
theorem getD_sets_self {ps : Sparse Word} {i : Nat} {v : Word} (hm : (i, v) ∈ ps) (h : ∀ p ∈ ps, p.1 = i → p.2 = v) (w : List Word)
    (hi : i < w.length) : (ps.foldl (fun w p => w.set p.1 p.2) w).getD i 0#32 = v := by
  refine foldl_reaches (P := fun x : List Word => i < x.length)
    (Q := fun x : List Word => i < x.length ∧ x.getD i 0#32 = v) hm (fun x p hx => by simpa using hx) (fun x p hp hx => ?_)
    (fun x hx => ?_) w hi |>.2
  · obtain ⟨hlen, hv⟩ := hx
    refine ⟨by simpa using hlen, ?_⟩
    by_cases e : p.1 = i
    · rw [List.getD_eq_getElem?_getD, e, List.getElem?_set_self hlen, h p hp e]
      rfl
    · rw [← hv]
      simp [List.getD_eq_getElem?_getD, e]
  · refine ⟨by simpa using hx, ?_⟩
    rw [List.getD_eq_getElem?_getD, List.getElem?_set_self hx]
    rfl

/-- A key that a map lists reads as something. -/
theorem sget_ne_none {α : Type} {m : Sparse α} {p : Nat × α} (h : p ∈ m) : sget m p.1 ≠ none := by
  induction m with
  | nil => exact absurd h List.not_mem_nil
  | cons q m ih =>
    unfold sget
    split
    · exact Option.some_ne_none _
    · next hne =>
      rcases List.mem_cons.1 h with rfl | h
      · exact absurd (beq_self_eq_true _) hne
      · exact ih h

/-- A key that a map in order lists reads as it is listed. -/
theorem sget_of_mem {α : Type} {m : Sparse α} {p : Nat × α} (hr : srising m = true) (h : p ∈ m) : sget m p.1 = some p.2 := by
  induction m with
  | nil => exact absurd h List.not_mem_nil
  | cons q m ih =>
    obtain ⟨hlt, hr'⟩ := (srising_cons q.1 q.2 m).1 hr
    unfold sget
    rcases List.mem_cons.1 h with rfl | h
    · simp
    · rw [if_neg (by simpa using (hlt p h).ne)]
      exact ih hr' h

/-- Of several writes of a register, that of the highest thread index is the one that its team sees (R32). -/
theorem wShown_getD {ts : List Thread} {u : Thread} {i : Nat} {v : Word} {w : List Word} (hu : u ∈ ts)
    (hn : (ts.map Thread.uid).Nodup) (hr : srising u.wown = true) (hv : sget u.wown i = some v) (hi : i < w.length)
    (hlast : ∀ x ∈ ts, x.uid ≠ u.uid → sget x.wown i ≠ none → x.tix < u.tix) : (wShown ts w).getD i 0#32 = v := by
  have hperm := sortTix_perm ts
  obtain ⟨as, bs, hsplit⟩ := List.append_of_mem (hperm.mem_iff.2 hu)
  have hsorted := sortTix_sorted ts
  have hnodup : ((ts.foldr insertTix []).map Thread.uid).Nodup := (hperm.map Thread.uid).nodup_iff.2 hn
  rw [hsplit] at hsorted hnodup
  have hafter : ∀ p ∈ bs.flatMap (fun t => t.wown), p.1 ≠ i := by
    rintro p hp rfl
    obtain ⟨x, hx, hpx⟩ := List.mem_flatMap.1 hp
    have hle : u.tix ≤ x.tix := (List.pairwise_cons.1 (List.pairwise_append.1 hsorted).2.1).1 x hx
    have hne : x.uid ≠ u.uid := by
      rw [List.map_append, List.map_cons] at hnodup
      have := (List.nodup_cons.1 (List.nodup_append.1 hnodup).2.1).1
      exact fun e => this (e ▸ List.mem_map_of_mem hx)
    have hin : x ∈ ts := hperm.subset (hsplit ▸ List.mem_append_right _ (List.mem_cons_of_mem _ hx))
    exact absurd (hlast x hin hne (sget_ne_none hpx)) (Nat.not_lt.2 hle)
  unfold wShown
  rw [hsplit, List.flatMap_append, List.flatMap_cons, List.foldl_append, List.foldl_append, getD_sets_other hafter]
  refine getD_sets_self (mem_of_sget hv) (fun p hp e => ?_) _ (by rwa [length_sets])
  have := sget_of_mem hr hp
  rw [e, hv] at this
  exact (Option.some.inj this).symm

end Sys2Proof.Machine
end

section
/-! The words BAR, BARC and BARG of a bundle of one thread (R232, R233). Settles O27. -/

namespace Sys2Proof.Machine

/-- The team of a uid after every team has changed and kept its uid. -/
theorem team?_map {s r : State} {w : Team → Team} (hw : ∀ k, (w k).uid = k.uid) (hr : r.x.teams = s.x.teams.map w) (u : Nat) :
    r.team? u = (s.team? u).map w := by
  have hc : ((fun k : Team => k.uid == u) ∘ w) = fun k => k.uid == u := funext fun k => by simp [hw]
  unfold State.team?
  rw [hr, List.find?_map, hc]

theorem teamShown_uid (s : State) (team : Nat) (go : List Thread) (k : Team) : (s.teamShown team go k).uid = k.uid := by
  obtain ⟨d, st, h⟩ := teamShown_eq s team go k
  rw [h]

/-- The threads of chosen teams that have not ended. -/
def State.liveAll (s : State) (q : Team → Bool) : List Thread := ((s.x.teams.filter q).map Team.uid).flatMap s.liveOf

/-- Each of them is listed once. -/
theorem liveAll_nodup {s : State} (hu : (s.x.threads.map Thread.uid).Nodup) (ht : (s.x.teams.map Team.uid).Nodup)
    (q : Team → Bool) : ((s.liveAll q).map Thread.uid).Nodup := by
  have hks : ((s.x.teams.filter q).map Team.uid).Nodup := ht.sublist (List.filter_sublist.map _)
  refine List.Nodup.map_on (fun u hin v hiv e => ?_) (List.nodup_flatMap.2 ⟨fun k _ => hu.of_map.filter _, ?_⟩)
  · obtain ⟨k, -, hk⟩ := List.mem_flatMap.1 hin
    obtain ⟨j, -, hj⟩ := List.mem_flatMap.1 hiv
    exact thread_uid_inj hu (mem_liveOf.1 hj).1 (mem_liveOf.1 hk).1 e
  · refine hks.imp fun {k j} hne u hk hj => ?_
    have h1 := (mem_liveOf.1 hk).2.1
    have h2 := (mem_liveOf.1 hj).2.1
    exact hne (Option.some.inj (h1.symm.trans h2))

theorem mem_liveAll {s : State} {q : Team → Bool} {u : Thread} :
    u ∈ s.liveAll q ↔
      u ∈ s.x.threads ∧ u.status ≠ .exited ∧ ∃ k ∈ s.x.teams, u.team = some k.uid ∧ q k = true := by
  simp only [State.liveAll, List.mem_flatMap, List.mem_map, List.mem_filter, mem_liveOf]
  constructor
  · rintro ⟨_, ⟨k, ⟨hk, hq⟩, rfl⟩, hu, hteam, hlive⟩
    exact ⟨hu, hlive, k, hk, hteam, hq⟩
  · rintro ⟨hu, hlive, k, hk, hteam, hq⟩
    exact ⟨k.uid, ⟨k, ⟨hk, hq⟩, rfl⟩, hu, hteam, hlive⟩

section
variable {s : State} {t : Thread} {tm : Team} {c : Ctl} {f : Flight} (hu : (s.x.threads.map Thread.uid).Nodup)
  (ht : t ∈ s.x.threads) (hstatus : t.status = .issued) (htrap : t.trap = none) (hteam : t.team = some tm.uid)
  (htm : s.team? tm.uid = some tm) (hsh : tm.shadowOf = none) (hcalm : s.calm) (hs : ∀ g ∈ s.x.flights, g.thread ≠ t.uid)
  (hf : f.thread = t.uid) (hw : f.wait = [])
include hu ht hstatus htrap hteam htm hsh hcalm hs hf hw

/-- The last thread to arrive at a team barrier completes it. -/
theorem bar_completes {n : Nat} (hop : f.op = .bar (.bar n 0) true)
    (hb : ((s.x.flights.filter Flight.atBarrier).map Flight.thread).Nodup)
    (hall : ∀ u ∈ s.liveOf tm.uid, u.uid ≠ t.uid → u.atBar = some (.bar n 0) ∧ s.arrived u = true) :
    ∃ r go, (s.arriving t c (.bar n 0) f).barTry tm.uid n [t.uid] = r ∧ r.calm ∧ r.barWord [t.uid] = r ∧
      r.goesPast t (s.liveOf tm.uid) ∧ go.Perm ((s.liveOf tm.uid).map (t.signing c (.bar n 0))) ∧
      r.team? tm.uid = some ((s.arriving t c (.bar n 0) f).teamShown tm.uid go tm) := by
  have hisbar : (Hold.bar n 0).isBar := .inl ⟨n, 0, rfl⟩
  have hlive := arriving_liveOf (c := c) (h := .bar n 0) (f := f) hu ht (by simp [hstatus]) tm.uid
  have huids := arriving_uids s t c (.bar n 0) f
  have hself : t ∈ s.liveOf tm.uid := mem_liveOf.2 ⟨ht, hteam, by simp [hstatus]⟩
  have hall' : ∀ v ∈ (s.arriving t c (.bar n 0) f).liveOf tm.uid,
      v.atBar = some (.bar n 0) ∧ (s.arriving t c (.bar n 0) f).arrived v = true := by
    rw [hlive]
    intro v hv
    obtain ⟨u, hin, rfl⟩ := List.mem_map.1 hv
    exact arriving_arrived hf hop hisbar hw hs htrap hu ht (mem_liveOf.1 hin).1 (hall u hin)
  have hperm : ((s.arriving t c (.bar n 0) f).barHeld tm.uid n).Perm _ := barHeld_perm (fun v hv => ⟨⟨0, (hall' v hv).1⟩, (hall' v hv).2⟩)
    (huids ▸ hu) (arriving_barriers hf hop hs hb)
  generalize hgo : (s.arriving t c (.bar n 0) f).barHeld tm.uid n = go at hperm
  have hgouids : (go.map Thread.uid).Nodup := by
    refine (hperm.map Thread.uid).nodup_iff.2 ((huids ▸ hu).sublist (List.filter_sublist.map _))
  obtain ⟨g, p, hgoes, hg, -⟩ := barGo_passed (s := s.arriving t c (.bar n 0) f) tm.uid hgouids [t.uid]
  have hmemgo : ∀ u ∈ s.liveOf tm.uid, u.uid ∈ go.map Thread.uid := fun u hin => by
    have : t.signing c (.bar n 0) u ∈ go := hperm.mem_iff.2 (hlive ▸ List.mem_map_of_mem hin)
    simpa using List.mem_map_of_mem (f := Thread.uid) this
  have htry : (s.arriving t c (.bar n 0) f).barTry tm.uid n [t.uid] = (s.arriving t c (.bar n 0) f).barGo tm.uid go [t.uid] := by
    rw [← hgo]
    refine barTry_all _ (fun v hv => (hall' v (mem_barHeld hv).1).1) ?_ (hgo ▸ hperm.length_eq)
    rw [hgo]
    exact fun e => by simpa [e] using hmemgo t hself
  generalize hr : (s.arriving t c (.bar n 0) f).barGo tm.uid go [t.uid] = r at htry hgoes
  have hthreads : r.x.threads = (s.arriving t c (.bar n 0) f).x.threads.map g := by rw [hgoes]
  have hteams : r.team? tm.uid = some ((s.arriving t c (.bar n 0) f).teamShown tm.uid go tm) := by
    rw [team?_map (s := s.arriving t c (.bar n 0) f) (teamShown_uid _ _ _) (by rw [hgoes])]
    exact congrArg (Option.map _) htm
  have hrcalm := passed_calm hthreads hg hcalm
  obtain ⟨t', ht', hteam', hlive', hat'⟩ := passed_self hthreads hg hu ht (hmemgo t hself) hteam
  have hnone : ∀ v ∈ r.liveOf tm.uid, v.atBar = none := by
    intro v hv
    obtain ⟨w, hin, rfl, hwteam, hwlive⟩ := passed_liveOf hthreads hg hv
    have hwgo : w.uid ∈ go.map Thread.uid := by
      by_contra hn
      exact hn (List.mem_map_of_mem (hperm.mem_iff.2 (mem_liveOf.2 ⟨hin, hwteam, hwlive hn⟩)))
    exact (passes_atBar (hg w) hwgo).1
  have hshown : ((s.arriving t c (.bar n 0) f).teamShown tm.uid go tm).uid = tm.uid := teamShown_uid _ _ _ _
  have hwide : r.barWide tm.uid [t.uid] = r := by
    have hsh' : ((s.arriving t c (.bar n 0) f).teamShown tm.uid go tm).shadowOf = none := by
      obtain ⟨d, st, e⟩ := teamShown_eq (s.arriving t c (.bar n 0) f) tm.uid go tm
      rw [e]
      exact hsh
    have h := barWide_idle (s := r) (tm := (s.arriving t c (.bar n 0) f).teamShown tm.uid go tm) (t := t') (u := t') [t.uid]
    rw [hshown] at h
    exact h hteams hsh' hlive' (by simp [hat']) (by simp [hat']) hlive' hat'
  refine ⟨r, go, htry, hrcalm, ?_, passed_goesPast hthreads hg hu ht (hmemgo t hself)
    (fun u hin => ⟨(mem_liveOf.1 hin).1, hmemgo u hin⟩), hlive ▸ hperm, hteams⟩
  rw [← (thread?_mem ht').2, barWord_solo (passed_uids hthreads hg ▸ hu) ((thread?_mem ht').2 ▸ ht') hteam', (thread?_mem ht').2,
    barCheck_wide _ (fun v hv n k => by simp [hnone v hv]), hwide, settle_calm hrcalm]

omit hteam htm hsh hcalm in
/-- Where the threads of teams have all arrived at a barrier wider than a team, each of them is there. -/
theorem arriving_all {h : Hold} (hh : h.isBar) (hop : f.op = .bar h true) {q : Team → Bool}
    (hall : ∀ u ∈ s.liveAll q, u.uid ≠ t.uid → u.atBar = some h ∧ s.arrived u = true) :
    ∀ v ∈ (s.arriving t c h f).liveAll q, v.atBar = some h ∧ (s.arriving t c h f).arrived v = true := by
  intro v hv
  obtain ⟨k, hk, hv⟩ := List.mem_flatMap.1 hv
  rw [arriving_liveOf hu ht (by simp [hstatus])] at hv
  obtain ⟨u, hin, rfl⟩ := List.mem_map.1 hv
  exact arriving_arrived hf hop hh hw hs htrap hu ht (mem_liveOf.1 hin).1 (hall u (List.mem_flatMap.2 ⟨k, hk, hin⟩))

omit htrap hs hf hw in
/-- What the completion of a barrier wider than a team leaves: its threads have gone on, and no barrier of the last one's team
is left to complete. -/
theorem wide_goes {h : Hold} (htu : (s.x.teams.map Team.uid).Nodup) {q : Team → Bool} (hq : q tm = true) {r : State}
    (hr : r = ((s.arriving t c h f).liveAll q).foldl (fun s u => s.barPass u [t.uid]) (s.arriving t c h f)) :
    r.calm ∧ r.bargTry tm.launch [t.uid] = r ∧ r.barDead tm.uid = r ∧ r.team? tm.uid = some tm ∧
      r.goesPast t (s.liveAll q) := by
  have hnodup : (((s.arriving t c h f).liveAll q).map Thread.uid).Nodup :=
    liveAll_nodup (s := s.arriving t c h f) (arriving_uids s t c h f ▸ hu) htu q
  have hin : ∀ u ∈ s.liveAll q, u.uid ∈ ((s.arriving t c h f).liveAll q).map Thread.uid := by
    intro u hin
    obtain ⟨k, hk, hin⟩ := List.mem_flatMap.1 hin
    have : t.signing c h u ∈ (s.arriving t c h f).liveAll q := by
      refine List.mem_flatMap.2 ⟨k, hk, ?_⟩
      rw [arriving_liveOf hu ht (by simp [hstatus])]
      exact List.mem_map_of_mem hin
    simpa using List.mem_map_of_mem (f := Thread.uid) this
  have hself := hin t (mem_liveAll.2 ⟨ht, by simp [hstatus], tm, List.mem_of_find?_eq_some htm, hteam, hq⟩)
  obtain ⟨g, p, hr', hg, -⟩ := passedTo_passAll hnodup (s.arriving t c h f) [t.uid]
  rw [← hr] at hr'
  have hthreads : r.x.threads = (s.arriving t c h f).x.threads.map g := congrArg (·.x.threads) hr'
  have hteams : r.team? tm.uid = some tm := by
    have : r.x.teams = s.x.teams := congrArg (·.x.teams) hr'
    unfold State.team?
    rw [this]
    exact htm
  obtain ⟨t', ht', hteam', hlive', hat'⟩ := passed_self hthreads hg hu ht hself hteam
  exact ⟨passed_calm hthreads hg hcalm, bargTry_idle hlive' _ hteams hsh (by simp [hat']), barDead_idle hlive' hat', hteams,
    passed_goesPast hthreads hg hu ht hself fun u huv => ⟨(mem_liveAll.1 huv).1, hin u huv⟩⟩

omit hstatus htrap htm hsh hcalm hs hf hw in
/-- A thread that has arrived at a barrier wider than its team is held at no barrier of its team alone. -/
theorem arriving_barWord {h : Hold} (hbar : ∀ u ∈ (s.arriving t c h f).liveOf tm.uid, ∀ n k, u.atBar ≠ some (.bar n k)) :
    (s.arriving t c h f).barWord [t.uid] = ((s.arriving t c h f).barWide tm.uid [t.uid]).settle := by
  have h1 : (s.arriving t c h f).thread? t.uid = some (t.signing c h t) := by
    rw [arriving_thread?, thread?_of_mem hu ht]
    rfl
  have h2 := barWord_solo (s := s.arriving t c h f) (t := t.signing c h t) (team := tm.uid) (arriving_uids s t c h f ▸ hu)
    (by simpa using h1) (by simpa using hteam)
  rw [signing_uid] at h2
  rw [h2, barCheck_wide _ hbar]

end

/-! Barriers wider than a team -/

/-- The teams of a cluster, no shadow among them. -/
def Team.inCluster (tm k : Team) : Bool := k.launch == tm.launch && k.cluster == tm.cluster && k.shadowOf.isNone
/-- The teams of a grid, no shadow among them. -/
def Team.inGrid (lid : Nat) (k : Team) : Bool := k.launch == lid && k.shadowOf.isNone

/-- A cluster barrier with every live thread arrived completes. -/
theorem barcTry_all {s : State} {tm : Team} (htm : s.team? tm.uid = some tm) (hsh : tm.shadowOf = none)
    (hne : s.liveAll tm.inCluster ≠ [])
    (hall : ∀ v ∈ s.liveAll tm.inCluster, v.atBar = some .barc ∧ s.arrived v = true) (b : List Nat) :
    s.barcTry tm.uid b = (s.liveAll tm.inCluster).foldl (fun s t => s.barPass t b) s := by
  have hlive : (s.clusterTeams tm).flatMap s.liveOf = s.liveAll tm.inCluster := by
    unfold State.clusterTeams State.liveAll Team.inCluster
    rw [hsh]
    refine congrArg (fun ks => List.flatMap s.liveOf (ks.map Team.uid)) (List.filter_congr fun k _ => ?_)
    cases k.shadowOf <;> rfl
  unfold State.barcTry
  simp only [htm, hlive]
  rw [if_pos]
  rw [Bool.and_eq_true, List.all_eq_true]
  exact ⟨by simpa using hne, fun v hv => by simp [hall v hv]⟩

/-- A grid barrier with every cluster placed and every live thread arrived completes. -/
theorem bargTry_all {s : State} {lid : Nat} {l : Launch} (hl : s.launch? lid = some l) (hp : l.placed = l.clusters)
    (hne : s.liveAll (Team.inGrid lid) ≠ [])
    (hall : ∀ v ∈ s.liveAll (Team.inGrid lid), v.atBar = some .barg ∧ s.arrived v = true) (b : List Nat) :
    s.bargTry lid b = (s.liveAll (Team.inGrid lid)).foldl (fun s t => s.barPass t b) s := by
  unfold State.bargTry
  simp only [hl, hp]
  have he : (!(s.liveAll (Team.inGrid lid)).isEmpty) = true := by simpa using hne
  refine if_pos ?_
  rw [Bool.and_eq_true, Bool.and_eq_true, List.all_eq_true]
  exact ⟨⟨by simp, he⟩, fun v hv => by simp [hall v hv]⟩

section
variable {s : State} {t : Thread} {tm : Team} {c : Ctl} {f : Flight} (hu : (s.x.threads.map Thread.uid).Nodup)
  (ht : t ∈ s.x.threads) (hstatus : t.status = .issued) (htrap : t.trap = none) (hteam : t.team = some tm.uid)
  (htm : s.team? tm.uid = some tm) (hsh : tm.shadowOf = none) (hcalm : s.calm) (hs : ∀ g ∈ s.x.flights, g.thread ≠ t.uid)
  (hf : f.thread = t.uid) (hw : f.wait = []) (htu : (s.x.teams.map Team.uid).Nodup)
include hu ht hstatus htrap hteam htm hsh hcalm hs hf hw htu

omit htrap hsh hcalm hs hf hw htu in
theorem arriving_self_live {h : Hold} {q : Team → Bool} (hq : q tm = true) :
    t.signing c h t ∈ (s.arriving t c h f).liveOf tm.uid ∧ (s.arriving t c h f).liveAll q ≠ [] ∧
      ∀ u ∈ (s.arriving t c h f).liveOf tm.uid, u ∈ (s.arriving t c h f).liveAll q := by
  have hself : t.signing c h t ∈ (s.arriving t c h f).liveOf tm.uid := by
    rw [arriving_liveOf hu ht (by simp [hstatus])]
    exact List.mem_map_of_mem (mem_liveOf.2 ⟨ht, hteam, by simp [hstatus]⟩)
  have hin : ∀ u ∈ (s.arriving t c h f).liveOf tm.uid, u ∈ (s.arriving t c h f).liveAll q := fun u hin =>
    List.mem_flatMap.2 ⟨tm.uid, List.mem_map.2 ⟨tm, List.mem_filter.2 ⟨List.mem_of_find?_eq_some htm, hq⟩, rfl⟩, hin⟩
  exact ⟨hself, List.ne_nil_of_mem (hin _ hself), hin⟩

/-- The last thread of a cluster to arrive completes its barrier. -/
theorem barc_completes (hop : f.op = .bar .barc true)
    (hall : ∀ u ∈ s.liveAll tm.inCluster, u.uid ≠ t.uid → u.atBar = some .barc ∧ s.arrived u = true) :
    ((s.arriving t c .barc f).barWord [t.uid]).goesPast t (s.liveAll tm.inCluster) := by
  have hq : tm.inCluster tm = true := by simp [Team.inCluster, hsh]
  have hthere := arriving_all (c := c) hu ht hstatus htrap hs hf hw (.inr (.inl rfl)) hop hall
  obtain ⟨-, hne, hown⟩ := arriving_self_live (c := c) (f := f) (h := .barc) hu ht hstatus hteam htm hq
  obtain ⟨hc, hg, hd, htm', hgoes⟩ := wide_goes (c := c) (f := f) (h := .barc) hu ht hstatus hteam htm hsh hcalm htu hq rfl
  rw [arriving_barWord hu ht hteam fun u hin n k => by simp [hthere u (hown u hin)]]
  have htry := barcTry_all (s := s.arriving t c .barc f) (tm := tm) htm hsh hne hthere [t.uid]
  unfold State.barWide
  simp only [htry, htm', hg, hd, settle_calm hc]
  exact hgoes

/-- The last thread of a grid to arrive completes its barrier. -/
theorem barg_completes (hop : f.op = .bar .barg true) {l : Launch} (hl : s.launch? tm.launch = some l)
    (hp : l.placed = l.clusters)
    (hall : ∀ u ∈ s.liveAll (Team.inGrid tm.launch), u.uid ≠ t.uid → u.atBar = some .barg ∧ s.arrived u = true) :
    ((s.arriving t c .barg f).barWord [t.uid]).goesPast t (s.liveAll (Team.inGrid tm.launch)) := by
  have hq : Team.inGrid tm.launch tm = true := by simp [Team.inGrid, hsh]
  have hthere := arriving_all (c := c) hu ht hstatus htrap hs hf hw (.inr (.inr rfl)) hop hall
  obtain ⟨hself, hne, hown⟩ := arriving_self_live (c := c) (f := f) (h := .barg) hu ht hstatus hteam htm hq
  obtain ⟨hc, -, hd, -, hgoes⟩ := wide_goes (c := c) (f := f) (h := .barg) hu ht hstatus hteam htm hsh hcalm htu hq rfl
  rw [arriving_barWord hu ht hteam fun u hin n k => by simp [hthere u (hown u hin)]]
  have hbarc := barcTry_idle hself [t.uid] (by simp [hthere _ (hown _ hself)])
  have htry := bargTry_all (s := s.arriving t c .barg f) hl hp hne hthere [t.uid]
  unfold State.barWide
  simp only [hbarc, show (s.arriving t c .barg f).team? tm.uid = some tm from htm, htry, hd, settle_calm hc]
  exact hgoes

end

/-! A team barrier short of a thread -/

/-- A thread is held at a team barrier that waits for the whole team, while another of the team has not arrived. -/
structure State.waitsAt (r : State) (t u : Thread) (tm : Team) (n : Nat) (f : Flight) : Prop where
  uids : (r.x.threads.map Thread.uid).Nodup
  self : ∃ t', r.thread? t.uid = some t' ∧ t'.team = some tm.uid ∧ t'.status = .held (.bar n 0) ∧ t'.trap = none ∧
    t'.v = t.v ∧ t'.pc = t.pc
  other : ∃ u', r.thread? u.uid = some u' ∧ u' ∈ r.liveOf tm.uid ∧ u'.atBar = none
  whole : ∀ v ∈ r.liveOf tm.uid, ∀ k, v.atBar = some (.bar n k) → k = 0
  bars : ((r.x.flights.filter Flight.atBarrier).map Flight.thread).Nodup
  flight : f ∈ r.x.flights ∧ ∀ g ∈ r.x.flights, g.uid = f.uid → g.thread = f.thread
  team : ∃ k, r.team? tm.uid = some k ∧ k.shadowOf = none
  calm : r.calm

section
variable {r : State} {t u : Thread} {tm : Team} {n : Nat} {f : Flight} (h : r.waitsAt t u tm n f)
include h

/-- The round does not complete. -/
theorem waitsAt_barTry_self (b : List Nat) : r.barTry tm.uid n b = r := by
  obtain ⟨u', -, hlive, hat⟩ := h.other
  refine barTry_short b (fun v hv => ?_) fun hlen => ?_
  · obtain ⟨hv, -, k, hk⟩ := mem_barHeld hv
    rwa [h.whole v hv k hk] at hk
  · have hsub : (r.barHeld tm.uid n).Subperm (r.liveOf tm.uid) :=
      List.subperm_of_subset (barOrder_nodup h.bars).of_map fun v hv => (mem_barHeld hv).1
    have hin := (hsub.perm_of_length_le hlen.ge).mem_iff.2 hlive
    obtain ⟨-, -, k, hk⟩ := mem_barHeld hin
    rw [hat] at hk
    exact Option.some_ne_none _ hk.symm

/-- Another round of the team that completes leaves the two where they are. -/
theorem waitsAt_barTry {m : Nat} (hf : f.thread = t.uid) (b : List Nat) : (r.barTry tm.uid m b).waitsAt t u tm n f := by
  by_cases hm : m = n
  · rw [hm, waitsAt_barTry_self h b]
    exact h
  rcases barTry_cases (s := r) (team := tm.uid) (n := m) b with e | ⟨go, hsub, e⟩
  · rw [e]
    exact h
  obtain ⟨huids, ⟨t', ht', hteam', hst', htr', hv', hpc'⟩, ⟨u', hu', hlive', hat'⟩, hwhole, hbars, ⟨hfl, hfu⟩, ⟨k, hk, hks⟩,
    hcalm⟩ := h
  have hgo : ∀ v : Thread, v ∈ r.x.threads → (∀ k, v.atBar ≠ some (.bar m k)) → v.uid ∉ go.map Thread.uid := by
    intro v hv hn hin
    obtain ⟨w, hw, he⟩ := List.mem_map.1 hin
    obtain ⟨hwl, -, j, hj⟩ := mem_barHeld (hsub.subset hw)
    rw [thread_uid_inj huids hv (mem_liveOf.1 hwl).1 he] at hj
    exact hn j hj
  have hnodup : (go.map Thread.uid).Nodup := (barOrder_nodup hbars).sublist (hsub.map _)
  obtain ⟨g, p, hr, hg, hp⟩ := barGo_passed (s := r) tm.uid hnodup b
  rw [e, hr]
  have hlook (v : Nat) : State.thread? { r with x := { r.x with
      threads := r.x.threads.map g, flights := r.x.flights.filter p, teams := r.x.teams.map (r.teamShown tm.uid go) } } v =
      (r.thread? v).map g := thread?_mapThreads (s := r) (fun w => passes_uid (hg w)) v
  have hself : t'.atBar = some (.bar n 0) := atBar_held (.inl ⟨n, 0, rfl⟩) hst' htr'
  have htgo := hgo t' (thread?_mem ht').1 fun k e => by
    rw [hself] at e
    simp only [Option.some.injEq, Hold.bar.injEq] at e
    exact hm e.1.symm
  have hugo := hgo u' (thread?_mem hu').1 fun k e => by rw [hat'] at e; exact Option.some_ne_none _ e.symm
  refine ⟨?_, ?_, ?_, ?_, ?_, ?_, ?_, ?_⟩
  · simpa [Function.comp_def, fun w => passes_uid (hg w)] using huids
  · obtain ⟨q, w, e'⟩ := passes_of_not_mem (hg t') htgo
    exact ⟨g t', by rw [hlook, ht']; rfl, by rw [e']; exact hteam', by rw [e']; exact hst', by rw [e']; exact htr',
      by rw [e']; exact hv', by rw [e']; exact hpc'⟩
  · obtain ⟨q, w, e'⟩ := passes_of_not_mem (hg u') hugo
    obtain ⟨hmem, hteam, hlive⟩ := mem_liveOf.1 hlive'
    refine ⟨g u', by rw [hlook, hu']; rfl, mem_liveOf.2 ⟨List.mem_map_of_mem hmem, by rw [e']; exact hteam,
      by rw [e']; exact hlive⟩, by rw [e']; exact hat'⟩
  · intro v hv j hj
    obtain ⟨hmem, hteam, hlive⟩ := mem_liveOf.1 hv
    obtain ⟨w, hw, rfl⟩ := List.mem_map.1 hmem
    by_cases hwgo : w.uid ∈ go.map Thread.uid
    · rw [(passes_atBar (hg w) hwgo).1] at hj
      exact absurd hj.symm (Option.some_ne_none _)
    · obtain ⟨q, x, e'⟩ := passes_of_not_mem (hg w) hwgo
      rw [e'] at hteam hlive hj
      exact hwhole w (mem_liveOf.2 ⟨hw, hteam, hlive⟩) j hj
  · exact hbars.sublist ((List.filter_sublist.filter _).map _)
  · refine ⟨List.mem_filter.2 ⟨hfl, hp f hfl ?_ hfu⟩, fun g hg => hfu g (List.mem_filter.1 hg).1⟩
    rw [hf, ← (thread?_mem ht').2]
    exact htgo
  · obtain ⟨d, st, e'⟩ := teamShown_eq r tm.uid go k
    refine ⟨r.teamShown tm.uid go k, ?_, by rw [e']; exact hks⟩
    rw [team?_map (s := r) (teamShown_uid _ _ _) rfl, hk]
    rfl
  · intro v hv
    obtain ⟨w, hw, rfl⟩ := List.mem_map.1 hv
    have := hcalm w hw
    unfold Thread.freshTrap at this ⊢
    rwa [passes_trap (hg w)]

/-- No barrier of its team releases the thread. -/
theorem waitsAt_barWord (hf : f.thread = t.uid) : (r.barWord [t.uid]).waitsAt t u tm n f := by
  obtain ⟨t', ht', hteam', -⟩ := h.self
  have huid := (thread?_mem ht').2
  have hfold : ((r.barNums tm.uid).foldl (fun s m => s.barTry tm.uid m [t.uid]) r).waitsAt t u tm n f :=
    foldl_keeps (P := fun s : State => s.waitsAt t u tm n f) _ r h fun s m _ hs => waitsAt_barTry hs hf [t.uid]
  have hword := barWord_solo h.uids (t := t') (huid ▸ ht') hteam'
  rw [huid, barCheck_eq] at hword
  generalize (r.barNums tm.uid).foldl (fun s m => s.barTry tm.uid m [t.uid]) r = r' at hfold hword
  obtain ⟨v, hv, hvteam, hvst, hvtr, -⟩ := hfold.self
  obtain ⟨u', -, hlive', hat'⟩ := hfold.other
  obtain ⟨k, hk, hks⟩ := hfold.team
  have hat : v.atBar = some (.bar n 0) := atBar_held (.inl ⟨n, 0, rfl⟩) hvst hvtr
  have hvlive : v ∈ r'.liveOf tm.uid := mem_liveOf.2 ⟨(thread?_mem hv).1, hvteam, by simp [hvst]⟩
  have hidle := barWide_idle (s := r') (tm := k) (t := v) (u := u') [t.uid]
  rw [team?_uid hk] at hidle
  rw [hword, hidle hk hks hvlive (by simp [hat]) (by simp [hat]) hlive' hat', settle_calm hfold.calm]
  exact hfold

end

theorem arriving_calm {s : State} (hc : s.calm) (t : Thread) (c : Ctl) (h : Hold) (f : Flight) : (s.arriving t c h f).calm := by
  intro v hv
  obtain ⟨w, hw, rfl⟩ := List.mem_map.1 hv
  have := hc w hw
  unfold Thread.freshTrap at this ⊢
  rwa [signing_trap]

/-- A thread that arrives at a team barrier before another of its team waits there. -/
theorem arriving_waitsAt {s : State} {t u : Thread} {tm : Team} {c : Ctl} {n : Nat} {f : Flight}
    (huids : (s.x.threads.map Thread.uid).Nodup) (ht : t ∈ s.x.threads) (hstatus : t.status = .issued) (htrap : t.trap = none)
    (hteam : t.team = some tm.uid) (htm : s.team? tm.uid = some tm) (hsh : tm.shadowOf = none) (hcalm : s.calm)
    (hs : ∀ g ∈ s.x.flights, g.thread ≠ t.uid ∧ g.uid < s.x.nextUid) (hf : f.thread = t.uid) (hfu : f.uid = s.x.nextUid)
    (hop : f.op = .bar (.bar n 0) true) (hb : ((s.x.flights.filter Flight.atBarrier).map Flight.thread).Nodup)
    (hu : u ∈ s.liveOf tm.uid) (hne : u.uid ≠ t.uid) (hat : u.atBar = none)
    (hwhole : ∀ v ∈ s.liveOf tm.uid, ∀ k, v.atBar = some (.bar n k) → k = 0) :
    (s.arriving t c (.bar n 0) f).waitsAt t u tm n f := by
  have hlive := arriving_liveOf (c := c) (h := .bar n 0) (f := f) huids ht (by simp [hstatus]) tm.uid
  refine ⟨arriving_uids s t c _ f ▸ huids, ⟨t.signing c (.bar n 0) t, ?_, by simpa using hteam, by simp, by simpa using htrap,
    by simp, by simp⟩, ⟨u, ?_, ?_, hat⟩, ?_, arriving_barriers hf hop (fun g hg => (hs g hg).1) hb, ⟨by simp [State.arriving], ?_⟩,
    ⟨tm, htm, hsh⟩, arriving_calm hcalm _ _ _ _⟩
  · rw [arriving_thread?, thread?_of_mem huids ht]
    rfl
  · rw [arriving_thread?, thread?_of_mem huids (mem_liveOf.1 hu).1, Option.map_some, signing_other _ _ hne]
  · rw [hlive]
    exact List.mem_map.2 ⟨u, hu, signing_other _ _ hne⟩
  · rw [hlive]
    intro v hv k hk
    obtain ⟨w, hw, rfl⟩ := List.mem_map.1 hv
    by_cases e : w.uid = t.uid
    · obtain rfl := thread_uid_inj huids ht (mem_liveOf.1 hw).1 e
      rw [atBar_held (.inl ⟨n, 0, rfl⟩) (signing_status_self ..) (by simpa using htrap)] at hk
      simp only [Option.some.injEq, Hold.bar.injEq] at hk
      exact hk.2.symm
    · rw [signing_other _ _ e] at hk
      exact hwhole w hw k hk
  · intro g hg e
    rcases List.mem_append.1 hg with hg | hg
    · exact absurd (hs g hg).2 (by omega)
    · rw [List.mem_singleton.1 hg]

/-- BAR of one thread that waits for its whole team. -/
theorem exec_bar_solo {s r : State} {t : Thread} {tm : Team} {c : Ctl} {n : BitVec 4} {b : SrcB} (hsolo : s.solo c.grd t)
    (htm : s.teamOf t = some tm) (hin : t.inBlocks (bRuns b 1) = true) (hy : s.srcI t b = .ok 0#32)
    (hwhole : ∀ v ∈ s.liveOf tm.uid, ∀ k, v.atBar = some (.bar n.toNat k) → k = 0)
    (hr : (s.fenced t c (.bar n.toNat 0)).barTry tm.uid n.toNat [t.uid] = r) (hcalm : r.calm) :
    exec (.bar c n b) s = .next (r.barWord [t.uid]) := by
  have hmis : ((s.liveOf tm.uid).any fun u => match u.atBar with
      | some (.bar m k) => m == n.toNat && k != 0
      | _ => false) = false := by
    refine List.any_eq_false.2 fun v hv => ?_
    split
    · next m k e =>
      by_cases hm : m = n.toNat
      · simp [hwhole v hv k (hm ▸ e)]
      · simp [hm]
    · exact Bool.false_ne_true
  unfold exec execBar
  dsimp only
  rw [lanes_solo hsolo hin (s' := r) ?_ hcalm, hsolo.1]
  simp only [hy, bind, Except.bind, htm, hsolo.1, BitVec.toNat_ofNat, Nat.zero_mod, Nat.not_lt_zero, if_false]
  refine Eq.trans (if_neg ?_) (congrArg Except.ok hr)
  rw [Bool.not_eq_true]
  exact hmis

end Sys2Proof.Machine

namespace Sys2Proof

open Machine

/-- Settles O27: a thread that arrives has its fence done (`fenced_arriving`); then the round completes (`bar_completes`,
`barc_completes`, `barg_completes`), or waits for another thread (`arriving_waitsAt`). -/
theorem barriers : Obligations.Barriers := by
  intro s t tm c n b hsolo hcalm htm hsh huids htu hs hdet hbars hin hy hw hm live held goes own cluster grid
  obtain ⟨hteam, htm'⟩ := teamOf_team? htm
  obtain ⟨ht, -⟩ := thread?_mem hsolo.2.1
  obtain ⟨hstatus, htrap⟩ := solo_status huids hsolo
  have hmem : tm ∈ s.x.teams := List.mem_of_find?_eq_some htm'
  have hs' : ∀ g ∈ s.x.flights, g.thread ≠ t.uid := fun g hg => (hs g hg).1
  have hfenced (h : Hold) := fenced_arriving (c := c) (h := h) hsolo.2.1 (fun g hg => ⟨(hs g hg).1, (hs g hg).2.1⟩) hdet hw hm
  have hlive (p : Team → Bool) (u : Thread) : u ∈ live p ↔ u ∈ s.liveAll p := by
    simp [live, mem_liveAll]
  have hown (u : Thread) : u ∈ live own ↔ u ∈ s.liveOf tm.uid := by
    rw [hlive, mem_liveAll, mem_liveOf]
    constructor
    · rintro ⟨h1, h2, k, -, h4, h5⟩
      exact ⟨h1, beq_iff_eq.1 h5 ▸ h4, h2⟩
    · rintro ⟨h1, h2, h3⟩
      exact ⟨h1, h3, tm, hmem, h2, beq_self_eq_true _⟩
  have hother (h : Hold) (p : Team → Bool) (hh : held h p) : ∀ u ∈ s.liveAll p, u.uid ≠ t.uid → u.atBar = some h ∧ s.arrived u = true :=
    fun u hu => hh u ((hlive p u).2 hu)
  have hgoes (r : State) (p : Team → Bool) (h : r.goesPast t (s.liveAll p)) : goes r p :=
    ⟨h.1, fun u hu => h.2 u ((hlive p u).1 hu)⟩
  refine ⟨fun hh => ?_, fun hex hwhole => ?_, fun hh => ?_, fun l hl hcoop hp hsame hh => ?_⟩
  · obtain ⟨f, -, hf, hop, hwait, hA⟩ := hfenced (.bar n.toNat 0)
    have hall : ∀ u ∈ s.liveOf tm.uid, u.uid ≠ t.uid → u.atBar = some (.bar n.toNat 0) ∧ s.arrived u = true :=
      fun u hu => hh u ((hown u).2 hu)
    obtain ⟨r, go, hr, hrcalm, hword, hpast, hperm, hrteam⟩ := bar_completes (c := c) huids ht hstatus htrap hteam htm' hsh hcalm
      hs' hf hwait hop hbars hall
    have hwhole : ∀ v ∈ s.liveOf tm.uid, ∀ k, v.atBar = some (.bar n.toNat k) → k = 0 := by
      intro v hv k hk
      by_cases e : v.uid = t.uid
      · obtain rfl := thread_uid_inj huids ht (mem_liveOf.1 hv).1 e
        rw [atBar_none (.inl hstatus)] at hk
        exact absurd hk.symm (Option.some_ne_none _)
      · rw [(hall v hv e).1] at hk
        simp only [Option.some.injEq, Hold.bar.injEq] at hk
        exact hk.2.symm
    have hexec := exec_bar_solo hsolo htm hin hy hwhole (hA ▸ hr) hrcalm
    rw [hword] at hexec
    refine ⟨r, _, hexec, ⟨hpast.1, fun u hu => hpast.2 u ((hown u).1 hu)⟩, hrteam, fun i v u hu hrise hi hv hlast => ?_⟩
    obtain ⟨d, st, e⟩ := teamShown_eq (s.arriving t c (.bar n.toNat 0) f) tm.uid go tm
    rw [e]
    simp only [if_true]
    refine wShown_getD (u := t.signing c (.bar n.toNat 0) u) (hperm.mem_iff.2 (List.mem_map_of_mem ((hown u).1 hu))) ?_
      (by simpa using hrise u hu) (by simpa using hv) hi fun x hx hne hkey => ?_
    · refine (hperm.map Thread.uid).nodup_iff.2 ?_
      rw [List.map_map]
      refine (List.map_congr_left fun w _ => signing_uid ..).symm ▸ huids.sublist (List.filter_sublist.map _)
    · obtain ⟨w, hw, rfl⟩ := List.mem_map.1 (hperm.subset hx)
      simp only [signing_uid, signing_wown, signing_tix] at hne hkey ⊢
      exact hlast w ((hown w).2 hw) hne hkey
  · obtain ⟨f, hfu, hf, hop, hwait, hA⟩ := hfenced (.bar n.toNat 0)
    obtain ⟨u, hu, hne, hat⟩ := hex
    have hwhole' : ∀ v ∈ s.liveOf tm.uid, ∀ k, v.atBar = some (.bar n.toNat k) → k = 0 :=
      fun v hv => hwhole v ((hown v).2 hv)
    have hwaits := arriving_waitsAt (c := c) huids ht hstatus htrap hteam htm' hsh hcalm (fun g hg => ⟨hs' g hg, (hs g hg).2.1⟩) hf
      hfu hop hbars ((hown u).1 hu) hne hat hwhole'
    have htry := waitsAt_barTry_self hwaits [t.uid]
    have hword := waitsAt_barWord hwaits hf
    obtain ⟨t', ht', -, hst', -, hv', hpc'⟩ := hword.self
    exact ⟨_, t', f, exec_bar_solo hsolo htm hin hy hwhole' (hA ▸ htry) hwaits.calm, ht', hst', hv', hpc', hword.flight.1, hf, true, hop⟩
  · obtain ⟨f, -, hf, hop, hwait, hA⟩ := hfenced .barc
    refine ⟨_, ?_, hgoes _ _ (barc_completes (c := c) huids ht hstatus htrap hteam htm' hsh hcalm hs' hf hwait htu hop
      (hother _ _ hh))⟩
    refine congrArg (fun r : State => Host.Outcome.next (r.barWord s.members))
      (lanes_solo hsolo rfl (s' := s.arriving t c .barc f) ?_ (arriving_calm hcalm _ _ _ _)) |>.trans (by rw [hsolo.1])
    simp only [htm]
    exact congrArg Except.ok hA
  · obtain ⟨f, -, hf, hop, hwait, hA⟩ := hfenced .barg
    have hgrid : grid = Team.inGrid tm.launch := by rw [hsame]; rfl
    refine ⟨_, ?_, hgrid ▸ hgoes _ _ (barg_completes (c := c) huids ht hstatus htrap hteam htm' hsh hcalm hs' hf hwait htu hop
      (hsame ▸ hl) hp (hother _ _ (hgrid ▸ hh)))⟩
    refine congrArg (fun r : State => Host.Outcome.next (r.barWord s.members))
      (lanes_solo hsolo rfl (s' := s.arriving t c .barg f) ?_ (arriving_calm hcalm _ _ _ _)) |>.trans (by rw [hsolo.1])
    simp only [htm, hl, Option.map_some, Option.getD_some, hcoop, if_true]
    exact congrArg Except.ok hA

end Sys2Proof
end

section
/-! From the head of a queue to a running launch (R310 to R317, R382). Settles O44. -/

namespace Sys2Proof.Machine

/-- The launch of a uid after one launch has changed and kept its uid. -/
theorem launch?_updLaunch {s : State} {u : Nat} {f : Launch → Launch} (h : ∀ l, (f l).uid = l.uid) (v : Nat) :
    (s.updLaunch u f).launch? v = (s.launch? v).map fun l => if v = u then f l else l := by
  have hc : ((fun l : Launch => l.uid == v) ∘ fun l : Launch => if l.uid == u then f l else l) = fun l => l.uid == v := by
    funext l
    simp only [Function.comp_apply]
    split <;> simp [h]
  unfold State.launch? State.updLaunch
  simp only [List.find?_map, hc]
  cases ht : s.d.launches.find? fun l => l.uid == v with
  | none => rfl
  | some l =>
    have : l.uid = v := by simpa using List.find?_some ht
    simp [this]

/-! The head of a queue -/

/-- Reading a queue after another list of records has been put in its place. -/
theorem queue_setQueue {s : State} (hr : srising s.d.queues = true) (ctx q : Nat) (rs : List QRec) :
    (s.setQueue ctx q rs).queue ctx q = rs :=
  sgetD_sputD_self [] _ rs hr

/-- A context's rejection registers after a refusal: the first one's record and code are kept (R382). -/
def Ctx.refused (k : Ctx) (q : Nat) (ptr : DWord) (c : Code) : Ctx :=
  if k.rejstat.getLsbD 16 then { k with rejstat := k.rejstat ||| (1#18 <<< 17) }
  else { k with rejptr := ptr, rejstat := k.rejstat.extractLsb' 17 1 ++ 1#1 ++ 0#4 ++ BitVec.ofNat 4 q ++ c.val }

/-- A head record that is refused leaves its queue (R382). -/
theorem rejectHead_queue {s : State} {l : Launch} {h : QRec} {rest : List QRec} (hq : s.queue l.ctx l.queue = h :: rest)
    (hu : h.uid = l.uid) (hrest : ∀ r ∈ rest, r.uid ≠ l.uid) (hr : srising s.d.queues = true) (c : Code) :
    (s.rejectHead l c).queue l.ctx l.queue = rest := by
  have hfilter : (s.queue l.ctx l.queue).filter (fun q => q.uid != l.uid) = rest := by
    rw [hq, List.filter_cons_of_neg (by simp [hu])]
    exact List.filter_eq_self.2 fun r hr => by simpa using hrest r hr
  let s1 : State := { s with d := { s.d with
    launches := s.d.launches.filter (fun k => k.uid != l.uid), dfails := s.d.dfails.filter (fun f => f.1 != l.uid) } }
  exact Eq.trans (queue_setQueue (s := s1) hr l.ctx l.queue _) hfilter

/-- The refusal is noted in its context's registers. -/
theorem rejectHead_ctx {s : State} {l : Launch} (h : l.ctx < s.d.ctxs.length) (c : Code) :
    (s.rejectHead l c).ctx l.ctx = (s.ctx l.ctx).refused l.queue l.ptr c :=
  (getD_modify h (fun k : Ctx => k.refused l.queue l.ptr c) l.ctx Ctx.reset).trans (if_pos rfl)

/-- The rejection status that a first refusal leaves: set, with its code and queue. -/
theorem rejstat_fields (lost : BitVec 1) (q : BitVec 4) (c : BitVec 8) :
    let r : BitVec 18 := lost ++ 1#1 ++ 0#4 ++ q ++ c
    r.getLsbD 16 = true ∧ r.extractLsb' 0 8 = c ∧ r.extractLsb' 8 4 = q := by
  refine ⟨?_, (BitVec.extractLsb'_append_eq_of_add_le (by omega)).trans BitVec.extractLsb'_eq_self,
    (BitVec.extractLsb'_append_eq_of_le (by omega)).trans
      ((BitVec.extractLsb'_append_eq_of_add_le (by omega)).trans BitVec.extractLsb'_eq_self)⟩
  simp only [BitVec.getLsbD_append]
  rfl

/-- The registers after a refusal, with each field. -/
theorem refused_fields (k : Ctx) (q : Nat) (ptr : DWord) (c : Code) : if k.rejstat.getLsbD 16 then
    (k.refused q ptr c).rejptr = k.rejptr ∧ (k.refused q ptr c).rejstat = k.rejstat ||| 0x20000#18
    else (k.refused q ptr c).rejptr = ptr ∧ (k.refused q ptr c).rejstat.getLsbD 16 = true ∧
      (k.refused q ptr c).rejstat.extractLsb' 0 8 = c.val ∧ (k.refused q ptr c).rejstat.extractLsb' 8 4 = BitVec.ofNat 4 q := by
  unfold Ctx.refused
  split
  · exact ⟨rfl, rfl⟩
  · exact ⟨rfl, rejstat_fields (k.rejstat.extractLsb' 17 1) (BitVec.ofNat 4 q) c.val⟩

section
variable {s : State} {ctx q : Nat} {h : QRec} {rest : List QRec} (hq : s.queue ctx q = h :: rest) (hl : s.launch? h.uid = none)
include hq hl

/-- LAUNCH_HEAD_CHECK refuses a record that meets a code. -/
theorem exec_headCheck_refused {c : Code} (hc : s.headCode (mkLaunch h ctx q) = some c) :
    exec (.launchHeadCheck ctx q) s = .next (s.rejectHead (mkLaunch h ctx q) c) := by
  unfold exec execLaunchHeadCheck
  simp only [hq, hl, hc, Option.isSome_none, Bool.false_eq_true, if_false]

/-- It makes a launch of one that meets none. -/
theorem exec_headCheck_launch (hc : s.headCode (mkLaunch h ctx q) = none) : exec (.launchHeadCheck ctx q) s =
    .next { s with d := { s.d with launches := s.d.launches ++ [mkLaunch h ctx q] } } := by
  unfold exec execLaunchHeadCheck
  simp only [hq, hl, hc, Option.isSome_none, Bool.false_eq_true, if_false]

end

/-! The waits of a launch -/

/-- A KIND 0 launch with no tables as it enters Placing. -/
def Launch.entersPlacing (l : Launch) (clk : Nat) : Launch :=
  { l with state := .placing, msgTab := [], hitTab := [], slots := List.replicate 8 Slot.bad, ppb := 0#2048, replay := none,
           starve := clk }

section
variable {s s1 : State} {l : Launch} {ds : List DRead} (hl : (s.queue l.ctx l.queue).head?.bind (fun h => s.launch? h.uid) = some l)
  (hst : l.state = .waiting) (hw : s.launchWaits l = false) (hds : s.dreads l 0 ((lrWaits l.record).map fun w => (w.1, 8)) = (s1, ds))
include hl hst hw hds

/-- A wait that cannot be read refuses the record. -/
theorem waitsHold_bad (hbad : ∃ d ∈ ds, ∃ c a, d = .code c a) :
    exec (.launchWaitsHold l.ctx l.queue) s = .next (s1.rejectHead l .illegalOperand) := by
  obtain ⟨d, hd, c, a, rfl⟩ := hbad
  unfold exec execLaunchWaitsHold
  simp only [hl, hst, hw, hds, bne_self_eq_false, Bool.or_false, Bool.false_eq_true, if_false]
  rw [if_pos (List.any_eq_true.2 ⟨_, hd, rfl⟩)]

/-- A wait that does not hold leaves the record at the head. -/
theorem waitsHold_short (hok : ∀ d ∈ ds, ∃ bs, d = .ok bs)
    (hshort : ∃ w bs, (w, DRead.ok bs) ∈ (lrWaits l.record).zip ds ∧ leNat bs < w.2.toNat) :
    exec (.launchWaitsHold l.ctx l.queue) s = .next s := by
  obtain ⟨w, bs, hin, hlt⟩ := hshort
  unfold exec execLaunchWaitsHold
  simp only [hl, hst, hw, hds, bne_self_eq_false, Bool.or_false, Bool.false_eq_true, if_false]
  rw [if_neg, if_neg, if_pos]
  · rw [Bool.not_eq_true', List.all_eq_false]
    exact ⟨_, hin, by simpa using hlt⟩
  · rw [List.any_eq_true]
    rintro ⟨d, hd, e⟩
    obtain ⟨bs, rfl⟩ := hok d hd
    simp at e
  · rw [List.any_eq_true]
    rintro ⟨d, hd, e⟩
    obtain ⟨bs, rfl⟩ := hok d hd
    exact absurd e Bool.false_ne_true

/-- Once the waits of a launch hold, a KIND 0 launch with no tables enters Placing. -/
theorem waitsHold_places (hall : ∀ x ∈ (lrWaits l.record).zip ds, ∃ bs, x.2 = DRead.ok bs ∧ x.1.2.toNat ≤ leNat bs)
    (hok : ∀ d ∈ ds, ∃ bs, d = .ok bs) (hkind : lrKind l.record = 0) (hh : lrHandlers l.record = 0#64)
    (hhit : lrHittab l.record = 0#64) (hfmt : lrFmttab l.record = 0#64) (hw1 : s1.launchWaits l = false) :
    exec (.launchWaitsHold l.ctx l.queue) s =
      .next (({ s1 with d := { s1.d with dfails := s1.d.dfails.filter (fun f => f.1 != l.uid) } } : State).updLaunch l.uid fun l =>
        l.entersPlacing s1.x.clk) := by
  have htiled : l.tiled = false := by simp [Launch.tiled, hkind]
  have hreplay : l.isReplay = false := by simp [Launch.isReplay, hkind]
  have hppb : s1.loadPpb l = (s1, .ok 0#2048) := by simp [State.loadPpb, htiled]
  have hrep : s1.loadReplay l = (s1, .ok none) := by simp [State.loadReplay, hreplay]
  have hslots : s1.loadSlots l = (s1, List.replicate 8 Slot.bad) := by
    unfold State.loadSlots
    simp only [hfmt]
    rfl
  have htable : s1.loadTable l 0#64 = (s1, []) := rfl
  unfold exec execLaunchWaitsHold
  simp only [hl, hst, hw, hds, bne_self_eq_false, Bool.or_false, Bool.false_eq_true, if_false]
  rw [if_neg, if_neg, if_neg]
  · simp only [hh, hhit, htable, hslots, hppb, hrep, hw1, Launch.sized, htiled, hreplay, Bool.or_false, Bool.and_false,
      Bool.false_and, Bool.false_eq_true, if_false, Option.map_none, Option.getD_none]
    rfl
  · rw [Bool.not_eq_true', List.all_eq_false]
    rintro ⟨x, hx, e⟩
    obtain ⟨bs, hbs, hle⟩ := hall x hx
    simp [hbs, hle] at e
  · rw [List.any_eq_true]
    rintro ⟨d, hd, e⟩
    obtain ⟨bs, rfl⟩ := hok d hd
    simp at e
  · rw [List.any_eq_true]
    rintro ⟨d, hd, e⟩
    obtain ⟨bs, rfl⟩ := hok d hd
    exact absurd e Bool.false_ne_true

end

/-! A cluster is placed -/

/-- No other launch has its turn before this one. -/
theorem noneBefore {s : State} {l : Launch}
    (hb : ∀ k ∈ s.d.launches, k.uid = l.uid ∨ s.mayPlace k = false ∨ s.ahead k l = false ∨ s.nextFits k = false) :
    (s.d.launches.any fun k => k.uid != l.uid && s.mayPlace k && s.ahead k l && s.nextFits k) = false := by
  refine List.any_eq_false.2 fun k hk => ?_
  rcases hb k hk with h | h | h | h <;> simp [h]

theorem spotFree {s : State} {l : Launch} {core : Nat} {p : Nat × List Nat} (hp : s.placeSpot l core = [p])
    (ht : ∀ p ∈ s.placeSpot l core, ∀ c ∈ p.2, s.coreTaken c = false) : (p.2 ++ []).any s.coreTaken = false := by
  rw [List.append_nil]
  exact List.any_eq_false.2 fun c hc => by simp [ht p (hp ▸ List.mem_singleton_self p) c hc]

section
variable {s : State} {l : Launch} {core : Nat} {p : Nat × List Nat}
  (hl : s.launch? l.uid = some l) (hm : s.mayPlace l = true)
  (hb : ∀ k ∈ s.d.launches, k.uid = l.uid ∨ s.mayPlace k = false ∨ s.ahead k l = false ∨ s.nextFits k = false)
  (hw : s.launchWaits l = false) (hp : s.placeSpot l core = [p]) (ht : ∀ p ∈ s.placeSpot l core, ∀ c ∈ p.2, s.coreTaken c = false)
include hl hm hb hw hp ht

/-- A tile job of the launch whose turn it is starts on its core. -/
theorem placeCluster_tile (hk : l.tileJobs = true) : exec (.placeCluster l.uid core) s =
    .next ((s.addTile l (p.2.headD 0) p.1).placedMore l.uid 1) := by
  have hbefore := noneBefore hb
  have htaken := spotFree hp ht
  unfold exec execPlaceCluster
  simp only [hl, hbefore, hm, hw, hp, hk, htaken, Bool.not_true, Bool.or_false, Bool.false_eq_true, if_false, if_true,
    List.isEmpty_cons, List.flatMap_cons, List.flatMap_nil, List.foldl_cons, List.foldl_nil]
  rfl

/-- A cluster of a KIND 0 launch whose turn it is is placed on its rectangle. -/
theorem placeCluster_team (hk : lrKind l.record = 0) (hr : l.replay = none) : exec (.placeCluster l.uid core) s =
    .next ((s.placeAll l [p] fun cluster rank => if p.1 == cluster then l.computeStarts (l.cs * cluster + rank) else []).placedMore
      l.uid 1) := by
  have hbefore := noneBefore hb
  have htaken := spotFree hp ht
  have htile : l.tileJobs = false := by simp [Launch.tileJobs, hk]
  have hstarts : s.placeStarts l [p] = (s, .ok [(p.1, p.2, [])]) := by simp [State.placeStarts, hk]
  unfold exec execPlaceCluster
  simp only [hl, hbefore, hm, hw, hp, htile, hr, htaken, hstarts, Bool.not_true, Bool.or_false, Bool.false_eq_true, if_false,
    List.isEmpty_cons, List.flatMap_cons, List.flatMap_nil]
  refine congrArg (fun f => Host.Outcome.next ((s.placeAll l [p] f).placedMore l.uid 1)) (funext fun cluster => funext fun rank => ?_)
  by_cases h : p.1 = cluster <;> simp [h, hk]

end

/-- Placing more of a launch keeps everything but the dispatcher's own records. -/
theorem placedMore_frame (s : State) (u n : Nat) : (s.placedMore u n).x = s.x ∧ (s.placedMore u n).e = s.e := by
  unfold State.placedMore
  split
  · exact ⟨rfl, rfl⟩
  · dsimp only
    split <;> exact ⟨rfl, rfl⟩

/-- A launch with more placed of it; it runs once all of it has been. -/
def Launch.morePlaced (l : Launch) (n clk : Nat) (all : Bool) : Launch :=
  { l with placed := l.placed + n, starve := clk, resv := [], state := if all then .running else l.state }

/-- The launch counts what has been placed, and runs once all of it has. -/
theorem placedMore_launch? {s : State} {l : Launch} (hl : s.launch? l.uid = some l) (n : Nat) :
    (s.placedMore l.uid n).launch? l.uid = some (l.morePlaced n s.x.clk (decide (l.total ≤ l.placed + n))) := by
  have h := launch?_updLaunch (s := s) (u := l.uid) (f := fun k => k.morePlaced n s.x.clk (decide (l.total ≤ l.placed + n)))
    (fun _ => rfl) l.uid
  rw [hl, Option.map_some, if_pos rfl] at h
  unfold State.placedMore
  simp only [hl]
  generalize decide (l.total ≤ l.placed + n) = all at h ⊢
  cases all <;> exact h

/-! The threads of a team -/

/-- A thread as it starts in a team (R43, R307). -/
def Thread.startsAs (t : Thread) (l : Launch) (core team : Nat) (st : Start) : Prop :=
  ∃ u slot group name, t = { (mkThread u core (st.tix / 32 % 8) (st.tix % 32) slot group (some team) st.tix l.uid l.ctx st.kind
    (lrRegb l.record) (lrEntry l.record) name).setRun 0 st.v with helper := st.helper }

/-- Adding the groups of a team changes the groups alone. -/
theorem addGroups_eq (s : State) (core team lid w : Nat) (ords : List Nat) :
    ∃ u gs, s.addGroups core team lid w ords = { s with x := { s.x with nextUid := u, groups := gs } } :=
  foldl_keeps (P := fun r : State => ∃ u gs, r = { s with x := { s.x with nextUid := u, groups := gs } }) ords s
    ⟨_, _, rfl⟩ fun r g _ ⟨u, gs, h⟩ => by
      rw [h]
      exact ⟨_, _, rfl⟩

/-- Adding the threads of a team adds one for each start. -/
theorem addThreads_eq (l : Launch) (core team : Nat) (sts : List Start) : ∀ s : State, ∃ u ts,
    s.addThreads l core team sts = { s with x := { s.x with nextUid := u, threads := s.x.threads ++ ts } } ∧
      ∀ st ∈ sts, ∃ t ∈ ts, t.startsAs l core team st := by
  induction sts with
  | nil => exact fun s => ⟨s.x.nextUid, [], by simp [State.addThreads], by simp⟩
  | cons st sts ih =>
    intro s
    obtain ⟨t, h, ht⟩ : ∃ t : Thread, s.addThreads l core team (st :: sts) = State.addThreads
        { s with x := { s.x with nextUid := s.x.nextUid + 1, threads := s.x.threads ++ [t] } } l core team sts ∧
        t.startsAs l core team st := ⟨_, rfl, _, _, _, _, rfl⟩
    obtain ⟨u, ts, hs, hts⟩ := ih { s with x := { s.x with nextUid := s.x.nextUid + 1, threads := s.x.threads ++ [t] } }
    refine ⟨u, t :: ts, by rw [h, hs]; simp, fun x hx => ?_⟩
    rcases List.mem_cons.1 hx with rfl | hx
    · exact ⟨t, List.mem_cons_self, ht⟩
    · obtain ⟨v, hv, hvs⟩ := hts x hx
      exact ⟨v, List.mem_cons_of_mem _ hv, hvs⟩

/-- A launch that memory alone has changed. -/
theorem MemOnly.launch? {s s' : State} (h : MemOnly s s') {u : Nat} {l : Launch} (hl : s.launch? u = some l) :
    ∃ w, s'.launch? u = some { l with wct := w } := by
  obtain ⟨w, hd⟩ := h.d
  refine ⟨w l, ?_⟩
  unfold State.launch? at hl ⊢
  rw [hd]
  show (s.d.launches.map _).find? _ = _
  rw [List.find?_map]
  exact congrArg (Option.map _) hl

/-- A thread is still there, with another write completion time at most. -/
theorem MemOnly.thread {s s' : State} (h : MemOnly s s') {t : Thread} (ht : t ∈ s.x.threads) :
    ∃ w, { t with wct := w } ∈ s'.x.threads := by
  obtain ⟨w, hx⟩ := h.x
  exact ⟨w t, by rw [hx]; exact List.mem_map_of_mem ht⟩

theorem MemOnly.teams {s s' : State} (h : MemOnly s s') : s'.x.teams = s.x.teams := by
  obtain ⟨w, hx⟩ := h.x
  rw [hx]

/-- The team that `placeTeam` makes. -/
def Launch.newTeam (l : Launch) (uid core cluster rank : Nat) (shadowOf : Option Nat) (clk : Nat) : Team :=
  { uid := uid, launch := l.uid, ctx := l.ctx, core := core, logical := l.cs * cluster + rank, cluster := cluster,
    rank := rank, size := l.teamSize cluster, w := l.wStart, k := List.replicate 16 ConvReg.zero,
    d := List.replicate 32 0#256, tiles := List.replicate (lrAcc l.record) [], tpoison := [], spad := [],
    ssize := 1024 * kib (lrScratch l.record), spoison := [], pend := [], digest := 0#256, stream := [], spilled := [],
    swapped := none, left := 0, latch := none, spillTrap := false, shadowOf := shadowOf, isolated := [], since := clk,
    stopping := false }

/-- Placing a team adds it and its threads, and moves what L1 no longer holds (R43, R71, R307, R314). -/
theorem placeTeam_eq (s : State) (l : Launch) (core cluster rank : Nat) (sts : List Start) (sh : Option Nat) :
    ∃ u gs ts n, MemOnly { s with
        x := { s.x with nextUid := u, teams := s.x.teams ++ [l.newTeam s.x.nextUid core cluster rank sh s.x.clk], groups := gs,
                        threads := s.x.threads ++ ts }
        d := { s.d with division := n } } (s.placeTeam l core cluster rank sts sh).1 ∧
      ∀ st ∈ sts, ∃ t ∈ ts, t.startsAs l core s.x.nextUid st := by
  let s1 : State := { s with x := { s.x with nextUid := s.x.nextUid + 1,
                                             teams := s.x.teams ++ [l.newTeam s.x.nextUid core cluster rank sh s.x.clk] } }
  let s2 := s1.addGroups core s.x.nextUid l.uid (eclassWeight (lrEclass l.record)) l.ordinals
  obtain ⟨u, gs, hgs⟩ := addGroups_eq s1 core s.x.nextUid l.uid (eclassWeight (lrEclass l.record)) l.ordinals
  obtain ⟨v, ts, hts, hst⟩ := addThreads_eq l core s.x.nextUid sts s2
  refine ⟨v, gs, ts, ((s2.addThreads l core s.x.nextUid sts).raiseDivision core).d.division, ?_, hst⟩
  have hdiv (r : State) : { r with d := { r.d with division := (r.raiseDivision core).d.division } } = r.raiseDivision core := rfl
  have hplace : (s.placeTeam l core cluster rank sts sh).1 =
      ((s2.addThreads l core s.x.nextUid sts).raiseDivision core).shrinkL1 core := rfl
  rw [hplace]
  refine Eq.mp (congrArg (MemOnly · _) ?_) (memOnly_shrinkL1 ((s2.addThreads l core s.x.nextUid sts).raiseDivision core) core)
  rw [← hdiv]
  generalize ((s2.addThreads l core s.x.nextUid sts).raiseDivision core).d.division = n
  rw [hts, show s2 = _ from hgs]

/-- Placing a cluster of one team of a launch that is not sampled places the team. -/
theorem placeAll_one {s : State} {l : Launch} (hd : lrDet l.record = false) (cluster core : Nat) (sts : Nat → Nat → List Start) :
    s.placeAll l [(cluster, [core])] sts = (s.placeTeam l core cluster 0 (sts cluster 0) none).1 := by
  have hs (n : Nat) : l.sampled n = false := by simp [Launch.sampled, hd]
  simp [State.placeAll, State.placeOn, State.addShadows, hs]

/-! Messages (R241) -/

theorem leNat_append (as bs : List Byte) : leNat (as ++ bs) = leNat as + 256 ^ as.length * leNat bs := by
  induction as with
  | nil => simp [leNat]
  | cons a as ih =>
    have h : leNat (a :: as ++ bs) = a.toNat + 256 * leNat (as ++ bs) := rfl
    have h' : leNat (a :: as) = a.toNat + 256 * leNat as := rfl
    rw [h, h', ih, List.length_cons, pow_succ]
    ring

theorem leNat_lt (bs : List Byte) : leNat bs < 256 ^ bs.length := by
  induction bs with
  | nil => simp [leNat]
  | cons b bs ih =>
    have h : leNat (b :: bs) = b.toNat + 256 * leNat bs := rfl
    have := b.isLt
    rw [h, List.length_cons, pow_succ]
    omega

/-- Eight bytes, low word first. -/
theorem words_leNat {bs : List Byte} (h : 8 ≤ bs.length) :
    (leWord ((bs.drop 4).take 4)).extractLsb' 0 32 ++ (leWord (bs.take 4)).extractLsb' 0 32 =
      BitVec.ofNat 64 (leNat (bs.take 8)) := by
  have hsplit : bs.take 8 = bs.take 4 ++ (bs.drop 4).take 4 := List.take_add (l := bs) (i := 4) (j := 4)
  have hlo := leNat_lt (bs.take 4)
  have hhi := leNat_lt ((bs.drop 4).take 4)
  have hlen : (bs.take 4).length = 4 := by simp; omega
  have hlen' : ((bs.drop 4).take 4).length = 4 := by simp; omega
  rw [hlen] at hlo
  rw [hlen'] at hhi
  rw [hsplit, leNat_append, hlen]
  unfold leWord
  generalize leNat (bs.take 4) = lo at hlo ⊢
  generalize leNat ((bs.drop 4).take 4) = hi at hhi ⊢
  apply BitVec.eq_of_toNat_eq
  rw [BitVec.toNat_append, BitVec.extractLsb'_toNat, BitVec.extractLsb'_toNat, BitVec.toNat_ofNat, BitVec.toNat_ofNat,
    BitVec.toNat_ofNat, ← Nat.shiftLeft_add_eq_or_of_lt (by omega), Nat.shiftLeft_eq]
  simp only [Nat.shiftRight_zero]
  omega

/-- Five registers of a new thread. -/
theorem setRun_five {t : Thread} {n : Nat} (hv : t.v = List.replicate n 0#32) (hn : 5 ≤ n) (a b c d e : Word) :
    let u := t.setRun 0 [a, b, c, d, e]
    u.v.length = n ∧ u.vget 0 = a ∧ u.vget 1 = b ∧ u.vget 2 = c ∧ u.vget 3 = d ∧ u.vget 4 = e := by
  have h1 : 0 < n ∧ 1 < n ∧ 2 < n ∧ 3 < n ∧ 4 < n := by omega
  simp [Thread.setRun, Thread.vset, Thread.vget, hv, List.getD_eq_getElem?_getD, h1]

/-- A run of registers is all that a write of it changes. -/
theorem setRun_eq (t : Thread) (n : Nat) (ws : List Word) : t.setRun n ws = { t with v := (t.setRun n ws).v } := by
  obtain ⟨v, h⟩ : ∃ v, t.setRun n ws = { t with v := v } :=
    foldl_keeps (P := fun u : Thread => ∃ v, u = { t with v := v }) ws.zipIdx t ⟨t.v, rfl⟩ fun u p _ ⟨v, h⟩ =>
      ⟨v.set (n + p.2) p.1, by rw [h]; rfl⟩
  rw [h]

/-- A word of a message's payload. -/
def Msg.word (m : Msg) (i : Nat) : Word :=
  if 4 * i < m.len then (leWord ((m.payload.drop (4 * i)).take 4)).extractLsb' 0 32 else 0#32

/-- A lane's eight bytes of the payload, in a pair of registers. -/
theorem Msg.word_pair {m : Msg} (h8 : m.len % 8 = 0) (hp : m.payload.length = m.len) (i : Nat) :
    m.word (2 * i + 1) ++ m.word (2 * i) =
      if 8 * i < m.len then BitVec.ofNat 64 (leNat ((m.payload.drop (8 * i)).take 8)) else 0#64 := by
  unfold Msg.word
  split
  · next h =>
    have hlen : 8 ≤ (m.payload.drop (8 * i)).length := by
      rw [List.length_drop]
      omega
    rw [if_pos (by omega), if_pos (by omega), ← words_leNat hlen, List.drop_drop]
    rw [show 4 * (2 * i + 1) = 8 * i + 4 by ring, show 4 * (2 * i) = 8 * i by ring]
  · next h => rw [if_neg (by omega), if_neg (by omega)]; rfl

/-- A thread of a message's handler group (R241). -/
def State.msgThread (s : State) (m : Msg) (e : BitVec 256) (slice slot u g l : Nat) : Thread :=
  (mkThread u m.target slice l slot g none l m.launch m.ctx (.message m.uid) (e.extractLsb' 128 8).toNat (e.extractLsb' 0 64)
    (s.formName m.ctx (msgName m.name l))).setRun 0
    [m.word (2 * l), m.word (2 * l + 1), BitVec.ofNat 32 m.sender, BitVec.ofNat 32 m.len, m.senderTeam]

/-- The oldest queued message of a core is spawned in a slice with room. -/
theorem exec_messageHandlerSpawn_room {s : State} {m : Msg} {e : BitVec 256} {slice slot : Nat}
    (hm : (s.e.msgs.find? fun k => k.uid == m.uid) = some m)
    (hfirst : (s.e.msgs.find? fun k => k.target == m.target && k.queued && k.group.isNone) = some m)
    (hfr : (s.ctx m.ctx).frozen = false) (he : s.msgEntry m.launch m.handler = some e)
    (hfit : s.groupFits m.target slice (e.extractLsb' 128 8).toNat (s.lweight m.launch) = some slot) :
    ∃ s', exec (.messageHandlerSpawn m.uid slice) s = .next s' ∧ s'.x.threads = s.x.threads ++
      (List.range 32).map fun l => s.msgThread m e slice slot (s.x.nextUid + 1 + l) s.x.nextUid l := by
  unfold exec execMessageHandlerSpawn
  simp only [hm, hfirst, hfr, he, hfit, Option.map_some, bne_self_eq_false, Bool.or_false, Bool.false_eq_true, if_false]
  exact ⟨_, rfl, rfl⟩

/-! Tile jobs (R332) -/

/-- One record write of a tile, after those before it. -/
def tileStep (l : Launch) (k : Tile) (a : State × Except (BitVec 128 × Stop) (Sparse Nat))
    (x : (Nat × Nat × Nat) × Option TriHit × Bool) : State × Except (BitVec 128 × Stop) (Sparse Nat) :=
  match a.2 with
  | .error _ => a
  | .ok w =>
    match a.1.tileWrite l k x.1 x.2.1 x.2.2 with
    | (s, .ok v) => (s, .ok (wctJoin w v))
    | (s, .error e) => (s, .error e)

/-- What a tile job does once its records have been written, or a write has stopped. -/
def tileDone (l : Launch) (k : Tile) (r : State × Except (BitVec 128 × Stop) (Sparse Nat)) : State :=
  match r with
  | (s, .error e) => s.tileStop l k e.1 e.2
  | (s, .ok w) => s.endTile k w

/-- A tile job whose checks pass writes its records. -/
theorem exec_tileJob_writes {s s1 s2 : State} {l : Launch} {k : Tile} {log : List (List Byte × Bool)}
    {xs : List ((Nat × Nat × Nat) × Option TriHit × Bool)} (hk : (s.e.tiles.find? fun t => t.uid == k.uid) = some k)
    (hl : s.launch? k.launch = some l) (hst : k.stalled = none) (htr : s.tileTrace l k none = (s1, log, .ok xs))
    (hch : (s1.updTile k.uid fun t => { t with log := log }).tileChecks l k xs = (s2, .ok ())) :
    exec (.tileJob k.uid) s = .next (tileDone l k (xs.foldl (tileStep l k) (s2, .ok []))) := by
  unfold exec execTileJob
  simp only [hk, hl, hst, htr, hch, Option.isSome_none, Bool.false_eq_true, if_false]
  rfl

/-- The record writes of a tile, one after another. -/
theorem tileWrites_foldl {l : Launch} {k : Tile} (σ : Nat → State) (ω : Nat → Sparse Nat) :
    ∀ (xs : List ((Nat × Nat × Nat) × Option TriHit × Bool)) (n : Nat) (w : Sparse Nat),
      (∀ i x, xs[i]? = some x → (σ (n + i)).tileWrite l k x.1 x.2.1 x.2.2 = (σ (n + i + 1), .ok (ω (n + i)))) →
      xs.foldl (tileStep l k) (σ n, .ok w) =
        (σ (n + xs.length), .ok ((List.range xs.length).foldl (fun a i => wctJoin a (ω (n + i))) w)) := by
  intro xs
  induction xs with
  | nil => exact fun n w _ => rfl
  | cons x xs ih =>
    intro n w h
    have hstep : tileStep l k (σ n, .ok w) x = (σ (n + 1), .ok (wctJoin w (ω n))) := by
      have h0 := h 0 x rfl
      simp only [Nat.add_zero] at h0
      simp only [tileStep, h0]
    rw [List.foldl_cons, hstep, ih (n + 1) (wctJoin w (ω n)) fun i y hy => ?_]
    · rw [List.length_cons, List.range_succ_eq_map, List.foldl_cons, List.foldl_map]
      simp only [Nat.add_zero, Nat.add_assoc, Nat.add_comm 1]
    · have := h (i + 1) y hy
      rwa [show n + (i + 1) = n + 1 + i by omega] at this

end Sys2Proof.Machine

namespace Sys2Proof

open Machine

/-- Settles O44. That a placed thread's predicates and a new team's tiles start at zero is the model's choice (log 6). -/
theorem dispatch : Obligations.Dispatch := by
  refine ⟨fun s ctx q h rest hq hl => ⟨fun c hc _ hctx hr hrest => ?_, fun hc => exec_headCheck_launch hq hl hc⟩,
    fun s s1 l h rest ds hq hl hst hw hds => ?_, fun s l core cluster r rest hl hm hb hw hp ht => ⟨fun hk hrest => ?_, fun hk hrep hrest hdet hr => ?_⟩,
    fun s m e slice slot hm hfirst hfr he hfit hblocks h8 hp => ?_, fun s s1 s2 l k log xs hk hl hst htr hch σ ω h0 hσ => ?_⟩
  · exact ⟨_, exec_headCheck_refused hq hl hc, rejectHead_queue (l := mkLaunch h ctx q) hq rfl hrest hr c, rfl, rfl,
      (rejectHead_ctx (s := s) (l := mkLaunch h ctx q) hctx c) ▸ refused_fields (s.ctx ctx) q h.ptr c⟩
  · have hhead : (s.queue l.ctx l.queue).head?.bind (fun h => s.launch? h.uid) = some l := by rw [hq]; exact hl
    refine ⟨waitsHold_bad hhead hst hw hds, waitsHold_short hhead hst hw hds, fun hall hok hkind hh hhit hfmt hw1 hl1 => ?_⟩
    refine ⟨_, l.entersPlacing s1.x.clk, waitsHold_places hhead hst hw hds hall hok hkind hh hhit hfmt hw1,
      (launch?_updLaunch (fun _ => by rfl) l.uid).trans ?_, rfl, rfl, rfl, rfl, rfl, rfl⟩
    exact (congrArg (Option.map _) hl1).trans (congrArg some (if_pos rfl))
  · subst hrest
    refine ⟨_, _, ⟨s.x.nextUid, l.uid, r.headD 0, cluster, s.x.clk, none, 0#128, []⟩,
      placeCluster_tile hl hm hb hw hp ht (by simp [Launch.tileJobs, hk]), ?_, rfl, rfl, rfl,
      placedMore_launch? (s := s.addTile l (r.headD 0) cluster) hl 1, rfl, ?_⟩
    · rw [(placedMore_frame _ _ _).2]
      rfl
    · simp [Launch.morePlaced]
  · subst hrest hr
    have hexec := placeCluster_team hl hm hb hw hp ht hk hrep
    rw [placeAll_one hdet] at hexec
    obtain ⟨u, gs, ts, n, hmem, hts⟩ := placeTeam_eq s l core cluster 0
      (if cluster == cluster then l.computeStarts (l.cs * cluster + 0) else []) none
    obtain ⟨w, hl'⟩ := hmem.launch? (u := l.uid) (l := l) hl
    refine ⟨_, l.newTeam s.x.nextUid core cluster 0 none s.x.clk, _, hexec, ?_, rfl, rfl, rfl, rfl, rfl, ?_, rfl, rfl, ?_, rfl,
      fun i hi => ?_, fun t ht => ?_, placedMore_launch? (l := { l with wct := w }) hl' 1, rfl⟩
    · rw [(placedMore_frame _ _ _).1, hmem.teams]
    · simp [Launch.newTeam, Launch.wStart, Launch.isReplay, hk]
    · show lrScratch l.record ≤ 1024 * ((lrScratch l.record + 1023) / 1024)
      omega
    · rw [(placedMore_frame _ _ _).1]
      obtain ⟨t, ht, x, slot, group, name, e⟩ := hts ⟨i, [], computeName (l.cs * cluster + 0) i, .team, false⟩
        (by simpa [Launch.computeStarts] using hi)
      obtain ⟨w', hin⟩ := hmem.thread (t := t) (List.mem_append_right _ ht)
      exact ⟨_, hin, by rw [e]; exact ⟨rfl, rfl, rfl, rfl, rfl, rfl, rfl, rfl, rfl⟩⟩
    · rw [(placedMore_frame _ _ _).1]
      exact hmem.thread (List.mem_append_left _ ht)
  · obtain ⟨s', hexec, hts⟩ := exec_messageHandlerSpawn_room hm hfirst hfr he hfit
    refine ⟨s', _, hexec, hts, by simp, fun i t hi => ?_⟩
    rw [List.getElem?_map, Option.map_eq_some_iff] at hi
    obtain ⟨j, hj, rfl⟩ := hi
    obtain ⟨-, rfl⟩ : i < 32 ∧ i = j := by
      have hlt : i < 32 := by simpa using (List.getElem?_eq_some_iff.1 hj).1
      rw [List.getElem?_range hlt] at hj
      exact ⟨hlt, Option.some.inj hj⟩
    obtain ⟨hlen, h0, h1, h2, h3, h4⟩ := setRun_five (t := mkThread (s.x.nextUid + 1 + i) m.target slice i slot s.x.nextUid none i
      m.launch m.ctx (.message m.uid) (e.extractLsb' 128 8).toNat (e.extractLsb' 0 64) (s.formName m.ctx (msgName m.name i))) rfl
      (by omega : 5 ≤ 16 * (e.extractLsb' 128 8).toNat) (m.word (2 * i)) (m.word (2 * i + 1)) (BitVec.ofNat 32 m.sender)
      (BitVec.ofNat 32 m.len) m.senderTeam
    refine ⟨?_, ?_, ?_, ?_, ?_, ?_, hlen, ?_, h2, h3, h4⟩
    · unfold State.msgThread; rw [setRun_eq]; rfl
    · unfold State.msgThread; rw [setRun_eq]; rfl
    · unfold State.msgThread; rw [setRun_eq]; rfl
    · unfold State.msgThread; rw [setRun_eq]; rfl
    · unfold State.msgThread; rw [setRun_eq]; rfl
    · unfold State.msgThread; rw [setRun_eq]; rfl
    · unfold Thread.pair State.msgThread
      rw [h0, h1, Msg.word_pair h8 hp]
  · have hwrites := tileWrites_foldl (l := l) (k := k) σ ω xs 0 [] (by simpa using hσ)
    simp only [Nat.zero_add, h0] at hwrites
    rw [exec_tileJob_writes hk hl hst htr hch, hwrites]
    rfl

end Sys2Proof
end

section
/-! The bytes at home that memory's own work keeps (R76, R95). -/

namespace Sys2Proof.Machine

/-! Reading memory after an update -/

theorem srising_dram {s : State} (h : s.Wf) : srising s.m.dram = true := ((swf_iff _ _).1 ((wf_iff _).1 h).1).1
theorem srising_home {s : State} (h : s.Wf) : srising s.m.home = true := ((swf_iff _ _).1 ((wf_iff _).1 h).2.2.2.1).1

/-- A byte of DRAM after a byte has been written. -/
theorem dramByte_setDram {s : State} (h : s.Wf) (pa : Nat) (b : Byte) (q : Nat) :
    (s.setDram pa b).dramByte q = if q = pa then b else s.dramByte q := by
  unfold State.dramByte
  rw [setDram_m_dram]
  split
  · next e => rw [e, sgetD_sputD_self _ _ _ (srising_dram h)]
  · next e => rw [sget_sputD_other _ _ e]

/-- A line at home after a line has changed. -/
theorem homeLine_updHome {s : State} (h : s.Wf) (l : Nat) (f : HomeLine → HomeLine) (k : Nat) :
    (s.updHome l f).homeLine k = if k = l then f (s.homeLine l) else s.homeLine k := by
  unfold State.homeLine
  rw [updHome_m_home]
  split
  · next e => rw [e, sgetD_sputD_self _ _ _ (srising_home h)]; rfl
  · next e => rw [sget_sputD_other _ _ e]

/-- From `s` to `s'` memory stays canonical, each line keeps its owner, and a byte keeps its value at home. -/
structure HomeKept (q : Nat) (s s' : State) : Prop where
  wf : s'.Wf
  owner : ∀ l, (s'.homeLine l).owner = (s.homeLine l).owner
  byte : s'.homeByte q = s.homeByte q

namespace HomeKept

theorem refl {s : State} (q : Nat) (h : s.Wf) : HomeKept q s s := ⟨h, fun _ => rfl, rfl⟩

theorem trans {q : Nat} {s t u : State} (h : HomeKept q s t) (k : HomeKept q t u) : HomeKept q s u :=
  ⟨k.wf, fun l => (k.owner l).trans (h.owner l), k.byte.trans h.byte⟩

end HomeKept

/-- A change of memory beside the homes and DRAM. -/
theorem homeKept_beside {s s' : State} (q : Nat) (h : s'.Wf) (hh : s'.m.home = s.m.home) (hd : s'.m.dram = s.m.dram) :
    HomeKept q s s' := by
  have hline (l : Nat) : s'.homeLine l = s.homeLine l := by unfold State.homeLine; rw [hh]
  refine ⟨h, fun l => by rw [hline], ?_⟩
  unfold State.homeByte State.dramByte
  rw [hline, hd]

/-- A change of a line's context and tags. -/
theorem homeKept_updHome {s : State} (q l : Nat) {f : HomeLine → HomeLine} (h : s.Wf) (hb : ∀ k, (f k).bytes = k.bytes)
    (ho : ∀ k, (f k).owner = k.owner) : HomeKept q s (s.updHome l f) := by
  refine ⟨wf_updHome_bytes l f h hb, fun k => ?_, ?_⟩
  · rw [homeLine_updHome h]
    split
    · next e => rw [ho, e]
    · rfl
  · unfold State.homeByte
    rw [homeLine_updHome h]
    have hd : (s.updHome l f).dramByte q = s.dramByte q := rfl
    rw [hd]
    split
    · next e => rw [hb, e]
    · rfl

/-- A byte of DRAM after the bytes of a line have been written. -/
theorem dramByte_setDrams (l q : Nat) : ∀ (bs : Sparse Byte) {s : State}, s.Wf → srising bs = true → (∀ p ∈ bs, p.1 < 256) →
    (bs.foldl (fun s (p : Nat × Byte) => s.setDram (256 * l + p.1) p.2) s).dramByte q =
      if q / 256 = l then (sget bs (q % 256)).getD (s.dramByte q) else s.dramByte q
  | [], s, _, _, _ => by simp [sget]
  | (k, v) :: r, s, h, hr, hk => by
    obtain ⟨hlt, hrise⟩ := (srising_cons k v r).1 hr
    have hk256 : k < 256 := hk (k, v) List.mem_cons_self
    rw [List.foldl_cons, dramByte_setDrams l q r (wf_setDram _ _ h) hrise fun p hp => hk p (List.mem_cons_of_mem _ hp),
      dramByte_setDram h]
    by_cases hq : q = 256 * l + k
    · have hl : q / 256 = l := by omega
      have hm : q % 256 = k := by omega
      rw [if_pos hl, if_pos hl, if_pos hq, hm, sget_of_lt hlt]
      simp [sget]
    · rw [if_neg hq]
      by_cases hl : q / 256 = l
      · have hm : ¬ k = q % 256 := by omega
        rw [if_pos hl, if_pos hl]
        simp [sget, hm]
      · rw [if_neg hl, if_neg hl]

/-- Writing bytes of DRAM leaves the lines at home. -/
theorem homeLine_setDrams (l k : Nat) (bs : Sparse Byte) (s : State) :
    (bs.foldl (fun s (p : Nat × Byte) => s.setDram (256 * l + p.1) p.2) s).homeLine k = s.homeLine k :=
  foldl_keeps (P := fun u : State => u.homeLine k = s.homeLine k) bs s rfl fun _ _ _ hb => hb

/-- A line that goes to DRAM keeps its bytes. -/
theorem homeKept_flushHome {s : State} (q l : Nat) (h : s.Wf) : HomeKept q s (s.flushHome l) := by
  have hw : State.Wf ((s.homeLine l).bytes.foldl (fun s (p : Nat × Byte) => s.setDram (256 * l + p.1) p.2) s) :=
    foldl_keeps (P := State.Wf) _ _ h fun _ _ _ hb => wf_setDram _ _ hb
  obtain ⟨hrise, hlt⟩ := (lineWf_iff _).1 (wf_lineWf h l)
  have hline (k : Nat) : (s.flushHome l).homeLine k = if k = l then { s.homeLine l with bytes := [] } else s.homeLine k := by
    unfold State.flushHome
    rw [homeLine_updHome hw, homeLine_setDrams, homeLine_setDrams]
  refine ⟨wf_flushHome l h, fun k => ?_, ?_⟩
  · rw [hline]
    split
    · next e => rw [e]
    · rfl
  · have hd : (s.flushHome l).dramByte q =
        if q / 256 = l then (sget (s.homeLine l).bytes (q % 256)).getD (s.dramByte q) else s.dramByte q :=
      dramByte_setDrams l q _ h hrise hlt
    unfold State.homeByte
    rw [hline, hd]
    by_cases hl : q / 256 = l
    · rw [if_pos hl, if_pos hl, hl]
      simp [sget]
    · rw [if_neg hl, if_neg hl]

theorem homeKept_evictHome {s : State} (q l : Nat) (h : s.Wf) : HomeKept q s (s.evictHome l) :=
  (homeKept_flushHome q l h).trans (homeKept_updHome q l (wf_flushHome l h) (fun _ => rfl) fun _ => rfl)

theorem homeKept_sliceRoom {s : State} (q j : Nat) (h : s.Wf) : HomeKept q s (s.sliceRoom j) := by
  have hw := wf_sliceRoom j h
  unfold State.sliceRoom at hw ⊢
  dsimp only at hw ⊢
  split
  · exact .refl q h
  · split
    · next hlen _ c hc =>
      rw [if_neg hlen, hc] at hw
      exact homeKept_beside q hw rfl rfl
    · split
      · exact homeKept_evictHome q _ h
      · exact .refl q h

theorem homeKept_touchHome {s : State} (q l : Nat) (c : Option Nat) (t : BitVec 12) (h : s.Wf) :
    HomeKept q s (s.touchHome l c t) := by
  have hroom : HomeKept q s (if (s.homeLine l).held then s else s.sliceRoom (homeSlice (256 * l))) := by
    split
    · exact .refl q h
    · exact homeKept_sliceRoom q _ h
  have hline (u : State) (hu : u.Wf) : HomeKept q u (let hl := u.homeLine l
      if hl.ctx == c then (if t == 0#12 then u else u.updHome l fun k => { k with tensor := t })
      else (u.flushHome l).updHome l fun k => { k with ctx := c, tensor := t }) := by
    dsimp only
    split_ifs
    · exact .refl q hu
    · exact homeKept_updHome q l hu (fun _ => rfl) fun _ => rfl
    · exact (homeKept_flushHome q l hu).trans (homeKept_updHome q l (wf_flushHome l hu) (fun _ => rfl) fun _ => rfl)
  exact hroom.trans (hline _ hroom.wf)

/-- A byte that enters at home leaves every other. -/
theorem homeKept_mergeHome {s : State} {q l k : Nat} (c : Option Nat) (t : BitVec 12) (b : Byte) (bad : Bool) (h : s.Wf)
    (hk : k < 256) (hq : q ≠ 256 * l + k) : HomeKept q s (s.mergeHome l c t [(k, b)] bad) := by
  have ht := homeKept_touchHome q l c t h
  have hput : HomeKept q (s.touchHome l c t) ((s.touchHome l c t).updHome l fun h => { h with bytes := sput h.bytes k b }) := by
    refine ⟨wf_updHome l _ ht.wf (lineWf_sput (wf_lineWf ht.wf l) hk), fun j => ?_, ?_⟩
    · rw [homeLine_updHome ht.wf]
      split
      · next e => rw [e]
      · rfl
    · unfold State.homeByte
      rw [homeLine_updHome ht.wf]
      split
      · next e =>
        have hne : q % 256 ≠ k := by omega
        rw [sget_sput_other _ hne, e]
        rfl
      · rfl
  refine (ht.trans hput).trans ?_
  unfold State.mergeHome
  refine foldl_keeps (P := HomeKept q _) _ _ (.refl q hput.wf) fun u j _ hu => ?_
  have hp (p : Bool) : HomeKept q u (u.setPoison (256 * l + 64 * j) p) := homeKept_beside q (wf_setPoison _ p hu.wf) rfl rfl
  split_ifs
  · exact hu.trans (hp true)
  · exact hu.trans (hp false)
  · exact hu

/-- One byte is one part of one line. -/
theorem lineParts_singleton (pa : Nat) (b : Byte) : lineParts pa [b] = [(pa / 256, [(pa % 256, b)])] := rfl

theorem recall_of_owner_none {s : State} {l : Nat} (h : (s.homeLine l).owner = none) : s.recall l = s := by
  unfold State.recall
  rw [h]

/-- A byte that is written at home, of a line that no core owns, leaves every other. -/
theorem homeKept_writeHome {s : State} {q pa : Nat} (c : Nat) (t : BitVec 12) (b : Byte) (bad : Bool) (h : s.Wf)
    (ho : (s.homeLine (pa / 256)).owner = none) (hq : q ≠ pa) : HomeKept q s (s.writeHome c t pa [b] bad).1 := by
  have hm : HomeKept q s (s.mergeHome (pa / 256) (some c) t [(pa % 256, b)] bad) :=
    homeKept_mergeHome _ _ _ _ h (Nat.mod_lt _ (by decide)) (by omega)
  have hwf := wf_writeHome c t pa [b] bad h
  unfold State.writeHome at hwf ⊢
  rw [lineParts_singleton] at hwf ⊢
  refine hm.trans (homeKept_beside q hwf ?_ ?_)
  · simp only [List.foldl_cons, List.foldl_nil, State.performHome, recall_of_owner_none ho]
    simp only [List.isEmpty_cons, Bool.false_eq_true, if_false, State.ownedBy, Option.any_none, State.updatePath,
      Option.bind_none, State.wakeLine]
    split <;> rfl
  · simp only [List.foldl_cons, List.foldl_nil, State.performHome, recall_of_owner_none ho]
    simp only [List.isEmpty_cons, Bool.false_eq_true, if_false, State.ownedBy, Option.any_none, State.updatePath,
      Option.bind_none, State.wakeLine]
    split <;> rfl

end Sys2Proof.Machine
end

section
/-! What the device writes into an area (R309, log 47): the bytes at the places that it has written, and no other, where no core
owns a line. -/

namespace Sys2Proof.Machine

/-- No core owns a line. -/
def State.Ownerless (s : State) : Prop := ∀ l, (s.homeLine l).owner = none

theorem HomeKept.ownerless {q : Nat} {s s' : State} (h : HomeKept q s s') (ho : s.Ownerless) : s'.Ownerless :=
  fun l => (h.owner l).trans (ho l)

theorem homeKept_readHome {s : State} (q pa n : Nat) (h : s.Wf) (ho : s.Ownerless) : HomeKept q s (s.readHome pa n).1 :=
  foldl_keeps (P := HomeKept q s) _ _ (.refl q h) fun b l _ hb => by
    rw [recall_of_owner_none (hb.ownerless ho l)]
    exact hb

theorem homeKept_physRead {s : State} (q pa n : Nat) (h : s.Wf) (ho : s.Ownerless) : HomeKept q s (s.physRead pa n).1 := by
  unfold State.physRead
  split
  · exact homeKept_readHome q pa n h ho
  · exact .refl q h

theorem homeKept_leaf {s : State} (q level va : Nat) (e : DWord) (h : s.Wf) (ho : s.Ownerless) :
    HomeKept q s (s.leaf level va e).1 := by
  unfold State.leaf
  dsimp only
  split_ifs
  · exact .refl q h
  · exact .refl q h
  · exact .refl q h
  · exact .refl q h
  · exact homeKept_physRead q _ _ h ho

theorem homeKept_walk (q va k : Nat) : ∀ (s : State) (table : Nat), s.Wf → s.Ownerless → HomeKept q s (s.walk va k table).1 := by
  induction k with
  | zero =>
    intro s table h ho
    have hr := homeKept_physRead q (table + 8 * (va / 2 ^ 16 % 32)) 8 h ho
    unfold State.walk
    dsimp only
    split_ifs
    · exact hr
    · exact hr.trans (homeKept_leaf q _ _ _ hr.wf (hr.ownerless ho))
  | succ k ih =>
    intro s table h ho
    have hr := homeKept_physRead q (table + 8 * (va / 2 ^ levelShift (k + 1) % 512)) 8 h ho
    unfold State.walk
    dsimp only
    split_ifs
    · exact hr
    · exact hr.trans (homeKept_leaf q _ _ _ hr.wf (hr.ownerless ho))
    · exact hr.trans (ih _ _ hr.wf (hr.ownerless ho))
    · exact hr
    · exact hr

theorem homeKept_translate {s : State} (q core : Nat) (lane : Option (Nat × Nat)) (c va : Nat) (modifies : Bool) (h : s.Wf)
    (ho : s.Ownerless) : HomeKept q s (s.translate core lane c va modifies).1 := by
  have hfill {u : State} (hu : u.Wf) (x : Xlat) (k : XlatStep) : HomeKept q u (u.fillXlat core lane c x k) :=
    homeKept_beside q hu rfl rfl
  have hw := homeKept_walk q va 3 s (s.ctx c).root h ho
  unfold State.translate
  dsimp only
  split
  · exact hfill h _ _
  · split
    · exact hw
    · split
      · exact hw
      · exact hw.trans (hfill hw.wf _ _)

theorem homeKept_pageCheck {s : State} (q core : Nat) (lane : Option (Nat × Nat)) (c : Nat) (p : DWord) (n : Nat)
    (modifies exec tags : Bool) (tensor : BitVec 12) (scope : Nat) (h : s.Wf) (ho : s.Ownerless) :
    HomeKept q s (s.pageCheck core lane c p n modifies exec tags tensor scope).1 := by
  have ht := homeKept_translate q core lane c (ptrVa p) modifies h ho
  unfold State.pageCheck
  split
  · exact .refl q h
  · split
    · next e => rw [e] at ht; exact ht
    · next e =>
      rw [e] at ht
      dsimp only
      split_ifs <;> exact ht

theorem homeKept_areaPa {s : State} (q core c : Nat) (p : DWord) (modifies : Bool) (h : s.Wf) (ho : s.Ownerless) :
    HomeKept q s (s.areaPa core c p modifies).1 := by
  have hp := homeKept_pageCheck q core none c p 1 modifies false true 0#12 5 h ho
  unfold State.areaPa
  split <;> next e => rw [e] at hp; exact hp

/-- A byte of an area is written, where the context's pages take it. -/
def State.areaPut (core ctx : Nat) (p : DWord) (s : State) (b : Nat × Byte) : State :=
  match (s.areaPa core ctx (p + BitVec.ofNat 64 b.1) true).2 with
  | some pa => ((s.areaPa core ctx (p + BitVec.ofNat 64 b.1) true).1.writeHome ctx 0#12 pa [b.2] false).1
  | none => (s.areaPa core ctx (p + BitVec.ofNat 64 b.1) true).1

/-- The free bytes that an area of a length takes. -/
def State.areaBytes (s : State) (len : Nat) : List (Nat × Byte) :=
  (Config.areaBytes s.freeCtr).filter fun b => decide (b.1 < len)

theorem areaWrite_eq (s : State) (core ctx : Nat) (p : DWord) (len : Nat) :
    s.areaWrite core ctx p len = ((s.areaBytes len).foldl (State.areaPut core ctx p) s.takeFree.2, s.freeCtr) := by
  have hstep : State.areaPut core ctx p = fun s b =>
      match s.areaPa core ctx (p + BitVec.ofNat 64 b.1) true with
      | (s, some pa) => (s.writeHome ctx 0#12 pa [b.2] false).1
      | (s, none) => s := by
    funext s b
    unfold State.areaPut
    rcases s.areaPa core ctx (p + BitVec.ofNat 64 b.1) true with ⟨u, _ | pa⟩ <;> rfl
  rw [hstep]
  rfl

/-- A fold whose states are named one by one. -/
theorem foldl_named {α β : Type} {f : β → α → β} (σ : Nat → β) (xs : List α) (n : Nat)
    (h : ∀ k x, xs[k]? = some x → σ (n + k + 1) = f (σ (n + k)) x) : xs.foldl f (σ n) = σ (n + xs.length) := by
  induction xs generalizing n with
  | nil => rfl
  | cons x xs ih =>
    have h0 : σ (n + 1) = f (σ n) x := h 0 x rfl
    rw [List.foldl_cons, ← h0, ih (n + 1) fun k y hy => ?_, List.length_cons, Nat.add_assoc, Nat.add_comm 1]
    have hk := h (k + 1) y hy
    rwa [show n + (k + 1) = n + 1 + k by omega] at hk

/-- A byte that is written into an area leaves every other. -/
theorem homeKept_areaPut {s : State} {q core ctx : Nat} {p : DWord} {b : Nat × Byte} (h : s.Wf) (ho : s.Ownerless)
    (hq : (s.areaPa core ctx (p + BitVec.ofNat 64 b.1) true).2 ≠ some q) : HomeKept q s (s.areaPut core ctx p b) := by
  have hpa := homeKept_areaPa q core ctx (p + BitVec.ofNat 64 b.1) true h ho
  unfold State.areaPut
  split
  · next pa e =>
    exact hpa.trans (homeKept_writeHome ctx 0#12 b.2 false hpa.wf (hpa.ownerless ho _) fun hc => hq (by rw [e, hc]))
  · exact hpa

/-- The states between the bytes of an area keep a byte that none of them is written at. -/
theorem homeKept_areaPuts {q core ctx : Nat} {p : DWord} (σ : Nat → State) (xs : List (Nat × Byte)) (h : (σ 0).Wf)
    (ho : (σ 0).Ownerless) (hs : ∀ k x, xs[k]? = some x → σ (k + 1) = (σ k).areaPut core ctx p x)
    (hq : ∀ k x, xs[k]? = some x → ((σ k).areaPa core ctx (p + BitVec.ofNat 64 x.1) true).2 ≠ some q) :
    ∀ k, k ≤ xs.length → HomeKept q (σ 0) (σ k)
  | 0, _ => .refl q h
  | k + 1, hk => by
    have ih := homeKept_areaPuts σ xs h ho hs hq k (by omega)
    have hx : xs[k]? = some xs[k] := List.getElem?_eq_getElem hk
    rw [hs k _ hx]
    exact ih.trans (homeKept_areaPut ih.wf (ih.ownerless ho) (hq k _ hx))

end Sys2Proof.Machine
end

section
/-! The groups and threads of a team take up their places on a core (R27, R324). -/

namespace Sys2Proof.Machine

/-- What a move of groups makes of one: the core, and a slot, its own where the core is. -/
def MovedGroup (core : Nat) (own : Bool) (us : List Nat) (g h : Group) : Prop :=
  (g.uid ∉ us → h = g) ∧ (g.uid ∈ us → ∃ slot, h = { g with core := core, slot := slot } ∧ (own = true → slot = g.slot))

/-- What a move of groups makes of a thread. -/
def MovedThread (core : Nat) (us : List Nat) (t u : Thread) : Prop :=
  (t.group ∉ us → u = t) ∧ (t.group ∈ us → ∃ slot, u = { t with core := core, slot := slot })

/-- From `s` to `s'` the groups of some uids have moved to a core, with their threads. -/
structure Moved (core : Nat) (own : Bool) (us : List Nat) (s s' : State) : Prop where
  teams : s'.x.teams = s.x.teams
  groups : ∃ γ : Group → Group, s'.x.groups = s.x.groups.map γ ∧ ∀ g ∈ s.x.groups, MovedGroup core own us g (γ g)
  threads : ∃ τ : Thread → Thread, s'.x.threads = s.x.threads.map τ ∧ ∀ t, MovedThread core us t (τ t)

theorem MovedGroup.uid {core : Nat} {own : Bool} {us : List Nat} {g h : Group} (m : MovedGroup core own us g h) : h.uid = g.uid := by
  by_cases hg : g.uid ∈ us
  · obtain ⟨slot, rfl, -⟩ := m.2 hg; rfl
  · rw [m.1 hg]

theorem MovedThread.group {core : Nat} {us : List Nat} {t u : Thread} (m : MovedThread core us t u) : u.group = t.group := by
  by_cases hg : t.group ∈ us
  · obtain ⟨slot, rfl⟩ := m.2 hg; rfl
  · rw [m.1 hg]

/-- A move leaves a thread's team, the code that it has to raise, and where it waits. -/
theorem MovedThread.kept {core : Nat} {us : List Nat} {t u : Thread} (m : MovedThread core us t u) :
    u.team = t.team ∧ u.fail = t.fail ∧ u.status = t.status := by
  by_cases hg : t.group ∈ us
  · obtain ⟨slot, rfl⟩ := m.2 hg; exact ⟨rfl, rfl, rfl⟩
  · rw [m.1 hg]; exact ⟨rfl, rfl, rfl⟩

theorem MovedGroup.trans {core : Nat} {own : Bool} {us vs : List Nat} {g h k : Group} (m : MovedGroup core own us g h)
    (n : MovedGroup core own vs h k) : MovedGroup core own (us ++ vs) g k := by
  have hu := m.uid
  refine ⟨fun hg => ?_, fun hg => ?_⟩
  · rw [List.mem_append, not_or] at hg
    rw [n.1 (by rw [hu]; exact hg.2), m.1 hg.1]
  · by_cases hv : g.uid ∈ vs
    · obtain ⟨slot, rfl, hown⟩ := n.2 (by rw [hu]; exact hv)
      by_cases hm : g.uid ∈ us
      · obtain ⟨slot', rfl, hown'⟩ := m.2 hm
        exact ⟨slot, rfl, fun e => (hown e).trans (hown' e)⟩
      · obtain rfl := m.1 hm
        exact ⟨slot, rfl, hown⟩
    · have hm := (List.mem_append.1 hg).resolve_right hv
      rw [n.1 (by rw [hu]; exact hv)]
      exact m.2 hm

theorem MovedThread.trans {core : Nat} {us vs : List Nat} {t u v : Thread} (m : MovedThread core us t u)
    (n : MovedThread core vs u v) : MovedThread core (us ++ vs) t v := by
  have hu := m.group
  refine ⟨fun hg => ?_, fun hg => ?_⟩
  · rw [List.mem_append, not_or] at hg
    rw [n.1 (by rw [hu]; exact hg.2), m.1 hg.1]
  · by_cases hv : t.group ∈ vs
    · obtain ⟨slot, rfl⟩ := n.2 (by rw [hu]; exact hv)
      by_cases hm : t.group ∈ us
      · obtain ⟨slot', rfl⟩ := m.2 hm
        exact ⟨slot, rfl⟩
      · obtain rfl := m.1 hm
        exact ⟨slot, rfl⟩
    · have hm := (List.mem_append.1 hg).resolve_right hv
      rw [n.1 (by rw [hu]; exact hv)]
      exact m.2 hm

theorem Moved.refl (core : Nat) (own : Bool) (s : State) : Moved core own [] s s :=
  ⟨rfl, ⟨id, by simp, fun g _ => ⟨fun _ => rfl, (nomatch ·)⟩⟩, ⟨id, by simp, fun t => ⟨fun _ => rfl, (nomatch ·)⟩⟩⟩

theorem Moved.trans {core : Nat} {own : Bool} {us vs : List Nat} {s s' s'' : State} (m : Moved core own us s s')
    (n : Moved core own vs s' s'') : Moved core own (us ++ vs) s s'' := by
  obtain ⟨ht, ⟨γ, hγ, hg⟩, ⟨τ, hτ, hm⟩⟩ := m
  obtain ⟨ht', ⟨γ', hγ', hg'⟩, ⟨τ', hτ', hm'⟩⟩ := n
  refine ⟨ht'.trans ht, ⟨γ' ∘ γ, by rw [hγ', hγ, List.map_map], fun g hin => ?_⟩,
    ⟨τ' ∘ τ, by rw [hτ', hτ, List.map_map], fun t => (hm t).trans (hm' _)⟩⟩
  exact (hg g hin).trans (hg' _ (by rw [hγ]; exact List.mem_map_of_mem hin))

/-- One group of a team takes its place on a core. -/
def State.moveGroup (tm : Team) (core : Nat) (s : State) (u : Nat) : State :=
  match s.group? u with
  | none => s
  | some g =>
    let slot := if core == tm.core then g.slot else (s.freeSlot core g.slice).getD 0
    let s := s.updGroup u fun g => { g with core := core, slot := slot }
    s.mapThreads fun t => if t.group == u then { t with core := core, slot := slot } else t

/-- The group of a uid, where no two groups share one. -/
theorem group_eq_of_group? {s : State} (hu : (s.x.groups.map Group.uid).Nodup) {u : Nat} {g h : Group} (hg : s.group? u = some g)
    (hh : h ∈ s.x.groups) (e : h.uid = u) : h = g := by
  refine List.inj_on_of_nodup_map hu hh (List.mem_of_find?_eq_some hg) (e.trans ?_)
  exact (by simpa using List.find?_some hg : g.uid = u).symm

theorem moved_moveGroup {s : State} (tm : Team) (core u : Nat) (hu : (s.x.groups.map Group.uid).Nodup)
    (hin : ∃ g ∈ s.x.groups, g.uid = u) : Moved core (core == tm.core) [u] s (s.moveGroup tm core u) := by
  unfold State.moveGroup
  split
  · next hn =>
    obtain ⟨g, hg, he⟩ := hin
    exact absurd (List.find?_eq_none.1 hn g hg) (by simp [he])
  · next g hg =>
    refine ⟨rfl, ⟨_, rfl, fun h hh => ⟨fun hne => ?_, fun he => ?_⟩⟩, ⟨_, rfl, fun t => ⟨fun hne => ?_, fun he => ?_⟩⟩⟩
    · exact if_neg (by simpa using hne)
    · obtain rfl := group_eq_of_group? hu hg hh (List.mem_singleton.1 he)
      exact ⟨_, if_pos (by simpa using he), fun e => if_pos e⟩
    · exact if_neg (by simpa using hne)
    · exact ⟨_, if_pos (by simpa using he)⟩

/-- A move keeps the uids of the groups. -/
theorem Moved.uids {core : Nat} {own : Bool} {us : List Nat} {s s' : State} (m : Moved core own us s s') :
    s'.x.groups.map Group.uid = s.x.groups.map Group.uid := by
  obtain ⟨-, ⟨γ, hγ, hg⟩, -⟩ := m
  rw [hγ, List.map_map]
  exact List.map_congr_left fun g hin => (hg g hin).uid

/-- The groups of a team take their places one after another. -/
theorem moved_moveGroups (tm : Team) (core : Nat) (us : List Nat) : ∀ (s : State), (s.x.groups.map Group.uid).Nodup →
    (∀ u ∈ us, u ∈ s.x.groups.map Group.uid) → Moved core (core == tm.core) us s (us.foldl (State.moveGroup tm core) s) := by
  induction us with
  | nil => exact fun s _ _ => .refl _ _ s
  | cons u us ih =>
    intro s hu hin
    have hfirst := moved_moveGroup tm core u hu (List.mem_map.1 (hin u List.mem_cons_self))
    refine hfirst.trans (ih _ (by rwa [hfirst.uids]) fun v hv => ?_)
    rw [hfirst.uids]
    exact hin v (List.mem_cons_of_mem _ hv)

/-! What a restored team does at once (R47, R378) -/

/-- A convergence register that is at zero issues nothing, where no signer is held. -/
theorem kTry_of_zero {s : State} {tm : Team} {u k : Nat} (bundle : List Nat) (htm : s.team? u = some tm)
    (hr : tm.kget k = ConvReg.zero) (hh : s.heldSigners u k = []) : s.kTry u k bundle = s := by
  have hmiss : s.kMissing u k = s := by
    simp only [State.kMissing, htm, hh, List.isEmpty_nil, if_true]
  simp only [State.kTry, htm, hr, hmiss]
  exact if_pos rfl

theorem kget_zero {tm : Team} (h : ∀ r ∈ tm.k, r = ConvReg.zero) (k : Nat) : tm.kget k = ConvReg.zero := by
  unfold Team.kget
  rw [List.getD_eq_getElem?_getD]
  cases hk : tm.k[k]? with
  | none => rfl
  | some r => exact h r (List.mem_of_getElem? hk)

theorem failKept_of_none {s : State} {u : Nat} (h : ∀ t ∈ s.x.threads, t.team = some u → t.fail = none) : s.failKept u = s := by
  have hnone : (s.x.threads.filter fun t => t.team == some u && t.fail.isSome) = [] :=
    List.filter_eq_nil_iff.2 fun t ht hc => by
      obtain ⟨hteam, hfail⟩ := Bool.and_eq_true_iff.1 hc
      rw [h t ht (by simpa using hteam)] at hfail
      exact absurd hfail (by decide)
  unfold State.failKept
  rw [hnone]
  rfl

/-! Restoring a team -/

/-- The groups of a team. -/
def State.groupUids (s : State) (u : Nat) : List Nat := (s.x.groups.filter fun g => g.team == some u).map Group.uid

theorem mem_groupUids {s : State} {u v : Nat} : v ∈ s.groupUids u ↔ ∃ g ∈ s.x.groups, g.uid = v ∧ g.team = some u := by
  simp [State.groupUids, and_comm, and_left_comm]

/-- The team as it stands on a core again. -/
def Team.restored (tm : Team) (core clk : Nat) : Team := { tm with core := core, swapped := none, latch := none, since := clk }

/-- The A latch that was saved with a team is on the core. -/
def State.latchOn (s : State) (tm : Team) (core : Nat) : State :=
  match tm.latch with
  | some l => { s with e := { s.e with latches := sput s.e.latches core (tm.uid, l.1, l.2) } }
  | none => s

/-- What a core does for a team that stands on it again: its A latch, its clean copies, and the room of its scratchpad. -/
def State.standOn (s : State) (tm : Team) (core : Nat) : State :=
  ((if core == tm.core then s.latchOn tm core else (s.latchOn tm core).refresh core tm.ctx).raiseDivision core).shrinkL1 core

/-- It leaves groups, teams and all of a thread but what it waits past. -/
theorem standOn_x (s : State) (tm : Team) (core : Nat) : ∃ w : Thread → Sparse Nat,
    (s.standOn tm core).x = { s.x with threads := s.x.threads.map fun t => { t with wct := w t } } := by
  have hlatch : (s.latchOn tm core).x = s.x := by
    unfold State.latchOn
    split <;> rfl
  have hfresh : ((if core == tm.core then s.latchOn tm core else (s.latchOn tm core).refresh core tm.ctx).raiseDivision core).x =
      s.x := by
    rw [← hlatch]
    show (if core == tm.core then s.latchOn tm core else (s.latchOn tm core).refresh core tm.ctx).x = _
    split <;> rfl
  obtain ⟨w, hx⟩ := (memOnly_shrinkL1 ((if core == tm.core then s.latchOn tm core else
    (s.latchOn tm core).refresh core tm.ctx).raiseDivision core) core).x
  exact ⟨w, by rw [hfresh] at hx; exact hx⟩

/-- The places of a restored team, before what waits is tried. -/
def State.takeUp (s : State) (tm : Team) (core : Nat) : State :=
  (((s.groupUids tm.uid).foldl (State.moveGroup tm core) s).updTeam tm.uid fun t => t.restored core s.x.clk).standOn tm core

theorem restoreOn_eq (s : State) (tm : Team) (core : Nat) : s.restoreOn tm core =
    ((List.range 16).foldl (fun s k => s.kTry tm.uid k []) (s.takeUp tm core)).failKept tm.uid := rfl

/-- What a restored team's places are: `r` is the state after its groups have moved. -/
theorem takeUp_x (s : State) (tm : Team) (core : Nat) (hu : (s.x.groups.map Group.uid).Nodup) :
    ∃ (r : State) (w : Thread → Sparse Nat), Moved core (core == tm.core) (s.groupUids tm.uid) s r ∧
      (s.takeUp tm core).x.groups = r.x.groups ∧
      (s.takeUp tm core).x.threads = r.x.threads.map (fun t => { t with wct := w t }) ∧
      (s.takeUp tm core).x.teams = s.x.teams.map fun t => if t.uid == tm.uid then t.restored core s.x.clk else t := by
  have hm := moved_moveGroups tm core (s.groupUids tm.uid) s hu fun v hv => by
    obtain ⟨g, hg, he, -⟩ := mem_groupUids.1 hv
    exact List.mem_map.2 ⟨g, hg, he⟩
  obtain ⟨w, hx⟩ := standOn_x (((s.groupUids tm.uid).foldl (State.moveGroup tm core) s).updTeam tm.uid fun t =>
    t.restored core s.x.clk) tm core
  refine ⟨_, w, hm, ?_, ?_, ?_⟩
  · unfold State.takeUp; rw [hx]; rfl
  · unfold State.takeUp; rw [hx]; rfl
  · unfold State.takeUp; rw [hx, ← hm.teams]; rfl

/-- Nothing waits at zeroed registers or with a code to raise, so a restored team's places are all that changes. -/
theorem restoreOn_of_quiet {s : State} {tm : Team} {core : Nat} (htm : s.team? tm.uid = some tm)
    (hu : (s.x.groups.map Group.uid).Nodup) (hk : ∀ r ∈ tm.k, r = ConvReg.zero)
    (hquiet : ∀ t ∈ s.x.threads, t.team = some tm.uid → t.fail = none ∧ ∀ h, t.status ≠ .held h) :
    s.restoreOn tm core = s.takeUp tm core := by
  obtain ⟨r, w, hm, -, hth, hteams⟩ := takeUp_x s tm core hu
  obtain ⟨-, -, τ, hτ, hmoved⟩ := hm
  have hthread (u : Thread) (hin : u ∈ (s.takeUp tm core).x.threads) (hteam : u.team = some tm.uid) :
      u.fail = none ∧ ∀ h, u.status ≠ .held h := by
    rw [hth, hτ, List.map_map] at hin
    obtain ⟨t, ht, rfl⟩ := List.mem_map.1 hin
    obtain ⟨e1, e2, e3⟩ := (hmoved t).kept
    have := hquiet t ht (e1.symm.trans hteam)
    exact ⟨e2.trans this.1, fun h hc => this.2 h (e3.symm.trans hc)⟩
  have hteam : (s.takeUp tm core).team? tm.uid = some (tm.restored core s.x.clk) := by
    rw [team?_map (fun k => by split <;> rfl) hteams, htm]
    exact congrArg some (if_pos (beq_self_eq_true _))
  have hheld (k : Nat) : (s.takeUp tm core).heldSigners tm.uid k = [] :=
    List.eq_nil_iff_forall_not_mem.2 fun u hc => by
      obtain ⟨hin, hteam, -, ins, hst⟩ := mem_heldSigners.1 hc
      exact (hthread u hin hteam).2 _ hst
  rw [restoreOn_eq]
  have hfold : (List.range 16).foldl (fun s k => s.kTry tm.uid k []) (s.takeUp tm core) = s.takeUp tm core :=
    foldl_keeps (P := fun u => u = s.takeUp tm core) _ _ rfl fun u k _ e => by
      rw [e]
      exact kTry_of_zero [] hteam (kget_zero (tm := tm.restored core s.x.clk) hk k) (hheld k)
  rw [hfold]
  exact failKept_of_none fun u hin ht => (hthread u hin ht).1

/-- RESTORE_TEAM of a team whose launch is not cooperative. -/
theorem exec_restoreTeam {s : State} {tm : Team} {core : Nat} (htm : s.team? tm.uid = some tm) (hr : s.restorable tm = true)
    (hf : s.restoreFits tm core = true) (hb : s.restoreBefore tm = false)
    (hc : ∀ l, s.launch? tm.launch = some l → l.coop = false) :
    exec (.restoreTeam tm.uid core) s = .next (s.restoreOn tm core) := by
  have hcoop : ((s.launch? tm.launch).any fun l => l.coop) = false := by
    cases hl : s.launch? tm.launch with
    | none => rfl
    | some l => exact hc l hl
  show Host.Outcome.next _ = _
  rw [htm]
  simp [hr, hf, hb, hcoop]

/-- RESTORE_TEAM of a team that may not be restored there does nothing. -/
theorem exec_restoreTeam_refused {s : State} {u core : Nat} (h : ∀ tm, s.team? u = some tm → s.restorable tm = false ∨
    s.restoreFits tm core = false ∨ s.restoreBefore tm = true) : exec (.restoreTeam u core) s = .next s := by
  show Host.Outcome.next _ = _
  cases htm : s.team? u with
  | none => rfl
  | some tm =>
    have hno : (!s.restorable tm || !s.restoreFits tm core || s.restoreBefore tm) = true := by
      rcases h tm htm with e | e | e <;> simp [e]
    exact congrArg Host.Outcome.next (if_pos hno)

/-- A group of a restored team stands on the core. -/
theorem takeUp_group {s : State} {tm : Team} {core : Nat} {g : Group} (hu : (s.x.groups.map Group.uid).Nodup)
    (hg : g ∈ s.x.groups) (ht : g.team = some tm.uid) : ∃ h ∈ (s.takeUp tm core).x.groups, h.uid = g.uid ∧ h.core = core ∧
      h.slice = g.slice ∧ (core = tm.core → h.slot = g.slot) := by
  obtain ⟨r, w, ⟨-, ⟨γ, hγ, hmoved⟩, -⟩, hgs, -, -⟩ := takeUp_x s tm core hu
  obtain ⟨slot, e, hown⟩ := (hmoved g hg).2 (mem_groupUids.2 ⟨g, hg, rfl, ht⟩)
  refine ⟨γ g, by rw [hgs, hγ]; exact List.mem_map_of_mem hg, ?_⟩
  rw [e]
  exact ⟨rfl, rfl, rfl, fun h => hown (by simpa using h)⟩

/-- A thread of a restored team stands on the core. -/
theorem takeUp_thread {s : State} {tm : Team} {core : Nat} {t : Thread} (hu : (s.x.groups.map Group.uid).Nodup)
    (ht : t ∈ s.x.threads) (hg : ∃ g ∈ s.x.groups, g.uid = t.group ∧ g.team = some tm.uid) :
    ∃ slot w, { t with core := core, slot := slot, wct := w } ∈ (s.takeUp tm core).x.threads := by
  obtain ⟨r, w, ⟨-, -, τ, hτ, hmoved⟩, -, hth, -⟩ := takeUp_x s tm core hu
  obtain ⟨slot, e⟩ := (hmoved t).2 (mem_groupUids.2 hg)
  refine ⟨slot, w (τ t), ?_⟩
  rw [hth, hτ, List.map_map]
  exact List.mem_map.2 ⟨t, ht, by rw [Function.comp_apply, e]⟩

/-- Another thread stays where it is. -/
theorem takeUp_other {s : State} {tm : Team} {core : Nat} {t : Thread} (hu : (s.x.groups.map Group.uid).Nodup)
    (ht : t ∈ s.x.threads) (hg : ∀ g ∈ s.x.groups, g.uid = t.group → g.team ≠ some tm.uid) :
    ∃ w, { t with wct := w } ∈ (s.takeUp tm core).x.threads := by
  obtain ⟨r, w, ⟨-, -, τ, hτ, hmoved⟩, -, hth, -⟩ := takeUp_x s tm core hu
  have e := (hmoved t).1 fun hc => by
    obtain ⟨g, hin, he, hteam⟩ := mem_groupUids.1 hc
    exact hg g hin he hteam
  refine ⟨w (τ t), ?_⟩
  rw [hth, hτ, List.map_map]
  exact List.mem_map.2 ⟨t, ht, by rw [Function.comp_apply, e]⟩

/-- The team of a restored team. -/
theorem takeUp_team {s : State} {tm : Team} {core : Nat} (htm : s.team? tm.uid = some tm) (hu : (s.x.groups.map Group.uid).Nodup) :
    (s.takeUp tm core).team? tm.uid = some (tm.restored core s.x.clk) := by
  obtain ⟨r, w, -, -, -, hteams⟩ := takeUp_x s tm core hu
  rw [team?_map (fun k => by split <;> rfl) hteams, htm]
  exact congrArg some (if_pos (beq_self_eq_true _))

end Sys2Proof.Machine
end

section
/-! Saving a team: its couched entries, the waits that are abandoned, and what its core sends home (R253, R322, R385, R387).
Settles O47. -/

namespace Sys2Proof.Machine

/-- The code of a report that the device makes. -/
theorem reportCode_mkReport (ln : BitVec 128) (pc addr hdr : DWord) (time : Nat) (c : Cause) (core slice lane slot ctx word : Nat)
    (freeze : Bool) (team : Word) (tid : Nat) :
    reportCode (mkReport ln pc addr hdr time c core slice lane slot ctx word freeze team tid) = c.code.val := by
  ext i hi
  have hbelow (n : Nat) (h : n ≤ 120) : ¬ 120 + i < n := by omega
  have hfield (n m : Nat) (h : m + n ≤ 120) : ¬ 120 + i - m < n := by omega
  simp only [reportCode, mkReport, BitVec.getElem_extractLsb', BitVec.getLsbD_append, Nat.sub_sub]
  simp only [hbelow, hfield, Nat.reduceAdd, Nat.reduceLeDiff, if_false]
  rw [Nat.add_sub_cancel_left, if_pos hi, BitVec.getLsbD_eq_getElem hi]

/-! Spilling -/

/-- The entries of a team in its core's Couching buffer, in sort-key order. -/
def State.couched (s : State) (tm : Team) : List CouchEntry := couchSort ((s.couchBuf tm.core).filter fun e => e.ofTeam tm)

/-- The team with its couched entries spilled. -/
def Team.spilt (tm : Team) (es : List CouchEntry) : Team := { tm with spilled := couchSort (tm.spilled ++ es) }

/-- The entries of a team leave the buffer for the team's spilled ones. -/
def State.spilt (s : State) (tm : Team) : State :=
  (s.setCouch tm.core ((s.couchBuf tm.core).filter fun e => !e.ofTeam tm)).updTeam tm.uid fun k =>
    k.spilt (s.couched tm)

/-- How many entries a team's spill area holds. -/
def State.spillCap (s : State) (tm : Team) : Nat :=
  match s.launch? tm.launch with
  | some l => if lrSpill l.record == 0#64 then 0 else lrSpilln l.record
  | none => 0

/-- A spill that fits. -/
def State.spillMade (s : State) (tm : Team) : State × Bool :=
  match (s.spilt tm).launch? tm.launch with
  | some l =>
    if (s.couched tm).isEmpty then (s.spilt tm, true)
    else (((s.spilt tm).areaWrite tm.core tm.ctx (lrSpill l.record + BitVec.ofNat 64 (tm.logical * 32 * s.spillCap tm))
      (32 * (tm.spilled.length + (s.couched tm).length))).1, true)
  | none => (s.spilt tm, true)

theorem spillTeam_eq (s : State) (tm : Team) : s.spillTeam tm =
    if tm.spilled.length + (s.couched tm).length ≤ s.spillCap tm then s.spillMade tm else (s, false) := rfl

/-- A spill that fits moves the entries, and writes its area where there are any. -/
theorem spillTeam_of_fits {s : State} {tm : Team} (h : s.spillFits tm = true) :
    MemOnly (s.spilt tm) (s.spillTeam tm).1 ∧ (s.couched tm = [] → (s.spillTeam tm).1 = s.spilt tm) := by
  have hcap : tm.spilled.length + (s.couched tm).length ≤ s.spillCap tm := by
    by_contra hn
    rw [State.spillFits, spillTeam_eq, if_neg hn] at h
    exact Bool.false_ne_true h
  rw [spillTeam_eq, if_pos hcap]
  unfold State.spillMade
  split
  · next l hl =>
    split
    · exact ⟨.refl _, fun _ => rfl⟩
    · next hne => exact ⟨memOnly_areaWrite _ _ _ _ _, fun e => absurd (List.isEmpty_iff.2 e) hne⟩
  · exact ⟨.refl _, fun _ => rfl⟩

theorem couchBuf_setCouch {s : State} (h : srising s.y.couch = true) (core : Nat) (es : List CouchEntry) :
    (s.setCouch core es).couchBuf core = es := sgetD_sputD_self [] core es h

theorem MemOnly.couchBuf {s s' : State} (h : MemOnly s s') (core : Nat) : s'.couchBuf core = s.couchBuf core := by
  obtain ⟨ms, hy⟩ := h.y
  unfold State.couchBuf
  rw [hy]

theorem MemOnly.thread? {s s' : State} (h : MemOnly s s') {u : Nat} {t : Thread} (ht : s.thread? u = some t) :
    ∃ w, s'.thread? u = some { t with wct := w } := by
  obtain ⟨w, hx⟩ := h.x
  refine ⟨w t, ?_⟩
  unfold State.thread? at ht ⊢
  rw [hx]
  show (s.x.threads.map _).find? _ = _
  rw [List.find?_map]
  exact congrArg (Option.map _) ht

theorem MemOnly.flights {s s' : State} (h : MemOnly s s') : s'.x.flights = s.x.flights := by
  obtain ⟨w, hx⟩ := h.x
  rw [hx]

/-- Threads but for what they wait past. -/
theorem MemOnly.threads_eq {s s' : State} (h : MemOnly s s') :
    s'.x.threads.map (fun t => { t with wct := [] }) = s.x.threads.map fun t => { t with wct := [] } := by
  obtain ⟨w, hx⟩ := h.x
  rw [hx]
  exact (List.map_map ..).trans (List.map_congr_left fun _ _ => rfl)

theorem MemOnly.uids {s s' : State} (h : MemOnly s s') : s'.x.threads.map Thread.uid = s.x.threads.map Thread.uid := by
  obtain ⟨w, hx⟩ := h.x
  rw [hx]
  exact (List.map_map ..).trans (List.map_congr_left fun _ _ => rfl)

/-! Abandoning waits -/

/-- From `s` to `s'` only threads and what is in flight have changed. -/
def ThreadsOnly (s s' : State) : Prop := ∃ ts fs, s' = { s with x := { s.x with threads := ts, flights := fs } }

theorem ThreadsOnly.trans {s t u : State} (h : ThreadsOnly s t) (k : ThreadsOnly t u) : ThreadsOnly s u := by
  obtain ⟨ts, fs, rfl⟩ := h
  obtain ⟨ts', fs', rfl⟩ := k
  exact ⟨ts', fs', rfl⟩

theorem threadsOnly_refl (s : State) : ThreadsOnly s s := ⟨_, _, rfl⟩

theorem threadsOnly_finish (s : State) (f : Flight) : ThreadsOnly s (s.finish f) := by
  rw [finish_eq]
  exact ⟨_, _, rfl⟩

/-- The waits of a thread that a pre-emption abandons. -/
def State.abandons (s : State) (t : Thread) : List Flight := s.x.flights.filter fun f => f.thread == t.uid && f.abandoned t

/-- The thread stands at an instruction again. -/
def Thread.backAt (f : Flight) (t : Thread) : Thread :=
  { t with pc := f.site.pc, hdr := f.site.hdr, count := f.site.count, mid := true, status := .boundary }

theorem abandonWaits_of_nil {s : State} {u : Nat} (h : ∀ t, s.thread? u = some t → s.abandons t = []) : s.abandonWaits u = s := by
  unfold State.abandonWaits
  cases ht : s.thread? u with
  | none => rfl
  | some t =>
    have hn := h t ht
    unfold State.abandons at hn
    rw [(thread?_mem ht).2] at hn
    simp [hn]

theorem abandonWaits_of_single {s : State} {t : Thread} {f : Flight} (ht : s.thread? t.uid = some t) (htrap : t.trap = none)
    (h : s.abandons t = [f]) : s.abandonWaits t.uid = (s.finish f).updThread t.uid (Thread.backAt f) := by
  unfold State.abandons at h
  simp only [State.abandonWaits, ht, htrap, h]
  rfl

theorem threadsOnly_abandonWaits (s : State) (u : Nat) : ThreadsOnly s (s.abandonWaits u) := by
  unfold State.abandonWaits
  split
  · exact threadsOnly_refl s
  · split
    · exact threadsOnly_refl s
    · split
      · exact threadsOnly_refl s
      · next f fs _ =>
        have hfold : ThreadsOnly s ((f :: fs).foldl (fun s g => s.finish g) s) :=
          foldl_keeps (P := ThreadsOnly s) _ _ (threadsOnly_refl s) fun b g _ hb => hb.trans (threadsOnly_finish b g)
        exact hfold.trans ⟨_, _, rfl⟩

/-! Leaving the core -/

/-- The threads of a team. -/
def State.teamUids (s : State) (u : Nat) : List Nat := (s.x.threads.filter fun t => t.team == some u).map Thread.uid

/-- The A latch of a team on its core. -/
def State.ownLatch (s : State) (tm : Team) : Option (Nat × List Byte) :=
  match sget s.e.latches tm.core with
  | some (o, k, rows) => if o == tm.uid then some (k, rows) else none
  | none => none

/-- The team as it leaves its core. -/
def Team.saved (tm : Team) (stamp left : Nat) (latch : Option (Nat × List Byte)) (clk : Nat) : Team :=
  { tm with swapped := some stamp, left := left, latch := latch, stopping := false, since := clk }

/-- A team whose waits have been abandoned is no longer on its core; `us` are its threads. -/
def State.offCore (s : State) (tm : Team) (us : List Nat) : State :=
  let s1 : State := { s with
    x := { s.x with nextUid := s.x.nextUid + 1 }
    e := { s.e with
      latches := if (s.ownLatch tm).isSome then sdel s.e.latches tm.core else s.e.latches
      rays := s.e.rays.map fun r => if us.contains r.thread && r.stage == .flying then { r with restart := true } else r } }
  s1.updTeam tm.uid fun t => t.saved s.x.nextUid (s.now (coreDie tm.core)) (s.ownLatch tm) s.x.clk

theorem offCore_thread? (s : State) (tm : Team) (us : List Nat) : (s.offCore tm us).thread? = s.thread? := rfl
theorem offCore_flights (s : State) (tm : Team) (us : List Nat) : (s.offCore tm us).x.flights = s.x.flights := rfl

/-- What the core sends home for a team that has left, and the state that the device writes to its area. -/
def State.sentHome (s : State) (tm : Team) (l? : Option Launch) : State :=
  match l? with
  | none => (s.releaseCore tm.core tm.ctx).1
  | some l => ((s.releaseCore tm.core tm.ctx).1.areaWrite tm.core tm.ctx
      (lrSave l.record + BitVec.ofNat 64 (tm.logical * lrSavesz l.record)) (lrSavesz l.record)).1

theorem memOnly_sentHome (s : State) (tm : Team) (l? : Option Launch) : MemOnly s (s.sentHome tm l?) := by
  unfold State.sentHome
  split
  · exact memOnly_releaseCore _ _ _
  · exact (memOnly_releaseCore _ _ _).trans (memOnly_areaWrite _ _ _ _ _)

theorem threadsOnly_launch? {s a : State} (h : ThreadsOnly s a) : a.launch? = s.launch? := by
  obtain ⟨ts, fs, rfl⟩ := h
  rfl

/-- The waits of a team's threads are abandoned. -/
def State.abandonAll (s : State) (tm : Team) : State := (s.teamUids tm.uid).foldl State.abandonWaits s

theorem threadsOnly_abandonAll (s : State) (tm : Team) : ThreadsOnly s (s.abandonAll tm) :=
  foldl_keeps (P := ThreadsOnly s) _ _ (threadsOnly_refl s) fun b u _ hb => hb.trans (threadsOnly_abandonWaits b u)

theorem saveTeam_eq (s : State) (tm : Team) : s.saveTeam tm =
    ((s.abandonAll tm).offCore tm (s.teamUids tm.uid)).sentHome tm ((s.abandonAll tm).launch? tm.launch) := rfl

/-! PREEMPT_TEAM of a team that is saved alone -/

/-- The state after a team has been spilled and saved. -/
def State.preempted (s : State) (tm : Team) : State := (s.spillTeam tm).1.saveTeam (tm.spilt (s.couched tm))

section
variable {s : State} {tm : Team}

/-- PREEMPT_TEAM of a team whose entries fit. -/
theorem exec_preemptTeam_of_fits {k : Team} (htm : s.team? tm.uid = some tm) (hstop : tm.stopping = true)
    (hone : s.together tm = [tm]) (hsave : s.canSave tm = true) (hfit : s.spillFits tm = true)
    (hk : (s.spillTeam tm).1.team? tm.uid = some k) :
    exec (.preemptTeam tm.uid) s = .next ((s.spillTeam tm).1.saveTeam k) := by
  simp only [exec, execPreemptTeam, htm, hstop, hone, hsave, hfit, hk, List.all_cons, List.all_nil, Bool.and_self, Bool.not_true,
    Bool.or_self, Bool.false_eq_true, if_false, List.foldl_cons, List.foldl_nil]

/-- PREEMPT_TEAM of a team whose entries do not fit. -/
theorem exec_preemptTeam_of_full (htm : s.team? tm.uid = some tm) (hstop : tm.stopping = true) (hone : s.together tm = [tm])
    (hsave : s.canSave tm = true) (hfit : s.spillFits tm = false) : exec (.preemptTeam tm.uid) s = .next (
      if (s.ctx tm.ctx).saved then (s.updTeam tm.uid fun t => { t with stopping := false }).couchTrap tm
      else s.updTeam tm.uid fun t => { t with stopping := false }) := by
  simp only [exec, execPreemptTeam, htm, hstop, hone, hsave, hfit, List.all_cons, List.all_nil, Bool.and_true, Bool.not_true,
    Bool.or_self, Bool.false_eq_true, if_false, if_true, List.foldl_cons, List.foldl_nil, Bool.not_false, List.filter_cons,
    List.filter_nil]

/-- A team's threads are what they were, after a change of memory alone. -/
theorem MemOnly.teamUids {s' : State} (h : MemOnly s s') (u : Nat) : s'.teamUids u = s.teamUids u := by
  obtain ⟨w, hx⟩ := h.x
  unfold State.teamUids
  rw [hx]
  show ((s.x.threads.map _).filter _).map _ = _
  rw [List.filter_map, List.map_map]
  rfl

variable (hfit : s.spillFits tm = true)
include hfit

theorem spillTeam_team? (htm : s.team? tm.uid = some tm) :
    (s.spillTeam tm).1.team? tm.uid = some (tm.spilt (s.couched tm)) := by
  have hm := (spillTeam_of_fits hfit).1
  have hspilt : (s.spilt tm).team? tm.uid = some (tm.spilt (s.couched tm)) := by
    unfold State.spilt
    rw [team?_updTeam (fun _ => by rfl)]
    show (s.team? tm.uid).map _ = _
    rw [htm]
    exact congrArg some (if_pos rfl)
  unfold State.team? at hspilt ⊢
  rwa [hm.teams]

theorem exec_preemptTeam_fits (htm : s.team? tm.uid = some tm) (hstop : tm.stopping = true) (hone : s.together tm = [tm])
    (hsave : s.canSave tm = true) : exec (.preemptTeam tm.uid) s = .next (s.preempted tm) :=
  exec_preemptTeam_of_fits htm hstop hone hsave hfit (spillTeam_team? hfit htm)

omit hfit in
/-- The state of a saved team before its core sends its bytes home. -/
theorem preempted_eq : s.preempted tm =
    (((s.spillTeam tm).1.abandonAll tm).offCore (tm.spilt (s.couched tm)) ((s.spillTeam tm).1.teamUids tm.uid)).sentHome tm
      ((s.spillTeam tm).1.launch? tm.launch) := by
  have hsent (u : State) (l? : Option Launch) : u.sentHome (tm.spilt (s.couched tm)) l? = u.sentHome tm l? := by
    cases l? <;> rfl
  rw [← threadsOnly_launch? (threadsOnly_abandonAll (s.spillTeam tm).1 tm), State.preempted, saveTeam_eq, hsent]
  rfl

omit hfit in
theorem preempted_memOnly : MemOnly (((s.spillTeam tm).1.abandonAll tm).offCore (tm.spilt (s.couched tm))
    ((s.spillTeam tm).1.teamUids tm.uid)) (s.preempted tm) := by
  rw [preempted_eq]
  exact memOnly_sentHome _ _ _

theorem preempted_team? (htm : s.team? tm.uid = some tm) : ∃ stamp left latch clk,
    (s.preempted tm).team? tm.uid = some ((tm.spilt (s.couched tm)).saved stamp left latch clk) := by
  refine ⟨(s.spillTeam tm).1.x.nextUid, (s.spillTeam tm).1.now (coreDie tm.core),
    (s.spillTeam tm).1.ownLatch (tm.spilt (s.couched tm)), (s.spillTeam tm).1.x.clk, ?_⟩
  have hteam := spillTeam_team? hfit htm
  obtain ⟨ts, fs, ha⟩ := threadsOnly_abandonAll (s.spillTeam tm).1 tm
  have hoff : (((s.spillTeam tm).1.abandonAll tm).offCore (tm.spilt (s.couched tm))
      ((s.spillTeam tm).1.teamUids tm.uid)).team? tm.uid = some ((tm.spilt (s.couched tm)).saved (s.spillTeam tm).1.x.nextUid
        ((s.spillTeam tm).1.now (coreDie tm.core)) ((s.spillTeam tm).1.ownLatch (tm.spilt (s.couched tm))) (s.spillTeam tm).1.x.clk) := by
    unfold State.offCore
    rw [ha, team?_updTeam (fun _ => by rfl)]
    show ((s.spillTeam tm).1.team? tm.uid).map _ = _
    rw [hteam]
    exact congrArg some (if_pos rfl)
  unfold State.team? at hoff ⊢
  rw [preempted_memOnly.teams]
  exact hoff

/-- The team's entries have left the core's buffer. -/
theorem preempted_couchBuf (hr : srising s.y.couch = true) :
    (s.preempted tm).couchBuf tm.core = (s.couchBuf tm.core).filter fun e => !e.ofTeam tm := by
  obtain ⟨ts, fs, ha⟩ := threadsOnly_abandonAll (s.spillTeam tm).1 tm
  rw [preempted_memOnly.couchBuf, ha]
  show (s.spillTeam tm).1.couchBuf tm.core = _
  rw [(spillTeam_of_fits hfit).1.couchBuf]
  exact couchBuf_setCouch hr tm.core _

/-- The memory of a saved team: what the core sends home and what the device writes into the save area. -/
theorem preempted_m {l : Launch} (hl : s.launch? tm.launch = some l) : ∃ u : State, u.m = (s.spillTeam tm).1.m ∧ u.h = s.h ∧
    u.freeCtr = (s.spillTeam tm).1.freeCtr ∧ (s.preempted tm).m = ((u.releaseCore tm.core tm.ctx).1.areaWrite tm.core tm.ctx
      (lrSave l.record + BitVec.ofNat 64 (tm.logical * lrSavesz l.record)) (lrSavesz l.record)).1.m := by
  obtain ⟨ts, fs, ha⟩ := threadsOnly_abandonAll (s.spillTeam tm).1 tm
  have hm := (spillTeam_of_fits hfit).1
  obtain ⟨w, hlaunch⟩ := hm.launch? (u := tm.launch) (l := l) hl
  refine ⟨((s.spillTeam tm).1.abandonAll tm).offCore (tm.spilt (s.couched tm)) ((s.spillTeam tm).1.teamUids tm.uid), ?_, ?_, ?_, ?_⟩
  · rw [ha]; rfl
  · rw [ha]; exact hm.h
  · rw [ha]; rfl
  · rw [preempted_eq, hlaunch]
    rfl

omit hfit in
/-- Threads and flights of a saved team's state, where no wait is abandoned. -/
theorem preempted_of_abandonAll (hm : MemOnly (s.spilt tm) (s.spillTeam tm).1)
    (ha : (s.spillTeam tm).1.abandonAll tm = (s.spillTeam tm).1) : (s.preempted tm).x.flights = s.x.flights ∧
      (s.preempted tm).x.threads.map (fun t => { t with wct := [] }) = s.x.threads.map fun t => { t with wct := [] } := by
  have hp : MemOnly ((s.spillTeam tm).1.offCore (tm.spilt (s.couched tm)) ((s.spillTeam tm).1.teamUids tm.uid))
      (s.preempted tm) := by
    have hp := preempted_memOnly (s := s) (tm := tm)
    rwa [ha] at hp
  refine ⟨hp.flights.trans hm.flights, ?_⟩
  rw [hp.threads_eq]
  exact hm.threads_eq

/-- A thread after spilling is one from before, with another write completion time at most. -/
theorem thread_of_spillTeam {u : Thread} (hu : u ∈ (s.spillTeam tm).1.x.threads) :
    ∃ t ∈ s.x.threads, ∃ w, u = { t with wct := w } := by
  obtain ⟨w, hx⟩ := (spillTeam_of_fits hfit).1.x
  rw [hx] at hu
  obtain ⟨t, ht, rfl⟩ := List.mem_map.1 hu
  exact ⟨t, ht, _, rfl⟩

omit hfit in
theorem mem_teamUids {u v : Nat} : v ∈ s.teamUids u ↔ ∃ t ∈ s.x.threads, t.uid = v ∧ t.team = some u := by
  simp [State.teamUids, and_comm, and_left_comm]

/-- Where no wait of the team's threads is abandoned, nothing changes before the team leaves its core. -/
theorem abandonAll_of_quiet (hnd : (s.x.threads.map Thread.uid).Nodup)
    (hq : ∀ t ∈ s.x.threads, t.team = some tm.uid → ∀ f ∈ s.x.flights, f.thread = t.uid → f.abandoned t = false) :
    (s.spillTeam tm).1.abandonAll tm = (s.spillTeam tm).1 := by
  have hm := (spillTeam_of_fits hfit).1
  refine foldl_keeps (P := fun u => u = (s.spillTeam tm).1) _ _ rfl fun b u hu e => ?_
  rw [e]
  rw [hm.teamUids] at hu
  obtain ⟨t', ht', huid', hteam⟩ := mem_teamUids.1 hu
  refine abandonWaits_of_nil fun v hv => List.filter_eq_nil_iff.2 fun f hf hc => ?_
  obtain ⟨hin, hvu⟩ := thread?_mem hv
  obtain ⟨t, ht, w, rfl⟩ := thread_of_spillTeam hfit hin
  obtain rfl := thread_uid_inj hnd ht' ht (hvu.trans huid'.symm)
  rw [hm.flights] at hf
  obtain ⟨hth, hab⟩ := Bool.and_eq_true_iff.1 hc
  exact Bool.false_ne_true ((hq t ht hteam f hf (by simpa using hth)).symm.trans hab)

omit hfit in
/-- The threads of a team that has one. -/
theorem teamUids_of_single {t : Thread} (hnd : (s.x.threads.map Thread.uid).Nodup) (ht : t ∈ s.x.threads)
    (hteam : t.team = some tm.uid) (hone : ∀ u ∈ s.x.threads, u.team = some tm.uid → u = t) : s.teamUids tm.uid = [t.uid] := by
  have hfilter : (s.x.threads.filter fun u => u.team == some tm.uid) = s.x.threads.filter fun u => u.uid == t.uid := by
    refine List.filter_congr fun u hu => ?_
    rw [Bool.eq_iff_iff, beq_iff_eq, beq_iff_eq]
    refine ⟨fun h => by rw [hone u hu h], fun h => ?_⟩
    rw [thread_uid_inj hnd ht hu h]
    exact hteam
  unfold State.teamUids
  rw [hfilter, filter_uid hnd ht]
  rfl

/-- The one wait of a team's one thread is abandoned: the thread is back at the instruction. -/
theorem preempted_abandoned {t : Thread} {f : Flight} (hnd : (s.x.threads.map Thread.uid).Nodup) (ht : s.thread? t.uid = some t)
    (hteam : t.team = some tm.uid) (htrap : t.trap = none) (hone : ∀ u ∈ s.x.threads, u.team = some tm.uid → u = t)
    (hf : (s.x.flights.filter fun g => g.thread == t.uid) = [f]) (hab : f.abandoned t = true) :
    ∃ u, (s.preempted tm).thread? t.uid = some u ∧ u.pc = f.site.pc ∧ u.hdr = f.site.hdr ∧ u.mid = true ∧
      u.status = .boundary ∧ u.v = t.v ∧ u.p = t.p ∧ f ∉ (s.preempted tm).x.flights := by
  have hm := (spillTeam_of_fits hfit).1
  obtain ⟨w, hv⟩ := hm.thread? (u := t.uid) (t := t) ht
  have hwaits : (s.spillTeam tm).1.abandons { t with wct := w } = [f] := by
    unfold State.abandons
    rw [hm.flights]
    show ((s.x.flights.filter fun g => g.thread == t.uid && g.abandoned t)) = [f]
    rw [List.filter_congr fun g _ => Bool.and_comm (g.thread == t.uid) (g.abandoned t), ← List.filter_filter, hf]
    exact List.filter_cons_of_pos hab
  have hall : (s.spillTeam tm).1.abandonAll tm = ((s.spillTeam tm).1.finish f).updThread t.uid (Thread.backAt f) := by
    unfold State.abandonAll
    rw [hm.teamUids, show (s.spilt tm).teamUids tm.uid = s.teamUids tm.uid from rfl,
      teamUids_of_single hnd (thread?_mem ht).1 hteam hone]
    exact abandonWaits_of_single (t := { t with wct := w }) hv htrap hwaits
  have hback : (((s.spillTeam tm).1.abandonAll tm).offCore (tm.spilt (s.couched tm))
      ((s.spillTeam tm).1.teamUids tm.uid)).thread? t.uid = some ((f.counted { t with wct := w }).backAt f) := by
    rw [offCore_thread?, hall, thread?_updThread (fun _ => by rfl), finish_thread?, hv]
    exact congrArg some (if_pos rfl)
  obtain ⟨w', hlast⟩ := preempted_memOnly.thread? hback
  refine ⟨_, hlast, rfl, rfl, rfl, rfl, counted_v _ _, counted_p _ _, fun hin => ?_⟩
  rw [preempted_memOnly.flights, offCore_flights, hall, finish_eq] at hin
  exact absurd (List.mem_filter.1 hin).2 (by simp)

end

/-! A spill that does not fit -/

/-- The report of COUCH_SPILL_FULL, about a team's spill area. -/
def State.spillReport (s : State) (l : Launch) (tm : Team) : BitVec 512 :=
  mkReport (((s.x.threads.find? fun u => u.team == some tm.uid && u.tix == 0).map Thread.name).getD 0#128) 0#64
    (lrSpill l.record + BitVec.ofNat 64 (tm.logical * 32 * lrSpilln l.record)) 0#64 (s.now (coreDie tm.core))
    (Cause.of .couchSpillFull) tm.core 0 0 0 tm.ctx 0 false (BitVec.ofNat 32 tm.logical) 0

/-- COUCH_SPILL_FULL reaches a launch with a trap handler. -/
theorem couchTrap_of_handler {s : State} {tm : Team} {l : Launch} (hl : s.launch? tm.launch = some l) (hst : tm.spillTrap = false)
    (hh : lrTraph l.record ≠ 0#64) (hfr : (s.ctx l.ctx).frozen = false) : s.couchTrap tm =
      (s.updTeam tm.uid fun t => { t with spillTrap := true }).updLaunch tm.launch fun k =>
        { k with traps := k.traps ++ [s.spillReport l tm] } := by
  have hl' : (s.updTeam tm.uid fun t => { t with spillTrap := true }).launch? tm.launch = some l := hl
  have hfr' : ((s.updTeam tm.uid fun t => { t with spillTrap := true }).ctx l.ctx).frozen = false := hfr
  unfold State.couchTrap
  simp only [hst, hl, Bool.false_eq_true, if_false]
  unfold State.launchTrap
  simp only [hl', hfr', beq_eq_false_iff_ne.2 hh, Bool.false_eq_true, if_false]
  rfl

/-- The launch holds the report. -/
theorem couchTrap_launch? {s : State} {tm : Team} {l : Launch} (hl : s.launch? tm.launch = some l) (hst : tm.spillTrap = false)
    (hh : lrTraph l.record ≠ 0#64) (hfr : (s.ctx l.ctx).frozen = false) : (s.couchTrap tm).launch? tm.launch =
      some { l with traps := l.traps ++ [s.spillReport l tm] } := by
  rw [couchTrap_of_handler hl hst hh hfr, launch?_updLaunch (fun _ => by rfl)]
  show (s.launch? tm.launch).map _ = _
  rw [hl]
  exact congrArg some (if_pos rfl)

end Sys2Proof.Machine

namespace Sys2Proof

open Machine

/-- R253, R322, R385, R387: what PREEMPT_TEAM does for a team whose couched entries fit their spill area. -/
theorem preemptTeam_fits {s : State} {tm : Team} (htm : s.team? tm.uid = some tm) (hnd : (s.x.threads.map Thread.uid).Nodup)
    (hstop : tm.stopping = true) (hone : s.together tm = [tm]) (hsave : s.canSave tm = true) (hfit : s.spillFits tm = true) :
    ∃ s' k, exec (.preemptTeam tm.uid) s = .next s' ∧ s'.team? tm.uid = some k ∧
      k.swapped.isSome = true ∧ k.stopping = false ∧ k.w = tm.w ∧ k.k = tm.k ∧ k.d = tm.d ∧ k.tiles = tm.tiles ∧
      k.spad = tm.spad ∧ k.core = tm.core ∧
      k.spilled = couchSort (tm.spilled ++ couchSort ((s.couchBuf tm.core).filter fun e => e.ofTeam tm)) ∧
      (srising s.y.couch = true → ∀ e ∈ s'.couchBuf tm.core, e.ofTeam tm = false) ∧
      (((s.couchBuf tm.core).filter fun e => e.ofTeam tm) = [] → (s.spillTeam tm).1.m = s.m) ∧
      (∀ l, s.launch? tm.launch = some l → ∃ u : State, u.m = (s.spillTeam tm).1.m ∧ u.h = s.h ∧
        u.freeCtr = (s.spillTeam tm).1.freeCtr ∧ s'.m = ((u.releaseCore tm.core tm.ctx).1.areaWrite tm.core tm.ctx (lrSave l.record +
        BitVec.ofNat 64 (tm.logical * lrSavesz l.record)) (lrSavesz l.record)).1.m) ∧
      ((∀ t ∈ s.x.threads, t.team = some tm.uid → ∀ f ∈ s.x.flights, f.thread = t.uid → f.abandoned t = false) →
        s'.x.flights = s.x.flights ∧
          s'.x.threads.map (fun t => { t with wct := [] }) = s.x.threads.map fun t => { t with wct := [] }) ∧
      ∀ t f, s.thread? t.uid = some t → t.team = some tm.uid → t.trap = none → (∀ u ∈ s.x.threads, u.team = some tm.uid → u = t) →
        (s.x.flights.filter fun g => g.thread == t.uid) = [f] → f.abandoned t = true →
        ∃ u, s'.thread? t.uid = some u ∧ u.pc = f.site.pc ∧ u.hdr = f.site.hdr ∧ u.mid = true ∧ u.status = .boundary ∧
          u.v = t.v ∧ u.p = t.p ∧ f ∉ s'.x.flights := by
  obtain ⟨stamp, left, latch, clk, hteam⟩ := preempted_team? hfit htm
  refine ⟨s.preempted tm, _, exec_preemptTeam_fits hfit htm hstop hone hsave, hteam, rfl, rfl, rfl, rfl, rfl, rfl, rfl, rfl, rfl,
    fun hr e he => ?_, fun hnone => ?_, fun l hl => preempted_m hfit hl, fun hq => ?_,
    fun t f ht hin htrap hsolo hf hab => preempted_abandoned hfit hnd ht hin htrap hsolo hf hab⟩
  · rw [preempted_couchBuf hfit hr] at he
    simpa using (List.mem_filter.1 he).2
  · rw [(spillTeam_of_fits hfit).2 (by unfold State.couched; rw [hnone]; rfl)]
    rfl
  · exact preempted_of_abandonAll (spillTeam_of_fits hfit).1 (abandonAll_of_quiet hfit hnd hq)

/-- Settles O47: PREEMPT_TEAM and RESTORE_TEAM are taken apart into the spill, the abandoned waits, what the core sends home and
the areas that are written, and the moves of the team's groups. That state is kept outside memory while the device writes free
bytes into its areas is the model's (logs 9, 47), so is that the dirty bytes of the context go home at a save (log 75), and what a
save abandons and in what order teams are restored (log 54). -/
theorem saveAndRestore : Obligations.SaveAndRestore := by
  refine ⟨fun s tm htm _ hnd hstop hone hsave => ⟨fun hfit => preemptTeam_fits htm hnd hstop hone hsave hfit,
    fun hfit hsaved => ?_, fun hfit hsaved hst l hl hh hfr => ?_⟩, fun s core ctx len q p σ hwf hown => ?_,
    fun s u core h => exec_restoreTeam_refused h, fun s tm core htm _ hr hf hb hcoop hu hk hquiet => ?_⟩
  · rw [exec_preemptTeam_of_full htm hstop hone hsave hfit, hsaved]
    rfl
  · have hrun : exec (.preemptTeam tm.uid) s =
        .next ((s.updTeam tm.uid fun t => { t with stopping := false }).couchTrap tm) := by
      rw [exec_preemptTeam_of_full htm hstop hone hsave hfit, hsaved]
      rfl
    have heq := couchTrap_of_handler (s := s.updTeam tm.uid fun t => { t with stopping := false }) hl hst hh hfr
    exact ⟨_, _, _, hrun, couchTrap_launch? hl hst hh hfr, rfl, reportCode_mkReport .., by rw [heq]; rfl, by rw [heq]; rfl⟩
  · intro bs put h0 hstep
    have hput (k : Nat) (b : Nat × Byte) (hb : bs[k]? = some b) : σ (k + 1) = (σ k).areaPut core ctx p b := hstep k b hb
    have hwrite : s.areaWrite core ctx p len = (σ bs.length, s.freeCtr) := by
      have hfold := foldl_named (f := State.areaPut core ctx p) σ bs 0 fun k b hb => by simpa using hput k b hb
      rw [Nat.zero_add, h0] at hfold
      rw [areaWrite_eq]
      exact congrArg (·, s.freeCtr) hfold
    refine ⟨hwrite, fun hq => ?_⟩
    rw [hwrite]
    have hwf0 : (σ 0).Wf := by rw [h0]; exact hwf
    have hown0 : (σ 0).Ownerless := by rw [h0]; exact hown
    rw [(homeKept_areaPuts σ bs hwf0 hown0 hput hq bs.length le_rfl).byte, h0]
    rfl
  · refine ⟨s.takeUp tm core, tm.restored core s.x.clk, ?_, takeUp_team htm hu, rfl, rfl, rfl, rfl, rfl, rfl, rfl, rfl, rfl,
      fun g hg => takeUp_group hu hg, fun t ht => takeUp_thread hu ht, fun t ht => takeUp_other hu ht⟩
    rw [exec_restoreTeam htm hr hf hb hcoop, restoreOn_of_quiet htm hu hk hquiet]

end Sys2Proof
end

/-! The operations on memory keep its canonical form (O23). -/

section

namespace Sys2Proof

open Machine

/-- Settles O23: each operation keeps the canonical form by the lemma that says so; the form is the model's own (log 1). -/
theorem canonicalMemory : Obligations.CanonicalMemory := by
  refine ⟨reset_wf, fun s hs => ⟨fun pa b => ⟨wf_setDram pa b hs, dramByte_setDram hs pa b⟩,
    fun l g hg => wf_updHome l g hs (hg _ (wf_lineWf hs l)), fun pa p => wf_setPoison pa p hs,
    fun ctx tensor pa bs bad => wf_writeHome ctx tensor pa bs bad hs,
    fun core ctx tensor atHome pa n => wf_loadCore core ctx tensor atHome pa n hs,
    fun core ctx tensor pa bs hb => wf_storeLocal core ctx tensor pa bs hs hb,
    fun core ctx tensor pa n g bad hb => wf_rmwHome core ctx tensor pa n g bad hs hb⟩⟩

end Sys2Proof
end

/-! A core that reads what it stored (O20): the first clause fails where one context has two copies of a line in one L1. -/

section

namespace Sys2Proof.Machine

/-- Two copies of line 0 in one L1 and of one context: the second owns the line and masks its byte 10. -/
def doubledCopies : List Copy :=
  [⟨.l1 0, 0, 0, 0#12, 0, [], [], 0, none⟩, ⟨.l1 0, 0, 0, 0#12, 0, [], [(10, 5#8)], 0, some 0⟩]

/-- The reset state with `doubledCopies`, whose home records core 0 as the owner of the line. -/
def doubledState : State :=
  { State.reset with m := { State.reset.m with
      copies := doubledCopies
      home := [(0, ⟨some 0, 0#12, [], 0, 0, 0, some 0⟩)] } }

/-- A load of byte 10 recalls the owner, so that it reads the byte masked in the second copy. -/
theorem doubledState_load : (doubledState.loadCore 0 0 0#12 false 10 1).2.bytes[0]? = some 5#8 := by decide

/-- A store of byte 0 puts one copy in the place of both, so that the byte masked in the second one is lost. -/
theorem doubledState_load_of_store :
    ((doubledState.storeLocal 0 0 0#12 0 [1#8]).loadCore 0 0 0#12 false 10 1).2.bytes[0]? = some 0#8 := by decide

end Sys2Proof.Machine

namespace Sys2Proof

open Machine

/-- Refutes O20: its first clause bounds no copies. In `doubledState` core 0 holds two copies of line 0 for context 0; its store of
byte 0 replaces both, and with them byte 10, which a load read before. -/
theorem not_memoryAtHome : ¬ Obligations.MemoryAtHome := by
  rintro ⟨hload, -⟩
  have hstored := hload doubledState 0 0 0#12 0 10 1 0 [1#8] (by decide) (by decide) (by decide) (by decide) (.inl (by decide))
  rw [doubledState_load, doubledState_load_of_store] at hstored
  exact absurd hstored (by decide)

end Sys2Proof
end

/-! What the issue of a memory word turns on: what raises no code, and what the checks of R201 answer for a plain thread. -/

section

namespace Sys2Proof.Machine

/-! What raises no code -/

/-- The codes of threads depend on the threads alone. -/
theorem calm_of_threads {s s' : State} (h : s.calm) (hx : s'.x.threads = s.x.threads) : s'.calm := fun t ht => h t (hx ▸ ht)

theorem MemOnly.calm {s s' : State} (h : MemOnly s s') (hc : s.calm) : s'.calm := by
  obtain ⟨w, hx⟩ := h.x
  intro t ht
  rw [hx] at ht
  obtain ⟨u, hu, rfl⟩ := List.mem_map.1 ht
  exact hc u hu

theorem MemOnly.teamOf {s s' : State} (h : MemOnly s s') (t : Thread) : s'.teamOf t = s.teamOf t := by
  unfold State.teamOf State.team?
  rw [h.teams]

theorem memOnly_threadCheck (s : State) (t : Thread) (p : DWord) (n : Nat) (modifies tags : Bool) (tensor : BitVec 12)
    (scope : Nat) : MemOnly s (s.threadCheck t p n modifies tags tensor scope).1 := by
  have h := memOnly_pageCheck s t.core (some (t.slice, t.lane)) t.ctx p n modifies false tags tensor scope
  unfold State.threadCheck
  split
  next heq =>
    rw [heq] at h
    split <;> exact h
  · exact h

theorem memOnly_of_pageCheck {s s1 : State} {core : Nat} {lane : Option (Nat × Nat)} {ctx : Nat} {p : DWord} {n : Nat}
    {modifies exec tags : Bool} {tensor : BitVec 12} {scope : Nat} {r : Chk}
    (h : s.pageCheck core lane ctx p n modifies exec tags tensor scope = (s1, r)) : MemOnly s s1 := by
  have hm := memOnly_pageCheck s core lane ctx p n modifies exec tags tensor scope
  rwa [h] at hm

theorem memOnly_of_threadCheck {s s1 : State} {t : Thread} {p : DWord} {n : Nat} {modifies tags : Bool} {tensor : BitVec 12}
    {scope : Nat} {r : Chk} (h : s.threadCheck t p n modifies tags tensor scope = (s1, r)) : MemOnly s s1 := by
  have hm := memOnly_threadCheck s t p n modifies tags tensor scope
  rwa [h] at hm

theorem memOnly_physStore (s : State) (pa : Nat) (bs : List Byte) : MemOnly s (s.physStore pa bs).1 := by
  unfold State.physStore
  split
  · refine MemOnly.foldl_fst _ (s, 0) fun a p => ?_
    exact ((memOnly_recall _ _).trans (memOnly_mergeHome _ _ _ _ _ _)).trans (memOnly_wakeLine _ _ _)
  · rfl

/-- A record that enters a ring raises no code. -/
theorem calm_pushRecord {s : State} (h : s.calm) (r : BitVec 512) : (s.pushRecord r).calm := by
  unfold State.pushRecord
  dsimp only
  split
  · exact h
  · exact calm_of_threads ((memOnly_physStore s _ _).calm h) rfl

theorem calm_emit {s : State} (h : s.calm) (u : Nat) (rs : List (BitVec 512)) : (s.emit u rs).calm := by
  unfold State.emit
  split
  · exact calm_updThread h fun _ => rfl
  · exact foldl_keeps (P := State.calm) rs s h fun s r _ hs => calm_pushRecord hs r

theorem calm_recordWrite {s : State} (h : s.calm) (t : Thread) (event : Nat) (va : DWord) (bs : List Byte) :
    (s.recordWrite t event va bs).calm := by
  unfold State.recordWrite State.recordEvent
  split_ifs
  · exact h
  · exact calm_emit h _ _
  · exact h

theorem calm_recordStore {s : State} (h : s.calm) (t : Thread) (a : Acc) (bs : List Byte) : (s.recordStore t a bs).calm := by
  unfold State.recordStore
  split
  · exact h
  · exact calm_recordWrite h _ _ _ _

theorem calm_recordAtom {s : State} (h : s.calm) (t : Thread) (event : Nat) (a : Acc) (bs : List Byte) :
    (s.recordAtom t event a bs).calm := by
  unfold State.recordAtom
  split
  · exact h
  · exact calm_recordWrite h _ _ _ _

theorem streamAdd_threads (s : State) (t : Thread) (ord : Nat) (va : DWord) (w : Nat) (bs : List Byte) :
    (s.streamAdd t ord va w bs).x.threads = s.x.threads := by
  unfold State.streamAdd
  split
  · split <;> rfl
  · rfl

theorem calm_streamAdd {s : State} (h : s.calm) (t : Thread) (ord : Nat) (va : DWord) (w : Nat) (bs : List Byte) :
    (s.streamAdd t ord va w bs).calm := calm_of_threads h (streamAdd_threads s t ord va w bs)

theorem calm_retainLoad {s : State} (h : s.calm) (t : Thread) (va : DWord) : (s.retainLoad t va).calm := by
  unfold State.retainLoad State.retain
  split
  · refine calm_updThread h fun u => ?_
    split
    · rfl
    · split
      · rfl
      · split <;> rfl
  · exact h

/-! Plain threads -/

theorem State.plain.isReplay {s : State} {t : Thread} (h : s.plain t) : t.isReplay = false := by
  simp [Thread.isReplay, h.1]

theorem State.plain.isNamed {s : State} {t : Thread} (h : s.plain t) : t.isNamed = false := by
  simp [Thread.isNamed, h.1]

theorem State.plain.isolates {s : State} {t : Thread} (h : s.plain t) : s.isolates t = false := by
  obtain ⟨hk, -, tm, htm, hsh⟩ := h
  simp [State.isolates, Thread.isReplay, hk, htm, hsh]

theorem State.plain.inShadow {s : State} {t : Thread} (h : s.plain t) : s.inShadow t = none := by
  obtain ⟨-, -, tm, htm, hsh⟩ := h
  simp [State.inShadow, htm, hsh]

theorem State.plain.team {s : State} {t : Thread} (h : s.plain t) : t.team.isSome = true := by
  obtain ⟨-, -, tm, htm, -⟩ := h
  obtain ⟨u, hu, -⟩ := Option.bind_eq_some_iff.1 htm
  simp [hu]

theorem State.plain.quiet {s : State} {t : Thread} (h : s.plain t) : t.quiet = false := by
  simp [Thread.quiet, h.isReplay, h.2.1]

/-- A thread that is plain stays so where only memory changes. -/
theorem State.plain.memOnly {s s' : State} {t : Thread} (h : s.plain t) (hm : MemOnly s s') : s'.plain t := by
  obtain ⟨hk, hh, tm, htm, hsh⟩ := h
  exact ⟨hk, hh, tm, by rw [hm.teamOf]; exact htm, hsh⟩

/-- A team that is not isolated has set no tag of its own. -/
theorem ownTagFits_of_isolates {s : State} {t : Thread} (h : s.isolates t = false) (p : DWord) : s.ownTagFits t p = false := by
  simp [State.ownTagFits, State.tagKept, h]

theorem ownTag_of_isolates {s : State} {t : Thread} (h : s.isolates t = false) (a : Acc) : s.ownTag t a = a := by
  simp [State.ownTag, ownTagFits_of_isolates h]

/-- Every part of a list of runs that lies in a thread's block lies there. -/
theorem inBlocks_sub {t : Thread} {r1 r2 : List (VReg × Nat)} (h : t.inBlocks r1 = true) (hs : ∀ p ∈ r2, p ∈ r1) :
    t.inBlocks r2 = true := by
  unfold Thread.inBlocks at *
  rw [List.all_eq_true] at *
  exact fun p hp => h p (hs p hp)

/-! What the checks of R201 answer -/

theorem alignTo_ok {p : DWord} {n : Nat} (h : p.toNat % n = 0) : alignTo p n = .ok () := by simp [alignTo, h]

theorem alignTo_error {p : DWord} {n : Nat} (h : p.toNat % n ≠ 0) : alignTo p n = .error (Cause.at .align p) := by
  simp [alignTo, h]

section
variable {s s1 : State} {t : Thread} {p : DWord} {n : Nat} {modifies reads : Bool} {tensor : BitVec 12} {scope : Nat} {a : Acc}

/-- An access that the checks allow goes on. -/
theorem access_checked (hp : s.plain t) (h : s.checked t p n modifies reads tensor scope s1 a) (code : Nat)
    (k : State → Acc → Res State) : s.access t p n modifies reads true tensor scope code k = k s1 a := by
  obtain ⟨-, hcheck, hpoison, hhost⟩ := h
  have hm := memOnly_of_threadCheck hcheck
  have hseen : (reads && s1.poisonSeen t.core t.ctx a.pa n a.atHome) = false := by
    cases hr : reads with
    | false => rfl
    | true => exact hpoison hr
  unfold State.access
  simp [ownTagFits_of_isolates hp.isolates, hcheck, ownTag_of_isolates (hp.memOnly hm).isolates, hseen, hhost]

theorem State.checked.memOnly (h : s.checked t p n modifies reads tensor scope s1 a) : MemOnly s s1 :=
  memOnly_of_threadCheck h.2.1

/-- An access that the pages refuse raises the code of the check. -/
theorem access_code (hp : s.plain t) {c : Code} (h : s.threadCheck t p n modifies true tensor scope = (s1, .code c)) (code : Nat)
    (k : State → Acc → Res State) : s.access t p n modifies reads true tensor scope code k = .error (Cause.at c p) := by
  unfold State.access
  simp [ownTagFits_of_isolates hp.isolates, h]

/-- An access of a page that has no translation meets a page fault. -/
theorem access_fault (hp : s.plain t) {c : PfCause} (h : s.threadCheck t p n modifies true tensor scope = (s1, .fault c))
    (code : Nat) (k : State → Acc → Res State) :
    s.access t p n modifies reads true tensor scope code k = s1.parkPage t p c code := by
  unfold State.access
  simp [ownTagFits_of_isolates hp.isolates, h]

end

end Sys2Proof.Machine
end

/-! Scratchpad, tag and descriptor words at issue (O17). -/

section

namespace Sys2Proof.Machine

/-- What a word answers that acts on one thread alone. -/
theorem next_lanes_solo {s s' : State} {g : Grd} {t : Thread} {runs : List (VReg × Nat)} {f : State → Thread → Res State}
    (hs : s.solo g t) (hb : t.inBlocks runs = true) (hf : f s t = .ok s') (hc : s'.calm) :
    (Host.Outcome.next (s.lanes g runs f) : Out) = .next s' := congrArg Host.Outcome.next (lanes_solo hs hb hf hc)

section
variable {s : State} {t : Thread} {tm k : Team} {a : Word} {n o : Nat}

/-! Where a scratchpad access lands -/

theorem alignTo_zeroExtend (h : a.toNat % n = 0) : alignTo (a.zeroExtend 64) n = .ok () :=
  alignTo_ok (by rw [show (a.zeroExtend 64).toNat = a.toNat from by simp; omega]; exact h)

theorem spadOwn_ok (htm : s.teamOf t = some tm) (ha : a.toNat % n = 0) (hn : a.toNat + n ≤ tm.ssize) :
    s.spadOwn t a n = .ok (tm, a.toNat) := by
  unfold State.spadOwn
  simp [alignTo_zeroExtend ha, htm, Nat.not_lt.2 hn, bind, Except.bind]

theorem spadCluster_ok (htm : s.teamOf t = some tm) (ha : a.toNat % n = 0) (hk : s.rankTeam tm (a.toNat / 2 ^ 24) = some k)
    (hn : a.toNat % 2 ^ 24 + n ≤ k.ssize) : s.spadCluster t a n = .ok (k, a.toNat % 2 ^ 24) := by
  unfold State.spadCluster
  simp only [alignTo_zeroExtend ha, htm, Option.bind_some, hk, Nat.not_lt.2 hn, bind, Except.bind, if_false]

/-- Only a replay keeps what it stores to other ranks. -/
theorem rankGone_none (h : t.isReplay = false) (a : Word) (n : Nat) : s.rankGone t a n = none := by
  unfold State.rankGone
  split <;> simp [h]

/-- A scratchpad access whose lines are present, and that reads no poison, goes on. -/
theorem spadGate_go {reads : Bool} (habsent : s.absentLine tm o n = none) (hpoison : reads = true → tm.spadPoison o n = false)
    (ea : DWord) (go : State) : s.spadGate t tm ea o n reads go = go := by
  unfold State.spadGate
  cases reads with
  | false => simp [habsent]
  | true => simp [habsent, hpoison rfl]

end

section
variable {s : State} {t : Thread} {tm k : Team} {c : Ctl} {w : Width} {d addr : VReg} {off : BitVec 14} {sc : BitVec 3}
  (hs : s.solo c.grd t) (hc : s.calm) (htm : s.teamOf t = some tm) (hb : t.inBlocks [(addr, 1), (d, widthRegs w)] = true)
  (ha : (spadAddr t addr off).toNat % widthBytes w = 0)
include hs hc htm hb ha

/-! LDS and STS of the team's own scratchpad -/

section
variable (hn : (spadAddr t addr off).toNat + widthBytes w ≤ tm.ssize)
  (habsent : s.absentLine tm (spadAddr t addr off).toNat (widthBytes w) = none)
include hn habsent

theorem exec_lds_go (sx : Bool) (hpoison : tm.spadPoison (spadAddr t addr off).toNat (widthBytes w) = false) :
    exec (.lds c w sx d addr off sc) s = .next (s.launchFlight t c
      (.loadS tm.uid (spadAddr t addr off).toNat ((spadAddr t addr off).zeroExtend 64) w sx d.toNat [])) := by
  refine next_lanes_solo hs hb ?_ (calm_launchFlight hc _ _ _)
  simp only [spadOwn_ok htm ha hn, spadGate_go habsent fun _ => hpoison, bind, Except.bind]

theorem exec_sts_go : exec (.sts c w d addr off sc) s = .next (s.launchFlight t c
    (.storeS tm.uid (spadAddr t addr off).toNat (regBytes t d.toNat (widthBytes w)) 1)) := by
  refine next_lanes_solo hs hb ?_ (calm_launchFlight hc _ _ _)
  simp only [spadOwn_ok htm ha hn, spadGate_go (reads := false) habsent (nomatch ·), bind, Except.bind]

end

/-! LDC and STC of a rank of the cluster -/

section
variable (hr : t.isReplay = false) (hk : s.rankTeam tm ((spadAddr t addr off).toNat / 2 ^ 24) = some k)
  (hn : (spadAddr t addr off).toNat % 2 ^ 24 + widthBytes w ≤ k.ssize)
  (habsent : s.absentLine k ((spadAddr t addr off).toNat % 2 ^ 24) (widthBytes w) = none)
include hr hk hn habsent

theorem exec_ldc_go (sx : Bool) (hpoison : k.spadPoison ((spadAddr t addr off).toNat % 2 ^ 24) (widthBytes w) = false) :
    exec (.ldc c w sx d addr off sc) s = .next (s.launchFlight t c
      (.loadS k.uid ((spadAddr t addr off).toNat % 2 ^ 24) ((spadAddr t addr off).zeroExtend 64) w sx d.toNat [])) := by
  refine next_lanes_solo hs hb ?_ (calm_launchFlight hc _ _ _)
  simp only [rankGone_none hr, spadCluster_ok htm ha hk hn, spadGate_go habsent fun _ => hpoison, bind, Except.bind]

theorem exec_stc_go : exec (.stc c w d addr off sc) s = .next (s.launchFlight t c
    (.storeS k.uid ((spadAddr t addr off).toNat % 2 ^ 24) (regBytes t d.toNat (widthBytes w))
      (if t.team = some k.uid then 1 else 8 + sc.toNat))) := by
  refine next_lanes_solo hs hb ?_ (calm_launchFlight hc _ _ _)
  simp only [rankGone_none hr, spadCluster_ok htm ha hk hn, spadGate_go (reads := false) habsent (nomatch ·), bind, Except.bind,
    beq_iff_eq]

end

end

/-! TAGST and TAGLD: the lane's checks -/

section
variable {s s1 : State} {t : Thread} {p : DWord} {modifies : Bool} {a : Acc}

/-- The sector of a tag word whose page allows it, and whose bytes no copy has locked, goes on. -/
theorem tagLane_go (h : s.pageCheck t.core (some (t.slice, t.lane)) t.ctx p 1 modifies false false 0#12 1 = (s1, .go a))
    (hlock : s1.locked t.ctx (ptrVa p / 64 * 64) 64 modifies = false)
    (hpoison : modifies = false → s1.poisonSeen t.core t.ctx a.pa 1 true = false) (k : State → Acc → Res State) :
    s.tagLane t p modifies k = k s1 a := by
  have hseen : (!modifies && s1.poisonSeen t.core t.ctx a.pa 1 true) = false := by
    cases modifies with
    | true => rfl
    | false => exact hpoison rfl
  unfold State.tagLane
  simp only [h, hlock, hseen, Bool.false_eq_true, if_false]

end

end Sys2Proof.Machine

namespace Sys2Proof

open Machine

/-- Settles O17: LDS, STS, LDC and STC by where their range lands and the gate at its lines; TAGST and TAGLD by their lane's checks;
DQRY by its source. -/
theorem scratchpadAndTagIssue : Obligations.ScratchpadAndTagIssue := by
  refine ⟨fun s t tm k c w sx d addr off sc hs hc htm hr hb ha => ⟨fun hn habsent => ?_, fun hk hn habsent => ?_⟩,
    fun s s1 t tm c d addr dn b off sc a hs hc htm => ⟨fun modifies hb hpage hlock => ⟨fun hm => ?_, fun hm hpoison => ?_⟩,
      fun hb y hy hle => ?_⟩⟩
  · exact ⟨exec_lds_go hs hc htm hb ha hn habsent sx, exec_sts_go hs hc htm hb ha hn habsent⟩
  · exact ⟨exec_ldc_go hs hc htm hb ha hr hk hn habsent sx, exec_stc_go hs hc htm hb ha hr hk hn habsent⟩
  · subst hm
    exact next_lanes_solo hs hb (tagLane_go hpage hlock (nomatch ·) _) (calm_launchFlight ((memOnly_of_pageCheck hpage).calm hc) _ _ _)
  · subst hm
    exact next_lanes_solo hs hb (tagLane_go hpage hlock (fun _ => hpoison) _) (calm_launchFlight ((memOnly_of_pageCheck hpage).calm hc) _ _ _)
  · refine next_lanes_solo hs hb ?_ (calm_launchFlight hc _ _ _)
    simp only [hy, htm, Nat.not_lt.2 hle, bind, Except.bind, if_false]

end Sys2Proof
end

/-! What a word leaves whose one thread raises a code: the thread with its trap, and everything else as it was. -/

section

namespace Sys2Proof.Machine

theorem mem_insertPos {u t : Thread} : ∀ {ts : List Thread}, u ∈ insertPos t ts ↔ u = t ∨ u ∈ ts
  | [] => by simp [insertPos]
  | v :: r => by
    have ih := mem_insertPos (u := u) (t := t) (ts := r)
    unfold insertPos
    split
    · exact List.mem_cons
    · rw [List.mem_cons, ih, List.mem_cons]
      exact or_left_comm

theorem mem_sortPos {u : Thread} : ∀ {ts : List Thread}, u ∈ sortPos ts ↔ u ∈ ts
  | [] => Iff.rfl
  | t :: r => by
    have ih := mem_sortPos (u := u) (ts := r)
    show u ∈ insertPos t (sortPos r) ↔ _
    rw [mem_insertPos, ih, List.mem_cons]

/-- From `s` to `s'` the thread has raised the code, which has been or will be delivered, with its registers kept; nothing is in flight,
teams and memory stay, and so does the rest where the code freezes no context. -/
structure Raising (s s' : State) (t : Thread) (c : Cause) : Prop where
  uids : ∃ u ∈ s'.x.threads, u.uid = t.uid
  threads : ∀ u ∈ s'.x.threads, u.uid = t.uid → u.v = t.v ∧ ∃ r, u.trap = some r ∧ r.report = s.reportOf t t.site c
  live : ∀ u ∈ s'.x.threads, u.uid = t.uid → u.status ≠ .exited
  flights : s'.x.flights = []
  teams : s'.x.teams = s.x.teams
  m : s'.m = s.m
  d : c.code.freezing = false → s'.d = s.d

/-- The thread of a code that has been raised. -/
theorem Raising.thread? {s s' : State} {t : Thread} {c : Cause} (h : Raising s s' t c) :
    ∃ t' r, s'.thread? t.uid = some t' ∧ t'.v = t.v ∧ t'.trap = some r ∧ reportCode r.report = c.code.val := by
  obtain ⟨u, hu, huid⟩ := h.uids
  have hsome : (s'.thread? t.uid).isSome = true := List.find?_isSome.2 ⟨u, hu, beq_iff_eq.2 huid⟩
  obtain ⟨t', ht'⟩ := Option.isSome_iff_exists.1 hsome
  obtain ⟨hmem, htu⟩ := thread?_mem ht'
  obtain ⟨hv, r, hr, hrep⟩ := h.threads t' hmem htu
  exact ⟨t', r, ht', hv, hr, by rw [hrep]; exact reportCode_mkReport ..⟩

/-- The thread as it stands with the code. -/
def State.raising (s : State) (t : Thread) (c : Cause) : Thread :=
  { t with trap := some ⟨s.reportOf t t.site c, t.site.fall, none, c.code.freezing, false, true, 0⟩ }

theorem trapped_of_trap_none {s : State} {t : Thread} (h : t.trap = none) (c : Cause) : s.trapped t c = s.raising t c := by
  simp [State.trapped, Thread.trapAt, State.raising, h]

section
variable {s s' : State} {t : Thread} {c : Cause}

/-- A change of the threads alone that leaves registers and reports. -/
theorem Raising.updThread (h : Raising s s' t c) {f : Thread → Thread} (huid : ∀ u, (f u).uid = u.uid) (hv : ∀ u, (f u).v = u.v)
    (htrap : ∀ u r, u.trap = some r → ∃ r', (f u).trap = some r' ∧ r'.report = r.report)
    (hlive : ∀ u, u.status ≠ .exited → (f u).status ≠ .exited) : Raising s (s'.updThread t.uid f) t c where
  uids := by
    obtain ⟨u, hu, hut⟩ := h.uids
    exact ⟨f u, by simpa using ⟨u, hu, by simp [hut]⟩, by rw [huid]; exact hut⟩
  threads u hu hut := by
    simp only [updThread_x_threads, List.mem_map] at hu
    obtain ⟨v, hv', rfl⟩ := hu
    have hvt : v.uid = t.uid := by
      split at hut
      · rw [huid] at hut; exact hut
      · exact hut
    obtain ⟨hvv, r, hr, hrep⟩ := h.threads v hv' hvt
    obtain ⟨r', hr', hrep'⟩ := htrap v r hr
    rw [if_pos (by simp [hvt])]
    exact ⟨by rw [hv]; exact hvv, r', hr', hrep'.trans hrep⟩
  live u hu hut := by
    simp only [updThread_x_threads, List.mem_map] at hu
    obtain ⟨v, hv', rfl⟩ := hu
    split at hut
    · next hw => rw [if_pos hw]; exact hlive v (h.live v hv' (by rw [huid] at hut; exact hut))
    · next hw => rw [if_neg hw]; exact h.live v hv' hut
  flights := by simpa using h.flights
  teams := by simpa using h.teams
  m := h.m
  d := h.d

theorem delivered_trap (b : Bool) (u : Thread) (r : TrapRec) (hr : u.trap = some r) :
    ∃ r', (u.delivered b).trap = some r' ∧ r'.report = r.report :=
  ⟨{ r with fresh := false, suppressed := b }, by simp [Thread.delivered, hr], rfl⟩

theorem arrived_trap (b : Bool) (n : Nat) (u : Thread) (r : TrapRec) (hr : u.trap = some r) :
    ∃ r', ((u.delivered b).arrived n).trap = some r' ∧ r'.report = r.report :=
  ⟨{ r with fresh := false, suppressed := b, arrival := n }, by simp [Thread.delivered, Thread.arrived, hr], rfl⟩

theorem delivered_live (b : Bool) (u : Thread) (h : u.status ≠ .exited) : (u.delivered b).status ≠ .exited := by
  unfold Thread.delivered
  dsimp only
  split
  · nofun
  · exact h

/-- A change of contexts and messages: a code that freezes. -/
theorem Raising.of_freezing (h : Raising s s' t c) {s2 : State} (hf : c.code.freezing = true) (hx : s2.x = s'.x) (hm : s2.m = s'.m) :
    Raising s s2 t c where
  uids := by rw [hx]; exact h.uids
  threads := by rw [hx]; exact h.threads
  live := by rw [hx]; exact h.live
  flights := by rw [hx]; exact h.flights
  teams := by rw [hx]; exact h.teams
  m := hm.trans h.m
  d hd := absurd (hf.symm.trans hd) (by decide)

theorem freeze_x_m (s : State) (k : Nat) (r : BitVec 512) (msg : Bool) : (s.freeze k r msg).x = s.x ∧ (s.freeze k r msg).m = s.m := by
  unfold State.freeze
  split
  · exact ⟨rfl, rfl⟩
  · dsimp only
    split <;> exact ⟨rfl, rfl⟩

/-- Delivering the code keeps what has been raised. -/
theorem Raising.deliver (h : Raising s s' t c) (hq : s.quiet t) {beside : List Nat} (hb : c.code.freezing = false → beside = []) :
    Raising s (s'.deliver beside (s.raising t c)) t c := by
  obtain ⟨-, htraph, hhandler, hreplay, hfrozen, -, -⟩ := hq
  have hvoid : s'.voidExit t.uid = s' := by simp [State.voidExit, h.flights]
  have hrep : (s.raising t c).isReplay = false := hreplay
  have hhan : (s.raising t c).isHandler = false := hhandler
  unfold State.deliver
  simp only [State.raising, hvoid] at hrep hhan ⊢
  simp only [hrep, hhan, Bool.false_eq_true, if_false, Bool.or_false]
  cases hf : c.code.freezing with
  | true =>
    simp only [Bool.not_true, Bool.false_and, Bool.or_false, Bool.true_or, if_true]
    split
    · exact Raising.updThread (s' := s'.lose t.ctx) (h.of_freezing hf rfl rfl) (fun _ => rfl) (fun _ => rfl) (delivered_trap true)
        (delivered_live true)
    · exact Raising.updThread (h.of_freezing hf (freeze_x_m ..).1 (freeze_x_m ..).2) (fun _ => rfl) (fun _ => rfl)
        (delivered_trap true) (delivered_live true)
  | false =>
    have hd := h.d hf
    have hnf : (s'.ctx t.ctx).frozen = false := by unfold State.ctx; rw [hd]; exact hfrozen
    have htr : (s'.traph { t with trap := some ⟨s.reportOf t t.site c, t.site.fall, none, false, false, true, 0⟩ } == 0#64) = false := by
      simp only [State.traph, State.launch?, hd]
      exact beq_eq_false_iff_ne.2 htraph
    simp only [hb hf, hnf, htr, List.contains_nil, Bool.and_false, Bool.or_self, Bool.false_eq_true, if_false]
    exact Raising.updThread (s' := { s' with x := { s'.x with nextUid := s'.x.nextUid + 1 } })
      ⟨h.uids, h.threads, h.live, h.flights, h.teams, h.m, h.d⟩ (fun _ => rfl) (fun _ => rfl) (arrived_trap false _) (delivered_live false)

/-- The one thread of a bundle is issuing, with no code raised. -/
theorem solo_issued {g : Grd} (hs : s.solo g t) (huniq : ∀ u ∈ s.x.threads, u.uid = t.uid → u = t) :
    t.status = .issued ∧ t.trap = none := by
  obtain ⟨hm, ht, -⟩ := hs
  have : t.uid ∈ s.members := hm ▸ List.mem_singleton_self _
  obtain ⟨l, -, hl⟩ := List.mem_filterMap.1 this
  obtain ⟨v, hv, hvu⟩ := Option.map_eq_some_iff.1 hl
  obtain ⟨hvm, hmem⟩ := List.mem_filter.1 (List.mem_of_find?_eq_some hv)
  rw [huniq v hvm hvu] at hmem
  simp only [State.member, Bool.and_eq_true, beq_iff_eq, Option.isNone_iff_eq_none] at hmem
  exact ⟨hmem.1.1.1, hmem.2⟩

/-- A word of one thread that raises a code, with the code delivered. -/
theorem raising_settle (ht : t ∈ s.x.threads) (hq : s.quiet t) (hst : t.status = .issued) (htrap : t.trap = none) :
    Raising s (s.updThread t.uid fun u => s.trapped u c).settle t c := by
  obtain ⟨hcalm, -, -, hreplay, -, hflights, huniq⟩ := id hq
  have hthreads : (s.updThread t.uid fun u => s.trapped u c).x.threads =
      s.x.threads.map fun u => if u.uid == t.uid then s.raising t c else u := by
    rw [updThread_x_threads]
    refine List.map_congr_left fun u hu => ?_
    by_cases hut : u.uid = t.uid
    · simp [huniq u hu hut, trapped_of_trap_none htrap]
    · simp [hut]
  have hfresh : ∀ u ∈ (s.updThread t.uid fun u => s.trapped u c).x.threads, u.freshTrap = true → u = s.raising t c := by
    intro u hu hfr
    rw [hthreads] at hu
    obtain ⟨v, hv, rfl⟩ := List.mem_map.1 hu
    split at hfr
    · next h => rw [if_pos h]
    · exact absurd (hcalm v hv) (by simp [hfr])
  have hstart : Raising s (s.updThread t.uid fun u => s.trapped u c) t c := by
    refine ⟨?_, fun u hu hut => ?_, fun u hu hut => ?_, by simpa using hflights, by simp, rfl, fun _ => rfl⟩
    · rw [hthreads]
      exact ⟨s.raising t c, List.mem_map.2 ⟨t, ht, by simp⟩, rfl⟩
    · rw [hthreads] at hu
      obtain ⟨v, hv, rfl⟩ := List.mem_map.1 hu
      by_cases hvt : v.uid = t.uid
      · simp only [hvt, beq_self_eq_true, if_true]
        exact ⟨rfl, _, rfl, rfl⟩
      · simp [hvt] at hut
    · rw [hthreads] at hu
      obtain ⟨v, hv, rfl⟩ := List.mem_map.1 hu
      split at hut
      · next hw => rw [if_pos hw]; simp [State.raising, hst]
      · next hw => exact absurd (beq_iff_eq.2 hut) hw
  unfold State.settle
  dsimp only
  split
  · exact hstart
  · refine foldl_keeps (P := fun s' => Raising s s' t c) _ _ hstart fun s' x hx hs' => ?_
    have hxr : x = s.raising t c := by
      rcases List.mem_append.1 hx with hx | hx <;> rw [mem_sortPos, List.mem_filter, List.mem_filter] at hx <;>
        exact hfresh x hx.1.1 hx.1.2
    rw [hxr]
    refine hs'.deliver hq fun hf => ?_
    rw [List.map_eq_nil_iff, List.eq_nil_iff_forall_not_mem]
    intro v hv
    rw [mem_sortPos, List.mem_filter, List.mem_filter] at hv
    rw [hfresh v hv.1.1 hv.1.2] at hv
    simp [Thread.freezingTrap, State.raising, hf] at hv

/-- What a word leaves that acts on one thread alone, whose checks raise a code. -/
theorem lanes_raises {g : Grd} {runs : List (VReg × Nat)} {f : State → Thread → Res State} (hs : s.solo g t) (hq : s.quiet t)
    (hb : t.inBlocks runs = true) (hf : f s t = .error c) : Raising s (s.lanes g runs f) t c := by
  obtain ⟨-, -, -, -, -, -, huniq⟩ := id hq
  obtain ⟨hst, htrap⟩ := solo_issued hs huniq
  obtain ⟨hm, ht, hg⟩ := hs
  unfold State.lanes
  rw [hm]
  simp only [List.foldl_cons, List.foldl_nil, ht, hg, hb, hf, Bool.not_true, Bool.false_eq_true, if_false]
  exact raising_settle (thread?_mem ht).1 hq hst htrap

end

end Sys2Proof.Machine
end

/-! Loads and stores at issue (O15): a lane that its checks allow, the bytes of a store, and the buffer forms. -/

section

namespace Sys2Proof.Machine

/-! The bytes of registers -/

theorem loBytes_word (w : Word) : loBytes 4 (w.zeroExtend 64) =
    [w.extractLsb' 0 8, w.extractLsb' 8 8, w.extractLsb' 16 8, w.extractLsb' 24 8] := by
  have hw : (w.zeroExtend 64).toNat = w.toNat := by simp; omega
  simp only [loBytes, natBytes, hw, List.cons.injEq, and_true]
  refine ⟨?_, ?_, ?_, ?_⟩ <;> apply BitVec.eq_of_toNat_eq <;> simp [Nat.shiftRight_eq_div_pow, Nat.div_div_eq_div_mul]

/-- Byte `k` of words, four bytes to a word, lowest first. -/
theorem words_byte : ∀ (ws : List Word) (k : Nat), k < 4 * ws.length →
    (ws.flatMap fun w => loBytes 4 (w.zeroExtend 64))[k]? = some ((ws.getD (k / 4) 0#32).extractLsb' (8 * (k % 4)) 8)
  | [], k, h => by simp at h
  | w :: ws, k, h => by
    rw [List.flatMap_cons, loBytes_word]
    rcases Nat.lt_or_ge k 4 with hk | hk
    · interval_cases k <;> simp
    · have hrest := words_byte ws (k - 4) (by simp at h; omega)
      have hdiv : k / 4 = (k - 4) / 4 + 1 := by omega
      have hmod : (k - 4) % 4 = k % 4 := by omega
      rw [List.getElem?_append_right (by simpa using hk)]
      simp only [List.length_cons, List.length_nil, Nat.zero_add, Nat.reduceAdd]
      rw [hrest, hdiv, hmod, List.getD_cons_succ]

theorem words_length (ws : List Word) : (ws.flatMap fun w => loBytes 4 (w.zeroExtend 64)).length = 4 * ws.length := by
  induction ws with
  | nil => rfl
  | cons w ws ih => rw [List.flatMap_cons, List.length_append, ih, loBytes_word]; simp; omega

@[simp] theorem run_length (t : Thread) (d n : Nat) : (t.run d n).length = n := by simp [Thread.run]

theorem regBytes_length (t : Thread) (d n : Nat) : (regBytes t d n).length = n := by
  simp only [regBytes, List.length_take, words_length, run_length]
  omega

theorem regBytes_byte (t : Thread) (d : Nat) {n k : Nat} (h : k < n) :
    (regBytes t d n)[k]? = some ((t.vget (d + k / 4)).extractLsb' (8 * (k % 4)) 8) := by
  have hk : k / 4 < (n + 3) / 4 := by omega
  simp only [regBytes, List.getElem?_take, h, if_true]
  rw [words_byte _ _ (by rw [run_length]; omega)]
  simp [Thread.run, List.getD_eq_getElem?_getD, hk]

/-! One lane -/

/-- What a word answers that acts on one thread alone, and on no helper. -/
theorem next_lanesNoHelper_solo {s s' : State} {g : Grd} {t : Thread} {runs : List (VReg × Nat)} {f : State → Thread → Res State}
    (hs : s.solo g t) (hh : t.helper = false) (hb : t.inBlocks runs = true) (hf : f s t = .ok s') (hc : s'.calm) :
    (Host.Outcome.next (s.lanesNoHelper g runs f) : Out) = .next s' := by
  refine next_lanes_solo hs rfl ?_ hc
  simp only [hh, hb, Bool.not_true, Bool.false_eq_true, if_false, hf]

theorem lanesNoHelper_raises {s : State} {c : Cause} {g : Grd} {t : Thread} {runs : List (VReg × Nat)} {f : State → Thread → Res State}
    (hs : s.solo g t) (hq : s.quiet t) (hh : t.helper = false) (hb : t.inBlocks runs = true) (hf : f s t = .error c) :
    Raising s (s.lanesNoHelper g runs f) t c := by
  refine lanes_raises hs hq rfl ?_
  simp only [hh, hb, Bool.not_true, Bool.false_eq_true, if_false, hf]

section
variable {s s1 : State} {t : Thread} {c : Ctl} {w : Width} {d n : Nat} {p : DWord} {tensor : BitVec 12} {scope : Nat} {a : Acc}

theorem loadLane_checked (hp : s.plain t) (h : s.checked t p (widthBytes w) false true tensor scope s1 a) (sx : Bool) :
    s.loadLane t c w sx d p tensor scope = .ok ((s1.retainLoad t p).launchFlight t c (.load a w sx d [])) := by
  unfold State.loadLane
  simp [alignTo_ok h.1, access_checked hp h, hp.isNamed, bind, Except.bind]

/-- The state after a store has gone in flight: its record, and its place in the digest's stream. -/
def State.storing (s1 : State) (t : Thread) (c : Ctl) (p : DWord) (a : Acc) (bs : List Byte) : State :=
  ((s1.recordStore t a bs).streamAdd t s1.x.nextUid p bs.length bs).launchFlight t c (.store a bs)

theorem storeLane_checked (hp : s.plain t) (h : s.checked t p n true false tensor scope s1 a) :
    s.storeLane t c d n p tensor scope = .ok (s1.storing t c p a (regBytes t d n)) := by
  unfold State.storeLane
  simp [alignTo_ok h.1, access_checked hp h, State.storing, regBytes_length, bind, Except.bind]

theorem calm_loading (hc : s.calm) (h : s.checked t p n false true tensor scope s1 a) (op : FlightOp) :
    ((s1.retainLoad t p).launchFlight t c op).calm :=
  calm_launchFlight (calm_retainLoad (h.memOnly.calm hc) _ _) _ _ _

theorem calm_storing (hc : s1.calm) (bs : List Byte) : (s1.storing t c p a bs).calm :=
  calm_launchFlight (calm_streamAdd (calm_recordStore hc _ _ _) _ _ _ _ _) _ _ _

end

/-! Loads, stores, DLOAD and PREF by pointer -/

section
variable {s s1 : State} {t : Thread} {c : Ctl} {w : Width} {d addr : VReg} {off : BitVec 14} {sc : BitVec 3} {a : Acc}
  (hs : s.solo c.grd t) (hc : s.calm) (hp : s.plain t)
include hs hc hp

theorem exec_ld_checked (sx : Bool) (hb : t.inBlocks [(addr, 2), (d, widthRegs w)] = true)
    (h : s.checked t (ptrAddr t addr off) (widthBytes w) false true 0#12 sc.toNat s1 a) : exec (.ld c w sx d addr off sc) s =
      .next ((s1.retainLoad t (ptrAddr t addr off)).launchFlight t c (.load a w sx d.toNat [])) :=
  next_lanes_solo hs hb (loadLane_checked hp h sx) (calm_loading hc h _)

theorem exec_st_checked (hb : t.inBlocks [(addr, 2), (d, widthRegs w)] = true)
    (h : s.checked t (ptrAddr t addr off) (widthBytes w) true false 0#12 sc.toNat s1 a) :
    exec (.st c w d addr off sc) s = .next (s1.storing t c (ptrAddr t addr off) a (regBytes t d.toNat (widthBytes w))) :=
  next_lanesNoHelper_solo hs hp.2.1 hb (storeLane_checked hp h) (calm_storing (h.memOnly.calm hc) _)

theorem exec_dload_checked {dn : DReg} (hb : t.inBlocks [(addr, 2)] = true)
    (h : s.checked t (ptrAddr t addr off) 32 false true 0#12 sc.toNat s1 a) :
    exec (.dload c dn addr off sc) s = .next (s1.launchFlight t c (.dload a dn.toNat [])) := by
  have hteam : t.team.isNone = false := by rw [← Option.not_isSome, hp.team]; rfl
  refine next_lanes_solo hs hb ?_ (calm_launchFlight (h.memOnly.calm hc) _ _ _)
  simp [hteam, alignTo_ok h.1, access_checked hp h, bind, Except.bind]

omit hp in
theorem exec_pref_go (hb : t.inBlocks [(addr, 2)] = true)
    (h : s.threadCheck t (ptrAddr t addr off) 1 false true 0#12 1 = (s1, .go a)) : exec (.pref c addr off) s =
      .next (s1.launchFlight t c (.pref (if a.mt = 0#2 ∧ isWindow a.pa = false then some a else none))) := by
  refine next_lanes_solo hs hb ?_ (calm_launchFlight ((memOnly_of_threadCheck h).calm hc) _ _ _)
  simp only [h, Bool.and_eq_true, beq_iff_eq, Bool.not_eq_true']

omit hp in
/-- A lane that would fault does nothing. -/
theorem exec_pref_none (hb : t.inBlocks [(addr, 2)] = true)
    (h : ∀ s2 b, s.threadCheck t (ptrAddr t addr off) 1 false true 0#12 1 ≠ (s2, .go b)) :
    exec (.pref c addr off) s = .next (s.launchFlight t c (.pref none)) := by
  refine next_lanes_solo hs hb ?_ (calm_launchFlight hc _ _ _)
  dsimp only
  split
  · next heq => exact absurd heq (h _ _)
  · rfl

end

/-! Buffer forms -/

/-- Where element `i` of a buffer lies from its base. -/
def bufOff (t : Thread) (i : VReg) (r : BitVec 256) : Nat := (t.vget i.toNat).toNat * 2 ^ descEsize r % 2 ^ 64

/-- Where element `i` of a buffer lies. -/
def bufPtr (t : Thread) (i : VReg) (r : BitVec 256) : DWord := descBase r + BitVec.ofNat 64 (bufOff t i r)

theorem bufOff_toNat (t : Thread) (i : VReg) (r : BitVec 256) :
    ((t.vget i.toNat).zeroExtend 64 <<< descEsize r : DWord).toNat = bufOff t i r := by
  have h : (t.vget i.toNat).toNat % 2 ^ 64 = (t.vget i.toNat).toNat := Nat.mod_eq_of_lt (by omega)
  rw [BitVec.toNat_shiftLeft, BitVec.toNat_setWidth, Nat.shiftLeft_eq, h]
  rfl

theorem bufOff_ofNat (t : Thread) (i : VReg) (r : BitVec 256) :
    ((t.vget i.toNat).zeroExtend 64 <<< descEsize r : DWord) = BitVec.ofNat 64 (bufOff t i r) := by
  refine BitVec.eq_of_toNat_eq ?_
  rw [bufOff_toNat, BitVec.toNat_ofNat]
  exact (Nat.mod_mod _ _).symm

section
variable {s : State} {t : Thread} {tm : Team} {dn : DReg} {i : VReg} {n : Nat} {modifies : Bool}
  (htm : s.teamOf t = some tm) (hkind : descKind (tm.d.getD dn.toNat 0#256) = 1)
include htm hkind

theorem bufAddr_eq : s.bufAddr t dn i n modifies =
    let r := tm.d.getD dn.toNat 0#256
    let p := bufPtr t i r
    if descExtent r < bufOff t i r + n then
      (if descRobust r then .ok (.robust, descTensor r) else .error (Cause.at .bounds p))
    else if descRo r && modifies then .error (Cause.at .permission p)
    else .ok (.at_ p, descTensor r) := by
  unfold State.bufAddr
  simp only [htm, bufOff_toNat, hkind, bne_self_eq_false, Bool.false_eq_true, if_false]
  rw [bufOff_ofNat]
  rfl

theorem bufAddr_robust (hout : descExtent (tm.d.getD dn.toNat 0#256) < bufOff t i (tm.d.getD dn.toNat 0#256) + n)
    (hr : descRobust (tm.d.getD dn.toNat 0#256) = true) :
    s.bufAddr t dn i n modifies = .ok (.robust, descTensor (tm.d.getD dn.toNat 0#256)) := by
  rw [bufAddr_eq htm hkind]
  simp only [hout, hr, if_true]

theorem bufAddr_bounds (hout : descExtent (tm.d.getD dn.toNat 0#256) < bufOff t i (tm.d.getD dn.toNat 0#256) + n)
    (hr : descRobust (tm.d.getD dn.toNat 0#256) = false) : ∃ p, s.bufAddr t dn i n modifies = .error (Cause.at .bounds p) := by
  rw [bufAddr_eq htm hkind]
  simp only [hout, hr, if_true, Bool.false_eq_true, if_false]
  exact ⟨_, rfl⟩

section
variable (hin : bufOff t i (tm.d.getD dn.toNat 0#256) + n ≤ descExtent (tm.d.getD dn.toNat 0#256))
include hin

theorem bufAddr_at (hro : (descRo (tm.d.getD dn.toNat 0#256) && modifies) = false) :
    s.bufAddr t dn i n modifies = .ok (.at_ (bufPtr t i (tm.d.getD dn.toNat 0#256)), descTensor (tm.d.getD dn.toNat 0#256)) := by
  rw [bufAddr_eq htm hkind]
  simp only [Nat.not_lt.2 hin, hro, if_false, Bool.false_eq_true]

theorem bufAddr_permission (hro : descRo (tm.d.getD dn.toNat 0#256) = true) :
    ∃ p, s.bufAddr t dn i n true = .error (Cause.at .permission p) := by
  rw [bufAddr_eq htm hkind]
  simp only [Nat.not_lt.2 hin, hro, if_false, Bool.and_self, if_true]
  exact ⟨_, rfl⟩

end
end

section
variable {s : State} {t : Thread} {c : Ctl} {w : Width} {d i : VReg} {dn : DReg} {sc : BitVec 3} {e : Cause}
  (hs : s.solo c.grd t) (hq : s.quiet t) (hb : t.inBlocks [(i, 1), (d, widthRegs w)] = true)
include hs hq hb

theorem exec_ldb_raises (sx : Bool) (h : s.bufAddr t dn i (widthBytes w) false = .error e) :
    ∃ s', exec (.ldb c w sx d dn i sc) s = .next s' ∧ Raising s s' t e :=
  ⟨_, rfl, lanes_raises hs hq hb (by simp only [h, bind, Except.bind])⟩

theorem exec_stb_raises (hh : t.helper = false) (h : s.bufAddr t dn i (widthBytes w) true = .error e) :
    ∃ s', exec (.stb c w d dn i sc) s = .next s' ∧ Raising s s' t e :=
  ⟨_, rfl, lanesNoHelper_raises hs hq hh hb (by simp only [h, bind, Except.bind])⟩

end

end Sys2Proof.Machine

namespace Sys2Proof

open Machine

/-- Settles O15: the pointer forms by the lane that its checks allow, the buffer forms by the bounds check before it. -/
theorem loadStoreIssue : Obligations.LoadStoreIssue := by
  refine ⟨fun s s1 t c w sx d addr dn off sc a hs hc hp hb => ?_,
    fun s s1 t tm c w sx d i dn sc a hs hq hp htm hb hkind => ⟨fun hin => ⟨fun h => ?_, fun hro h => ?_, fun hro => ?_⟩,
      fun hout => ⟨fun hr => ⟨?_, ?_⟩, fun hr ins hins => ?_⟩⟩⟩
  · have hb2 : t.inBlocks [(addr, 2)] = true := inBlocks_sub hb (by simp)
    refine ⟨exec_ld_checked hs hc hp sx hb, fun h => ⟨regBytes t d.toNat (widthBytes w), ?_, regBytes_length .., ?_⟩,
      exec_dload_checked hs hc hp hb2, exec_pref_go hs hc hb2, exec_pref_none hs hc hb2⟩
    · have hst := exec_st_checked hs hc hp hb h
      rwa [State.storing, regBytes_length] at hst
    · exact fun k hk => regBytes_byte t d.toNat hk
  · refine next_lanes_solo hs hb ?_ (calm_loading hq.1 h _)
    simp only [bufAddr_at htm hkind hin (Bool.and_false _), bind, Except.bind]
    exact loadLane_checked hp h sx
  · refine ⟨regBytes t d.toNat (widthBytes w), ?_, rfl⟩
    have hst : exec (.stb c w d dn i sc) s = .next
        (s1.storing t c (bufPtr t i (tm.d.getD dn.toNat 0#256)) a (regBytes t d.toNat (widthBytes w))) := by
      refine next_lanesNoHelper_solo hs hp.2.1 hb ?_ (calm_storing (h.memOnly.calm hq.1) _)
      simp only [bufAddr_at htm hkind hin (modifies := true) (by rw [hro]; rfl), bind, Except.bind]
      exact storeLane_checked hp h
    rwa [State.storing, regBytes_length] at hst
  · obtain ⟨p, hbuf⟩ := bufAddr_permission htm hkind hin hro
    obtain ⟨s', hex, hr⟩ := exec_stb_raises hs hq hb hp.2.1 hbuf
    obtain ⟨t', r, hthread⟩ := hr.thread?
    exact ⟨s', t', r, hex, hthread⟩
  · refine next_lanes_solo hs hb ?_ (calm_launchFlight hq.1 _ _ _)
    simp only [bufAddr_robust htm hkind hout hr, bind, Except.bind]
  · refine next_lanesNoHelper_solo hs hp.2.1 hb ?_ hq.1
    simp only [bufAddr_robust htm hkind hout hr, bind, Except.bind]
  · have hraise : ∃ s' p, exec ins s = .next s' ∧ Raising s s' t (Cause.at .bounds p) := by
      rcases List.mem_cons.1 hins with rfl | hins
      · obtain ⟨p, hbuf⟩ := bufAddr_bounds (modifies := false) htm hkind hout hr
        obtain ⟨s', h⟩ := exec_ldb_raises hs hq hb sx hbuf
        exact ⟨s', p, h⟩
      · obtain rfl := List.mem_singleton.1 hins
        obtain ⟨p, hbuf⟩ := bufAddr_bounds (modifies := true) htm hkind hout hr
        obtain ⟨s', h⟩ := exec_stb_raises hs hq hb hp.2.1 hbuf
        exact ⟨s', p, h⟩
    obtain ⟨s', p, hex, hrs⟩ := hraise
    obtain ⟨t', r, hthread⟩ := hrs.thread?
    exact ⟨s', t', r, hex, hthread⟩

end Sys2Proof
end

/-! The codes of a bad access, and a page fault that waits for its answer (O16). -/

section

namespace Sys2Proof.Machine

/-! The page of a fault -/

/-- An address lies in the page that a leaf gives it. -/
theorem leaf_base {s : State} {level va : Nat} {e : DWord} {x : Xlat} (h : (s.leaf level va e).2 = some x) :
    x.base ≤ va ∧ va < x.base + x.size := by
  have hsize : 0 < 2 ^ levelShift level := Nat.two_pow_pos _
  have hpage : va / 2 ^ levelShift level * 2 ^ levelShift level ≤ va ∧
      va < va / 2 ^ levelShift level * 2 ^ levelShift level + 2 ^ levelShift level :=
    ⟨Nat.div_mul_le_self .., Nat.lt_div_mul_add hsize⟩
  unfold State.leaf at h
  dsimp only at h
  split at h
  · exact absurd h nofun
  · split at h
    · split at h
      · obtain rfl := Option.some.inj h
        exact hpage
      · exact absurd h nofun
    · split at h
      · exact absurd h nofun
      · obtain ⟨f, -, rfl⟩ := Option.map_eq_some_iff.1 h
        exact hpage

/-- An address lies in the page that a walk gives it. -/
theorem walk_base {va : Nat} {x : Xlat} : ∀ (k : Nat) {s : State} {table : Nat}, (s.walk va k table).2 = some x →
    x.base ≤ va ∧ va < x.base + x.size
  | 0, s, table, h => by
    unfold State.walk at h
    dsimp only at h
    split at h
    · exact absurd h nofun
    · exact leaf_base h
  | k + 1, s, table, h => by
    unfold State.walk at h
    dsimp only at h
    split at h
    · exact absurd h nofun
    · split at h
      · exact leaf_base h
      · split at h
        · split at h
          · exact walk_base k h
          · exact absurd h nofun
        · exact absurd h nofun

theorem pageAt_has (s : State) (c va : Nat) : (s.pageAt c va).1 ≤ va ∧ va < (s.pageAt c va).1 + (s.pageAt c va).2 := by
  unfold State.pageAt
  split
  · next h => exact walk_base 3 h
  · exact ⟨Nat.div_mul_le_self .., Nat.lt_div_mul_add (by decide)⟩

/-! A page fault that waits -/

theorem MemOnly.ctx {s s' : State} (h : MemOnly s s') (c : Nat) : s'.ctx c = s.ctx c := by
  obtain ⟨w, hd⟩ := h.d
  unfold State.ctx
  rw [hd]

section
variable {s : State} {t : Thread} {va : DWord} {c : PfCause} {access : Nat}

/-- A page fault that can wait joins the outstanding record of its page, or begins one. -/
theorem addFault_waits {ctx sector : Nat} {w : Waiter} (hkill : (s.ctx ctx).killing = false)
    (hwait : s.faultWaits ctx va sector = true) :
    (s.addFault ctx va c access sector w).1.x.threads = s.x.threads ∧
      (s.addFault ctx va c access sector w).1.x.flights = s.x.flights ∧
      ∃ f ∈ (s.addFault ctx va c access sector w).1.h.faults, f.uid = (s.addFault ctx va c access sector w).2 ∧ f.ctx = ctx ∧
        f.page.1 ≤ ptrVa va ∧ ptrVa va < f.page.1 + f.page.2 ∧ (w, va) ∈ f.waiters := by
  unfold State.addFault State.addFaultAs
  simp only [hkill, hwait, Bool.not_true, Bool.or_self, Bool.false_eq_true, if_false]
  cases hon : s.faultOn ctx va sector with
  | none =>
    obtain ⟨hlo, hhi⟩ := pageAt_has s ctx (ptrVa va)
    exact ⟨rfl, rfl, _, List.mem_append_right _ (List.mem_singleton_self _), rfl, rfl, hlo, hhi, List.mem_singleton_self _⟩
  | some f =>
    have hfits := List.find?_some hon
    simp only [Bool.and_eq_true, beq_iff_eq, decide_eq_true_eq] at hfits
    obtain ⟨⟨⟨hctx, -⟩, hlo⟩, hhi⟩ := hfits
    refine ⟨rfl, rfl, _, List.mem_map_of_mem (List.mem_of_find?_eq_some hon), ?_⟩
    by_cases hin : f.waiters.any (fun k => k.1 == w && k.2 == va) = true
    · obtain ⟨⟨w', va'⟩, hk, hwk⟩ := List.any_eq_true.1 hin
      simp only [Bool.and_eq_true, beq_iff_eq] at hwk
      obtain ⟨rfl, rfl⟩ := hwk
      simp only [hin, beq_self_eq_true, Bool.not_true, Bool.and_false, Bool.false_eq_true, if_false]
      exact ⟨trivial, hctx, hlo, hhi, hk⟩
    · simp only [hin, beq_self_eq_true, Bool.not_false, Bool.and_self, if_true]
      exact ⟨trivial, hctx, hlo, hhi, List.mem_append_right _ (List.mem_singleton_self _)⟩

/-- A page fault that cannot wait is answered at once. -/
theorem parkPage_fails (hwait : s.faultWaits t.ctx va (coreSector t.core) = false) :
    s.parkPage t va c access = .error (faultCause c va false) := by
  unfold State.parkPage
  simp [hwait]

/-- The state in which the thread of a page fault is Parked on its record. -/
def State.parkedOn (s : State) (t : Thread) (va : DWord) (c : PfCause) (access : Nat) : State :=
  (s.addFault t.ctx va c access (coreSector t.core) (.thread t.uid)).1.updThread t.uid fun u =>
    u.park (.page (s.addFault t.ctx va c access (coreSector t.core) (.thread t.uid)).2)

theorem parkPage_waits (hwait : s.faultWaits t.ctx va (coreSector t.core) = true) :
    s.parkPage t va c access = .ok (s.parkedOn t va c access) := by
  unfold State.parkPage
  simp only [hwait, Bool.not_true, Bool.false_eq_true, if_false]
  rfl

/-- The thread of a page fault that waits is Parked on the record of its page. -/
theorem parkedOn_record {u : Thread} (ht : s.thread? t.uid = some u) (hkill : (s.ctx t.ctx).killing = false)
    (hwait : s.faultWaits t.ctx va (coreSector t.core) = true) :
    ∃ fault f, (s.parkedOn t va c access).thread? t.uid = some (u.park (.page fault)) ∧
      f ∈ (s.parkedOn t va c access).h.faults ∧ f.uid = fault ∧ f.ctx = t.ctx ∧ f.page.1 ≤ ptrVa va ∧
      ptrVa va < f.page.1 + f.page.2 ∧ (Waiter.thread t.uid, va) ∈ f.waiters ∧
      (s.parkedOn t va c access).x.flights = s.x.flights := by
  obtain ⟨hx, hfl, f, hf, huid, hctx, hlo, hhi, hw⟩ :=
    addFault_waits (c := c) (access := access) (w := .thread t.uid) hkill hwait
  refine ⟨_, f, ?_, hf, huid, hctx, hlo, hhi, hw, hfl⟩
  unfold State.parkedOn
  rw [thread?_updThread fun _ => by rfl]
  simp only [State.thread?, hx] at ht ⊢
  rw [ht]
  simp

theorem calm_parkedOn (hc : s.calm) (hkill : (s.ctx t.ctx).killing = false)
    (hwait : s.faultWaits t.ctx va (coreSector t.core) = true) : (s.parkedOn t va c access).calm :=
  calm_updThread (calm_of_threads hc (addFault_waits hkill hwait).1) fun _ => rfl

end

/-! A lane that its checks refuse -/

section
variable {s s1 : State} {t : Thread} {p : DWord} {n : Nat} {modifies : Bool} {scope : Nat}

/-- Why an access raises a code. -/
def State.refused (s s1 : State) (t : Thread) (p : DWord) (n : Nat) (modifies : Bool) (scope : Nat) (k : Code) : Prop :=
  (p.toNat % n ≠ 0 ∧ k = Code.align) ∨
    (p.toNat % n = 0 ∧ s.threadCheck t p n modifies true 0#12 scope = (s1, .code k)) ∨
    (p.toNat % n = 0 ∧ (∃ x, s.threadCheck t p n modifies true 0#12 scope = (s1, .fault x)) ∧
      s1.faultWaits t.ctx p (coreSector t.core) = false ∧ k = Code.pageFault)

/-- A lane whose access is refused raises the code, whatever would have followed. -/
theorem refused_error (hp : s.plain t) {k : Code} (h : s.refused s1 t p n modifies scope k) :
    ∃ e : Cause, e.code = k ∧ ∀ reads code go, (do
      alignTo p n
      s.access t p n modifies reads true 0#12 scope code go) = .error e := by
  rcases h with ⟨ha, rfl⟩ | ⟨ha, hcode⟩ | ⟨ha, ⟨x, hfault⟩, hwait, rfl⟩
  · exact ⟨_, rfl, fun reads code go => by simp only [alignTo_error ha, bind, Except.bind]; rfl⟩
  · exact ⟨Cause.at k p, rfl, fun reads code go => by simp only [alignTo_ok ha, access_code hp hcode, bind, Except.bind]⟩
  · exact ⟨faultCause x p false, rfl, fun reads code go => by
      simp only [alignTo_ok ha, access_fault hp hfault, parkPage_fails hwait, bind, Except.bind]⟩

end

section
variable {s s' s1 : State} {t : Thread} {c : Ctl} {w : Width} {sx : Bool} {d addr : VReg} {off : BitVec 14} {sc : BitVec 3} {i : Instr}
  {modifies : Bool}
  (hi : (i = .ld c w sx d addr off sc ∧ modifies = false) ∨ (i = .st c w d addr off sc ∧ modifies = true))
  (hs : s.solo c.grd t) (hp : s.plain t) (hb : t.inBlocks [(addr, 2), (d, widthRegs w)] = true)
include hi hs hp hb

/-- A load or store by pointer whose lane raises a code. -/
theorem exec_access_raises (hq : s.quiet t) {e : Cause}
    (h : ∀ reads code go, (do
      alignTo (ptrAddr t addr off) (widthBytes w)
      s.access t (ptrAddr t addr off) (widthBytes w) modifies reads true 0#12 sc.toNat code go) = .error e) :
    ∃ s', exec i s = .next s' ∧ Raising s s' t e := by
  rcases hi with ⟨rfl, rfl⟩ | ⟨rfl, rfl⟩
  · exact ⟨_, rfl, lanes_raises hs hq hb (h _ _ _)⟩
  · exact ⟨_, rfl, lanesNoHelper_raises hs hq hp.2.1 hb (h _ _ _)⟩

/-- A load or store by pointer whose lane parks. -/
theorem exec_access_parks (hc : s'.calm)
    (h : ∀ reads code go, code = (if modifies then 1 else 0) → (do
      alignTo (ptrAddr t addr off) (widthBytes w)
      s.access t (ptrAddr t addr off) (widthBytes w) modifies reads true 0#12 sc.toNat code go) = .ok s') :
    exec i s = .next s' := by
  rcases hi with ⟨rfl, rfl⟩ | ⟨rfl, rfl⟩
  · exact next_lanes_solo hs hb (h _ _ _ rfl) hc
  · exact next_lanesNoHelper_solo hs hp.2.1 hb (h _ _ _ rfl) hc

end

/-! A scratchpad range that its team does not hold -/

theorem spadOwn_error {s : State} {t : Thread} {tm : Team} {a : Word} {n : Nat} {k : Code} (htm : s.teamOf t = some tm)
    (h : (a.toNat % n ≠ 0 ∧ k = Code.align) ∨ (a.toNat % n = 0 ∧ tm.ssize < a.toNat + n ∧ k = Code.scratchRange)) :
    s.spadOwn t a n = .error (Cause.at k (a.zeroExtend 64)) := by
  have hz : (a.zeroExtend 64).toNat = a.toNat := by simp; omega
  unfold State.spadOwn
  rcases h with ⟨ha, rfl⟩ | ⟨ha, hn, rfl⟩
  · rw [alignTo_error (by rwa [hz])]
    rfl
  · rw [alignTo_ok (by rwa [hz])]
    simp only [htm, hn, if_true, bind, Except.bind]

end Sys2Proof.Machine

namespace Sys2Proof

open Machine

/-- Settles O16: the lane's checks answer the code or the fault, whatever would have followed them; the code is raised, and the
thread of a fault that can wait joins the record of its page. -/
theorem accessCodes : Obligations.AccessCodes := by
  refine ⟨fun s t c w sx d addr off sc i modifies hs hq hp hi hb k s1 hk => ?_,
    fun s s1 t c w sx d addr off sc i modifies k hs hc hp _ hkill hi hb ha hfault hwait => ?_,
    fun s t tm c w sx d addr off sc i hs hq htm hb hi k hk => ?_⟩
  · obtain ⟨e, rfl, he⟩ := refused_error (s1 := s1) (modifies := modifies) (scope := sc.toNat) hp hk
    obtain ⟨s', hex, hr⟩ := exec_access_raises hi hs hp hb hq he
    obtain ⟨t', r, ht', hv, htrap, hcode⟩ := hr.thread?
    exact ⟨s', t', r, hex, ht', hv, htrap, hcode, hr.flights, hr.m⟩
  · have hm := memOnly_of_threadCheck hfault
    obtain ⟨wct, ht⟩ := hm.thread? hs.2.1
    have hkill' : (s1.ctx t.ctx).killing = false := by rw [hm.ctx]; exact hkill
    obtain ⟨fault, f, hthread, hf, huid, hctx, hlo, hhi, hw, hfl⟩ := parkedOn_record ht hkill' hwait
      (c := k) (access := if modifies then 1 else 0)
    refine ⟨_, _, fault, f, exec_access_parks hi hs hp hb (calm_parkedOn (hm.calm hc) hkill' hwait) fun reads code go hcode => ?_,
      hthread, rfl, rfl, rfl, hf, huid, hctx, hlo, hhi, hw, hfl.trans hm.flights⟩
    subst hcode
    have hfaults := access_fault (reads := reads) hp hfault (if modifies then 1 else 0) go
    rw [parkPage_waits hwait] at hfaults
    have halign : alignTo (ptrAddr t addr off) (widthBytes w) = .ok () := alignTo_ok ha
    simp only [halign, bind, Except.bind]
    exact hfaults
  · have hraise : ∃ s', exec i s = .next s' ∧ Raising s s' t (Cause.at k ((spadAddr t addr off).zeroExtend 64)) := by
      have hown : s.spadOwn t (spadAddr t addr off) (widthBytes w) = _ := spadOwn_error htm hk
      rcases List.mem_cons.1 hi with rfl | hi
      · exact ⟨_, rfl, lanes_raises hs hq hb (by simp only [hown, bind, Except.bind])⟩
      · obtain rfl := List.mem_singleton.1 hi
        exact ⟨_, rfl, lanes_raises hs hq hb (by simp only [hown, bind, Except.bind])⟩
    obtain ⟨s', hex, hr⟩ := hraise
    obtain ⟨t', r, ht', hv, htrap, hcode⟩ := hr.thread?
    exact ⟨s', t', r, hex, ht', hv, htrap, hcode, hr.teams⟩

end Sys2Proof
end

/-! Scratchpad accesses and tags when they complete (O22). -/

section

namespace Sys2Proof.Machine

/-! Bytes put one after another -/

/-- What a place reads after bytes have been put at rising places, one by one. -/
theorem get_puts {β γ : Type} {get : β → Nat → γ} {put : β → Nat → Byte → β} {val : Byte → γ} {ok : β → Prop}
    (hok : ∀ m k b, ok m → ok (put m k b)) (hget : ∀ m k b a, ok m → get (put m k b) a = if a = k then val b else get m a)
    (off a : Nat) : ∀ (bs : List Byte) (n : Nat) (m : β), ok m →
      get ((bs.zipIdx n).foldl (fun m b => put m (off + b.2) b.1) m) a =
        if off + n ≤ a ∧ a < off + n + bs.length then val (bs.getD (a - (off + n)) 0#8) else get m a
  | [], n, m, _ => by
    rw [if_neg (by simp)]
    rfl
  | b :: bs, n, m, h => by
    rw [List.zipIdx_cons, List.foldl_cons, get_puts hok hget off a bs (n + 1) _ (hok m _ b h), hget m _ b a h, List.length_cons]
    rcases Nat.lt_trichotomy a (off + n) with hlt | rfl | hgt
    · rw [if_neg (by omega), if_neg (by omega), if_neg (by omega)]
    · rw [if_neg (by omega), if_pos rfl, if_pos (by omega), Nat.sub_self, List.getD_cons_zero]
    · have hsub : a - (off + n) = a - (off + (n + 1)) + 1 := by omega
      rw [hsub, List.getD_cons_succ, if_neg (by omega : ¬a = off + n)]
      exact if_congr (by omega) rfl rfl

/-! The bytes of a scratchpad -/

theorem spadRead_one (tm : Team) (a : Nat) : tm.spadRead a 1 = [(sget tm.spad a).getD 0#8] := by simp [Team.spadRead]

/-- A byte of a scratchpad after bytes have been written. -/
theorem spadWrite_byte {tm : Team} (h : swf 0#8 tm.spad = true) (off : Nat) (bs : List Byte) (a : Nat) :
    (sget (tm.spadWrite off bs).spad a).getD 0#8 =
      if off ≤ a ∧ a < off + bs.length then bs.getD (a - off) 0#8 else (sget tm.spad a).getD 0#8 := by
  refine get_puts (get := fun m a => (sget m a).getD 0#8) (put := fun m k b => sputD 0#8 m k b) (val := id)
    (ok := fun m => swf 0#8 m = true) (fun m k b hm => swf_sputD _ _ _ hm) (fun m k b a hm => ?_) off a bs 0 _ h
  split
  · next e => rw [e]; exact sgetD_sputD_self _ _ _ ((swf_iff _ _).1 hm).1
  · next e => rw [sget_sputD_other _ _ e]

@[simp] theorem updFlight_team? (s : State) (u : Nat) (f : Flight → Flight) : (s.updFlight u f).team? = s.team? := rfl

/-- What a store makes of a team. -/
def Team.stored (tm : Team) (off : Nat) (bs : List Byte) (poison : Bool) : Team :=
  let sp := (wholeSectors off bs.length).foldl sdel (tm.spadWrite off bs).spoison
  { tm.spadWrite off bs with
    spoison := if poison then (sectorsOf off bs.length).foldl (fun m k => sput m k ()) sp else sp }

theorem spadStore_eq (s : State) (u off : Nat) (bs : List Byte) (poison : Bool) :
    s.spadStore u off bs poison = s.updTeam u fun t => t.stored off bs poison := rfl

@[simp] theorem stored_uid (tm : Team) (off : Nat) (bs : List Byte) (poison : Bool) : (tm.stored off bs poison).uid = tm.uid := rfl
@[simp] theorem stored_spad (tm : Team) (off : Nat) (bs : List Byte) (poison : Bool) :
    (tm.stored off bs poison).spad = (tm.spadWrite off bs).spad := rfl

theorem stored_spadRead {tm : Team} (h : swf 0#8 tm.spad = true) (off : Nat) (bs : List Byte) (poison : Bool) (a : Nat) :
    (tm.stored off bs poison).spadRead a 1 =
      if off ≤ a ∧ a < off + bs.length then [bs.getD (a - off) 0#8] else tm.spadRead a 1 := by
  rw [spadRead_one, spadRead_one, stored_spad, spadWrite_byte h]
  split <;> rfl

/-- The team of a uid after a store to its scratchpad. -/
theorem spadStore_team? {s : State} {tm : Team} (h : s.team? tm.uid = some tm) (off : Nat) (bs : List Byte) (poison : Bool) :
    (s.spadStore tm.uid off bs poison).team? tm.uid = some (tm.stored off bs poison) := by
  rw [spadStore_eq, team?_updTeam fun _ => by rfl, h]
  simp

/-- A thread that is not isolated stores to a scratchpad, whosever it is. -/
theorem storeSpad_of_isolates {s : State} {u : Nat} (h : ∀ t, s.thread? u = some t → s.isolates t = false) (team off : Nat)
    (bs : List Byte) : s.storeSpad u team off bs = s.spadStore team off bs false := by
  unfold State.storeSpad
  split
  · next t _ _ ht _ _ => rw [h t ht]; rfl
  · rfl

/-! The pieces of an access of 16 bytes -/

/-- The first of two pieces is a free choice (R85). -/
theorem piece_first (s : State) : (s.piece 16 [] false).1 = s.takeFree.2 ∧ ((s.piece 16 [] false).2 = 0 ∨ (s.piece 16 [] false).2 = 8) := by
  have hleft : (((List.range (16 / 8)).map fun i => 8 * i).filter fun o => !([] : List Nat).contains o) = [0, 8] := rfl
  unfold State.piece
  rw [hleft]
  refine ⟨rfl, ?_⟩
  dsimp only [List.length_cons, List.length_nil]
  have hmod : Config.freeNat s.takeFree.1 % 2 < 2 := Nat.mod_lt _ (by decide)
  generalize Config.freeNat s.takeFree.1 % 2 = i at hmod
  interval_cases i
  · exact .inl rfl
  · exact .inr rfl

/-- The second piece is the one that is left. -/
theorem piece_second (s : State) {o : Nat} (h : o = 0 ∨ o = 8) : s.piece 16 [8 - o] false = (s, o) := by
  rcases h with rfl | rfl <;> rfl

/-! Loads and stores of a team's own scratchpad -/

section
variable {s : State} {f : Flight} {t : Thread} {tm : Team} {off : Nat} (ht : s.thread? f.thread = some t)
  (htm : s.teamOf t = some tm) (hiso : s.isolates t = false)
include ht htm

/-- Bytes that a thread of the team reads of its scratchpad. -/
theorem spadSeen_own (o n : Nat) : s.spadSeen f.thread tm o n = tm.spadRead o n := by
  unfold State.spadSeen
  simp [ht, htm, sget]

section
variable {bs : List Byte} (hop : f.op = .storeS tm.uid off bs 1) (hready : s.spadReady f tm off bs.length = true)
  (hsame : s.sameSpad f = [f])
include hiso hop hready hsame

/-- A store of less than 16 bytes performs whole. -/
theorem doneStoreS_whole (hlen : bs.length ≠ 16) :
    s.doneStoreS f tm.uid off bs 1 = (s.spadStore tm.uid off bs false).finish f := by
  obtain ⟨-, hteam⟩ := teamOf_team? htm
  have hiso' : ∀ u, s.thread? f.thread = some u → s.isolates u = false := fun u hu => by
    obtain rfl := Option.some.inj (ht.symm.trans hu)
    exact hiso
  unfold State.doneStoreS
  simp [hteam, hready, hlen, hsame, State.storeSOne, hop, storeSpad_of_isolates hiso']

/-- A store of 16 bytes performs one of its two pieces, and keeps the other. -/
theorem doneStoreS_piece (hlen : bs.length = 16) : ∃ p, (p = 0 ∨ p = 8) ∧ s.doneStoreS f tm.uid off bs 1 =
    (s.takeFree.2.spadStore tm.uid (off + p) ((bs.drop p).take 8) false).updFlight f.uid fun g =>
      { g with op := .storeS tm.uid (off + (8 - p)) ((bs.drop (8 - p)).take 8) 1 } := by
  obtain ⟨-, hteam⟩ := teamOf_team? htm
  obtain ⟨hfree, hp⟩ := piece_first s
  have hiso' : ∀ u, s.takeFree.2.thread? f.thread = some u → s.takeFree.2.isolates u = false := fun u hu => by
    obtain rfl := Option.some.inj (ht.symm.trans hu)
    exact hiso
  have hsame' : s.takeFree.2.sameSpad f = [f] := hsame
  refine ⟨_, hp, ?_⟩
  rw [hlen] at hready
  have hscope : (decide (8 ≤ 1) && decide (1 < 10) && !f.posted) = false := rfl
  unfold State.doneStoreS
  simp only [hteam, hready, hlen, hfree, hsame', State.storeSOne, hop, storeSpad_of_isolates hiso', beq_self_eq_true, if_true,
    Bool.not_true, hscope, Bool.false_eq_true, if_false, List.foldl_cons, List.foldl_nil]

end

section
variable {d : Nat} {w : Width} {sx : Bool} {ea : DWord} {ps : List (Nat × Nat)} (hop : f.op = .loadS tm.uid off ea w sx d ps)
  (hready : s.spadReady f tm off (widthBytes w) = true) (hsame : s.sameSpad f = [f]) (hst : f.stalled = none)
  (hpoison : tm.spoison = [])
include hop hready hsame hst hpoison

/-- The last piece of a load, at an offset, gives the registers the bytes. -/
theorem doneLoadS_last {o : Nat} (ho : (if widthBytes w == 16 then s.piece 16 (ps.map Prod.fst) false else (s, 0)) = (s, o))
    (hlast : widthBytes w ≤ 8 * (ps.length + 1)) : s.doneLoadS f tm.uid off ea w ps =
      (s.updThread f.thread fun u => u.setRegs (loadRegs w sx d (if widthBytes w == 16
        then pieceBytes 16 (ps ++ [(o, leNat (tm.spadRead (off + o) (min 8 (widthBytes w))))])
        else tm.spadRead (off + o) (min 8 (widthBytes w))))).finish f := by
  obtain ⟨-, hteam⟩ := teamOf_team? htm
  have hclean (o n : Nat) : tm.spadPoison o n = false := by simp [Team.spadPoison, hpoison, sget]
  unfold State.doneLoadS
  simp only [hteam, hready, hst, ho, hsame, State.loadSOne, hop, hclean, spadSeen_own ht htm, List.length_append,
    List.length_singleton, Nat.not_lt.2 hlast, Bool.not_true, Option.isSome_none, Option.isNone_none, Bool.or_self,
    Bool.false_eq_true, if_false, List.filter_cons_of_pos, List.filter_nil, List.foldl_cons, List.foldl_nil]

end
end

/-! Bytes and numbers -/

theorem natBytes_leNat : ∀ bs : List Byte, natBytes bs.length (leNat bs) = bs
  | [] => rfl
  | b :: bs => by
    have ih := natBytes_leNat bs
    have hcons : leNat (b :: bs) = b.toNat + 256 * leNat bs := rfl
    have hb : b.toNat < 256 := b.isLt
    rw [List.length_cons, natBytes, hcons, Nat.add_mul_div_left _ _ (by decide), Nat.div_eq_of_lt hb, Nat.zero_add, ih]
    congr 1
    refine BitVec.eq_of_toNat_eq ?_
    rw [BitVec.toNat_ofNat]
    omega

@[simp] theorem spadRead_length (tm : Team) (o n : Nat) : (tm.spadRead o n).length = n := by simp [Team.spadRead]

theorem natBytes_spadRead (tm : Team) (o : Nat) : natBytes 8 (leNat (tm.spadRead o 8)) = tm.spadRead o 8 := by
  have h := natBytes_leNat (tm.spadRead o 8)
  rwa [spadRead_length] at h

/-- The bytes of two pieces, in the order of their offsets. -/
theorem pieceBytes_two (x y o : Nat) (ho : o = 0 ∨ o = 8) : pieceBytes 16 [(8 - o, x), (o, y)] =
    if o = 0 then natBytes 8 y ++ natBytes 8 x else natBytes 8 x ++ natBytes 8 y := by
  rcases ho with rfl | rfl <;> rfl

/-! What memory's own work leaves of the tags (R64) -/

theorem flushHome_tags (s : State) (l : Nat) : (s.flushHome l).m.tags = s.m.tags := by
  unfold State.flushHome
  exact foldl_keeps (P := fun u : State => u.m.tags = s.m.tags) _ s rfl fun _ _ _ h => h

theorem evictHome_tags (s : State) (l : Nat) : (s.evictHome l).m.tags = s.m.tags := flushHome_tags s l

theorem sliceRoom_tags (s : State) (j : Nat) : (s.sliceRoom j).m.tags = s.m.tags := by
  unfold State.sliceRoom
  dsimp only
  split
  · rfl
  · split
    · rfl
    · split
      · exact evictHome_tags s _
      · rfl

theorem touchHome_tags (s : State) (l : Nat) (c : Option Nat) (t : BitVec 12) : (s.touchHome l c t).m.tags = s.m.tags := by
  have hroom : (if (s.homeLine l).held then s else s.sliceRoom (homeSlice (256 * l)) : State).m.tags = s.m.tags := by
    split
    · rfl
    · exact sliceRoom_tags s _
  unfold State.touchHome
  dsimp only
  split_ifs <;> simp_all [flushHome_tags, sliceRoom_tags]

theorem mergeHome_tags (s : State) (l : Nat) (c : Option Nat) (t : BitVec 12) (bs : Sparse Byte) (bad : Bool) :
    (s.mergeHome l c t bs bad).m.tags = s.m.tags := by
  unfold State.mergeHome
  refine foldl_keeps (P := fun u : State => u.m.tags = s.m.tags) _ _ (touchHome_tags s l c t) fun u k _ hu => ?_
  split_ifs <;> exact hu

theorem updatePath_tags (s : State) (core : Option Nat) (l c : Nat) (t : BitVec 12) (bs : Sparse Byte) (bad : Bool) :
    (s.updatePath core l c t bs bad).m.tags = s.m.tags := by
  unfold State.updatePath
  split <;> rfl

theorem collectCore_tags (s : State) (core c l w : Nat) : (s.collectCore core c l w).m.tags = s.m.tags := by
  unfold State.collectCore
  split <;> rfl

theorem putCopy_tags (s : State) (c : Copy) : (s.putCopy c).m.tags = s.m.tags := rfl
theorem wakeLine_tags (s : State) (l : Nat) (c : Option Nat) : (s.wakeLine l c).m.tags = s.m.tags := rfl

theorem recall_tags (s : State) (l : Nat) : (s.recall l).m.tags = s.m.tags := by
  unfold State.recall
  split
  · rfl
  · next core _ =>
    refine foldl_keeps (P := fun u : State => u.m.tags = s.m.tags) _ _ rfl fun u c _ hu => ?_
    have hsent := (updatePath_tags (u.mergeHome l (some c.ctx) c.tensor c.mask false) (some core) l c.ctx c.tensor c.mask false).trans
      ((mergeHome_tags u l (some c.ctx) c.tensor c.mask false).trans hu)
    rw [wakeLine_tags, putCopy_tags]
    split
    · exact hsent
    · rw [collectCore_tags]
      exact hsent

theorem performHome_tags (s : State) (core : Option Nat) (l c : Nat) (t : BitVec 12) (bs : Sparse Byte) (bad : Bool) :
    (s.performHome core l c t bs bad).1.m.tags = s.m.tags := by
  have hrec : (if s.ownedBy core l c then s else s.recall l : State).m.tags = s.m.tags := by
    split
    · rfl
    · exact recall_tags s l
  have hput := (updatePath_tags ((if s.ownedBy core l c then s else s.recall l).mergeHome l (some c) t bs bad) core l c t bs bad).trans
    ((mergeHome_tags (if s.ownedBy core l c then s else s.recall l) l (some c) t bs bad).trans hrec)
  unfold State.performHome
  split
  · rfl
  · dsimp only
    split <;> exact hput

theorem writeBack_tags (s : State) (c : Copy) (sel : Nat → Bool) : (s.writeBack c sel).1.m.tags = s.m.tags := by
  unfold State.writeBack State.writeBackOf
  dsimp only
  split
  · split
    · rfl
    · exact (collectCore_tags _ _ _ _ _).trans (performHome_tags _ _ _ _ _ _ _)
  · rfl

theorem homeSectorBytes_tags (s : State) (core c l k : Nat) : (s.homeSectorBytes core c l k).m.tags = s.m.tags := by
  unfold State.homeSectorBytes State.homeBytesOf
  split
  · rfl
  · exact writeBack_tags _ _ _

/-- A clean sector leaves a place. -/
def State.dropAt (s : State) (p : Place) (l c k : Nat) : State :=
  match s.copy? p l c with
  | none => s
  | some q => if q.own.isSome then s else s.putCopy { q with sectors := sdel q.sectors k }

theorem dropAt_eq (s : State) (p : Place) (l c k : Nat) : ∃ cs, s.dropAt p l c k = { s with m := { s.m with copies := cs } } := by
  unfold State.dropAt
  split
  · exact ⟨_, rfl⟩
  · split <;> exact ⟨_, rfl⟩

theorem dropClean_dropAt (s : State) (core c l k : Nat) : s.dropClean core c l k =
    match pathPlace core (256 * l) with
    | some p => (s.dropAt (.l1 core) l c k).dropAt p l c k
    | none => s.dropAt (.l1 core) l c k := by
  unfold State.dropClean
  cases pathPlace core (256 * l) <;> rfl

/-- Dropping a clean sector changes copies alone. -/
theorem dropClean_eq (s : State) (core c l k : Nat) : ∃ cs, s.dropClean core c l k = { s with m := { s.m with copies := cs } } := by
  obtain ⟨cs, h⟩ := dropAt_eq s (.l1 core) l c k
  rw [dropClean_dropAt]
  split
  · next p _ =>
    rw [h]
    exact dropAt_eq _ p l c k
  · exact ⟨cs, h⟩

theorem dropClean_tags (s : State) (core c l k : Nat) : (s.dropClean core c l k).m.tags = s.m.tags := by
  obtain ⟨cs, h⟩ := dropClean_eq s core c l k
  rw [h]

/-! TAGLD and TAGST -/

section
variable {s : State} {f : Flight} {t : Thread} {a : Acc} (ht : s.thread? f.thread = some t) (hiso : s.isolates t = false)
  (hstacked : isStacked a.pa = true)
include ht hiso hstacked

theorem tagldOne_reads {d : Nat} (hop : f.op = .tagld a d) (hlock : s.lockedNow f t a.sector 64 false = false)
    (hpoison : s.poisonSeen t.core t.ctx a.pa 1 true = false) :
    s.tagldOne f = (s.updThread f.thread fun u => u.vset d ((s.tagOf a.pa).zeroExtend 32)).finish f := by
  have hdram : s.isDram a.pa = true := by simp [State.isDram, hstacked]
  unfold State.tagldOne
  simp [hop, ht, hlock, hpoison, State.tagKept, hiso, hdram]

/-- The tag of a sector after TAGST, and every other. -/
theorem tagstOne_tags {k : BitVec 4} (hop : f.op = .tagst a k) (hwf : s.Wf) (hlock : s.lockedNow f t a.sector 64 true = false)
    (q : Nat) : (s.tagstOne f).tagOf q = if q / 64 = a.pa / 64 then k else s.tagOf q := by
  have hdram : s.isDram a.pa = true := by simp [State.isDram, hstacked]
  let l := a.pa / 256
  let j := a.pa % 256 / 64
  let u := ((s.homeSectorBytes t.core t.ctx l j).dropClean t.core t.ctx l j).recall l
  have hu : u.m.tags = s.m.tags :=
    (recall_tags _ l).trans ((dropClean_tags _ t.core t.ctx l j).trans (homeSectorBytes_tags s t.core t.ctx l j))
  have huwf : u.Wf := wf_recall l (wf_dropClean t.core t.ctx l j (wf_homeSectorBytes t.core t.ctx l j hwf))
  have htags : (s.tagstOne f).m.tags = sputD 0#4 u.m.tags (a.pa / 64) k := by
    unfold State.tagstOne
    simp only [hop, ht, hlock, hiso, hdram, Bool.not_true, Bool.false_eq_true, if_false, finish_eq]
    rfl
  unfold State.tagOf
  rw [htags]
  split
  · next e => rw [e]; exact sgetD_sputD_self _ _ _ ((swf_iff _ _).1 ((wf_iff _).1 huwf).2.1).1
  · next e => rw [sget_sputD_other _ _ e, hu]

end

end Sys2Proof.Machine

namespace Sys2Proof

open Machine

/-- Settles O22: a store puts its bytes, or those of one piece, into the team's scratchpad; a load's last piece gives the registers the
bytes that stand there; TAGLD and TAGST read and set the sector's tag. -/
theorem scratchpadAndTagsComplete : Obligations.ScratchpadAndTagsComplete := by
  refine ⟨fun s f t tm off d o x w sx bs ps ea hf ht hp htm hsw hst hiso hpoison hwf => ⟨fun hop hready hsame => ?_,
      fun hop hready hsame r hr => ?_⟩,
    fun s f t a d k hf ht hp hsw hst hfirst hsame hstacked hiso hwf hlock => ⟨fun hop hpoison => ?_, fun hop => ?_⟩⟩
  · obtain ⟨-, hteam⟩ := teamOf_team? htm
    have hex : exec (.instructionComplete f.uid) s = .next (s.doneStoreS f tm.uid off bs 1) := by
      rw [exec_instructionComplete hf (mayComplete_of ht (by simp [State.swappedOut, htm, hsw]) hst), State.completeOp, hop]
    by_cases hlen : bs.length = 16
    · obtain ⟨p, hpiece, heq⟩ := doneStoreS_piece ht htm hiso hop hready hsame hlen
      refine ⟨_, tm.stored (off + p) ((bs.drop p).take 8) false, hex.trans (congrArg _ heq), ?_, rfl,
        fun h => absurd hlen h, fun _ => ⟨p, { f with op := .storeS tm.uid (off + (8 - p)) ((bs.drop (8 - p)).take 8) 1 }, hpiece,
          ?_, rfl, rfl, fun a => ?_⟩⟩
      · rw [updFlight_team?]
        have hteam' : s.takeFree.2.team? tm.uid = some tm := hteam
        rw [spadStore_team? hteam']
      · have hmem : f ∈ (s.takeFree.2.spadStore tm.uid (off + p) ((bs.drop p).take 8) false).x.flights := List.mem_of_find?_eq_some hf
        rw [updFlight_x_flights]
        exact List.mem_map.2 ⟨f, hmem, if_pos (beq_self_eq_true _)⟩
      · have hplen : ((bs.drop p).take 8).length = 8 := by
          rw [List.length_take, List.length_drop, hlen]
          rcases hpiece with rfl | rfl <;> rfl
        rw [stored_spadRead hwf, hplen]
        split
        · next h =>
          rw [List.getD_eq_getElem?_getD, List.getD_eq_getElem?_getD, List.getElem?_take, if_pos (by omega), List.getElem?_drop]
          congr 4
          omega
        · rfl
    · refine ⟨_, tm.stored off bs false, hex.trans (congrArg _ (doneStoreS_whole ht htm hiso hop hready hsame hlen)), ?_, ?_,
        fun _ => ⟨fun g hg => ?_, stored_spadRead hwf off bs false⟩, fun h => absurd h hlen⟩
      · rw [finish_team?, spadStore_team? hteam]
      · rw [finish_eq]
        rfl
      · rw [finish_eq] at hg
        simpa using (List.mem_filter.1 hg).2
  · have hex : exec (.instructionComplete f.uid) s = .next (s.doneLoadS f tm.uid off ea w ps) := by
      rw [exec_instructionComplete hf (mayComplete_of ht (by simp [State.swappedOut, htm, hsw]) hst), State.completeOp, hop]
    rcases hr with ⟨hw, rfl⟩ | ⟨hw, rfl, ho, -, rfl⟩
    · have hle : widthBytes w ≤ 8 := by cases w <;> simp_all [widthBytes]
      rw [hex, doneLoadS_last ht htm hop hready hsame hst hpoison (o := 0) (by simp [hw]) (by omega)]
      simp [hw, hle, Thread.setRegs]
    · have hbytes : pieceBytes 16 ([(8 - o, x)] ++ [(o, leNat (tm.spadRead (off + o) 8))]) =
          if o = 0 then tm.spadRead off 8 ++ natBytes 8 x else natBytes 8 x ++ tm.spadRead (off + 8) 8 := by
        rw [List.singleton_append, pieceBytes_two _ _ _ ho, natBytes_spadRead]
        rcases ho with rfl | rfl <;> rfl
      rw [hex, doneLoadS_last ht htm hop hready hsame hst hpoison (o := o) (by simp [hw, piece_second s ho]) (by simp [hw]), hw]
      simp only [beq_self_eq_true, if_true, show min 8 16 = 8 from rfl, hbytes, Thread.setRegs]
  · have hreaders : s.readers f = [f] := by simp [State.readers, hsame, hst]
    rw [exec_instructionComplete hf (mayComplete_of ht hsw hst), State.completeOp, hop]
    unfold State.doneTagld
    simp only [hfirst, hst, hreaders, Bool.not_true, Option.isSome_none, Bool.or_self, Bool.false_eq_true, if_false, List.foldl_cons,
      List.foldl_nil, tagldOne_reads ht hiso hstacked hop (hlock false) hpoison]
  · refine ⟨s.tagstOne f, ?_, tagstOne_tags ht hiso hstacked hop hwf (hlock true)⟩
    rw [exec_instructionComplete hf (mayComplete_of ht hsw hst), State.completeOp, hop]
    unfold State.doneTagst
    simp only [hfirst, hsame, Bool.not_true, Bool.false_eq_true, if_false, List.foldl_cons, List.foldl_nil]

end Sys2Proof
end

/-! What a translation changes where no core owns a line: the translation caches alone (R65). -/

section

namespace Sys2Proof.Machine

/-- From `s` to `s'` only translation caches have changed. -/
def XlatOnly (s s' : State) : Prop :=
  ∃ lp ct st, s' = { s with m := { s.m with lastPage := lp, coreTlb := ct, sectorTlb := st } }

namespace XlatOnly

@[refl] theorem refl (s : State) : XlatOnly s s := ⟨_, _, _, rfl⟩

theorem trans {s t u : State} (h : XlatOnly s t) (k : XlatOnly t u) : XlatOnly s u := by
  obtain ⟨_, _, _, rfl⟩ := h
  obtain ⟨lp, ct, st, rfl⟩ := k
  exact ⟨lp, ct, st, rfl⟩

section
variable {s s' : State} (h : XlatOnly s s')
include h

theorem homeLine (l : Nat) : s'.homeLine l = s.homeLine l := by obtain ⟨_, _, _, rfl⟩ := h; rfl
theorem homeByte (q : Nat) : s'.homeByte q = s.homeByte q := by obtain ⟨_, _, _, rfl⟩ := h; rfl
theorem homeWord (pa : Nat) (w64 : Bool) : s'.homeWord pa w64 = s.homeWord pa w64 := by obtain ⟨_, _, _, rfl⟩ := h; rfl
theorem copies : s'.m.copies = s.m.copies := by obtain ⟨_, _, _, rfl⟩ := h; rfl
theorem wf (hs : s.Wf) : s'.Wf := by obtain ⟨_, _, _, rfl⟩ := h; exact hs
theorem x : s'.x = s.x := by obtain ⟨_, _, _, rfl⟩ := h; rfl
theorem y : s'.y = s.y := by obtain ⟨_, _, _, rfl⟩ := h; rfl
theorem e : s'.e = s.e := by obtain ⟨_, _, _, rfl⟩ := h; rfl
theorem d : s'.d = s.d := by obtain ⟨_, _, _, rfl⟩ := h; rfl
theorem ownerless (ho : s.Ownerless) : s'.Ownerless := fun l => by rw [h.homeLine]; exact ho l

end

end XlatOnly

section
variable {s : State} (ho : s.Ownerless)
include ho

/-- A read at home recalls nothing. -/
theorem readHome_ownerless (pa n : Nat) : s.readHome pa n = (s, s.homeBytes pa n) := by
  have hrec : ∀ ls : List Nat, ls.foldl (fun s l => s.recall l) s = s := fun ls =>
    foldl_keeps (P := fun u => u = s) ls s rfl fun u l _ hu => by rw [hu]; exact recall_of_owner_none (ho l)
  unfold State.readHome
  dsimp only
  rw [hrec]

theorem physRead_ownerless (pa n : Nat) : (s.physRead pa n).1 = s := by
  unfold State.physRead
  split
  · rw [readHome_ownerless ho]
  · rfl

theorem leaf_ownerless (level va : Nat) (e : DWord) : (s.leaf level va e).1 = s := by
  unfold State.leaf
  dsimp only
  split_ifs
  · rfl
  · rfl
  · rfl
  · rfl
  · exact physRead_ownerless ho _ _

theorem walk_ownerless (va : Nat) : ∀ k table, (s.walk va k table).1 = s
  | 0, table => by
    unfold State.walk
    dsimp only
    rw [physRead_ownerless ho]
    split
    · rfl
    · exact leaf_ownerless ho _ _ _
  | k + 1, table => by
    unfold State.walk
    dsimp only
    rw [physRead_ownerless ho]
    split_ifs
    · rfl
    · exact leaf_ownerless ho _ _ _
    · exact walk_ownerless va k _
    · rfl
    · rfl

theorem xlatOnly_translate (core : Nat) (lane : Option (Nat × Nat)) (c va : Nat) (modifies : Bool) :
    XlatOnly s (s.translate core lane c va modifies).1 := by
  have hw : XlatOnly s (s.walk va 3 (s.ctx c).root).1 := by rw [walk_ownerless ho]
  have hfill (u : State) (x : Xlat) (k : XlatStep) : XlatOnly u (u.fillXlat core lane c x k) := ⟨_, _, _, rfl⟩
  unfold State.translate
  dsimp only
  split
  · exact hfill s _ _
  · split
    · exact hw
    · split
      · exact hw
      · exact hw.trans (hfill _ _ _)

theorem xlatOnly_pageCheck (core : Nat) (lane : Option (Nat × Nat)) (c : Nat) (p : DWord) (n : Nat) (modifies exec tags : Bool)
    (tensor : BitVec 12) (scope : Nat) : XlatOnly s (s.pageCheck core lane c p n modifies exec tags tensor scope).1 := by
  have ht := xlatOnly_translate ho core lane c (ptrVa p) modifies
  unfold State.pageCheck
  split
  · rfl
  · split
    · next e => rw [e] at ht; exact ht
    · next e =>
      rw [e] at ht
      dsimp only
      split_ifs <;> exact ht

theorem xlatOnly_threadCheck (t : Thread) (p : DWord) (n : Nat) (modifies tags : Bool) (tensor : BitVec 12) (scope : Nat) :
    XlatOnly s (s.threadCheck t p n modifies tags tensor scope).1 := by
  have h := xlatOnly_pageCheck ho t.core (some (t.slice, t.lane)) t.ctx p n modifies false tags tensor scope
  unfold State.threadCheck
  split
  next e =>
    rw [e] at h
    split <;> exact h
  · exact h

end

/-- The access that the checks of a page allow. -/
theorem pageCheck_go {s s1 : State} {core : Nat} {lane : Option (Nat × Nat)} {c : Nat} {p : DWord} {n : Nat}
    {modifies exec tags : Bool} {tensor : BitVec 12} {scope : Nat} {a : Acc}
    (h : s.pageCheck core lane c p n modifies exec tags tensor scope = (s1, .go a)) :
    a.va = p ∧ a.tensor = tensor ∧ a.scope = scope ∧ ∃ x, s.translate core lane c (ptrVa p) modifies = (s1, .ok (a.pa, x)) := by
  unfold State.pageCheck at h
  split at h
  · exact absurd (congrArg Prod.snd h) nofun
  · split at h
    · exact absurd (congrArg Prod.snd h) nofun
    · next u pa x e =>
      dsimp only at h
      split_ifs at h
      · exact absurd (congrArg Prod.snd h) nofun
      · exact absurd (congrArg Prod.snd h) nofun
      · exact absurd (congrArg Prod.snd h) nofun
      · exact absurd (congrArg Prod.snd h) nofun
      all_goals
        obtain ⟨rfl, hacc⟩ := Prod.mk.inj h
        obtain rfl := Chk.go.inj hacc
        exact ⟨rfl, rfl, rfl, x, e⟩

/-- The access that the checks of a thread allow. -/
theorem threadCheck_go {s s1 : State} {t : Thread} {p : DWord} {n : Nat} {modifies tags : Bool} {tensor : BitVec 12} {scope : Nat}
    {a : Acc} (h : s.threadCheck t p n modifies tags tensor scope = (s1, .go a)) :
    s.pageCheck t.core (some (t.slice, t.lane)) t.ctx p n modifies false tags tensor scope = (s1, .go a) := by
  unfold State.threadCheck at h
  split at h
  · next e =>
    split at h
    · exact absurd (congrArg Prod.snd h) nofun
    · rw [e, h]
  · exact h

end Sys2Proof.Machine
end

/-! What memory's own work leaves of the monitors: each keeps its flight and its deadline, and one that is still to be evaluated is not
woken (R96). -/

section

namespace Sys2Proof.Machine

/-- From `s` to `s'` monitors have at most been woken. -/
def MonsKept (s s' : State) : Prop :=
  ∃ g : Monitor → Monitor, s'.y.monitors = s.y.monitors.map g ∧
    ∀ m, (g m).flight = m.flight ∧ (g m).deadline = m.deadline ∧ (m.fresh = true → g m = m)

namespace MonsKept

theorem of_eq {s s' : State} (h : s'.y.monitors = s.y.monitors) : MonsKept s s' :=
  ⟨id, by rw [h, List.map_id], fun _ => ⟨rfl, rfl, fun _ => rfl⟩⟩

@[refl] theorem refl (s : State) : MonsKept s s := of_eq rfl

theorem trans {s t u : State} (h : MonsKept s t) (k : MonsKept t u) : MonsKept s u := by
  obtain ⟨g, hg, hg'⟩ := h
  obtain ⟨k, hk, hk'⟩ := k
  refine ⟨k ∘ g, by rw [hk, hg, List.map_map], fun m => ⟨(hk' _).1.trans (hg' m).1, (hk' _).2.1.trans (hg' m).2.1, fun hf => ?_⟩⟩
  have hgm : g m = m := (hg' m).2.2 hf
  show k (g m) = m
  rw [hgm]
  exact (hk' m).2.2 hf

theorem of_y_left {s u t : State} (hy : u.y = s.y) (h : MonsKept u t) : MonsKept s t := (of_eq (congrArg _ hy)).trans h
theorem of_y_right {s u t : State} (h : MonsKept s u) (hy : t.y = u.y) : MonsKept s t := h.trans (of_eq (congrArg _ hy))

theorem foldl {α : Type} {f : State → α → State} (l : List α) (s : State) (hf : ∀ s a, MonsKept s (f s a)) :
    MonsKept s (l.foldl f s) :=
  foldl_keeps (P := MonsKept s) l s (refl s) fun b a _ hb => hb.trans (hf b a)

end MonsKept

theorem putCopy_y (s : State) (c : Copy) : (s.putCopy c).y = s.y := rfl

theorem flushHome_y (s : State) (l : Nat) : (s.flushHome l).y = s.y := by
  unfold State.flushHome
  exact foldl_keeps (P := fun u : State => u.y = s.y) _ s rfl fun _ _ _ h => h

theorem sliceRoom_y (s : State) (j : Nat) : (s.sliceRoom j).y = s.y := by
  unfold State.sliceRoom
  dsimp only
  split
  · rfl
  · split
    · rfl
    · split
      · exact flushHome_y s _
      · rfl

theorem touchHome_y (s : State) (l : Nat) (c : Option Nat) (t : BitVec 12) : (s.touchHome l c t).y = s.y := by
  have hroom : (if (s.homeLine l).held then s else s.sliceRoom (homeSlice (256 * l)) : State).y = s.y := by
    split
    · rfl
    · exact sliceRoom_y s _
  unfold State.touchHome
  dsimp only
  split_ifs <;> simp_all [flushHome_y, sliceRoom_y]

theorem mergeHome_y (s : State) (l : Nat) (c : Option Nat) (t : BitVec 12) (bs : Sparse Byte) (bad : Bool) :
    (s.mergeHome l c t bs bad).y = s.y := by
  unfold State.mergeHome
  refine foldl_keeps (P := fun u : State => u.y = s.y) _ _ (touchHome_y s l c t) fun u k _ hu => ?_
  split_ifs <;> exact hu

theorem updatePath_y (s : State) (core : Option Nat) (l c : Nat) (t : BitVec 12) (bs : Sparse Byte) (bad : Bool) :
    (s.updatePath core l c t bs bad).y = s.y := by
  unfold State.updatePath
  split <;> rfl

theorem collectCore_y (s : State) (core c l w : Nat) : (s.collectCore core c l w).y = s.y := by
  unfold State.collectCore
  split <;> rfl

theorem dropClean_y (s : State) (core c l k : Nat) : (s.dropClean core c l k).y = s.y := by
  obtain ⟨cs, h⟩ := dropClean_eq s core c l k
  rw [h]

theorem monsKept_wakeLine (s : State) (l : Nat) (c : Option Nat) : MonsKept s (s.wakeLine l c) := by
  refine ⟨_, rfl, fun m => ?_⟩
  split
  · exact ⟨rfl, rfl, fun _ => rfl⟩
  · next h =>
    have hfresh : m.fresh = true → False := fun hf => h (by simp [hf])
    split
    · split
      · split
        · split <;> exact ⟨rfl, rfl, fun hf => (hfresh hf).elim⟩
        · exact ⟨rfl, rfl, fun _ => rfl⟩
      · exact ⟨rfl, rfl, fun _ => rfl⟩
    · exact ⟨rfl, rfl, fun _ => rfl⟩

theorem monsKept_recall (s : State) (l : Nat) : MonsKept s (s.recall l) := by
  unfold State.recall
  split
  · rfl
  · next core _ =>
    refine (MonsKept.of_eq (s' := s.updHome l fun h => { h with owner := none }) rfl).trans (MonsKept.foldl _ _ fun u c => ?_)
    have hsent : ((u.mergeHome l (some c.ctx) c.tensor c.mask false).updatePath (some core) l c.ctx c.tensor c.mask false).y = u.y :=
      (updatePath_y _ _ _ _ _ _ _).trans (mergeHome_y _ _ _ _ _ _)
    refine MonsKept.trans (MonsKept.of_eq (congrArg _ ?_)) (monsKept_wakeLine _ _ _)
    show State.y (if _ then _ else _) = u.y
    split
    · exact hsent
    · rw [collectCore_y]
      exact hsent

theorem monsKept_performHome (s : State) (core : Option Nat) (l c : Nat) (t : BitVec 12) (bs : Sparse Byte) (bad : Bool) :
    MonsKept s (s.performHome core l c t bs bad).1 := by
  have hrec : MonsKept s (if s.ownedBy core l c then s else s.recall l) := by
    split
    · rfl
    · exact monsKept_recall s l
  unfold State.performHome
  split
  · rfl
  · refine hrec.trans ?_
    dsimp only
    generalize (if s.ownedBy core l c then s else s.recall l : State) = u
    have hput : ((u.mergeHome l (some c) t bs bad).updatePath core l c t bs bad).y = u.y :=
      (updatePath_y _ _ _ _ _ _ _).trans (mergeHome_y _ _ _ _ _ _)
    refine MonsKept.trans (MonsKept.of_eq (congrArg _ ?_)) (monsKept_wakeLine _ _ _)
    split <;> exact hput

theorem monsKept_writeBack (s : State) (c : Copy) (sel : Nat → Bool) : MonsKept s (s.writeBack c sel).1 := by
  unfold State.writeBack State.writeBackOf
  dsimp only
  split
  · split
    · rfl
    · refine MonsKept.of_y_right ?_ (collectCore_y _ _ _ _ _)
      exact MonsKept.of_y_left (putCopy_y _ _) (monsKept_performHome _ _ _ _ _ _ _)
  · rfl

theorem monsKept_homeRange (s : State) (core c pa n : Nat) : MonsKept s (s.homeRange core c pa n) := by
  unfold State.homeRange State.homeBytesOf
  split
  · rfl
  · exact monsKept_writeBack _ _ _

theorem monsKept_readHome (s : State) (pa n : Nat) : MonsKept s (s.readHome pa n).1 := MonsKept.foldl _ s monsKept_recall

theorem monsKept_waitValue (s : State) (t : Thread) (a : Acc) (w64 : Bool) : MonsKept s (s.waitValue t a w64).1 := by
  unfold State.waitValue
  split
  · rfl
  · exact ((monsKept_homeRange _ _ _ _ _).trans (.of_eq (congrArg _ (dropClean_y _ _ _ _ _)))).trans (monsKept_readHome _ _ _)

/-! Memory alone changes when a waiter's word is read -/

theorem memOnly_dropClean (s : State) (core c l k : Nat) : MemOnly s (s.dropClean core c l k) := by
  obtain ⟨cs, h⟩ := dropClean_eq s core c l k
  rw [h]
  exact .of_eq rfl rfl rfl rfl rfl rfl

theorem memOnly_homeRange (s : State) (core c pa n : Nat) : MemOnly s (s.homeRange core c pa n) := by
  unfold State.homeRange State.homeBytesOf
  split
  · rfl
  · exact memOnly_writeBackOf _ _ _ _

theorem memOnly_readHome (s : State) (pa n : Nat) : MemOnly s (s.readHome pa n).1 := MemOnly.foldl _ s memOnly_recall

theorem memOnly_waitValue (s : State) (t : Thread) (a : Acc) (w64 : Bool) : MemOnly s (s.waitValue t a w64).1 := by
  unfold State.waitValue
  split
  · rfl
  · exact ((memOnly_homeRange _ _ _ _ _).trans (memOnly_dropClean _ _ _ _ _)).trans (memOnly_readHome _ _ _)

/-! The word that a waiter reads where no core owns a line and none holds masked bytes -/

section
variable {s : State} (ho : s.Ownerless) (hmask : ∀ c ∈ s.m.copies, c.mask = [])
include hmask

theorem homeRange_unmasked (core c pa n : Nat) : s.homeRange core c pa n = s := by
  unfold State.homeRange State.homeBytesOf
  split
  · rfl
  · next k hk =>
    have hk' : k.mask = [] := hmask k (List.mem_of_find?_eq_some hk)
    unfold State.writeBack State.writeBackOf
    rw [hk']
    dsimp only
    split <;> rfl

include ho

theorem waitValue_unmasked {t : Thread} {a : Acc} (hw : isWindow a.pa = false) (w64 : Bool) : s.waitValue t a w64 =
    (s.dropClean t.core t.ctx (a.pa / 256) (a.pa % 256 / 64), s.homeWord a.pa w64) := by
  obtain ⟨cs, hdrop⟩ := dropClean_eq s t.core t.ctx (a.pa / 256) (a.pa % 256 / 64)
  have howner : State.Ownerless { s with m := { s.m with copies := cs } } := ho
  unfold State.waitValue
  rw [hw, homeRange_unmasked hmask]
  dsimp only
  rw [hdrop, readHome_ownerless howner]
  rfl

end

end Sys2Proof.Machine
end

/-! Atomics, reductions and WAITC at issue (O18). -/

section

namespace Sys2Proof.Machine

/-! What couching a reduction raises: no code -/

theorem launchTrap_x (s : State) (lid : Nat) (r : BitVec 512) : (s.launchTrap lid r).x = s.x := by
  unfold State.launchTrap
  split
  · rfl
  · split_ifs
    · rfl
    · exact (freeze_x_m ..).1
    · rfl

theorem couchTrap_threads (s : State) (tm : Team) : (s.couchTrap tm).x.threads = s.x.threads := by
  unfold State.couchTrap
  split
  · rfl
  · split
    · rfl
    · exact congrArg (·.threads) (launchTrap_x _ _ _)

theorem flushTeam_threads (s : State) (tm : Team) : (s.flushTeam tm).x.threads = s.x.threads := by
  unfold State.flushTeam
  dsimp only
  split <;> rfl

theorem calm_couchAdd {s : State} (h : s.calm) (core : Nat) (e : CouchEntry) : (s.couchAdd core e).calm := by
  unfold State.couchAdd
  refine calm_of_threads (s := if (s.couchBuf core).length < 4096 then s else _) ?_ rfl
  split
  · exact h
  · split
    · exact h
    · dsimp only
      split
      · next hfit => exact (spillTeam_of_fits hfit).1.calm (calm_of_threads h rfl)
      · exact calm_of_threads h ((couchTrap_threads _ _).trans (flushTeam_threads _ _))

/-! Atomics and reductions -/

/-- The digest's stream is no part of what makes a thread a shadow's. -/
theorem streamAdd_inShadow (s : State) (t u : Thread) (ord : Nat) (va : DWord) (w : Nat) (bs : List Byte) :
    ((s.streamAdd t ord va w bs).inShadow u).isSome = (s.inShadow u).isSome := by
  unfold State.streamAdd
  split
  · split
    · simp only [State.inShadow, State.teamOf]
      cases u.team with
      | none => rfl
      | some k =>
        simp only [Option.bind_some]
        rw [team?_updTeam fun _ => by rfl]
        cases s.team? k with
        | none => rfl
        | some tm =>
          simp only [Option.map_some, Option.bind_some]
          split <;> split <;> simp_all
    · rfl
  · rfl

theorem pushRecord_teams (s : State) (r : BitVec 512) : (s.pushRecord r).x.teams = s.x.teams := by
  unfold State.pushRecord
  dsimp only
  split
  · rfl
  · exact (memOnly_physStore s _ _).teams

theorem recordAtom_teams (s : State) (t : Thread) (event : Nat) (a : Acc) (bs : List Byte) :
    (s.recordAtom t event a bs).x.teams = s.x.teams := by
  unfold State.recordAtom State.recordWrite State.recordEvent State.emit
  split_ifs
  · rfl
  · rfl
  · rfl
  · exact foldl_keeps (P := fun u : State => u.x.teams = s.x.teams) _ _ rfl fun u r _ hu => (pushRecord_teams u r).trans hu
  · rfl

theorem recordAtom_inShadow (s : State) (t u : Thread) (event : Nat) (a : Acc) (bs : List Byte) :
    (s.recordAtom t event a bs).inShadow u = s.inShadow u := by
  unfold State.inShadow State.teamOf State.team?
  rw [recordAtom_teams]

/-- Value of an operand of an atomic (R224, R225). -/
def atomOperand (t : Thread) (w64 : Bool) (d k : Nat) : DWord :=
  if w64 then t.pair (d + 2 * k) else (t.vget (d + k)).zeroExtend 64

section
variable {s s1 : State} {t : Thread} {c : Ctl} {w64 : Bool} {d : VReg} {ad : MAddr} {sc : BitVec 3} {p : DWord} {tensor : BitVec 12}
  {a : Acc} (hs : s.solo c.grd t) (hc : s.calm) (hp : s.plain t)

section
variable (hat : s.maddr t ad (opWidth w64) true = .ok (.at_ p, tensor))
  (h : s.checked t p (opWidth w64) true true tensor 2 s1 a)
include hp hat h

theorem atomLane_checked (operand : List Byte) (k : Acc → FlightOp) :
    s.atomLane t c w64 d ad operand k = .ok ((s1.recordAtom t 1 a operand).launchFlight t c (k a)) := by
  unfold State.atomLane
  simp [hp.inShadow, hp.quiet, hat, alignTo_ok h.1, access_checked hp h, bind, Except.bind]

include hs hc

theorem exec_atom_checked (op : AtomOp) (hb : t.inBlocks ((d, opWidth w64 / 4) :: maddrRuns ad) = true) :
    exec (.atom c w64 op d ad sc) s = .next ((s1.recordAtom t 1 a (loBytes (opWidth w64) (atomOperand t w64 d.toNat 0))).launchFlight t c
      (.atom a w64 op (atomOperand t w64 d.toNat 0) d.toNat)) :=
  next_lanes_solo hs hb (atomLane_checked hp hat h _ _) (calm_launchFlight (calm_recordAtom (h.memOnly.calm hc) _ _ _ _) _ _ _)

theorem exec_atomc_checked (hb : t.inBlocks ((d, opWidth w64 / 2) :: maddrRuns ad) = true) :
    exec (.atomc c w64 d ad sc) s = .next ((s1.recordAtom t 1 a (loBytes (opWidth w64) (atomOperand t w64 d.toNat 1))).launchFlight t c
      (.atomc a w64 (atomOperand t w64 d.toNat 0) (atomOperand t w64 d.toNat 1) d.toNat)) :=
  next_lanes_solo hs hb (atomLane_checked hp hat h _ _) (calm_launchFlight (calm_recordAtom (h.memOnly.calm hc) _ _ _ _) _ _ _)

end

/-- The state after a reduction's record and its place in the digest's stream. -/
def State.reducing (s1 : State) (t : Thread) (p : DWord) (a : Acc) (w64 : Bool) (x : DWord) : State :=
  (s1.recordAtom t 2 a (loBytes (opWidth w64) x)).streamAdd t s1.x.nextUid p (opWidth w64) (loBytes (opWidth w64) x)

theorem calm_reducing (hc : s1.calm) (x : DWord) : (s1.reducing t p a w64 x).calm :=
  calm_streamAdd (calm_recordAtom hc _ _ _ _) _ _ _ _ _

/-- The state after a reduction has entered its core's Couching buffer, numbered in the thread's order (R107). -/
def State.couching (s : State) (t : Thread) (a : Acc) (op : AtomOp) (w64 : Bool) (x : DWord) : State :=
  (s.updThread t.uid fun u => { u with couch := u.couch + 1 }).couchAdd t.core (s.couchOf t a op w64 x t.couch false)

theorem calm_couching (hc : s.calm) (op : AtomOp) (x : DWord) : (s.couching t a op w64 x).calm :=
  calm_couchAdd (calm_updThread hc fun _ => by rfl) _ _

theorem reducing_inShadow (hp : s1.plain t) (x : DWord) : ((s1.reducing t p a w64 x).inShadow t).isSome = false := by
  rw [State.reducing, streamAdd_inShadow, recordAtom_inShadow, hp.inShadow]
  rfl

section
variable (hb : t.inBlocks ((d, opWidth w64 / 4) :: maddrRuns ad) = true)
  (hat : s.maddr t ad (opWidth w64) true = .ok (.at_ p, tensor)) (h : s.checked t p (opWidth w64) true false tensor 2 s1 a)
include hs hc hp hb hat h

theorem exec_red_flies (op : AtomOp) (hd : (s1.reducing t p a w64 (atomOperand t w64 d.toNat 0)).det t = false) :
    exec (.red c w64 op d ad sc) s = .next ((s1.reducing t p a w64 (atomOperand t w64 d.toNat 0)).launchFlight t c
      (.red a w64 op (atomOperand t w64 d.toNat 0))) := by
  have hshadow := reducing_inShadow (p := p) (a := a) (w64 := w64) (hp.memOnly h.memOnly) (atomOperand t w64 d.toNat 0)
  refine next_lanesNoHelper_solo hs hp.2.1 hb ?_ (calm_launchFlight (calm_reducing (h.memOnly.calm hc) _) _ _ _)
  simp only [hat, alignTo_ok h.1, access_checked hp h, bind, Except.bind]
  unfold State.reducing at hshadow hd
  simp only [atomOperand, Nat.mul_zero, Nat.add_zero] at hshadow hd ⊢
  simp only [hshadow, hd, Bool.false_and, Bool.false_eq_true, if_false, State.reducing]

theorem exec_red_couched (op : AtomOp) (hd : (s1.reducing t p a w64 (atomOperand t w64 d.toNat 0)).det t = true)
    (hw : isWindow a.pa = false) : exec (.red c w64 op d ad sc) s = .next
      ((s1.reducing t p a w64 (atomOperand t w64 d.toNat 0)).couching t a op w64 (atomOperand t w64 d.toNat 0)) := by
  have hshadow := reducing_inShadow (p := p) (a := a) (w64 := w64) (hp.memOnly h.memOnly) (atomOperand t w64 d.toNat 0)
  refine next_lanesNoHelper_solo hs hp.2.1 hb ?_ (calm_couching (calm_reducing (h.memOnly.calm hc) _) _ _)
  simp only [hat, alignTo_ok h.1, access_checked hp h, bind, Except.bind]
  unfold State.reducing at hshadow hd
  simp only [atomOperand, Nat.mul_zero, Nat.add_zero] at hshadow hd ⊢
  simp only [hshadow, hd, hp.team, hp.isReplay, hw, Bool.not_false, Bool.and_self, Bool.false_eq_true, if_false, if_true,
    State.reducing, State.couching]

end

/-! Out of the bounds of a ROBUST buffer -/

section
variable (hb : t.inBlocks ((d, opWidth w64 / 4) :: maddrRuns ad) = true)
  (hat : s.maddr t ad (opWidth w64) true = .ok (.robust, tensor))
include hs hc hp hb hat

theorem exec_red_robust (op : AtomOp) : exec (.red c w64 op d ad sc) s = .next s := by
  refine next_lanesNoHelper_solo hs hp.2.1 hb ?_ hc
  simp only [hat, bind, Except.bind]

theorem exec_atom_robust (op : AtomOp) : exec (.atom c w64 op d ad sc) s = .next (s.launchFlight t c
    (.sampled ((List.range (opWidth w64 / 4)).map fun k => (d.toNat + k, 0#32)) [])) := by
  refine next_lanes_solo hs hb ?_ (calm_launchFlight hc _ _ _)
  unfold State.atomLane
  simp [hp.inShadow, hp.quiet, hat, bind, Except.bind]

end
end

end Sys2Proof.Machine
end

/-! WAITC at issue (O18): its first evaluation, the monitor that it leaves, and the thread that it parks. -/

section

namespace Sys2Proof.Machine

/-! The flight that a word puts last -/

/-- The flight that a word of a thread puts in flight. -/
def State.launched (s : State) (t : Thread) (c : Ctl) (op : FlightOp) : Flight :=
  ⟨s.x.nextUid, ((s.x.issues.find? fun i => i.core == t.core && i.slice == t.slice).map Issue.stamp).getD 0, t.uid, t.site,
    if c.qe then some c.qc.toNat else none, c.la.toNat, op, false, [], none⟩

theorem launchFlight_launched (s : State) (t : Thread) (c : Ctl) (op : FlightOp) :
    (s.launchFlight t c op).x.flights = s.x.flights ++ [s.launched t c op] := by
  unfold State.launchFlight State.launched
  dsimp only
  split <;> rfl

/-- The thread of a uid once its word is in flight: its counter has risen, where the word has one. -/
theorem launchFlight_thread {s : State} {t u : Thread} (ht : s.thread? t.uid = some u) (c : Ctl) (op : FlightOp) :
    ∃ q, (s.launchFlight t c op).thread? t.uid = some { u with q := q } := by
  unfold State.launchFlight
  dsimp only
  split
  · next i _ =>
    rw [thread?_updThread fun _ => by rfl]
    refine ⟨u.q.modify i (· + 1), ?_⟩
    unfold State.thread? at ht ⊢
    dsimp only
    rw [ht]
    simp [Thread.qadd]
  · exact ⟨u.q, ht⟩

/-- An element that stands last, and first of those at which a test holds. -/
theorem find?_append_last {α : Type} {p : α → Bool} {l : List α} {a : α} (hl : ∀ x ∈ l, p x = false) (ha : p a = true) :
    (l ++ [a]).find? p = some a := by
  rw [List.find?_append, List.find?_eq_none.2 (by simpa using hl), List.find?_cons_of_pos ha]
  rfl

/-! WAITC in flight -/

/-- The expected value of a WAITC. -/
def waitKey (t : Thread) (w64 : Bool) (d : Nat) : DWord := if w64 then t.pair d else (t.vget d).zeroExtend 64

/-- The deadline of a WAITC; none with a timeout of zero (R229). -/
def State.waitDeadline (s : State) (t : Thread) (d : Nat) : Option Nat :=
  if (t.vget (d + 2)).toNat == 0 then none else some (s.timeOf t + (t.vget (d + 2)).toNat)

/-- A WAITC's operation. -/
def waitOp (t : Thread) (w64 : Bool) (cond : Cond) (u : Bool) (d : Nat) (a : Acc) : FlightOp :=
  .waitc a w64 cond u (waitKey t w64 d) d ((t.vget (d + 3)).toNat % 64)

/-- The monitor of a WAITC that is still to be evaluated. -/
def State.waitMonitor (s : State) (t : Thread) (d : Nat) (a : Acc) : Monitor :=
  ⟨s.x.nextUid, homeSlice a.pa, s.waitDeadline t d, false, none, true, s.x.clk⟩

/-- The state with a WAITC in flight, to be evaluated. -/
def State.awaiting (s : State) (t : Thread) (c : Ctl) (op : FlightOp) (m : Monitor) : State :=
  { s.launchFlight t c op with y := { (s.launchFlight t c op).y with monitors := (s.launchFlight t c op).y.monitors ++ [m] } }

theorem waitLane_eq (s : State) (t : Thread) (c : Ctl) (w64 : Bool) (cond : Cond) (u : Bool) (d : Nat) (a : Acc) :
    s.waitLane t c w64 cond u d a =
      let s2 := s.awaiting t c (waitOp t w64 cond u d a) (s.waitMonitor t d a)
      let s3 := match s2.flight? s.x.nextUid with
        | some f => s2.waitEval f
        | none => s2
      if (s3.wokenOf s.x.nextUid).isSome then s3 else s3.updThread t.uid fun t => { t with status := .parkedMon } := by
  have hclk : (s.launchFlight t c (waitOp t w64 cond u d a)).x.clk = s.x.clk := (launchFlight_kept s t c _).clk
  unfold State.waitLane State.awaiting State.waitMonitor
  rw [← hclk]
  rfl

section
variable {s : State} {t : Thread} {c : Ctl} {op : FlightOp} {m : Monitor}

theorem awaiting_m : (s.awaiting t c op m).m = s.m := (launchFlight_kept s t c op).m
theorem awaiting_e : (s.awaiting t c op m).e = s.e := (launchFlight_kept s t c op).e
theorem awaiting_b : (s.awaiting t c op m).b = s.b := (launchFlight_kept s t c op).b
theorem awaiting_monitors : (s.awaiting t c op m).y.monitors = s.y.monitors ++ [m] := by
  unfold State.awaiting
  rw [(launchFlight_kept s t c op).y]
theorem awaiting_flights : (s.awaiting t c op m).x.flights = s.x.flights ++ [s.launched t c op] := launchFlight_launched s t c op
theorem awaiting_thread {u : Thread} (ht : s.thread? t.uid = some u) :
    ∃ q, (s.awaiting t c op m).thread? t.uid = some { u with q := q } := launchFlight_thread ht c op
theorem calm_awaiting (hc : s.calm) : (s.awaiting t c op m).calm := calm_of_threads (calm_launchFlight hc t c op) rfl

theorem awaiting_flight? (hf : ∀ f ∈ s.x.flights, f.uid < s.x.nextUid) :
    (s.awaiting t c op m).flight? s.x.nextUid = some (s.launched t c op) := by
  unfold State.flight?
  rw [awaiting_flights]
  refine find?_append_last (fun f hf' => ?_) (beq_self_eq_true _)
  exact beq_eq_false_iff_ne.2 (Nat.ne_of_lt (hf f hf'))

/-- What comes before a word whose thread has nothing else in flight at its bytes: nothing. -/
theorem awaiting_accessFirst (hf : ∀ f ∈ s.x.flights, f.uid < s.x.nextUid ∧ f.thread ≠ t.uid ∧ f.op.ranges = [])
    (hrays : s.e.rays = []) : (s.awaiting t c op m).accessFirst (s.launched t c op) = true := by
  have hfl := awaiting_flights (s := s) (t := t) (c := c) (op := op) (m := m)
  have hr : (s.awaiting t c op m).e.rays = [] := by rw [awaiting_e]; exact hrays
  have hown : (s.awaiting t c op m).ownFirst (s.launched t c op) = true := by
    unfold State.ownFirst State.shadowAhead
    rw [hfl, hr]
    simp only [List.all_append, List.all_cons, List.all_nil, List.any_nil, Bool.false_and, Bool.and_true, Bool.and_false, Bool.not_false,
      Nat.lt_irrefl, decide_false, List.all_eq_true, Bool.and_eq_true]
    refine ⟨fun f hf' => ?_, ?_⟩
    · obtain ⟨-, hne, -⟩ := hf f hf'
      simp [State.launched, hne]
    · cases (s.awaiting t c op m).thread? (s.launched t c op).thread <;> simp
  have hword : ∀ g ∈ (s.awaiting t c op m).sameWord (s.launched t c op), g = s.launched t c op := by
    intro g hg
    obtain ⟨hmem, htest⟩ := List.mem_filter.1 hg
    rw [hfl] at hmem
    rcases List.mem_append.1 hmem with hold | hnew
    · obtain ⟨hlt, -⟩ := hf g hold
      simp only [Bool.and_eq_true, decide_eq_true_eq] at htest
      exact absurd htest.1.2 (Nat.not_le.2 hlt)
    · exact List.mem_singleton.1 hnew
  unfold State.accessFirst
  rw [hown, hfl]
  simp only [List.all_append, List.all_cons, List.all_nil, Nat.lt_irrefl, decide_false, Bool.false_and, Bool.not_false, Bool.and_true,
    List.all_eq_true, Bool.and_eq_true]
  refine ⟨fun f hf' => ?_, fun g hg => by rw [hword g hg]; exact hown⟩
  obtain ⟨-, -, hranges⟩ := hf f hf'
  simp [overlaps, hranges]

end

/-- Poison at home depends on memory, and on the links. -/
theorem poisonSeen_home (s : State) (core ctx pa n : Nat) :
    s.poisonSeen core ctx pa n true = (!isWindow pa && (s.hostDown pa || s.poisoned pa)) := by
  unfold State.poisonSeen
  cases isWindow pa <;> cases s.hostDown pa <;> rfl

/-! The first evaluation -/

/-- What an evaluation makes of the flight's monitor (R96). -/
def Monitor.evaluated (m : Monitor) (holds room : Bool) (v : DWord) (clk : Nat) : Monitor :=
  if holds then { m with woken := some (v, true), fresh := false }
  else { m with monitor := if m.fresh then room else m.monitor, fresh := false, last := clk }

theorem evaluated_flight (m : Monitor) (holds room : Bool) (v : DWord) (clk : Nat) : (m.evaluated holds room v clk).flight = m.flight := by
  unfold Monitor.evaluated
  split <;> rfl

theorem evaluated_deadline (m : Monitor) (holds room : Bool) (v : DWord) (clk : Nat) :
    (m.evaluated holds room v clk).deadline = m.deadline := by
  unfold Monitor.evaluated
  split <;> rfl

theorem evaluated_woken (m : Monitor) (holds room : Bool) (v : DWord) (clk : Nat) :
    (m.evaluated holds room v clk).woken = if holds then some (v, true) else m.woken := by
  unfold Monitor.evaluated
  split <;> rfl

/-- A waiter whose accesses come first, and whose word carries no poison, is evaluated. -/
theorem waitEval_eq {s : State} {f : Flight} {t : Thread} {a : Acc} {w64 u : Bool} {cond : Cond} {k : DWord} {d p : Nat}
    (hop : f.op = .waitc a w64 cond u k d p) (ht : s.thread? f.thread = some t) (hst : f.stalled = none)
    (hfirst : s.accessFirst f = true) (hpoison : s.poisonSeen t.core t.ctx a.pa (opWidth w64) true = false) :
    s.waitEval f = (s.waitValue t a w64).1.updMonitor f.uid fun m =>
      m.evaluated (waitHolds w64 cond u (s.waitValue t a w64).2 k) ((s.waitValue t a w64).1.monitorRoom a) (s.waitValue t a w64).2 s.x.clk := by
  unfold State.waitEval
  simp only [hop, ht, hst, hfirst, hpoison, Option.isSome_none, Bool.not_true, Bool.or_self, Bool.false_eq_true, if_false]
  rfl

/-- The monitor that stands last, and is still to be evaluated, once it has been. -/
theorem find?_evaluated {s s2 : State} {m : Monitor} {g : Monitor → Monitor} (hmons : s2.y.monitors = s.y.monitors ++ [m])
    (hlt : ∀ n ∈ s.y.monitors, n.flight < m.flight) (hm : m.fresh = true) {s3 : State} (hkept : MonsKept s2 s3)
    (hg : ∀ n, (g n).flight = n.flight) :
    g m ∈ (s3.updMonitor m.flight g).y.monitors ∧
      ((s3.updMonitor m.flight g).y.monitors.find? fun n => n.flight == m.flight) = some (g m) := by
  obtain ⟨k, hk, hk'⟩ := hkept
  have hlist : (s3.updMonitor m.flight g).y.monitors =
      (s.y.monitors.map fun n => if (k n).flight == m.flight then g (k n) else k n) ++ [g m] := by
    unfold State.updMonitor
    simp only [hk, hmons, List.map_append, List.map_map, List.map_cons, List.map_nil, (hk' m).2.2 hm, beq_self_eq_true, if_true]
    rfl
  rw [hlist]
  refine ⟨List.mem_append_right _ (List.mem_singleton_self _), find?_append_last (fun n hn => ?_) (by simp [hg])⟩
  obtain ⟨o, ho, rfl⟩ := List.mem_map.1 hn
  have hne : o.flight ≠ m.flight := Nat.ne_of_lt (hlt o ho)
  simp [(hk' o).1, hne]

/-- What a WAITC leaves at issue, of a thread that has nothing else to wait for. -/
theorem waitLane_leaves {s : State} {t u : Thread} {c : Ctl} {w64 un : Bool} {cond : Cond} {d : Nat} {a : Acc}
    (hc : s.calm) (ht : s.thread? t.uid = some u)
    (hmons : ∀ m ∈ s.y.monitors, m.flight < s.x.nextUid)
    (hf : ∀ f ∈ s.x.flights, f.uid < s.x.nextUid ∧ f.thread ≠ t.uid ∧ f.op.ranges = []) (hrays : s.e.rays = [])
    (hpoison : s.poisonSeen t.core t.ctx a.pa (opWidth w64) true = false) :
    ∃ m t', (s.waitLane t c w64 cond un d a).calm ∧
      s.launched t c (waitOp t w64 cond un d a) ∈ (s.waitLane t c w64 cond un d a).x.flights ∧
      m ∈ (s.waitLane t c w64 cond un d a).y.monitors ∧ m.flight = s.x.nextUid ∧ m.deadline = s.waitDeadline t d ∧
      (s.waitLane t c w64 cond un d a).thread? t.uid = some t' ∧ t'.v = u.v ∧
      (m.woken = none → t'.status = .parkedMon) ∧ (m.woken.isSome = true → t'.status = u.status) ∧
      (s.Ownerless → (∀ k ∈ s.m.copies, k.mask = []) → isWindow a.pa = false →
        m.woken = if waitHolds w64 cond un (s.homeWord a.pa w64) (waitKey t w64 d) then some (s.homeWord a.pa w64, true) else none) := by
  let s2 := s.awaiting t c (waitOp t w64 cond un d a) (s.waitMonitor t d a)
  let f := s.launched t c (waitOp t w64 cond un d a)
  obtain ⟨q, ht2⟩ : ∃ q, s2.thread? t.uid = some { u with q := q } := awaiting_thread ht
  let u2 : Thread := { u with q := q }
  have hpoison2 : s2.poisonSeen u2.core u2.ctx a.pa (opWidth w64) true = false := by
    rw [poisonSeen_home] at hpoison ⊢
    have hdown : s2.hostDown a.pa = s.hostDown a.pa := by unfold State.hostDown; rw [awaiting_b]
    have hbad : s2.poisoned a.pa = s.poisoned a.pa := by unfold State.poisoned; rw [awaiting_m]
    rw [hdown, hbad]
    exact hpoison
  have heval : s2.waitEval f = _ := waitEval_eq (p := (t.vget (d + 3)).toNat % 64) rfl ht2 rfl (awaiting_accessFirst hf hrays) hpoison2
  have hlane : s.waitLane t c w64 cond un d a = if ((s2.waitEval f).wokenOf s.x.nextUid).isSome then s2.waitEval f
      else (s2.waitEval f).updThread t.uid fun t => { t with status := .parkedMon } := by
    rw [waitLane_eq]
    dsimp only
    rw [awaiting_flight? fun f hf' => (hf f hf').1]
  have hvalue := memOnly_waitValue s2 u2 a w64
  let m0 := s.waitMonitor t d a
  let g : Monitor → Monitor := fun m => m.evaluated (waitHolds w64 cond un (s2.waitValue u2 a w64).2 (waitKey t w64 d))
    ((s2.waitValue u2 a w64).1.monitorRoom a) (s2.waitValue u2 a w64).2 s2.x.clk
  have heval' : s2.waitEval f = (s2.waitValue u2 a w64).1.updMonitor m0.flight g := heval
  obtain ⟨hmem, hfind⟩ := find?_evaluated (m := m0) (g := g) awaiting_monitors hmons rfl (monsKept_waitValue s2 u2 a w64)
    fun n => evaluated_flight n _ _ _ _
  rw [← heval'] at hmem hfind
  have hwoken : (s2.waitEval f).wokenOf s.x.nextUid = (g m0).woken := by
    unfold State.wokenOf
    rw [show s.x.nextUid = m0.flight from rfl, hfind]
    rfl
  obtain ⟨w, ht3⟩ : ∃ w, (s2.waitEval f).thread? t.uid = some { u2 with wct := w } := by
    rw [heval']
    exact hvalue.thread? ht2
  have hfl : f ∈ (s2.waitEval f).x.flights := by
    have hlast : f ∈ s2.x.flights := by
      rw [awaiting_flights]
      exact List.mem_append_right _ (List.mem_singleton_self _)
    rw [heval']
    show f ∈ (s2.waitValue u2 a w64).1.x.flights
    rw [hvalue.flights]
    exact hlast
  have hcalm : (s2.waitEval f).calm := by
    rw [heval']
    exact calm_of_threads (hvalue.calm (calm_awaiting hc)) rfl
  have hvalue' : s.Ownerless → (∀ k ∈ s.m.copies, k.mask = []) → isWindow a.pa = false →
      (g m0).woken = if waitHolds w64 cond un (s.homeWord a.pa w64) (waitKey t w64 d) then some (s.homeWord a.pa w64, true) else none := by
    intro ho hmask hw
    have hm2 : s2.m = s.m := awaiting_m
    have ho2 : s2.Ownerless := fun l => by unfold State.homeLine; rw [hm2]; exact ho l
    have hmask2 : ∀ k ∈ s2.m.copies, k.mask = [] := by rw [hm2]; exact hmask
    have hword : s2.homeWord a.pa w64 = s.homeWord a.pa w64 := by
      unfold State.homeWord State.homeBytes State.homeByte State.homeLine State.dramByte
      rw [hm2]
    rw [evaluated_woken, waitValue_unmasked ho2 hmask2 hw, hword]
    rfl
  have hflight : (g m0).flight = s.x.nextUid := evaluated_flight _ _ _ _ _
  have hdeadline : (g m0).deadline = s.waitDeadline t d := evaluated_deadline _ _ _ _ _
  rw [hlane, hwoken]
  cases hwk : (g m0).woken with
  | none =>
    refine ⟨g m0, { { u2 with wct := w } with status := .parkedMon }, calm_updThread hcalm fun _ => by rfl, hfl, hmem, hflight, hdeadline,
      ?_, rfl, fun _ => rfl, fun h => absurd h (by simp [hwk]), hvalue'⟩
    simp only [Option.isSome_none, Bool.false_eq_true, if_false]
    rw [thread?_updThread fun _ => by rfl, ht3]
    simp
  | some v =>
    exact ⟨g m0, { u2 with wct := w }, hcalm, hfl, hmem, hflight, hdeadline, ht3, rfl, fun h => absurd (hwk.symm.trans h) nofun, fun _ => rfl,
      hvalue'⟩

end Sys2Proof.Machine

namespace Sys2Proof

open Machine

/-- A WAITC whose access its checks allow is evaluated. -/
theorem exec_waitc_checked {s s1 : State} {t : Thread} {c : Ctl} {w64 u : Bool} {cond : Cond} {d addr : VReg} {off : BitVec 14}
    {sc : BitVec 3} {a : Acc} (hs : s.solo c.grd t) (hp : s.plain t) (hb : t.inBlocks [(addr, 2), (d, 4)] = true)
    (h : s.checked t (ptrAddr t addr off) (opWidth w64) false true 0#12 2 s1 a) (hc : (s1.waitLane t c w64 cond u d.toNat a).calm) :
    exec (.waitc c w64 cond u d addr off sc) s = .next (s1.waitLane t c w64 cond u d.toNat a) := by
  refine next_lanes_solo hs hb ?_ hc
  simp only [hp.inShadow, alignTo_ok h.1, access_checked hp h, bind, Except.bind]

/-- Settles O18: each word's lane by what its checks answer; the first evaluation of a WAITC by what comes before it in flight, which
is nothing. Out of the bounds of a ROBUST buffer the old value zero of ATOM is the model's (log 33). -/
theorem atomicAndWaitIssue : Obligations.AtomicAndWaitIssue := by
  refine ⟨fun s s1 t c w64 op d addr off ad sc p tensor a hs hc hp => ⟨rfl, fun hb hat => ⟨fun h => ⟨?_, fun hb2 => ?_⟩,
      fun h => ⟨fun hd => ?_, fun hd hw => ?_⟩⟩, fun hb hat => ⟨?_, ?_⟩⟩,
    fun s s1 t c w64 cond u d addr off sc a hs hc hp hb h hmons hf hrays huniq => ?_⟩
  · exact exec_atom_checked hs hc hp hat h op hb
  · exact exec_atomc_checked hs hc hp hat h hb2
  · exact exec_red_flies hs hc hp hb hat h op hd
  · exact exec_red_couched hs hc hp hb hat h op hd hw
  · exact exec_red_robust hs hc hp hb hat op
  · exact exec_atom_robust hs hc hp hb hat op
  · have hm := h.memOnly
    obtain ⟨w, ht⟩ := hm.thread? hs.2.1
    have hscope : a.scope = 2 := (pageCheck_go (threadCheck_go h.2.1)).2.2.1
    have hhome : a.atHome = true := by simp [Acc.atHome, hscope]
    have hpoison : s1.poisonSeen t.core t.ctx a.pa (opWidth w64) true = false := by rw [← hhome]; exact h.2.2.1 rfl
    obtain ⟨m, t', hcalm, hfl, hmem, hflight, hdeadline, ht', hv, hnone, hsome, hvalue⟩ :=
      waitLane_leaves (c := c) (un := u) (cond := cond) (d := d.toNat) (hm.calm hc) ht hmons hf hrays hpoison
    have htime : s1.timeOf t = s.timeOf t := by
      obtain ⟨w, hx⟩ := hm.x
      unfold State.timeOf State.now
      rw [hx]
    refine ⟨_, _, m, t', exec_waitc_checked hs hp hb h hcalm, hfl, rfl, rfl, hmem, hflight, ?_, ht', hv, hnone, hsome,
      fun ho hmask hw => ?_⟩
    · rw [hdeadline, State.waitDeadline, htime]
      simp only [beq_iff_eq]
      rfl
    · have hx : XlatOnly s s1 := by
        have hxl := xlatOnly_threadCheck ho t (ptrAddr t addr off) (opWidth w64) false true 0#12 2
        rwa [show s.threadCheck t (ptrAddr t addr off) (opWidth w64) false true 0#12 2 = _ from h.2.1] at hxl
      dsimp only
      rw [hvalue (hx.ownerless ho) (by rw [hx.copies]; exact hmask) hw, hx.homeWord]
      rfl

end Sys2Proof
end

/-! What bytes that go home make of the bytes there (R76), where no core owns a line. -/

section

namespace Sys2Proof.Machine

/-! Sparse bytes -/

theorem sget_filter (m : Sparse Byte) (f : Nat → Bool) (k : Nat) :
    sget (m.filter fun p => f p.1) k = if f k then sget m k else none := by
  induction m with
  | nil => simp [sget]
  | cons p r ih =>
    obtain ⟨j, v⟩ := p
    by_cases hf : f j = true
    · rw [List.filter_cons_of_pos (by exact hf)]
      unfold sget
      rw [ih]
      by_cases hj : j = k
      · subst hj; simp [hf]
      · simp [hj]
    · rw [List.filter_cons_of_neg (by exact hf), ih]
      by_cases hj : j = k
      · subst hj; simp [hf]
      · simp [sget, hj]

/-- What a line holds after rising bytes have been put over it. -/
theorem sget_puts : ∀ (bs : Sparse Byte) (m : Sparse Byte), srising bs = true → ∀ k,
    sget (bs.foldl (fun m p => sput m p.1 p.2) m) k = (sget bs k).or (sget m k)
  | [], m, _, k => rfl
  | (j, v) :: r, m, h, k => by
    obtain ⟨hlt, hr⟩ := (srising_cons j v r).1 h
    rw [List.foldl_cons, sget_puts r _ hr k]
    by_cases hj : k = j
    · subst hj
      rw [sget_of_lt hlt, sget_sput_self]
      simp [sget]
    · rw [sget_sput_other v hj]
      simp [sget, Ne.symm hj]

/-- Bytes at rising offsets. -/
def bytesAt (off : Nat) (bs : List Byte) : Sparse Byte := bs.zipIdx.map fun b => (off + b.2, b.1)

theorem zipIdx_rising (off : Nat) : ∀ (bs : List Byte) (n : Nat), srising ((bs.zipIdx n).map fun b => (off + b.2, b.1)) = true
  | [], _ => rfl
  | b :: bs, n => by
    rw [List.zipIdx_cons, List.map_cons]
    refine (srising_cons _ _ _).2 ⟨fun p hp => ?_, zipIdx_rising off bs (n + 1)⟩
    obtain ⟨q, hq, rfl⟩ := List.mem_map.1 hp
    have := (List.mem_zipIdx hq).1
    dsimp only
    omega

theorem zipIdx_sget (off k : Nat) : ∀ (bs : List Byte) (n : Nat), sget ((bs.zipIdx n).map fun b => (off + b.2, b.1)) k =
    if off + n ≤ k ∧ k < off + n + bs.length then bs[k - (off + n)]? else none
  | [], n => by simp [sget]
  | b :: bs, n => by
    rw [List.zipIdx_cons, List.map_cons, List.length_cons]
    unfold sget
    rw [zipIdx_sget off k bs (n + 1)]
    rcases Nat.lt_trichotomy k (off + n) with hlt | rfl | hgt
    · rw [if_neg (by simp; omega), if_neg (by omega), if_neg (by omega)]
    · rw [if_pos (by simp), if_pos (by omega)]
      simp
    · have hsub : k - (off + n) = k - (off + (n + 1)) + 1 := by omega
      rw [if_neg (by simp; omega), hsub, List.getElem?_cons_succ]
      exact if_congr (by omega) rfl rfl

theorem bytesAt_lineWf {off : Nat} {bs : List Byte} (h : off + bs.length ≤ 256) : Memory.lineWf (bytesAt off bs) = true := by
  refine (lineWf_iff _).2 ⟨zipIdx_rising off bs 0, fun p hp => ?_⟩
  obtain ⟨q, hq, rfl⟩ := List.mem_map.1 hp
  have := (List.mem_zipIdx hq).2.1
  dsimp only
  omega

theorem sget_bytesAt (off k : Nat) (bs : List Byte) :
    sget (bytesAt off bs) k = if off ≤ k ∧ k < off + bs.length then bs[k - off]? else none := zipIdx_sget off k bs 0

/-! Bytes that go home -/

/-- From `s` to `s'` memory stays canonical, each line keeps its owner, and home holds some bytes and else what it held. -/
structure HomePut (g : Nat → Option Byte) (s s' : State) : Prop where
  wf : s'.Wf
  owner : ∀ l, (s'.homeLine l).owner = (s.homeLine l).owner
  byte : ∀ q, s'.homeByte q = (g q).getD (s.homeByte q)

/-- Nothing goes home. -/
abbrev HomeSame (s s' : State) : Prop := HomePut (fun _ => none) s s'

namespace HomePut

theorem of_kept {s s' : State} (h : ∀ q, HomeKept q s s') : HomeSame s s' := ⟨(h 0).wf, (h 0).owner, fun q => (h q).byte⟩

theorem refl {s : State} (h : s.Wf) : HomeSame s s := ⟨h, fun _ => rfl, fun _ => rfl⟩

theorem trans {g k : Nat → Option Byte} {s t u : State} (h : HomePut g s t) (h' : HomePut k t u) :
    HomePut (fun q => (k q).or (g q)) s u where
  wf := h'.wf
  owner l := (h'.owner l).trans (h.owner l)
  byte q := by
    rw [h'.byte, h.byte]
    cases k q <;> rfl

theorem then_same {g : Nat → Option Byte} {s t u : State} (h : HomePut g s t) (h' : HomeSame t u) : HomePut g s u := h.trans h'

theorem after_same {g : Nat → Option Byte} {s t u : State} (h : HomeSame s t) (h' : HomePut g t u) : HomePut g s u where
  wf := h'.wf
  owner l := (h'.owner l).trans (h.owner l)
  byte q := by rw [h'.byte, h.byte]; rfl

theorem ownerless {g : Nat → Option Byte} {s s' : State} (h : HomePut g s s') (ho : s.Ownerless) : s'.Ownerless :=
  fun l => (h.owner l).trans (ho l)

theorem congr {g k : Nat → Option Byte} {s s' : State} (h : HomePut g s s') (hg : ∀ q, g q = k q) : HomePut k s s' :=
  (funext hg : g = k) ▸ h

end HomePut

/-- A change of memory beside the homes and DRAM. -/
theorem homeSame_beside {s s' : State} (h : s'.Wf) (hh : s'.m.home = s.m.home) (hd : s'.m.dram = s.m.dram) : HomeSame s s' :=
  .of_kept fun q => homeKept_beside q h hh hd

/-- The bytes of a line, by address. -/
def lineBytes (l : Nat) (bs : Sparse Byte) (q : Nat) : Option Byte := if q / 256 = l then sget bs (q % 256) else none

section
variable {s : State} {l : Nat} {bs : Sparse Byte} (h : s.Wf) (hb : Memory.lineWf bs = true)
include h hb

/-- Bytes that merge into a line at home stand there. -/
theorem homePut_mergeHome (c : Option Nat) (t : BitVec 12) (bad : Bool) :
    HomePut (lineBytes l bs) s (s.mergeHome l c t bs bad) := by
  obtain ⟨hrise, hlt⟩ := (lineWf_iff _).1 hb
  have ht : HomeSame s (s.touchHome l c t) := .of_kept fun q => homeKept_touchHome q l c t h
  have hput : HomePut (lineBytes l bs) (s.touchHome l c t) ((s.touchHome l c t).updHome l fun h =>
      { h with bytes := bs.foldl (fun m p => sput m p.1 p.2) h.bytes }) := by
    refine ⟨wf_updHome l _ ht.wf (lineWf_puts bs Prod.fst Prod.snd (wf_lineWf ht.wf l) hlt), fun j => ?_, fun q => ?_⟩
    · rw [homeLine_updHome ht.wf]
      split
      · next e => rw [e]
      · rfl
    · unfold State.homeByte lineBytes
      rw [homeLine_updHome ht.wf]
      split
      · next e =>
        rw [e]
        dsimp only
        rw [sget_puts bs _ hrise]
        cases sget bs (q % 256) <;> rfl
      · rfl
  refine (HomePut.after_same ht hput).then_same ?_
  unfold State.mergeHome
  refine foldl_keeps (P := HomeSame _) _ _ (.refl hput.wf) fun u j _ hu => ?_
  have hp (p : Bool) : HomeSame u (u.setPoison (256 * l + 64 * j) p) := homeSame_beside (wf_setPoison _ p hu.wf) rfl rfl
  split_ifs
  · exact hu.then_same (hp true)
  · exact hu.then_same (hp false)
  · exact hu

/-- A write that performs at home puts its bytes there. -/
theorem homePut_performHome (ho : s.Ownerless) (core : Option Nat) (c : Nat) (t : BitVec 12) (bad : Bool) :
    HomePut (lineBytes l bs) s (s.performHome core l c t bs bad).1 := by
  have hm := homePut_mergeHome (l := l) h hb (some c) t bad
  have hwf := wf_performHome core l c t bs bad h ((lineWf_iff _).1 hb).2
  have hrec : (if s.ownedBy core l c then s else s.recall l) = s := by
    split
    · rfl
    · exact recall_of_owner_none (ho l)
  unfold State.performHome at hwf ⊢
  split
  · next he =>
    obtain rfl : bs = [] := List.isEmpty_iff.1 he
    refine (HomePut.refl h).congr fun q => ?_
    unfold lineBytes
    split <;> rfl
  · next he =>
    rw [if_neg he] at hwf
    dsimp only at hwf ⊢
    rw [hrec] at hwf ⊢
    refine hm.then_same (homeSame_beside hwf ?_ ?_)
    · unfold State.updatePath State.wakeLine
      split <;> split <;> rfl
    · unfold State.updatePath State.wakeLine
      split <;> split <;> rfl

end

/-! Bytes that go home from more than one line -/

/-- The bytes of lines' parts, by address. -/
def partsBytes (ps : List (Nat × Sparse Byte)) (q : Nat) : Option Byte := ps.foldl (fun a p => (lineBytes p.1 p.2 q).or a) none

theorem partsBytes_append (ps : List (Nat × Sparse Byte)) (p : Nat × Sparse Byte) (q : Nat) :
    partsBytes (ps ++ [p]) q = (lineBytes p.1 p.2 q).or (partsBytes ps q) := by simp [partsBytes]

theorem partsBytes_or (ps : List (Nat × Sparse Byte)) (q : Nat) : ∀ a : Option Byte,
    ps.foldl (fun a p => (lineBytes p.1 p.2 q).or a) a = (partsBytes ps q).or a := by
  induction ps with
  | nil => intro a; rfl
  | cons p ps ih =>
    intro a
    unfold partsBytes
    rw [List.foldl_cons, List.foldl_cons, ih, ih, Option.or_assoc, Option.or_none]

/-- Parts that writing in turn reaches: each lies in its line, below the next address. -/
def partsBelow (pa : Nat) (ps : List (Nat × Sparse Byte)) : Prop :=
  ∀ p ∈ ps, Memory.lineWf p.2 = true ∧ ∀ x ∈ p.2, 256 * p.1 + x.1 < pa

theorem lineWf_append {m : Sparse Byte} {k : Nat} {v : Byte} (hm : Memory.lineWf m = true) (hk : k < 256) (hlt : ∀ x ∈ m, x.1 < k) :
    Memory.lineWf (m ++ [(k, v)]) = true ∧ ∀ i, sget (m ++ [(k, v)]) i = if i = k then some v else sget m i := by
  induction m with
  | nil =>
    refine ⟨by simp [Memory.lineWf, srising, hk], fun i => ?_⟩
    by_cases hi : i = k
    · subst hi; simp [sget]
    · simp [sget, hi, Ne.symm hi]
  | cons p r ih =>
    obtain ⟨j, u⟩ := p
    obtain ⟨hrise, h256⟩ := (lineWf_iff _).1 hm
    obtain ⟨hj, hr⟩ := (srising_cons j u r).1 hrise
    obtain ⟨ihwf, ihget⟩ := ih ((lineWf_iff _).2 ⟨hr, fun x hx => h256 x (List.mem_cons_of_mem _ hx)⟩)
      fun x hx => hlt x (List.mem_cons_of_mem _ hx)
    obtain ⟨ihrise, ih256⟩ := (lineWf_iff _).1 ihwf
    have hjk : j < k := hlt (j, u) List.mem_cons_self
    refine ⟨(lineWf_iff _).2 ⟨(srising_cons j u _).2 ⟨fun x hx => ?_, ihrise⟩, fun x hx => ?_⟩, fun i => ?_⟩
    · rcases List.mem_append.1 hx with hx | hx
      · exact hj x hx
      · obtain rfl := List.mem_singleton.1 hx
        exact hjk
    · rcases List.mem_cons.1 hx with rfl | hx
      · exact h256 _ List.mem_cons_self
      · exact ih256 x hx
    · show sget ((j, u) :: (r ++ [(k, v)])) i = _
      unfold sget
      rw [ihget]
      by_cases hi : j = i
      · subst hi
        simp [Nat.ne_of_lt hjk]
      · simp [hi]

/-- A byte joins the parts. -/
def partsStep (acc : List (Nat × Sparse Byte)) (p : Nat × Byte) : List (Nat × Sparse Byte) :=
  match acc.reverse with
  | (l, m) :: r => if l == p.1 / 256 then r.reverse ++ [(l, m ++ [(p.1 % 256, p.2)])] else acc ++ [(p.1 / 256, [(p.1 % 256, p.2)])]
  | [] => [(p.1 / 256, [(p.1 % 256, p.2)])]

theorem lineParts_eq (pa : Nat) (bs : List Byte) : lineParts pa bs = (bytesAt pa bs).foldl partsStep [] := rfl

theorem partsStep_append {acc : List (Nat × Sparse Byte)} {pa : Nat} {b : Byte} (h : partsBelow pa acc) :
    partsBelow (pa + 1) (partsStep acc (pa, b)) ∧
      ∀ q, partsBytes (partsStep acc (pa, b)) q = if q = pa then some b else partsBytes acc q := by
  have hone : ∀ q, lineBytes (pa / 256) [(pa % 256, b)] q = if q = pa then some b else none := by
    intro q
    unfold lineBytes
    by_cases hq : q = pa
    · subst hq; simp [sget]
    · rw [if_neg hq]
      split
      · have : ¬ pa % 256 = q % 256 := by omega
        simp [sget, this]
      · rfl
  have hnew : Memory.lineWf [(pa % 256, b)] = true ∧ ∀ x ∈ [(pa % 256, b)], 256 * (pa / 256) + x.1 < pa + 1 := by
    refine ⟨by simp [Memory.lineWf, srising, Nat.mod_lt], fun x hx => ?_⟩
    obtain rfl := List.mem_singleton.1 hx
    dsimp only
    omega
  have happend : partsBelow (pa + 1) (acc ++ [(pa / 256, [(pa % 256, b)])]) ∧
      ∀ q, partsBytes (acc ++ [(pa / 256, [(pa % 256, b)])]) q = if q = pa then some b else partsBytes acc q := by
    refine ⟨fun p hp => ?_, fun q => ?_⟩
    · rcases List.mem_append.1 hp with hp | hp
      · exact ⟨(h p hp).1, fun x hx => Nat.lt_succ_of_lt ((h p hp).2 x hx)⟩
      · obtain rfl := List.mem_singleton.1 hp
        exact hnew
    · rw [partsBytes_append, hone]
      split <;> rfl
  unfold partsStep
  split
  · next l m r hrev =>
    have hacc : acc = r.reverse ++ [(l, m)] := by rw [← List.reverse_reverse acc, hrev, List.reverse_cons]
    split
    · next hl =>
      have hl' : l = pa / 256 := by simpa using hl
      subst hl'
      obtain ⟨hm, hmlt⟩ := h (pa / 256, m) (by rw [hacc]; simp)
      obtain ⟨hmwf, hmget⟩ := lineWf_append (v := b) hm (Nat.mod_lt pa (by decide : 0 < 256)) fun x hx => by
        have := hmlt x hx
        dsimp only at this
        omega
      refine ⟨fun p hp => ?_, fun q => ?_⟩
      · rcases List.mem_append.1 hp with hp | hp
        · obtain ⟨hp1, hp2⟩ := h p (by rw [hacc]; exact List.mem_append_left _ hp)
          exact ⟨hp1, fun x hx => Nat.lt_succ_of_lt (hp2 x hx)⟩
        · obtain rfl := List.mem_singleton.1 hp
          refine ⟨hmwf, fun x hx => ?_⟩
          rcases List.mem_append.1 hx with hx | hx
          · exact Nat.lt_succ_of_lt (hmlt x hx)
          · exact hnew.2 x hx
      · rw [hacc, partsBytes_append, partsBytes_append]
        unfold lineBytes
        dsimp only
        rw [hmget]
        by_cases hq : q = pa
        · subst hq; simp
        · rw [if_neg hq]
          split
          · rw [if_neg (by omega)]
          · rfl
    · exact happend
  · next hrev =>
    have hacc : acc = [] := List.reverse_eq_nil_iff.1 hrev
    subst hacc
    exact happend

/-- The parts of bytes hold each byte at its address. -/
theorem lineParts_bytes (pa : Nat) (bs : List Byte) : (∀ p ∈ lineParts pa bs, Memory.lineWf p.2 = true) ∧
    ∀ q, partsBytes (lineParts pa bs) q = if pa ≤ q ∧ q < pa + bs.length then bs[q - pa]? else none := by
  have key : ∀ (bs : List Byte) (n : Nat) (acc : List (Nat × Sparse Byte)), partsBelow (pa + n) acc →
      (∀ p ∈ ((bs.zipIdx n).map fun b => (pa + b.2, b.1)).foldl partsStep acc, Memory.lineWf p.2 = true) ∧
        ∀ q, partsBytes (((bs.zipIdx n).map fun b => (pa + b.2, b.1)).foldl partsStep acc) q =
          if pa + n ≤ q ∧ q < pa + n + bs.length then bs[q - (pa + n)]? else partsBytes acc q := by
    intro bs
    induction bs with
    | nil =>
      intro n acc hacc
      exact ⟨fun p hp => (hacc p hp).1, fun q => by simp⟩
    | cons b bs ih =>
      intro n acc hacc
      obtain ⟨hbelow, hget⟩ := partsStep_append (b := b) hacc
      obtain ⟨hwf, hbytes⟩ := ih (n + 1) (partsStep acc (pa + n, b)) (by rw [← Nat.add_assoc]; exact hbelow)
      rw [List.zipIdx_cons, List.map_cons, List.foldl_cons]
      refine ⟨hwf, fun q => ?_⟩
      rw [hbytes, hget, List.length_cons]
      rcases Nat.lt_trichotomy q (pa + n) with hlt | rfl | hgt
      · rw [if_neg (by omega), if_neg (by omega), if_neg (by omega)]
      · rw [if_neg (by omega), if_pos rfl, if_pos (by omega)]
        simp
      · have hsub : q - (pa + n) = q - (pa + (n + 1)) + 1 := by omega
        rw [hsub, List.getElem?_cons_succ, if_neg (by omega : ¬q = pa + n)]
        exact if_congr (by omega) rfl rfl
  exact key bs 0 [] fun p hp => nomatch hp

/-- The bytes of a list, by address. -/
def listBytes (pa : Nat) (bs : List Byte) (q : Nat) : Option Byte := if pa ≤ q ∧ q < pa + bs.length then bs[q - pa]? else none

theorem listBytes_getD (pa : Nat) (bs : List Byte) (q : Nat) (d : Byte) :
    (listBytes pa bs q).getD d = if pa ≤ q ∧ q < pa + bs.length then bs.getD (q - pa) 0#8 else d := by
  unfold listBytes
  split
  · next h =>
    have hlt : q - pa < bs.length := by omega
    simp [List.getD_eq_getElem?_getD, hlt]
  · rfl

/-- Bytes in one line are those at rising offsets there. -/
theorem lineBytes_bytesAt {pa : Nat} {bs : List Byte} (h : pa % 256 + bs.length ≤ 256) (q : Nat) :
    lineBytes (pa / 256) (bytesAt (pa % 256) bs) q = listBytes pa bs q := by
  unfold lineBytes listBytes
  rw [sget_bytesAt]
  split
  · have hsub : q % 256 - pa % 256 = q - pa := by omega
    rw [hsub]
    exact if_congr (by omega) rfl rfl
  · rw [if_neg (by omega)]

/-- A write at home puts its bytes there, over as many lines as they reach. -/
theorem homePut_writeHome {s : State} (h : s.Wf) (ho : s.Ownerless) (c : Nat) (t : BitVec 12) (pa : Nat) (bs : List Byte) (bad : Bool) :
    HomePut (listBytes pa bs) s (s.writeHome c t pa bs bad).1 := by
  have key : ∀ (ps : List (Nat × Sparse Byte)) (a : State × Nat), a.1.Wf → a.1.Ownerless → (∀ p ∈ ps, Memory.lineWf p.2 = true) →
      HomePut (partsBytes ps) a.1 (ps.foldl (fun a p =>
        let r := a.1.performHome none p.1 c t p.2 bad
        (r.1, max a.2 r.2)) a).1 := by
    intro ps
    induction ps with
    | nil => intro a ha _ _; exact HomePut.refl ha
    | cons p ps ih =>
      intro a ha hoa hps
      have h1 := homePut_performHome (l := p.1) ha (hps p List.mem_cons_self) hoa none c t bad
      have h2 := ih (_, max a.2 (a.1.performHome none p.1 c t p.2 bad).2) h1.wf (h1.ownerless hoa) fun x hx =>
        hps x (List.mem_cons_of_mem _ hx)
      refine (h1.trans h2).congr fun q => ?_
      unfold partsBytes
      rw [List.foldl_cons, partsBytes_or ps q ((lineBytes p.1 p.2 q).or none), Option.or_none]
      rfl
  obtain ⟨hwf, hbytes⟩ := lineParts_bytes pa bs
  exact (key (lineParts pa bs) (s, 0) h ho hwf).congr hbytes

/-! Masked bytes that leave L1 -/

theorem collectCore_home (s : State) (core c l w : Nat) : (s.collectCore core c l w).m = s.m := by
  unfold State.collectCore
  split <;> rfl

/-- The masked bytes of a copy in L1 that a choice takes, by address. -/
def Copy.sent (k : Copy) (sel : Nat → Bool) (q : Nat) : Option Byte :=
  match k.place with
  | .l1 _ => lineBytes k.line (k.mask.filter fun p => sel p.1) q
  | _ => none

theorem Copy.sent_l1 {k : Copy} {core : Nat} (h : k.place = .l1 core) (sel : Nat → Bool) (q : Nat) :
    k.sent sel q = lineBytes k.line (k.mask.filter fun p => sel p.1) q := by rw [Copy.sent, h]

theorem Copy.sent_beside {k : Copy} (h : ∀ core, k.place ≠ .l1 core) (sel : Nat → Bool) (q : Nat) : k.sent sel q = none := by
  unfold Copy.sent
  split
  · next core hk => exact absurd hk (h core)
  · rfl

/-- A copy without the masked bytes that a choice takes. -/
def Copy.kept (k : Copy) (sel : Nat → Bool) : Copy :=
  { k with
    mask := k.mask.filter fun p => !sel p.1
    sectors := k.sectors.map fun d => (d.1, d.2.merge d.1 (k.mask.filter fun p => sel p.1) false) }

theorem writeBack_beside {s : State} {k : Copy} (h : ∀ core, k.place ≠ .l1 core) (sel : Nat → Bool) : s.writeBack k sel = (s, 0) := by
  unfold State.writeBack State.writeBackOf
  dsimp only
  split
  · next core hk => exact absurd hk (h core)
  · rfl

theorem writeBack_nothing {s : State} {k : Copy} {sel : Nat → Bool} (h : (k.mask.filter fun p => sel p.1) = []) :
    s.writeBack k sel = (s, 0) := by
  unfold State.writeBack State.writeBackOf
  dsimp only
  rw [h]
  split <;> rfl

theorem writeBack_m {s : State} {k : Copy} {core : Nat} {sel : Nat → Bool} (hk : k.place = .l1 core)
    (h : (k.mask.filter fun p => sel p.1) ≠ []) : (s.writeBack k sel).1.m =
      ((s.putCopy (k.kept sel)).performHome (some core) k.line k.ctx k.tensor (k.mask.filter fun p => sel p.1) false).1.m := by
  unfold State.writeBack State.writeBackOf
  dsimp only
  rw [hk]
  dsimp only
  rw [if_neg (by simpa using h), collectCore_home, Copy.kept, hk]

theorem homePut_writeBack {s : State} (h : s.Wf) (ho : s.Ownerless) {k : Copy} (hk : Memory.lineWf k.mask = true) (sel : Nat → Bool) :
    HomePut (k.sent sel) s (s.writeBack k sel).1 := by
  by_cases hplace : ∃ core, k.place = .l1 core
  · obtain ⟨core, hcore⟩ := hplace
    by_cases he : (k.mask.filter fun p => sel p.1) = []
    · rw [writeBack_nothing he]
      refine (HomePut.refl h).congr fun q => ?_
      rw [Copy.sent_l1 hcore, he]
      unfold lineBytes
      split <;> rfl
    · have hu : HomeSame s (s.putCopy (k.kept sel)) := homeSame_beside (wf_putCopy _ h (lineWf_filter _ hk)) rfl rfl
      have hp := homePut_performHome (l := k.line) hu.wf (lineWf_filter (fun p => sel p.1) hk) (hu.ownerless ho) (some core)
        k.ctx k.tensor false
      have hm := writeBack_m (s := s) hcore he
      refine ((hu.after_same hp).then_same (homeSame_beside (wf_writeBack k sel h hk) ?_ ?_)).congr fun q => ?_
      · rw [hm]
      · rw [hm]
      · exact (Copy.sent_l1 hcore sel q).symm
  · have hb : ∀ core, k.place ≠ .l1 core := fun core hc => hplace ⟨core, hc⟩
    rw [writeBack_beside hb]
    exact (HomePut.refl h).congr fun q => (Copy.sent_beside hb sel q).symm

/-- A copy that leaves its place takes its masked bytes home. -/
theorem homePut_evict {s : State} (h : s.Wf) (ho : s.Ownerless) {k : Copy} (hk : Memory.lineWf k.mask = true) :
    HomePut (k.sent fun _ => true) s (s.evict k) := by
  have hb := homePut_writeBack h ho hk fun _ => true
  have howner : HomeSame (s.writeBack k fun _ => true).1 (if k.own.isSome
      then (s.writeBack k fun _ => true).1.updHome k.line fun h => { h with owner := none } else (s.writeBack k fun _ => true).1) := by
    split
    · refine ⟨wf_updHome_bytes _ _ hb.wf fun _ => rfl, fun l => ?_, fun q => ?_⟩
      · rw [homeLine_updHome hb.wf]
        split
        · next e => rw [e, hb.ownerless ho]
        · rfl
      · unfold State.homeByte
        rw [homeLine_updHome hb.wf]
        split
        · next e => rw [e]; rfl
        · rfl
    · exact HomePut.refl hb.wf
  exact (hb.then_same howner).then_same (homeSame_beside (wf_evict k h hk) rfl rfl)

end Sys2Proof.Machine
end

/-! What write-back, eviction and the end of a lease leave of copies and of home (R74, R76, R90, R92). -/

section

namespace Sys2Proof.Machine

/-! Masks -/

/-- No copy holds masked bytes. -/
def State.Unmasked (s : State) : Prop := ∀ c ∈ s.m.copies, c.mask = []

/-- Two copies stand in one place for one line and context. -/
def Copy.SameKey (k c : Copy) : Prop := k.place = c.place ∧ k.line = c.line ∧ k.ctx = c.ctx

theorem Copy.sameKey_iff (k c : Copy) : (k.place == c.place && k.line == c.line && k.ctx == c.ctx) = true ↔ k.SameKey c := by
  simp [Copy.SameKey, and_assoc]

/-- A copy of which nothing is left. -/
def Copy.gone (c : Copy) : Prop := c.sectors = [] ∧ c.mask = [] ∧ c.own = none

theorem mem_putCopy {s : State} {c k : Copy} :
    k ∈ (s.putCopy c).m.copies ↔ (k ∈ s.m.copies ∧ ¬k.SameKey c) ∨ (k = c ∧ ¬c.gone) := by
  have hrest : (k ∈ s.m.copies.filter fun k => !(k.place == c.place && k.line == c.line && k.ctx == c.ctx)) ↔
      k ∈ s.m.copies ∧ ¬k.SameKey c := by
    rw [List.mem_filter, ← Copy.sameKey_iff, Bool.not_eq_true', Bool.not_eq_true]
  have hgone : (c.sectors.isEmpty && c.mask.isEmpty && c.own.isNone) = true ↔ c.gone := by simp [Copy.gone, and_assoc]
  unfold State.putCopy
  dsimp only
  split
  · next hg => rw [hrest]; simp [hgone.1 hg]
  · next hg =>
    rw [List.mem_cons, hrest]
    have : ¬c.gone := fun h => hg (hgone.2 h)
    simp [this, or_comm]

theorem State.Unmasked.putCopy {s : State} (h : s.Unmasked) {c : Copy} (hc : c.mask = []) : (s.putCopy c).Unmasked := fun k hk => by
  rcases mem_putCopy.1 hk with ⟨hk, _⟩ | ⟨rfl, _⟩
  · exact h k hk
  · exact hc

theorem State.Unmasked.of_copies {s s' : State} (h : s.Unmasked) (hc : s'.m.copies = s.m.copies) : s'.Unmasked := fun k hk =>
  h k (hc ▸ hk)

theorem flushHome_copies (s : State) (l : Nat) : (s.flushHome l).m.copies = s.m.copies := by
  unfold State.flushHome
  dsimp only
  show (List.foldl _ s _).m.copies = _
  exact foldl_keeps (P := fun u : State => u.m.copies = s.m.copies) _ _ rfl fun b a _ hb => hb

theorem State.Unmasked.touchHome {s : State} (h : s.Unmasked) (l : Nat) (c : Option Nat) (t : BitVec 12) : (s.touchHome l c t).Unmasked := by
  have hroom : (if (s.homeLine l).held then s else s.sliceRoom (homeSlice (256 * l))).Unmasked := by
    unfold State.sliceRoom
    dsimp only
    split
    · exact h
    · split
      · exact h
      · split
        · exact fun k hk => h k (List.mem_of_mem_erase hk)
        · split
          · exact h.of_copies (flushHome_copies s _)
          · exact h
  unfold State.touchHome
  generalize (if (s.homeLine l).held then s else s.sliceRoom (homeSlice (256 * l))) = u at hroom ⊢
  dsimp only
  split
  · split
    · exact hroom
    · exact hroom.of_copies rfl
  · exact hroom.of_copies (flushHome_copies _ l)

theorem State.Unmasked.mergeHome {s : State} (h : s.Unmasked) (l : Nat) (c : Option Nat) (t : BitVec 12) (bs : Sparse Byte) (bad : Bool) :
    (s.mergeHome l c t bs bad).Unmasked := by
  unfold State.mergeHome
  refine foldl_keeps (P := State.Unmasked) _ _ ((h.touchHome l c t).of_copies rfl) fun u k _ hu => ?_
  split_ifs
  · exact hu.of_copies rfl
  · exact hu.of_copies rfl
  · exact hu

theorem State.Unmasked.updatePath {s : State} (h : s.Unmasked) (core : Option Nat) (l c : Nat) (t : BitVec 12) (bs : Sparse Byte) (bad : Bool) :
    (s.updatePath core l c t bs bad).Unmasked := by
  unfold State.updatePath
  split
  · exact h
  · next k hk =>
    obtain ⟨p, -, hp⟩ := Option.bind_eq_some_iff.1 hk
    exact h.putCopy ((tagged_mask _ t).trans (h k (List.mem_of_find?_eq_some hp)))

theorem State.Unmasked.performHome {s : State} (h : s.Unmasked) (ho : s.Ownerless) (core : Option Nat) (l c : Nat) (t : BitVec 12)
    (bs : Sparse Byte) (bad : Bool) : (s.performHome core l c t bs bad).1.Unmasked := by
  unfold State.performHome
  split
  · exact h
  · dsimp only
    rw [recall_of_owner_none (ho l), ite_self]
    have hp := (h.mergeHome l (some c) t bs bad).updatePath core l c t bs bad
    split
    · exact hp.of_copies rfl
    · exact hp.of_copies rfl

theorem mask_all (m : Sparse Byte) : (m.filter fun p => (fun _ : Nat => true) p.1) = m := List.filter_eq_self.2 fun _ _ => rfl

/-- A copy's masked bytes, all sent home, leave nothing masked where nothing else was. -/
theorem unmasked_sendHome {s : State} (ho : s.Ownerless) {c : Copy} {core : Nat} (hc : c.place = .l1 core)
    (hrest : ∀ k ∈ s.m.copies, k.SameKey c ∨ k.mask = []) (hm : c.mask ≠ []) : (s.sendHome c).Unmasked := by
  have hkept : (c.kept fun _ => true).mask = [] := List.filter_eq_nil_iff.2 fun _ _ => by simp
  have hput : (s.putCopy (c.kept fun _ => true)).Unmasked := fun k hk => by
    rcases mem_putCopy.1 hk with ⟨hk, hne⟩ | ⟨rfl, _⟩
    · exact (hrest k hk).resolve_left hne
    · exact hkept
  refine (hput.performHome (fun l => ho l) (some core) c.line c.ctx c.tensor (c.mask.filter fun _ => true) false).of_copies ?_
  unfold State.sendHome
  rw [writeBack_m hc (by rw [mask_all]; exact hm)]

/-! Write-back -/

/-- A copy of a line in a core's L1. -/
def Copy.inL1 (core line : Nat) (c : Copy) : Bool := c.place == .l1 core && c.line == line

theorem due_some {c : Copy} {d : Nat} (h : c.due = some d) : (∃ core, c.place = .l1 core) ∧ c.mask ≠ [] ∧ d = c.since + 2 * 65536 := by
  unfold Copy.due at h
  split at h
  · next core hcore =>
    split at h
    · exact nomatch h
    · next he => exact ⟨⟨core, hcore⟩, by simpa using he, (Option.some.inj h).symm⟩
  · exact nomatch h

theorem due_of_masked {c : Copy} {core : Nat} (h : c.place = .l1 core) (hm : c.mask ≠ []) : c.due = some (c.since + 2 * 65536) := by
  unfold Copy.due
  rw [h]
  dsimp only
  rw [if_neg (by simpa using hm)]

/-- A masked copy of the line in L1 whose time has come. -/
def State.lapsed (s : State) (core line : Nat) (c : Copy) : Prop :=
  c.place = .l1 core ∧ c.line = line ∧ c.mask ≠ [] ∧ c.since + 2 * 65536 ≤ s.x.clk

theorem lapsed_iff {s : State} {core line : Nat} {c : Copy} :
    ((c.place == .l1 core && c.line == line) && c.due.any fun d => decide (d ≤ s.x.clk)) = true ↔ s.lapsed core line c := by
  constructor
  · intro h
    obtain ⟨hk, hd⟩ := Bool.and_eq_true_iff.1 h
    obtain ⟨hp, hl⟩ := Bool.and_eq_true_iff.1 hk
    cases hdue : c.due with
    | none => rw [hdue] at hd; exact nomatch hd
    | some d =>
      obtain ⟨-, hm, rfl⟩ := due_some hdue
      rw [hdue] at hd
      exact ⟨by simpa using hp, by simpa using hl, hm, by simpa using hd⟩
  · rintro ⟨hp, hl, hm, hle⟩
    rw [due_of_masked hp hm]
    simp [hp, hl, hle]

/-- Copies sent home change no byte beside their lines. -/
theorem homePut_sendAll {line q : Nat} (hq : q / 256 ≠ line) : ∀ (cs : List Copy) (s : State), s.Wf → s.Ownerless →
    (∀ c ∈ cs, Memory.lineWf c.mask = true ∧ c.line = line) → (cs.foldl State.sendHome s).homeByte q = s.homeByte q
  | [], _, _, _, _ => rfl
  | c :: cs, s, h, ho, hcs => by
    obtain ⟨hwf, hl⟩ := hcs c List.mem_cons_self
    have hp : HomePut (c.sent fun _ => true) s (s.sendHome c) := homePut_writeBack h ho hwf fun _ => true
    rw [List.foldl_cons, homePut_sendAll hq cs _ hp.wf (hp.ownerless ho) fun k hk => hcs k (List.mem_cons_of_mem _ hk), hp.byte]
    have hnone : c.sent (fun _ => true) q = none := by
      unfold Copy.sent lineBytes
      split
      · rw [if_neg (by rw [hl]; exact hq)]
      · rfl
    rw [hnone]
    rfl

section
variable {s : State} (h : s.Wf) (ho : s.Ownerless) (core line : Nat)

theorem sendDue_early (hc : ∀ c ∈ s.m.copies, c.place = .l1 core → c.line = line → c.mask ≠ [] → s.x.clk - c.since < 2 * 65536) :
    (s.sendDue fun c => c.place == .l1 core && c.line == line) = s := by
  have hnone : (s.m.copies.filter fun c => (c.place == .l1 core && c.line == line) && c.due.any fun d => decide (d ≤ s.x.clk)) = [] :=
    List.filter_eq_nil_iff.2 fun c hmem hdue => by
      obtain ⟨hp, hl, hm, hle⟩ := lapsed_iff.1 hdue
      have := hc c hmem hp hl hm
      omega
  unfold State.sendDue
  rw [hnone]
  rfl

include h ho

theorem sendDue_beside {q : Nat} (hq : q / 256 ≠ line) :
    (s.sendDue fun c => c.place == .l1 core && c.line == line).homeByte q = s.homeByte q :=
  homePut_sendAll hq _ s h ho fun c hc => by
    obtain ⟨hmem, hdue⟩ := List.mem_filter.1 hc
    exact ⟨wf_mask h hmem, (lapsed_iff.1 hdue).2.1⟩

theorem sendDue_single {c : Copy} (hc : s.m.copies = [c]) (hp : c.place = .l1 core) (hl : c.line = line)
    (hdue : 2 * 65536 ≤ s.x.clk - c.since) (o : Nat) (ho256 : o < 256) :
    let s' := s.sendDue fun c => c.place == .l1 core && c.line == line
    s'.homeByte (256 * line + o) = (sget c.mask o).getD (s.homeByte (256 * line + o)) ∧ s'.Unmasked := by
  have hone : ∀ k ∈ s.m.copies, k = c := fun k hk => List.mem_singleton.1 (hc ▸ hk)
  by_cases hm : c.mask = []
  · dsimp only
    have hun : s.Unmasked := fun k hk => by rw [hone k hk, hm]
    rw [sendDue_early core line fun k hk _ _ hne => absurd (hun k hk) hne, hm]
    exact ⟨rfl, hun⟩
  · have hsend : (s.sendDue fun c => c.place == .l1 core && c.line == line) = s.sendHome c := by
      have hlapsed : s.lapsed core line c := ⟨hp, hl, hm, by omega⟩
      unfold State.sendDue
      rw [hc, List.filter_cons, if_pos (lapsed_iff.2 hlapsed)]
      rfl
    dsimp only
    rw [hsend]
    have hput : HomePut (c.sent fun _ => true) s (s.sendHome c) :=
      homePut_writeBack h ho (wf_mask h (by rw [hc]; exact List.mem_singleton_self c)) fun _ => true
    refine ⟨?_, unmasked_sendHome ho hp (fun k hk => .inl ?_) hm⟩
    · rw [hput.byte, Copy.sent_l1 hp]
      unfold lineBytes
      have hmod : (256 * line + o) % 256 = o := by omega
      rw [if_pos (by omega), mask_all, hmod]
    · rw [hone k hk]
      exact ⟨rfl, rfl, rfl⟩

end

/-! Eviction -/

theorem evictHome_line {s : State} (h : s.Wf) (l : Nat) : ((s.evictHome l).homeLine l).bytes = [] ∧ ((s.evictHome l).homeLine l).ctx = none := by
  have hflush : ((s.flushHome l).homeLine l).bytes = [] := by
    unfold State.flushHome
    dsimp only
    rw [homeLine_updHome, if_pos rfl]
    exact foldl_keeps (P := State.Wf) _ _ h fun u p _ hu => wf_setDram _ _ hu
  unfold State.evictHome
  rw [homeLine_updHome (wf_flushHome l h), if_pos rfl]
  exact ⟨hflush, rfl⟩

/-- A copy without masked bytes leaves its place, and its line's owner with it. -/
theorem evict_unmasked {s : State} {c : Copy} (hm : c.mask = []) : (s.evict c).m.copies =
    s.m.copies.filter fun k => !(k.place == c.place && k.line == c.line && k.ctx == c.ctx) := by
  unfold State.evict
  rw [writeBack_nothing (by rw [hm]; rfl)]
  dsimp only
  split <;> rfl

/-- Evicting copies without masked bytes takes each away, and no byte changes at home. -/
theorem evictAll {q : Nat} : ∀ (cs : List Copy) (s : State), s.Wf → s.Ownerless → (∀ c ∈ cs, c.mask = []) →
    (cs.foldl State.evict s).homeByte q = s.homeByte q ∧
      ∀ k ∈ (cs.foldl State.evict s).m.copies, k ∈ s.m.copies ∧ ∀ c ∈ cs, ¬k.SameKey c
  | [], _, _, _, _ => ⟨rfl, fun _ hk => ⟨hk, fun _ hc => nomatch hc⟩⟩
  | c :: cs, s, h, ho, hcs => by
    have hm : c.mask = [] := hcs c List.mem_cons_self
    have hp := homePut_evict (k := c) h ho (by rw [hm]; rfl)
    obtain ⟨hbyte, hleft⟩ := evictAll (q := q) cs _ hp.wf (hp.ownerless ho) fun k hk => hcs k (List.mem_cons_of_mem _ hk)
    have hnone : c.sent (fun _ => true) q = none := by
      unfold Copy.sent lineBytes
      rw [hm]
      split
      · split <;> rfl
      · rfl
    refine ⟨?_, fun k hk => ?_⟩
    · rw [List.foldl_cons, hbyte, hp.byte, hnone]
      rfl
    · obtain ⟨hmem, hnot⟩ := hleft k hk
      rw [evict_unmasked hm] at hmem
      obtain ⟨hmem, hc⟩ := List.mem_filter.1 hmem
      refine ⟨hmem, fun d hd => ?_⟩
      rcases List.mem_cons.1 hd with rfl | hd
      · rwa [Bool.not_eq_true', ← Bool.not_eq_true, Copy.sameKey_iff] at hc
      · exact hnot d hd

/-! The end of a lease -/

/-- A copy keeps its masked bytes alone. -/
def Copy.expired (c : Copy) : Copy := { c with sectors := [] }

/-- Copies that expire. -/
def State.expireAll (s : State) (cs : List Copy) : State := cs.foldl (fun s c => s.putCopy c.expired) s

theorem expireAll_m : ∀ (cs : List Copy) (s : State), (s.expireAll cs).m.dram = s.m.dram ∧ (s.expireAll cs).m.home = s.m.home
  | [], _ => ⟨rfl, rfl⟩
  | _ :: cs, _ => expireAll_m cs _

theorem mem_expireAll {k : Copy} : ∀ (cs : List Copy) (s : State), k ∈ (s.expireAll cs).m.copies →
    (∃ c ∈ cs, k = c.expired) ∨ (k ∈ s.m.copies ∧ ∀ c ∈ cs, ¬k.SameKey c)
  | [], _, hk => .inr ⟨hk, fun _ hc => nomatch hc⟩
  | d :: cs, s, hk => by
    rcases mem_expireAll cs _ hk with ⟨c, hc, rfl⟩ | ⟨hmem, hnot⟩
    · exact .inl ⟨c, List.mem_cons_of_mem _ hc, rfl⟩
    · rcases mem_putCopy.1 hmem with ⟨hmem, hd⟩ | ⟨rfl, _⟩
      · refine .inr ⟨hmem, fun c hc => ?_⟩
        rcases List.mem_cons.1 hc with rfl | hc
        · exact hd
        · exact hnot c hc
      · exact .inl ⟨d, List.mem_cons_self, rfl⟩

/-- A copy that no expiring one replaces stays. -/
theorem expireAll_beside {k : Copy} : ∀ (cs : List Copy) (s : State), k ∈ s.m.copies → (∀ c ∈ cs, ¬k.SameKey c) →
    k ∈ (s.expireAll cs).m.copies
  | [], _, hk, _ => hk
  | c :: cs, _, hk, hnot => expireAll_beside cs _ (mem_putCopy.2 (.inl ⟨hk, hnot c List.mem_cons_self⟩)) fun d hd =>
      hnot d (List.mem_cons_of_mem _ hd)

/-- A masked copy that alone has its key stays, with its masked bytes. -/
theorem expireAll_masked {c : Copy} (hm : c.mask ≠ []) : ∀ (cs : List Copy) (s : State), (∀ k ∈ cs, k.SameKey c → k = c) →
    c ∈ cs ∨ c.expired ∈ s.m.copies → c.expired ∈ (s.expireAll cs).m.copies
  | [], _, _, hc => hc.resolve_left (nomatch ·)
  | d :: cs, s, huniq, hc => by
    refine expireAll_masked hm cs _ (fun k hk => huniq k (List.mem_cons_of_mem _ hk)) ?_
    have hput : c.expired ∈ (s.putCopy c.expired).m.copies := mem_putCopy.2 (.inr ⟨rfl, fun hg => hm hg.2.1⟩)
    rcases hc with hc | hc
    · rcases List.mem_cons.1 hc with rfl | hc
      · exact .inr hput
      · exact .inl hc
    · by_cases hd : d.SameKey c
      · rw [huniq d List.mem_cons_self hd]
        exact .inr hput
      · exact .inr (mem_putCopy.2 (.inl ⟨hc, fun hk => hd ⟨hk.1.symm, hk.2.1.symm, hk.2.2.symm⟩⟩))

/-- The copy's lease has ended, and no core owns its line. -/
def State.leaseOver (s : State) (place : Place) (line : Nat) (c : Copy) : Prop :=
  c.place = place ∧ c.line = line ∧ c.own = none ∧ c.expiry ≤ s.now (Place.die place)

theorem leaseOver_iff {s : State} {place : Place} {line : Nat} {c : Copy} : (c.place == place && c.line == line && c.own.isNone &&
    decide (c.expiry ≤ s.now (Place.die place))) = true ↔ s.leaseOver place line c := by
  simp [State.leaseOver, and_assoc]

end Sys2Proof.Machine
end

/-! How a WAITC that waits ends (R96, R229). -/

section

namespace Sys2Proof.Machine

/-! The registers and the predicate that it writes -/

theorem pget_pset_self (t : Thread) {i : Nat} (b : Bool) (h : i < 63) : (t.pset i b).pget i = b := by
  have h63 : (i == 63) = false := by simp; omega
  have h64 : i < 64 := by omega
  unfold Thread.pget Thread.pset
  cases b <;> simp [h63, h64]

@[simp] theorem pset_vget (t : Thread) (i j : Nat) (b : Bool) : (t.pset i b).vget j = t.vget j := by
  unfold Thread.pset
  split <;> rfl

@[simp] theorem past_vget (t : Thread) (j : Nat) : t.past.vget j = t.vget j := by
  unfold Thread.vget
  rw [past_v]

@[simp] theorem past_pget (t : Thread) (j : Nat) : t.past.pget j = t.pget j := by
  unfold Thread.past
  split <;> rfl

@[simp] theorem past_uid (t : Thread) : t.past.uid = t.uid := by
  unfold Thread.past
  split <;> rfl

@[simp] theorem setOld_uid (t : Thread) (w64 : Bool) (d : Nat) (v : DWord) : (t.setOld w64 d v).uid = t.uid := by
  unfold Thread.setOld
  split <;> rfl

@[simp] theorem setOld_status (t : Thread) (w64 : Bool) (d : Nat) (v : DWord) : (t.setOld w64 d v).status = t.status := by
  unfold Thread.setOld
  split <;> rfl

@[simp] theorem pset_uid (t : Thread) (i : Nat) (b : Bool) : (t.pset i b).uid = t.uid := by
  unfold Thread.pset
  split <;> rfl

@[simp] theorem pset_status (t : Thread) (i : Nat) (b : Bool) : (t.pset i b).status = t.status := by
  unfold Thread.pset
  split <;> rfl

/-- The register, or the pair, of a value of one width or the other. -/
def Thread.oldAt (t : Thread) (w64 : Bool) (d : Nat) : DWord := if w64 then t.pair d else (t.vget d).zeroExtend 64

theorem oldAt_setOld (t : Thread) {w64 : Bool} {d : Nat} {v : DWord} (hd : d + 1 < t.v.length) (hv : v.toNat < 2 ^ (8 * opWidth w64)) :
    (t.setOld w64 d v).oldAt w64 d = v := by
  unfold Thread.oldAt Thread.setOld
  cases w64 with
  | true =>
    simp only [if_true]
    unfold Thread.pair Thread.setPair
    rw [vget_vset_self _ _ (by simpa [Thread.vset] using hd), vget_vset_other _ _ (by omega : d ≠ d + 1),
      vget_vset_self _ _ (by omega)]
    exact BitVec.extractLsb'_append_extractLsb' (w := 32) (len := 32)
  | false =>
    simp only [Bool.false_eq_true, if_false]
    rw [vget_vset_self _ _ (by omega)]
    apply BitVec.eq_of_toNat_eq
    simp only [opWidth, Bool.false_eq_true, if_false] at hv
    simp only [BitVec.toNat_setWidth, BitVec.extractLsb'_toNat, Nat.shiftRight_zero]
    omega

theorem setOld_other (t : Thread) {w64 : Bool} {d j : Nat} (v : DWord) (hj : j < d ∨ d + opWidth w64 / 4 ≤ j) :
    (t.setOld w64 d v).vget j = t.vget j := by
  unfold Thread.setOld
  cases w64 with
  | true =>
    simp only [opWidth, if_true] at hj ⊢
    unfold Thread.setPair
    rw [vget_vset_other _ _ (by omega), vget_vset_other _ _ (by omega)]
  | false =>
    simp only [opWidth, Bool.false_eq_true, if_false] at hj ⊢
    rw [vget_vset_other _ _ (by omega)]

/-! The end -/

/-- The WAITC of a thread has ended: the thread has the value and the predicate, goes on past the word, and waits no more. -/
def State.waitEnded (s : State) (t : Thread) (f : Flight) (w64 : Bool) (d p : Nat) (v : DWord) (b : Bool) : Prop :=
  ∃ t', s.thread? t.uid = some t' ∧ t'.oldAt w64 d = v ∧ (p < 63 → t'.pget p = b) ∧ t'.status = .boundary ∧
    (∀ j, (j < d ∨ d + opWidth w64 / 4 ≤ j) → t'.vget j = t.vget j) ∧ f ∉ s.x.flights ∧ ∀ g ∈ s.y.monitors, g.flight ≠ f.uid

/-- The thread past a WAITC that has ended. -/
def Thread.waited (t : Thread) (w64 : Bool) (d p : Nat) (v : DWord × Bool) : Thread :=
  let u := (t.setOld w64 d v.1).pset p v.2
  if u.status == .parkedMon then u.past else u

theorem waited_uid (t : Thread) (w64 : Bool) (d p : Nat) (v : DWord × Bool) : (t.waited w64 d p v).uid = t.uid := by
  unfold Thread.waited
  dsimp only
  split <;> simp

theorem finish_flights (s : State) (f : Flight) : f ∉ (s.finish f).x.flights := by
  rw [finish_eq]
  intro hf
  have := (List.mem_filter.1 hf).2
  simp at this

/-- A woken WAITC whose thread is on its core, and has nothing to acquire before, ends. -/
theorem doneWaitc_ends {s : State} {t : Thread} {f : Flight} {w64 : Bool} {d p : Nat} {v : DWord} {b : Bool}
    (hwoken : s.wokenOf f.uid = some (v, b)) (ht : s.thread? t.uid = some t) (hthread : f.thread = t.uid)
    (hacq : s.acquireDone f = true) (hswap : s.swappedOut t = false) (hpark : t.status = .parkedMon) (hd : d + 1 < t.v.length)
    (hv : v.toNat < 2 ^ (8 * opWidth w64)) : (s.doneWaitc f w64 d p).waitEnded t f w64 d p v b := by
  let s1 : State := { s with y := { s.y with monitors := s.y.monitors.filter fun m => m.flight != f.uid } }
  have hdone : s.doneWaitc f w64 d p = (s1.finish f).updThread f.thread fun t => t.waited w64 d p (v, b) := by
    unfold State.doneWaitc
    simp only [hwoken, hthread, ht, hacq, hswap, Option.isNone_some, Bool.false_and, Bool.false_eq_true, if_false, Option.any_some,
      Bool.not_true, Bool.or_self]
    rfl
  have ht1 : s1.thread? t.uid = some t := ht
  have hthread' : (s.doneWaitc f w64 d p).thread? t.uid = some ((f.counted t).waited w64 d p (v, b)) := by
    rw [hdone, thread?_updThread fun t => waited_uid t w64 d p (v, b), finish_thread?, ht1, hthread]
    simp
  have hpast : (f.counted t).waited w64 d p (v, b) = (((f.counted t).setOld w64 d v).pset p b).past := by
    unfold Thread.waited
    simp [hpark]
  have hlen : d + 1 < (f.counted t).v.length := by simpa using hd
  refine ⟨_, hthread', ?_, fun hp => ?_, ?_, fun j hj => ?_, ?_, fun g hg => ?_⟩
  · rw [hpast]
    refine Eq.trans ?_ (oldAt_setOld (f.counted t) hlen hv)
    unfold Thread.oldAt Thread.pair
    simp
  · rw [hpast, past_pget, pget_pset_self _ _ hp]
  · rw [hpast, past_status]
  · rw [hpast, past_vget, pset_vget, setOld_other _ _ hj]
    unfold Thread.vget
    rw [counted_v]
  · rw [hdone]
    exact finish_flights s1 f
  · rw [hdone] at hg
    have hy : ((s1.finish f).updThread f.thread fun t => t.waited w64 d p (v, b)).y = s1.y := by
      rw [finish_eq]
      rfl
    rw [hy] at hg
    simpa using (List.mem_filter.1 hg).2

/-! What wakes it -/

theorem homeWord_lt (s : State) (pa : Nat) (w64 : Bool) : (s.homeWord pa w64).toNat < 2 ^ (8 * opWidth w64) := by
  have hlt := leNat_lt (s.homeBytes pa (if w64 then 8 else 4))
  have hlen : (s.homeBytes pa (if w64 then 8 else 4)).length = opWidth w64 := by simp [State.homeBytes, opWidth]
  rw [hlen] at hlt
  unfold State.homeWord
  rw [BitVec.toNat_ofNat]
  refine Nat.lt_of_le_of_lt (Nat.mod_le _ _) ?_
  rw [Nat.pow_mul]
  exact hlt

theorem find?_updMonitor {s : State} {fl : Nat} {m : Monitor} {g : Monitor → Monitor}
    (hm : (s.y.monitors.find? fun n => n.flight == fl) = some m) (hg : ∀ n, (g n).flight = n.flight) :
    ((s.updMonitor fl g).y.monitors.find? fun n => n.flight == fl) = some (g m) := by
  have hcomp : ((fun n : Monitor => n.flight == fl) ∘ fun n => if n.flight == fl then g n else n) = fun n => n.flight == fl := by
    funext n
    dsimp only [Function.comp]
    split <;> simp_all
  have hfl : (m.flight == fl) = true := List.find?_some (p := fun n : Monitor => n.flight == fl) hm
  unfold State.updMonitor
  dsimp only
  rw [List.find?_map, hcomp, hm, Option.map_some, if_pos hfl]

theorem unmasked_dropAt {s : State} (h : s.Unmasked) (p : Place) (l c k : Nat) : (s.dropAt p l c k).Unmasked := by
  unfold State.dropAt
  split
  · exact h
  · next q hq =>
    split
    · exact h
    · exact h.putCopy (h q (List.mem_of_find?_eq_some hq))

theorem unmasked_dropClean {s : State} (h : s.Unmasked) (core l c k : Nat) : (s.dropClean core l c k).Unmasked := by
  rw [dropClean_dropAt]
  split
  · exact unmasked_dropAt (unmasked_dropAt h _ _ _ _) _ _ _ _
  · exact unmasked_dropAt h _ _ _ _

/-- A state without some copies, and with one flight's monitors changed. -/
def State.rewatched (s : State) (cs : List Copy) (fl : Nat) (g : Monitor → Monitor) : State :=
  State.updMonitor { s with m := { s.m with copies := cs } } fl g

section
variable {s : State} {t : Thread} {f : Flight} {m : Monitor} {a : Acc} {w64 u : Bool} {cond : Cond} {k : DWord} {d p : Nat}

theorem waitGo_eq (hop : f.op = .waitc a w64 cond u k d p) (s : State) : s.waitGo f = s.doneWaitc f w64 d p := by
  unfold State.waitGo
  rw [hop]

/-- An evaluation, where no core owns a line and none holds masked bytes, is of the word at home. -/
theorem waitEval_home (hop : f.op = .waitc a w64 cond u k d p) (ht : s.thread? f.thread = some t) (hst : f.stalled = none)
    (hw : isWindow a.pa = false) (ho : s.Ownerless) (hmask : s.Unmasked)
    (hpoison : s.poisonSeen t.core t.ctx a.pa (opWidth w64) true = false) (hfirst : s.accessFirst f = true) :
    ∃ cs, (∀ c ∈ cs, c.mask = []) ∧ s.waitEval f = s.rewatched cs f.uid fun n =>
      n.evaluated (waitHolds w64 cond u (s.homeWord a.pa w64) k) (s.monitorRoom a) (s.homeWord a.pa w64) s.x.clk := by
  obtain ⟨cs, hdrop⟩ := dropClean_eq s t.core t.ctx (a.pa / 256) (a.pa % 256 / 64)
  have hcs := unmasked_dropClean hmask t.core t.ctx (a.pa / 256) (a.pa % 256 / 64)
  rw [hdrop] at hcs
  refine ⟨cs, hcs, ?_⟩
  rw [waitEval_eq hop ht hst hfirst hpoison, waitValue_unmasked ho hmask hw, hdrop]
  rfl

theorem waitEval_late (hop : f.op = .waitc a w64 cond u k d p) (ht : s.thread? f.thread = some t) (hfirst : s.accessFirst f = false) :
    s.waitEval f = s := by
  unfold State.waitEval
  simp only [hop, ht, hfirst, Bool.not_false, Bool.or_true, if_true]

theorem reevaluate_eq (hwait : s.waitOf t.uid = some (f, m)) (hwoken : m.woken = none) (hmon : m.monitor = false) :
    exec (.monitorReevaluate t.uid) s = .next ((s.waitEval f).waitGo f) := by
  simp only [exec, execMonitorReevaluate, hwait, hmon, hwoken, Option.isSome_none, Bool.or_self, Bool.false_eq_true, if_false]

/-- A waiter that an evaluation has not woken is evaluated once more as it goes on, if it has no monitor, and waits. -/
theorem doneWaitc_waits (hwoken : s.wokenOf f.uid = none) (hwoken' : (s.waitEval f).wokenOf f.uid = none) :
    s.doneWaitc f w64 d p = s ∨ s.doneWaitc f w64 d p = s.waitEval f := by
  unfold State.doneWaitc
  cases (s.wokenOf f.uid).isNone && !(s.y.monitors.any fun m => m.flight == f.uid && m.monitor) with
  | true =>
    right
    simp only [if_true, hwoken']
  | false =>
    left
    simp only [Bool.false_eq_true, if_false, hwoken]

section
variable (ht : s.thread? t.uid = some t) (hpark : t.status = .parkedMon) (hop : f.op = .waitc a w64 cond u k d p)
  (hm : (s.y.monitors.find? fun n => n.flight == f.uid) = some m)
  (hacq : s.acquireDone f = true) (hswap : s.swappedOut t = false) (hd : d + 1 < t.v.length) (hthread : f.thread = t.uid)
include ht hpark hop hm hacq hswap hd hthread

/-- A WAITC whose monitor an evaluation wakes ends. -/
theorem rewatched_ends {g : Monitor → Monitor} (cs : List Copy) (hg : ∀ n, (g n).flight = n.flight) {v : DWord} {b : Bool}
    (hwoken : (g m).woken = some (v, b)) (hv : v.toNat < 2 ^ (8 * opWidth w64)) :
    ((s.rewatched cs f.uid g).waitGo f).waitEnded t f w64 d p v b := by
  have hfind := find?_updMonitor (s := { s with m := { s.m with copies := cs } }) hm hg
  rw [waitGo_eq hop]
  refine doneWaitc_ends ?_ ht hthread hacq hswap hpark hd hv
  unfold State.wokenOf State.rewatched
  rw [hfind]
  exact hwoken

variable (hwait : s.waitOf t.uid = some (f, m))
include hwait

theorem monitorWake_ends {v : DWord} {b : Bool} (hwoken : m.woken = some (v, b)) (hv : v.toNat < 2 ^ (8 * opWidth w64)) :
    ∃ s', exec (.monitorWake t.uid) s = .next s' ∧ s'.waitEnded t f w64 d p v b := by
  refine ⟨s.waitGo f, ?_, ?_⟩
  · simp only [exec, execMonitorWake, hwait, hwoken, Option.isSome_some, if_true]
  · rw [waitGo_eq hop]
    refine doneWaitc_ends ?_ ht hthread hacq hswap hpark hd hv
    unfold State.wokenOf
    rw [hm]
    exact hwoken

variable (hunwoken : m.woken = none) (hst : f.stalled = none) (hw : isWindow a.pa = false) (ho : s.Ownerless)
  (hmask : s.Unmasked) (hpoison : s.poisonSeen t.core t.ctx a.pa (opWidth w64) true = false)
include hunwoken hst hw ho hmask hpoison

theorem waitcTimeout_ends {dl : Nat} (hdl : m.deadline = some dl) (hle : dl ≤ s.timeOf t) :
    ∃ s', exec (.waitcTimeout t.uid) s = .next s' ∧ s'.waitEnded t f w64 d p (s.homeWord a.pa w64) false := by
  obtain ⟨cs, hdrop⟩ := dropClean_eq s t.core t.ctx (a.pa / 256) (a.pa % 256 / 64)
  refine ⟨(s.rewatched cs f.uid fun m => { m with woken := some (s.homeWord a.pa w64, false) }).waitGo f, ?_, ?_⟩
  · simp only [exec, execWaitcTimeout, hwait, ht, hdl, hop, hunwoken, hst, hpoison, Option.isSome_none, Nat.not_lt.2 hle, decide_false,
      Bool.or_self, Bool.false_eq_true, if_false, waitValue_unmasked ho hmask hw, hdrop]
    rfl
  · exact rewatched_ends (g := fun m => { m with woken := some (s.homeWord a.pa w64, false) }) ht hpark hop hm hacq hswap hd hthread cs
      (fun _ => rfl) rfl (homeWord_lt s a.pa w64)

variable (hfirst : s.accessFirst f = true) (hmon : m.monitor = false)
include hfirst hmon

/-- A condition that holds ends the wait. -/
theorem reevaluate_ends (hholds : waitHolds w64 cond u (s.homeWord a.pa w64) k = true) :
    ∃ s', exec (.monitorReevaluate t.uid) s = .next s' ∧ s'.waitEnded t f w64 d p (s.homeWord a.pa w64) true := by
  obtain ⟨cs, -, heval⟩ := waitEval_home hop (hthread ▸ ht) hst hw ho hmask hpoison hfirst
  refine ⟨_, reevaluate_eq hwait hunwoken hmon, ?_⟩
  rw [heval]
  refine rewatched_ends ht hpark hop hm hacq hswap hd hthread cs (fun n => evaluated_flight n _ _ _ _) ?_ (homeWord_lt s a.pa w64)
  rw [evaluated_woken, if_pos hholds]

omit hpark hacq hswap hd in
/-- A condition that does not hold leaves the waiter with its monitor, evaluated now. -/
theorem reevaluate_waits (hholds : waitHolds w64 cond u (s.homeWord a.pa w64) k = false) :
    ∃ s', exec (.monitorReevaluate t.uid) s = .next s' ∧ s'.x = s.x ∧ s'.e = s.e ∧ (∀ q, s'.homeByte q = s.homeByte q) ∧
      s'.y = (s.updMonitor f.uid fun q =>
        { q with monitor := if q.fresh then s.monitorRoom a else q.monitor, fresh := false, last := s.x.clk }).y := by
  have ht' : s.thread? f.thread = some t := hthread ▸ ht
  obtain ⟨cs, hcs, heval⟩ := waitEval_home hop ht' hst hw ho hmask hpoison hfirst
  let g : Monitor → Monitor := fun q => { q with monitor := if q.fresh then s.monitorRoom a else q.monitor, fresh := false, last := s.x.clk }
  have hg (room : Bool) : (fun n : Monitor => n.evaluated (waitHolds w64 cond u (s.homeWord a.pa w64) k) room (s.homeWord a.pa w64) s.x.clk) =
      fun q => { q with monitor := if q.fresh then room else q.monitor, fresh := false, last := s.x.clk } := by
    funext n
    unfold Monitor.evaluated
    rw [hholds]
    rfl
  rw [hg] at heval
  have hstays (cs' : List Copy) : (s.rewatched cs' f.uid g).wokenOf f.uid = none := by
    have hfind : ((s.rewatched cs' f.uid g).y.monitors.find? fun n => n.flight == f.uid) = some (g m) :=
      find?_updMonitor (s := { s with m := { s.m with copies := cs' } }) hm fun _ => rfl
    unfold State.wokenOf
    rw [hfind]
    exact hunwoken
  have hagain : ∃ cs', (s.rewatched cs f.uid g).waitEval f = s.rewatched cs' f.uid g := by
    have ht1 : (s.rewatched cs f.uid g).thread? f.thread = some t := ht'
    cases hfirst' : (s.rewatched cs f.uid g).accessFirst f with
    | false => exact ⟨cs, waitEval_late hop ht1 hfirst'⟩
    | true =>
      obtain ⟨cs', -, h⟩ := waitEval_home (s := s.rewatched cs f.uid g) hop ht1 hst hw ho hcs
        (by rw [poisonSeen_home] at hpoison ⊢; exact hpoison) hfirst'
      refine ⟨cs', h.trans ?_⟩
      rw [show (s.rewatched cs f.uid g).homeWord a.pa w64 = s.homeWord a.pa w64 from rfl,
        show (s.rewatched cs f.uid g).x.clk = s.x.clk from rfl, hg]
      unfold State.rewatched State.updMonitor
      simp only [List.map_map]
      congr 2
      refine List.map_congr_left fun n _ => ?_
      dsimp only [Function.comp]
      split <;> simp [g]
  obtain ⟨cs1, hcs1⟩ := hagain
  obtain ⟨cs', hdone⟩ : ∃ cs', (s.rewatched cs f.uid g).waitGo f = s.rewatched cs' f.uid g := by
    rw [waitGo_eq hop]
    rcases doneWaitc_waits (w64 := w64) (d := d) (p := p) (hstays cs) (by rw [hcs1]; exact hstays cs1) with h | h
    · exact ⟨cs, h⟩
    · exact ⟨cs1, h.trans hcs1⟩
  refine ⟨_, reevaluate_eq hwait hunwoken hmon, ?_⟩
  rw [heval, hdone]
  exact ⟨rfl, rfl, fun _ => rfl, rfl⟩

end

end

end Sys2Proof.Machine
end

/-! A couched entry at its home (R107), and O43. -/

section

namespace Sys2Proof.Machine

/-! Words at home -/

theorem leNat_natBytes : ∀ n v : Nat, leNat (natBytes n v) = v % 256 ^ n
  | 0, v => by simp [natBytes, leNat, Nat.mod_one]
  | n + 1, v => by
    have hcons : leNat (natBytes (n + 1) v) = (BitVec.ofNat 8 v).toNat + 256 * leNat (natBytes n (v / 256)) := rfl
    have hpow : 256 ^ (n + 1) = 256 * 256 ^ n := Nat.pow_succ'
    rw [hcons, leNat_natBytes n, BitVec.toNat_ofNat, hpow]
    exact (Nat.mod_mul (x := v) (a := 256) (b := 256 ^ n)).symm

/-- A value's low bytes, read again. -/
theorem leWord_loBytes {n : Nat} {v : DWord} (hv : v.toNat < 256 ^ n) : leWord (loBytes n v) = v := by
  unfold leWord loBytes
  rw [leNat_natBytes, Nat.mod_eq_of_lt hv, BitVec.ofNat_toNat, BitVec.setWidth_eq]

theorem homeWord_eq (s : State) (pa : Nat) (w64 : Bool) : s.homeWord pa w64 = leWord (s.homeBytes pa (opWidth w64)) := rfl

/-- The bytes of a list that has come home at an address. -/
theorem homeBytes_put {s s' : State} {pa : Nat} {bs : List Byte}
    (h : ∀ q, s'.homeByte q = (listBytes pa bs q).getD (s.homeByte q)) : s'.homeBytes pa bs.length = bs := by
  refine List.ext_getElem (by simp [State.homeBytes]) fun i hi hi' => ?_
  simp only [State.homeBytes, List.getElem_map, List.getElem_range]
  rw [h, listBytes_getD, if_pos (by omega), Nat.add_sub_cancel_left, List.getD_eq_getElem?_getD, List.getElem?_eq_getElem hi']
  rfl

theorem atomBytes_lt (w64 : Bool) (op : AtomOp) (old x : DWord) : (atomBytes w64 op old x).toNat < 256 ^ opWidth w64 := by
  unfold atomBytes opWidth
  cases w64 with
  | true => exact (atomNew op old x).isLt
  | false =>
    have hlt := (atomNew op (old.setWidth 32) (x.setWidth 32)).isLt
    simp only [Bool.false_eq_true, if_false, BitVec.toNat_setWidth]
    omega

/-! A read-modify-write at home -/

theorem memOnly_rmwHome (s : State) (core : Option Nat) (c : Nat) (t : BitVec 12) (pa n : Nat) (f : DWord → Option DWord) (bad : Bool) :
    MemOnly s (s.rmwHome core c t pa n f bad).1 := by
  have hread := ((memOnly_recall s (pa / 256)).trans (memOnly_touchHome _ (pa / 256) (some c) t)).trans (memOnly_readHome _ pa n)
  unfold State.rmwHome
  dsimp only
  split
  · exact hread
  · exact hread.trans (memOnly_performHome _ _ _ _ _ _ _)

/-- One that writes puts the bytes of the new value in the place of the old one's. -/
theorem homePut_rmwHome {s : State} (h : s.Wf) (ho : s.Ownerless) {pa n : Nat} (hline : pa % 256 + n ≤ 256) (core : Option Nat) (c : Nat)
    (t : BitVec 12) (f : DWord → DWord) (bad : Bool) : HomePut (listBytes pa (loBytes n (f (leWord (s.homeBytes pa n))))) s
      (s.rmwHome core c t pa n (fun v => some (f v)) bad).1 := by
  have htouch : HomeSame s (s.touchHome (pa / 256) (some c) t) := .of_kept fun q => homeKept_touchHome q _ _ _ h
  have hread := readHome_ownerless (htouch.ownerless ho) pa n
  have hsame : (s.touchHome (pa / 256) (some c) t).homeBytes pa n = s.homeBytes pa n :=
    List.map_congr_left fun i _ => htouch.byte (pa + i)
  have hlen : ∀ v, (loBytes n v).length = n := fun v => length_natBytes n v.toNat
  unfold State.rmwHome
  dsimp only
  rw [recall_of_owner_none (ho _), hread]
  dsimp only
  rw [hsame]
  have hwf := bytesAt_lineWf (off := pa % 256) (bs := loBytes n (f (leWord (s.homeBytes pa n)))) (by rw [hlen]; exact hline)
  exact (htouch.after_same (homePut_performHome htouch.wf hwf (htouch.ownerless ho) core c t bad)).congr fun q =>
    lineBytes_bytesAt (by rw [hlen]; exact hline) q

/-! A couched entry -/

/-- What stands before a run of entries that may be applied: nothing. -/
theorem couchReady_first {s : State} {l : Launch} {c : CouchSend} (hl : s.launch? l.uid = some l) (hc : s.couchReady l.uid = some c) :
    ∀ t ∈ l.before c.team, t ∈ l.ended ∧ ∀ k ∈ s.y.sent, k.launch = l.uid → k.team ≠ t := by
  unfold State.couchReady at hc
  rw [hl] at hc
  obtain ⟨-, hall⟩ := Bool.and_eq_true_iff.1 (List.find?_some (p := fun c : CouchSend => c.launch == l.uid &&
    (l.before c.team).all fun t => l.ended.contains t && !(s.y.sent.any fun d => d.launch == l.uid && d.team == t)) hc)
  intro t ht
  obtain ⟨hended, hnone⟩ := Bool.and_eq_true_iff.1 (List.all_eq_true.1 hall t ht)
  refine ⟨by simpa using hended, fun k hk hlaunch hteam => ?_⟩
  have hany : (s.y.sent.any fun d => d.launch == l.uid && d.team == t) = true := List.any_eq_true.2 ⟨k, hk, by simp [hlaunch, hteam]⟩
  rw [hany] at hnone
  exact nomatch hnone

/-- The entry's word at home is that of its operation; no other byte changes, and no register. -/
theorem applyEntry_performs {s : State} (h : s.Wf) (ho : s.Ownerless) (lid : Nat) {e : CouchEntry} (halign : e.pa % opWidth e.w64 = 0) :
    (s.applyEntry lid e).homeWord e.pa e.w64 = atomBytes e.w64 e.op (s.homeWord e.pa e.w64) e.operand ∧
      (∀ q, q < e.pa ∨ e.pa + opWidth e.w64 ≤ q → (s.applyEntry lid e).homeByte q = s.homeByte q) ∧
      (s.applyEntry lid e).x.threads.map Thread.v = s.x.threads.map Thread.v := by
  have hline : e.pa % 256 + opWidth e.w64 ≤ 256 := by
    unfold opWidth at halign ⊢
    split at halign
    · next h64 => rw [if_pos h64]; omega
    · next h64 => rw [if_neg h64]; omega
  let v := atomBytes e.w64 e.op (s.homeWord e.pa e.w64) e.operand
  have hput := homePut_rmwHome h ho hline none e.ctx e.tensor (fun old => atomBytes e.w64 e.op old e.operand) e.poison
  have hlen : (loBytes (opWidth e.w64) v).length = opWidth e.w64 := length_natBytes _ _
  have hbyte : ∀ q, (s.applyEntry lid e).homeByte q = (listBytes e.pa (loBytes (opWidth e.w64) v) q).getD (s.homeByte q) := hput.byte
  refine ⟨?_, fun q hq => ?_, ?_⟩
  · have hbytes := homeBytes_put hbyte
    rw [hlen] at hbytes
    rw [homeWord_eq, hbytes, leWord_loBytes (atomBytes_lt _ _ _ _)]
  · rw [hbyte, listBytes_getD, hlen, if_neg (by omega)]
  · obtain ⟨w, hx⟩ := (memOnly_rmwHome s none e.ctx e.tensor e.pa (opWidth e.w64)
      (fun old => some (atomBytes e.w64 e.op old e.operand)) e.poison).x
    have hthreads : (s.applyEntry lid e).x.threads = s.x.threads.map fun t => { t with wct := w t } :=
      congrArg (·.threads) hx
    rw [hthreads, List.map_map]
    rfl

end Sys2Proof.Machine

namespace Sys2Proof

open Machine

/-- Settles O43: bytes go home byte for byte (`homePut_writeBack`), a waiter ends once its monitor has been woken
(`doneWaitc_ends`), and a couched entry is a read-modify-write at home (`homePut_rmwHome`). -/
theorem memoryEvents : Obligations.MemoryEvents := by
  unfold Obligations.MemoryEvents
  refine ⟨fun s core line q h ho => ?_, fun s line q h ho => ⟨?_, fun p hp hmask => ?_⟩, fun s place line => ?_, ?_, ?_⟩
  · refine ⟨_, rfl, sendDue_early core line, fun hq => sendDue_beside h ho core line hq, fun c hc hp hl hdue => ?_⟩
    exact sendDue_single h ho core line hc hp hl hdue (q % 256) (Nat.mod_lt _ (by decide))
  · obtain ⟨hbytes, hctx⟩ := evictHome_line h line
    refine ⟨s.evictHome line, ?_, (homeKept_evictHome q line h).byte, hbytes, hctx⟩
    simp only [exec, execLineEviction, recall_of_owner_none (ho line)]
  · refine ⟨(s.m.copies.filter fun c => c.place == p && c.line == line).foldl State.evict s, ?_, ?_⟩
    · cases p with
      | home => exact absurd rfl hp
      | l1 core => rfl
      | localSlice n => rfl
      | selvedge n => rfl
    · obtain ⟨hbyte, hleft⟩ := evictAll (q := q) _ s h ho fun c hc => hmask c (List.mem_filter.1 hc).1
      refine ⟨hbyte, fun c hc ⟨hplace, hline⟩ => ?_⟩
      obtain ⟨hmem, hnot⟩ := hleft c hc
      exact hnot c (List.mem_filter.2 ⟨hmem, by simp [hplace, hline]⟩) ⟨rfl, rfl, rfl⟩
  · let cs := s.m.copies.filter fun c => c.place == place && c.line == line && c.own.isNone &&
      decide (c.expiry ≤ s.now (Place.die place))
    have hcs (c : Copy) : c ∈ cs ↔ c ∈ s.m.copies ∧ s.leaseOver place line c := List.mem_filter.trans (and_congr_right' leaseOver_iff)
    obtain ⟨hdram, hhome⟩ := expireAll_m cs s
    refine ⟨s.expireAll cs, rfl, hdram, hhome, fun c hc hp hl hown hexp => ?_, fun c hc hm huniq => ?_, fun c hc hnot huniq => ?_⟩
    · rcases mem_expireAll cs s hc with ⟨k, -, rfl⟩ | ⟨hmem, hno⟩
      · rfl
      · exact absurd ⟨rfl, rfl, rfl⟩ (hno c ((hcs c).2 ⟨hmem, hp, hl, hown, hexp⟩))
    · have honly : ∀ k ∈ cs, k.SameKey c → k = c := fun k hk ⟨h1, h2, h3⟩ => huniq k ((hcs k).1 hk).1 h1 h2 h3
      by_cases hin : c ∈ cs
      · exact ⟨c.expired, expireAll_masked hm cs s honly (.inl hin), rfl, rfl, rfl, rfl⟩
      · exact ⟨c, expireAll_beside cs s hc fun k hk hsame =>
          hin (honly k hk ⟨hsame.1.symm, hsame.2.1.symm, hsame.2.2.symm⟩ ▸ hk), rfl, rfl, rfl, rfl⟩
    · refine expireAll_beside cs s hc fun k hk ⟨h1, h2, h3⟩ => ?_
      obtain ⟨hmem, hover⟩ := (hcs k).1 hk
      rw [huniq k hmem h1.symm h2.symm h3.symm] at hover
      obtain ⟨hp, hl, hown, hexp⟩ := hover
      rcases hnot with hne | hne | hsome | hlate
      · exact hne hp
      · exact hne hl
      · rw [hown] at hsome
        exact nomatch hsome
      · omega
  · intro s t f m a w64 u cond k d p ht _ hpark hwait hop hm hacq hswap hd hthread
    dsimp only
    have hends {i : Instr} {v : DWord} {b : Bool} (h : ∃ s', exec i s = .next s' ∧ s'.waitEnded t f w64 d p v b) :
        ∃ s' t', exec i s = .next s' ∧ s'.thread? t.uid = some t' ∧
          (if w64 then t'.pair d else (t'.vget d).zeroExtend 64) = v ∧ (p < 63 → t'.pget p = b) ∧ t'.status = .boundary ∧
          (∀ j, (j < d ∨ d + opWidth w64 / 4 ≤ j) → t'.vget j = t.vget j) ∧ f ∉ s'.x.flights ∧
          ∀ g ∈ s'.y.monitors, g.flight ≠ f.uid := by
      obtain ⟨s', hexec, t', hended⟩ := h
      exact ⟨s', t', hexec, hended⟩
    refine ⟨fun v b hwoken hv => hends (monitorWake_ends ht hpark hop hm hacq hswap hd hthread hwait hwoken hv),
      fun hno hw h ho hmask hst hpoison dl hdl hle =>
        hends (waitcTimeout_ends ht hpark hop hm hacq hswap hd hthread hwait hno hst hw ho hmask hpoison hdl hle),
      fun hno hmon hst hfirst hw hpoison h ho hmask => ⟨fun hholds =>
        hends (reevaluate_ends ht hpark hop hm hacq hswap hd hthread hwait hno hst hw ho hmask hpoison hfirst hmon hholds), fun hholds =>
        reevaluate_waits ht hop hm hthread hwait hno hst hw ho hmask hpoison hfirst hmon hholds⟩⟩
  · intro s l c e r hl hc he h ho
    dsimp only
    intro halign _
    refine ⟨couchReady_first hl hc, ?_⟩
    obtain ⟨hword, hbeside, hregs⟩ := applyEntry_performs h ho l.uid halign
    refine ⟨{ s.applyEntry l.uid e with y := { (s.applyEntry l.uid e).y with
      sent := if r.isEmpty then (s.applyEntry l.uid e).y.sent.erase c
        else (s.applyEntry l.uid e).y.sent.replace c { c with entries := r } } }, ?_, hword, hbeside, hregs⟩
    simp only [exec, execCouchedApply, hc, he]

end Sys2Proof
end

/-! What the end of a thread keeps (R191): a thread that has exited stays so, and no context's halted mark changes. -/

section

namespace Sys2Proof.Machine

/-- The threads of some uids have exited, and the context's halted mark is `b`. -/
structure State.Gone (us : List Nat) (k : Nat) (b : Bool) (s : State) : Prop where
  exited : ∀ u ∈ s.x.threads, u.uid ∈ us → u.status = .exited
  halted : (s.ctx k).halted = b

namespace State.Gone

variable {us : List Nat} {k : Nat} {b : Bool} {s s' : State}

theorem of_eq (h : s.Gone us k b) (hx : s'.x.threads = s.x.threads) (hd : s'.d.ctxs = s.d.ctxs) : s'.Gone us k b :=
  ⟨by rw [hx]; exact h.exited, by unfold State.ctx; rw [hd]; exact h.halted⟩

theorem mapThreads (h : s.Gone us k b) {f : Thread → Thread} (hu : ∀ t, (f t).uid = t.uid)
    (hf : ∀ t, t.uid ∈ us → t.status = .exited → (f t).status = .exited) : (s.mapThreads f).Gone us k b := by
  refine ⟨fun u hmem hin => ?_, h.halted⟩
  rw [mapThreads_x_threads] at hmem
  obtain ⟨t, ht, rfl⟩ := List.mem_map.1 hmem
  rw [hu] at hin
  exact hf t hin (h.exited t ht hin)

theorem updThread (h : s.Gone us k b) {w : Nat} {f : Thread → Thread} (hu : ∀ t, (f t).uid = t.uid)
    (hf : w ∈ us → ∀ t, t.status = .exited → (f t).status = .exited) : (s.updThread w f).Gone us k b := by
  refine h.mapThreads (fun t => ?_) fun t hin ht => ?_
  · split
    · exact hu t
    · rfl
  · split
    · next hw => exact hf (beq_iff_eq.1 hw ▸ hin) t ht
    · exact ht

theorem memOnly (h : s.Gone us k b) (hm : MemOnly s s') : s'.Gone us k b := by
  obtain ⟨w, hx⟩ := hm.x
  obtain ⟨v, hd⟩ := hm.d
  refine ⟨fun u hmem hin => ?_, ?_⟩
  · rw [hx] at hmem
    obtain ⟨t, ht, rfl⟩ := List.mem_map.1 hmem
    exact h.exited t ht hin
  · unfold State.ctx
    rw [hd]
    exact h.halted

theorem updCtx (h : s.Gone us k b) (j : Nat) {f : Ctx → Ctx} (hf : ∀ c, (f c).halted = c.halted) : (s.updCtx j f).Gone us k b := by
  refine ⟨h.exited, Eq.trans ?_ h.halted⟩
  unfold State.ctx State.updCtx
  simp only [List.getD_eq_getElem?_getD, List.getElem?_modify]
  split
  · cases s.d.ctxs[k]? with
    | none => rfl
    | some c => exact hf c
  · cases s.d.ctxs[k]? <;> rfl

/-- A thread that has not exited is not among those that have. -/
theorem not_mem (h : s.Gone us k b) {t : Thread} (ht : t ∈ s.x.threads) (hs : t.status ≠ .exited) : t.uid ∉ us := fun hin =>
  hs (h.exited t ht hin)

theorem lose (h : s.Gone us k b) (j : Nat) : (s.lose j).Gone us k b := h.updCtx j (f := fun c => { c with lost := true }) fun _ => rfl

theorem freeze (h : s.Gone us k b) (j : Nat) (r : BitVec 512) (msg : Bool) : (s.freeze j r msg).Gone us k b := by
  unfold State.freeze
  split
  · exact h.updCtx j fun _ => rfl
  · have hfrozen := h.updCtx j (f := fun c => { c with frozen := true, report := withFreeze r }) fun _ => rfl
    dsimp only
    split
    · exact hfrozen.of_eq rfl rfl
    · exact hfrozen

theorem launchTrap (h : s.Gone us k b) (lid : Nat) (r : BitVec 512) : (s.launchTrap lid r).Gone us k b := by
  unfold State.launchTrap
  split
  · exact h
  · split_ifs
    · exact h.updCtx _ fun _ => rfl
    · exact h.freeze _ _ _
    · exact h.of_eq rfl rfl

theorem finish (h : s.Gone us k b) (f : Flight) : (s.finish f).Gone us k b := by
  rw [finish_eq]
  exact mapThreads (s := s.dropFlight f.uid) (h.of_eq rfl rfl) (counted_uid f) fun t _ ht => by rw [counted_status]; exact ht

theorem launchFlight (h : s.Gone us k b) (t : Thread) (c : Ctl) (op : FlightOp) : (s.launchFlight t c op).Gone us k b := by
  unfold State.launchFlight
  dsimp only
  split
  · exact updThread (s := { s with x := { s.x with nextUid := s.x.nextUid + 1, flights := _ } }) (h.of_eq rfl rfl) (fun _ => rfl)
      fun _ _ ht => ht
  · exact h.of_eq rfl rfl

/-! Codes -/

theorem delivered_exited (b : Bool) (t : Thread) (ht : t.status = .exited) : (t.delivered b).status = .exited := by
  simp [Thread.delivered, ht]

theorem deliver (h : s.Gone us k b) (beside : List Nat) (t : Thread) : (s.deliver beside t).Gone us k b := by
  unfold State.deliver
  split
  · exact h
  · have hv : (s.voidExit t.uid).Gone us k b := foldl_keeps (P := State.Gone us k b) _ _ h fun _ f _ hu => hu.finish f
    dsimp only
    split_ifs
    · exact hv.updThread (fun _ => by rfl) fun _ => delivered_exited _
    · exact (hv.lose t.ctx).updThread (fun _ => by rfl) fun _ => delivered_exited _
    · exact (hv.freeze _ _ _).updThread (fun _ => by rfl) fun _ => delivered_exited _
    · refine updThread ?_ (fun _ => by rfl) fun _ => delivered_exited false
      exact hv.of_eq rfl rfl

theorem settle (h : s.Gone us k b) : s.settle.Gone us k b := by
  unfold State.settle
  dsimp only
  split
  · exact h
  · exact foldl_keeps (P := State.Gone us k b) _ _ h fun _ t _ hu => hu.deliver _ t

end State.Gone

@[simp] theorem trapped_uid (s : State) (t : Thread) (c : Cause) : (s.trapped t c).uid = t.uid := by
  unfold State.trapped Thread.trapAt
  split <;> rfl

/-! Joins -/

theorem arrival?_some {t : Thread} {a : Arrival} (h : t.arrival? = some a) : t.uid = a.uid ∧ t.status ≠ .exited := by
  unfold Thread.arrival? at h
  split at h
  · next hs =>
    split at h
    · exact ⟨congrArg Arrival.uid (Option.some.inj h), by rw [hs]; nofun⟩
    · exact nomatch h
  · exact nomatch h

theorem mem_joinAt {s : State} {g : Nat} {pc : DWord} {a : Arrival} (h : a ∈ s.joinAt g pc) :
    ∃ t ∈ s.x.threads, t.uid = a.uid ∧ t.status ≠ .exited := by
  obtain ⟨t, ht, ha⟩ := List.mem_filterMap.1 h
  exact ⟨t, (List.mem_filter.1 ht).1, arrival?_some ha⟩

theorem joinResult_uid (i : Instr) (mem : List Arrival) (held : List Nat) (me : Arrival) (t : Thread) :
    (joinResult i mem held me t).uid = t.uid := by
  unfold joinResult
  split
  · rfl
  · split
    · exact pset_uid _ _ _
    · exact pset_uid _ _ _
    · rfl
  · exact pset_uid _ _ _
  · exact pset_uid _ _ _
  · rfl
  · exact pset_uid _ _ _
  · rfl
  · rfl

theorem lowest_mem {ts : List Thread} {t : Thread} (h : lowest ts = some t) : t ∈ ts := by
  have key : ∀ (us : List Thread) (a : Option Thread), (∀ t, a = some t → t ∈ ts) → (∀ u ∈ us, u ∈ ts) →
      ∀ t, us.foldl (fun a t => match a with
        | none => some t
        | some b => if t.posKey < b.posKey then some t else some b) a = some t → t ∈ ts := by
    intro us
    induction us with
    | nil => exact fun a ha _ t ht => ha t ht
    | cons u us ih =>
      intro a ha hus
      refine ih _ (fun t ht => ?_) fun v hv => hus v (List.mem_cons_of_mem _ hv)
      cases a with
      | none => exact Option.some.inj ht ▸ hus u List.mem_cons_self
      | some b =>
        dsimp only at ht
        split at ht
        · exact Option.some.inj ht ▸ hus u List.mem_cons_self
        · exact Option.some.inj ht ▸ ha b rfl
  exact key ts none (by simp) (fun _ h => h) t h

namespace State.Gone

variable {us : List Nat} {k : Nat} {b : Bool} {s : State} (h : s.Gone us k b)
include h

theorem updReplay (lid : Nat) (f : Replay → Replay) : (s.updReplay lid f).Gone us k b := h.of_eq rfl rfl

theorem note (t : Thread) (m n : BitVec 8) : (s.note t m n).Gone us k b := by
  unfold State.note
  split
  · exact h.updReplay _ _
  · exact h

theorem enterNotes (t : Thread) (ls : List Nat) : (s.enterNotes t ls).Gone us k b := by
  unfold State.enterNotes
  split
  · exact h
  · exact h.updReplay _ _

theorem joinNotes (g : Nat) (mem held : List Arrival) : (s.joinNotes g mem held).Gone us k b := by
  unfold State.joinNotes
  refine foldl_keeps (P := State.Gone us k b) _ _ h fun u a _ hu => ?_
  split
  · exact hu
  · dsimp only
    split
    · exact hu.enterNotes _ _
    · exact (hu.note _ _ _).enterNotes _ _

theorem joinTry (g : Nat) (pc : DWord) (bundle : List Nat) : (s.joinTry g pc bundle).Gone us k b := by
  have hheld : ∀ a ∈ s.joinAt g pc, a.uid ∉ us := fun a ha => by
    obtain ⟨t, ht, hta, hst⟩ := mem_joinAt ha
    exact hta ▸ h.not_mem ht hst
  unfold State.joinTry
  dsimp only
  split
  · exact h
  · split
    · exact h
    · split
      · exact foldl_keeps (P := State.Gone us k b) _ _ h fun u a ha hu =>
          hu.updThread (fun t => trapped_uid _ _ _) fun hin => absurd hin (hheld a ha)
      · refine foldl_keeps (P := State.Gone us k b) _ _ ?_ fun u a ha hu => hu.updThread (fun t => ?_) fun hin => absurd hin (hheld a ha)
        · split
          · exact h.joinNotes _ _ _
          · exact h
        · split
          · rw [goOn_uid, joinResult_uid]
          · rfl

theorem joinDead (g : Nat) : (s.joinDead g).Gone us k b := by
  unfold State.joinDead
  dsimp only
  split
  · exact h
  · split
    · exact h
    · next t ht =>
      obtain ⟨hmem, hlive⟩ := List.mem_filter.1 (lowest_mem ht)
      have hst : t.status ≠ .exited := by simp at hlive; exact hlive.2
      exact h.updThread (fun t => trapped_uid _ _ _) fun hin => absurd hin (h.not_mem hmem hst)

theorem joinCheck (g : Nat) (bundle : List Nat) : (s.joinCheck g bundle).Gone us k b := by
  unfold State.joinCheck
  exact (foldl_keeps (P := State.Gone us k b) _ _ h fun u pc _ hu => hu.joinTry g pc bundle).joinDead g

/-! Convergence registers -/

theorem kFail (team i : Nat) (c : Cause) : (s.kFail team i c).Gone us k b := by
  have hheld : ∀ t ∈ s.heldSigners team i, t.uid ∉ us := fun t ht => by
    obtain ⟨hmem, hstat⟩ := List.mem_filter.1 ht
    refine h.not_mem hmem fun he => ?_
    simp [he] at hstat
  unfold State.kFail
  dsimp only
  refine settle (of_eq (s := List.foldl _ s _) (foldl_keeps (P := State.Gone us k b) _ _ h fun u t ht hu => ?_) rfl rfl)
  refine updThread ?_ (fun t => trapped_uid _ _ _) fun hin => absurd hin (hheld t ht)
  split
  · exact hu.finish _
  · exact hu

theorem kMissing (team i : Nat) : (s.kMissing team i).Gone us k b := by
  unfold State.kMissing
  split
  · exact h
  · dsimp only
    split_ifs
    · exact h
    · exact h.kFail _ _ _
    · exact h

/-! Barriers -/

theorem mapFlights (f : Flight → Flight) : State.Gone us k b { s with x := { s.x with flights := s.x.flights.map f } } := h.of_eq rfl rfl

theorem updTeam (team : Nat) (f : Team → Team) : (s.updTeam team f).Gone us k b := h.of_eq rfl rfl

theorem barPass {t : Thread} (ht : t.uid ∉ us) (bundle : List Nat) : (s.barPass t bundle).Gone us k b := by
  unfold State.barPass
  refine updThread ?_ (fun t => goOn_uid t bundle) fun hin => absurd hin ht
  split
  · exact h.finish _
  · exact h

theorem barPassAll {ts : List Thread} (hts : ∀ t ∈ ts, t.uid ∉ us) (bundle : List Nat) :
    (ts.foldl (fun s t => s.barPass t bundle) s).Gone us k b :=
  foldl_keeps (P := State.Gone us k b) _ _ h fun _ t ht hu => hu.barPass (hts t ht) bundle

theorem showW (team : Nat) (ts : List Thread) : (s.showW team ts).Gone us k b := by
  unfold State.showW
  refine mapThreads (h.updTeam _ _) (fun t => ?_) fun t _ ht => ?_
  · split <;> rfl
  · split
    · exact ht
    · exact ht

theorem live_not_mem {team : Nat} {t : Thread} (ht : t ∈ s.liveOf team) : t.uid ∉ us := by
  obtain ⟨hmem, hlive⟩ := List.mem_filter.1 ht
  exact h.not_mem hmem (by simp at hlive; exact hlive.2)

theorem barTry (team n : Nat) (bundle : List Nat) : (s.barTry team n bundle).Gone us k b := by
  have hat : ∀ p : Thread → Bool, ∀ t ∈ s.barOrder ((s.liveOf team).filter p), t.uid ∉ us := by
    intro p t ht
    obtain ⟨f, -, hf⟩ := List.mem_filterMap.1 ht
    split at hf
    · exact h.live_not_mem (List.mem_filter.1 (List.mem_of_find?_eq_some hf)).1
    · exact nomatch hf
  have hpass : ∀ ts : List Thread, (∀ t ∈ ts, t.uid ∉ us) →
      ((ts.foldl (fun s t => s.barPass t bundle) (s.showW team ts)).digestTeam team).Gone us k b :=
    fun ts hts => ((h.showW team ts).barPassAll hts bundle).updTeam _ _
  unfold State.barTry
  have hall := hat fun t => (match t.atBar with
    | some (.bar m _) => m == n
    | _ => false) && s.arrived t
  dsimp only
  generalize s.barOrder _ = ts at hall
  split
  · exact h
  · split_ifs
    · exact h
    · exact hpass _ hall
    · exact h
    · exact hpass _ fun t ht => hall t (List.mem_of_mem_take ht)

theorem passLive {p : Bool} (teams : List Nat) (bundle : List Nat) :
    (if p then (teams.flatMap s.liveOf).foldl (fun s t => s.barPass t bundle) s else s).Gone us k b := by
  split
  · refine h.barPassAll (fun t ht => ?_) bundle
    obtain ⟨team, -, ht⟩ := List.mem_flatMap.1 ht
    exact h.live_not_mem ht
  · exact h

theorem barcTry (team : Nat) (bundle : List Nat) : (s.barcTry team bundle).Gone us k b := by
  unfold State.barcTry
  split
  · exact h
  · exact h.passLive _ _

theorem bargTry (lid : Nat) (bundle : List Nat) : (s.bargTry lid bundle).Gone us k b := by
  unfold State.bargTry
  split
  · exact h
  · exact h.passLive _ _

omit h in
theorem insertTix_mem {t u : Thread} : ∀ {ts : List Thread}, u ∈ insertTix t ts → u = t ∨ u ∈ ts
  | [], hu => by simpa [insertTix] using hu
  | v :: r, hu => by
    unfold insertTix at hu
    split at hu
    · exact List.mem_cons.1 hu
    · rcases List.mem_cons.1 hu with rfl | hu
      · exact .inr List.mem_cons_self
      · exact (insertTix_mem hu).imp_right (List.mem_cons_of_mem _)

omit h in
theorem sortTix_mem {u : Thread} : ∀ {ts : List Thread}, u ∈ ts.foldr insertTix [] → u ∈ ts
  | [], hu => hu
  | t :: ts, hu => by
    rcases insertTix_mem hu with rfl | hu
    · exact List.mem_cons_self
    · exact List.mem_cons_of_mem _ (sortTix_mem hu)

theorem barDead (team : Nat) : (s.barDead team).Gone us k b := by
  unfold State.barDead
  dsimp only
  split
  · exact h
  · split
    · exact h
    · split
      · exact h
      · next t ht =>
        have hmem := h.live_not_mem (sortTix_mem (List.mem_of_mem_head? ht))
        refine updThread ?_ (fun t => trapped_uid _ _ _) fun hin => absurd hin hmem
        split
        · exact h.finish _
        · exact h

theorem barCheck (team : Nat) (bundle : List Nat) : (s.barCheck team bundle).Gone us k b := by
  have hteam (ns : List Nat) : (ns.foldl (fun s n => s.barTry team n bundle) s).Gone us k b :=
    foldl_keeps (P := State.Gone us k b) _ _ h fun u n _ hu => hu.barTry team n bundle
  unfold State.barCheck
  refine barDead ?_ team
  split
  · exact ((hteam _).barcTry team bundle).bargTry _ bundle
  · exact (hteam _).barcTry team bundle

/-! The end of a thread -/

theorem partners (t : Thread) : (s.partners t).Gone us k b := by
  have hjoin := h.joinCheck t.group []
  unfold State.partners
  split
  · exact hjoin.settle
  · next team _ =>
    exact ((foldl_keeps (P := State.Gone us k b) _ _ hjoin fun u i _ hu => hu.kMissing team i).barCheck team []).settle

theorem abortAll (u : Nat) : (s.abortAll u).Gone us k b := by
  unfold State.abortAll
  split
  · exact h
  · split
    · exact h
    · refine foldl_keeps (P := State.Gone us k b) _ _ h fun v x _ hv => launchFlight ?_ _ _ _
      split
      · exact hv
      · exact hv.updThread (fun _ => by rfl) fun _ _ ht => ht

theorem shaderDone (t : Thread) (ray : Nat) : (s.shaderDone t ray).Gone us k b :=
  (h.memOnly (memOnly_releaseCore s t.core t.ctx)).of_eq rfl rfl

theorem endKind (t : Thread) : (s.endKind t).Gone us k b := by
  unfold State.endKind
  split
  · split
    · exact h.launchFlight _ _ _
    · exact h.shaderDone _ _
  · split
    · exact h
    · exact h.launchFlight _ _ _
  · exact h.of_eq rfl rfl
  · exact h

omit h in
theorem exited_cons {u : Nat} (h : s.Gone us k b) (hu : ∀ v ∈ s.x.threads, v.uid = u → v.status = .exited) : s.Gone (u :: us) k b :=
  ⟨fun v hv hin => (List.mem_cons.1 hin).elim (hu v hv) (h.exited v hv), h.halted⟩

omit h in
theorem tail {u : Nat} (h : s.Gone (u :: us) k b) : s.Gone us k b := ⟨fun v hv hin => h.exited v hv (List.mem_cons_of_mem _ hin), h.halted⟩

/-- A thread that ends has exited. -/
theorem exitOne_cons {t : Thread} (ht : s.thread? t.uid = some t) (hst : t.status ≠ .exited) : (s.exitOne t.uid).Gone (t.uid :: us) k b := by
  have hexit : (s.updThread t.uid fun t => { t with status := .exited, trap := none }).Gone (t.uid :: us) k b := by
    refine exited_cons (h.updThread (fun _ => by rfl) fun _ _ _ => rfl) fun v hv hvu => ?_
    rw [updThread_x_threads] at hv
    obtain ⟨w, -, rfl⟩ := List.mem_map.1 hv
    split at hvu
    · next hw => rw [if_pos hw]
    · next hw => exact absurd (beq_iff_eq.2 hvu) hw
  unfold State.exitOne
  rw [ht]
  dsimp only
  rw [if_neg (by simpa using hst)]
  exact ((hexit.abortAll t.uid).endKind t).partners t

theorem exitOne (u : Nat) : (s.exitOne u).Gone us k b := by
  cases ht : s.thread? u with
  | none =>
    unfold State.exitOne
    rw [ht]
    exact h
  | some t =>
    obtain ⟨-, rfl⟩ := thread?_mem ht
    by_cases hst : t.status = .exited
    · unfold State.exitOne
      rw [ht]
      dsimp only
      rw [if_pos (by simp [hst])]
      exact h
    · exact (h.exitOne_cons ht hst).tail

theorem exitBoth_cons {t : Thread} (ht : s.thread? t.uid = some t) (hst : t.status ≠ .exited) : (s.exitBoth t.uid).Gone (t.uid :: us) k b := by
  unfold State.exitBoth
  split
  · exact (h.exitOne_cons ht hst).exitOne _
  · exact h.exitOne_cons ht hst

end State.Gone

end Sys2Proof.Machine
end

/-! What a reap leaves (R52): the threads of no team or group that has ended, with all that is in flight. -/

section

namespace Sys2Proof.Machine

/-- Threads leave, but those that a predicate keeps stay, and change in what they wait past alone; what is in flight stays, and no
context's halted mark changes. -/
structure Thinned (keep : Thread → Prop) (s s' : State) : Prop where
  came : ∀ u ∈ s'.x.threads, ∃ v ∈ s.x.threads, ∃ w, u = { v with wct := w }
  stays : ∀ v ∈ s.x.threads, keep v → ∃ w, { v with wct := w } ∈ s'.x.threads
  flights : s'.x.flights = s.x.flights
  halted : ∀ k, (s'.ctx k).halted = (s.ctx k).halted

namespace Thinned

variable {keep : Thread → Prop} {s t u : State}

theorem of_threads (hx : t.x.threads = s.x.threads) (hf : t.x.flights = s.x.flights) (hh : ∀ k, (t.ctx k).halted = (s.ctx k).halted) :
    Thinned keep s t :=
  ⟨fun v hv => ⟨v, hx ▸ hv, v.wct, rfl⟩, fun v hv _ => ⟨v.wct, by rw [hx]; exact hv⟩, hf, hh⟩

theorem refl (s : State) : Thinned keep s s := of_threads rfl rfl fun _ => rfl

theorem trans (hk : ∀ v w, keep v → keep { v with wct := w }) (h : Thinned keep s t) (h' : Thinned keep t u) : Thinned keep s u where
  came x hx := by
    obtain ⟨v, hv, w, rfl⟩ := h'.came x hx
    obtain ⟨y, hy, w', rfl⟩ := h.came v hv
    exact ⟨y, hy, w, rfl⟩
  stays v hv hkeep := by
    obtain ⟨w, hw⟩ := h.stays v hv hkeep
    exact h'.stays { v with wct := w } hw (hk v w hkeep)
  flights := h'.flights.trans h.flights
  halted k := (h'.halted k).trans (h.halted k)

theorem memOnly (h : MemOnly s t) : Thinned keep s t := by
  obtain ⟨w, hx⟩ := h.x
  refine ⟨fun v hv => ?_, fun v hv _ => ⟨w v, ?_⟩, h.flights, fun k => ?_⟩
  · rw [hx] at hv
    obtain ⟨y, hy, rfl⟩ := List.mem_map.1 hv
    exact ⟨y, hy, w y, rfl⟩
  · rw [hx]
    exact List.mem_map_of_mem hv
  · obtain ⟨v, hd⟩ := h.d
    unfold State.ctx
    rw [hd]

theorem dropThreads {p : Thread → Bool} (hp : ∀ v, keep v → p v = false) : Thinned keep s (s.dropThreads p) where
  came v hv := ⟨v, (List.mem_filter.1 hv).1, v.wct, rfl⟩
  stays v hv hkeep := ⟨v.wct, List.mem_filter.2 ⟨hv, by rw [hp v hkeep]; rfl⟩⟩
  flights := rfl
  halted _ := rfl

/-- What has exited stays exited. -/
theorem gone (h : Thinned keep s t) {us : List Nat} {k : Nat} {b : Bool} (hs : s.Gone us k b) : t.Gone us k b := by
  refine ⟨fun u hu hin => ?_, (h.halted k).trans hs.halted⟩
  obtain ⟨v, hv, w, rfl⟩ := h.came u hu
  exact hs.exited v hv hin

end Thinned

section
variable {keep : Thread → Prop}

theorem thinned_launchTrap (s : State) (lid : Nat) (r : BitVec 512) : Thinned keep s (s.launchTrap lid r) := by
  refine .of_threads (by rw [launchTrap_x]) (by rw [launchTrap_x]) fun k => ?_
  have hnone : s.Gone [] k (s.ctx k).halted := ⟨fun _ _ hin => (nomatch hin), rfl⟩
  exact (hnone.launchTrap lid r).halted

theorem thinned_flushTeam (s : State) (tm : Team) : Thinned keep s (s.flushTeam tm) := by
  unfold State.flushTeam
  dsimp only
  split
  · exact .refl s
  · exact .of_threads rfl rfl fun _ => rfl

theorem thinned_updLaunch (s : State) (lid : Nat) (f : Launch → Launch) : Thinned keep s (s.updLaunch lid f) :=
  .of_threads rfl rfl fun _ => rfl

variable (hk : ∀ v w, keep v → keep { v with wct := w })
include hk

theorem thinned_sampleEnd (s : State) (tm : Team) : Thinned keep s (s.sampleEnd tm) := by
  unfold State.sampleEnd
  split
  · exact .refl s
  · dsimp only
    split
    · exact .refl s
    · split
      · exact thinned_updLaunch _ _ _
      · split
        · exact thinned_updLaunch _ _ _
        · exact (thinned_updLaunch _ _ _).trans hk (thinned_launchTrap _ _ _)

theorem thinned_setDivision (s : State) (core : Nat) : Thinned keep s (s.setDivision core) :=
  Thinned.trans (t := { s with d := { s.d with division := sputD 0 s.d.division core (s.needDivision core) } }) hk
    (.of_threads rfl rfl fun _ => rfl) (.memOnly (memOnly_shrinkL1 _ core))

theorem thinned_endTeam (s : State) {k : Nat} (hteam : ∀ v, keep v → v.team ≠ some k) : Thinned keep s (s.endTeam k) := by
  have hdigest : Thinned keep s (s.digestTeam k) := .of_threads rfl rfl fun _ => rfl
  unfold State.endTeam
  dsimp only
  split
  · exact hdigest
  · next tm _ =>
    refine Thinned.trans hk ?_ (thinned_setDivision hk _ tm.core)
    refine Thinned.trans (t := State.dropThreads _ fun t => t.team == some k) hk ?_ (.of_threads rfl rfl fun _ => rfl)
    refine Thinned.trans hk ?_ (.dropThreads fun v hv => beq_eq_false_iff_ne.2 (hteam v hv))
    have hsample : Thinned keep s ((if tm.shadowOf.isSome then s.digestTeam k else (s.digestTeam k).flushTeam tm).sampleEnd tm) := by
      refine Thinned.trans hk ?_ (thinned_sampleEnd hk _ tm)
      split
      · exact hdigest
      · exact hdigest.trans hk (thinned_flushTeam _ tm)
    have hlaunch (f : Launch → Launch) := hsample.trans hk (thinned_updLaunch _ tm.launch f)
    split
    · split
      · exact (hlaunch _).trans hk (.of_threads rfl rfl fun _ => rfl)
      · exact hlaunch _
    · exact hlaunch _

end

/-- A thread of no team or group of a list. -/
def Thread.beside (tms gs : List Nat) (v : Thread) : Prop := (∀ k ∈ tms, v.team ≠ some k) ∧ ∀ g ∈ gs, v.group ≠ g

/-- A reap takes threads away, but none of those that have not exited. -/
theorem reap_thinned (s : State) : ∃ keep : Thread → Prop, Thinned keep s s.reap ∧ ∀ v ∈ s.x.threads, v.status ≠ .exited → keep v := by
  let done (ts : List Thread) : Bool := ts.all fun t => t.status == .exited && !s.needed t.uid
  let tms := (s.x.teams.filter fun k => done (s.x.threads.filter fun t => t.team == some k.uid)).map Team.uid
  let gs := (s.x.groups.filter fun g => g.team.isNone && done (s.x.threads.filter fun t => t.group == g.uid)).map Group.uid
  have hdone {p : Thread → Bool} (hd : done (s.x.threads.filter p) = true) {v : Thread} (hv : v ∈ s.x.threads) (hlive : v.status ≠ .exited) :
      p v = false := by
    refine Bool.eq_false_iff.2 fun hp => ?_
    have := List.all_eq_true.1 hd v (List.mem_filter.2 ⟨hv, hp⟩)
    exact hlive (by simp at this; exact this.1)
  have hk : ∀ v w, Thread.beside tms gs v → Thread.beside tms gs { v with wct := w } := fun _ _ h => h
  refine ⟨Thread.beside tms gs, ?_, fun v hv hlive => ⟨fun k hk => ?_, fun g hg => ?_⟩⟩
  · unfold State.reap
    refine foldl_keeps (P := Thinned (Thread.beside tms gs) s) tms _ (foldl_keeps (P := Thinned (Thread.beside tms gs) s) gs _ (.refl s) ?_) ?_
    · intro u g hg hu
      refine hu.trans hk ?_
      dsimp only
      refine Thinned.trans (t := State.dropThreads _ fun t => t.group == g) hk ?_ (.of_threads rfl rfl fun _ => rfl)
      refine Thinned.trans hk ?_ (.dropThreads fun v hv => beq_eq_false_iff_ne.2 (hv.2 g hg))
      split
      · exact thinned_updLaunch _ _ _
      · exact .refl u
    · exact fun u k hk' hu => hu.trans hk (thinned_endTeam hk u fun v hv => hv.1 k hk')
  · obtain ⟨tm, hmem, rfl⟩ := List.mem_map.1 hk
    exact beq_eq_false_iff_ne.1 (hdone (List.mem_filter.1 hmem).2 hv hlive)
  · obtain ⟨g, hmem, rfl⟩ := List.mem_map.1 hg
    obtain ⟨-, hd⟩ := Bool.and_eq_true_iff.1 (List.mem_filter.1 hmem).2
    exact beq_eq_false_iff_ne.1 (hdone hd hv hlive)

end Sys2Proof.Machine
end

/-! System instructions (O40). -/

section

namespace Sys2Proof.Machine

/-! Special registers -/

/-- The register that a number names, read. -/
theorem exec_getsr {s : State} {t : Thread} {c : Ctl} {d : VReg} {b : SrcB} {y : Word} {r : SReg} (hs : s.solo c.grd t) (hc : s.calm)
    (hb : t.inBlocks ((d, 1) :: bRuns b 1) = true) (hy : s.srcI t b = .ok y) (hr : SReg.ofCode (BitVec.ofNat 8 y.toNat) = some r)
    (hlt : y.toNat < 256) (hne : r ≠ .time) :
    exec (.getsr c d b) s = .next (s.launchFlight t c (.write [(d.toNat, s.srval t r)] [])) := by
  refine next_lanes_solo hs hb ?_ (calm_launchFlight hc _ _ _)
  have hcode : (if 255 < y.toNat then none else SReg.ofCode (y.setWidth 8)) = some r := by
    rw [if_neg (by omega), ← hr, BitVec.ofNat_toNat]
  simp only [hy, bind, Except.bind, hcode]

theorem low_word (n : Nat) : (BitVec.ofNat 64 n).extractLsb' 0 32 = BitVec.ofNat 32 n := by
  apply BitVec.eq_of_toNat_eq
  rw [BitVec.extractLsb'_toNat, BitVec.toNat_ofNat, BitVec.toNat_ofNat, Nat.shiftRight_zero]
  omega

theorem high_word (n : Nat) : (BitVec.ofNat 64 n).extractLsb' 32 32 = BitVec.ofNat 32 (n / 2 ^ 32) := by
  apply BitVec.eq_of_toNat_eq
  rw [BitVec.extractLsb'_toNat, BitVec.toNat_ofNat, BitVec.toNat_ofNat, Nat.shiftRight_eq_div_pow]
  omega

/-- Device time, read once into a pair. -/
theorem exec_getsr_time {s : State} {t : Thread} {c : Ctl} {d : VReg} {b : SrcB} {y : Word} (hs : s.solo c.grd t) (hc : s.calm)
    (hb : t.inBlocks ((d, 1) :: bRuns b 1) = true) (hy : s.srcI t b = .ok y) (hr : SReg.ofCode (BitVec.ofNat 8 y.toNat) = some .time)
    (hlt : y.toNat < 256) (hd : d.toNat % 2 = 0) :
    exec (.getsr c d b) s = .next (s.launchFlight t c (.write [(d.toNat, BitVec.ofNat 32 (s.now (coreDie t.core))),
      (d.toNat + 1, BitVec.ofNat 32 (s.now (coreDie t.core) / 2 ^ 32))] [])) := by
  refine next_lanes_solo hs hb ?_ (calm_launchFlight hc _ _ _)
  have hcode : (if 255 < y.toNat then none else SReg.ofCode (y.setWidth 8)) = some .time := by
    rw [if_neg (by omega), ← hr, BitVec.ofNat_toNat]
  have hodd : (d.toNat % 2 != 0) = false := by simp [hd]
  simp only [hy, bind, Except.bind, hcode, hodd, Bool.false_eq_true, if_false, low_word, high_word]
  rfl

theorem quarters_append (n : BitVec 128) :
    n.extractLsb' 96 32 ++ n.extractLsb' 64 32 ++ n.extractLsb' 32 32 ++ n.extractLsb' 0 32 = n := by
  rw [BitVec.extractLsb'_append_extractLsb'_eq_extractLsb' (show 96 = 64 + 32 from rfl),
    BitVec.extractLsb'_append_extractLsb'_eq_extractLsb' (show 64 = 32 + 32 from rfl),
    BitVec.extractLsb'_append_extractLsb'_eq_extractLsb' (show 32 = 0 + 32 from rfl)]
  exact BitVec.extractLsb'_eq_self

/-! Names -/

/-- A field put into a word at an offset, over what follows and precedes it. -/
theorem field_put {m n o : Nat} (hi : BitVec m) (x : BitVec n) (lo : BitVec o) :
    (hi ++ x ++ lo).extractLsb' o n = x ∧ (hi ++ x ++ lo).extractLsb' 0 o = lo ∧ (hi ++ x ++ lo).extractLsb' (o + n) m = hi := by
  refine ⟨?_, ?_, ?_⟩
  · ext i h
    simp [← BitVec.getLsbD_eq_getElem, BitVec.getLsbD_append, h]
  · ext i h
    simp [← BitVec.getLsbD_eq_getElem, BitVec.getLsbD_append, h]
  · ext i h
    have hsub : o + n + i - o - n = i := by omega
    have hlt : ¬o + n + i < o := by omega
    have hlt' : ¬o + n + i - o < n := by omega
    simp [← BitVec.getLsbD_eq_getElem, BitVec.getLsbD_append, h, hlt, hlt', hsub]

/-- CHILD of a name, set. -/
theorem setChild_fields (n : BitVec 128) (v : Word) : (setChild n (v.setWidth 6)).extractLsb' 11 6 = v.extractLsb' 0 6 ∧
    (setChild n (v.setWidth 6)).extractLsb' 0 11 = n.extractLsb' 0 11 ∧
    (setChild n (v.setWidth 6)).extractLsb' 17 111 = n.extractLsb' 17 111 := by
  rw [BitVec.setWidth_eq_extractLsb' (by decide)]
  exact field_put _ _ _

/-- BOUNCE of a name, set. -/
theorem setBounce_fields (n : BitVec 128) (v : Word) : (setBounce n (v.setWidth 5)).extractLsb' 17 5 = v.extractLsb' 0 5 ∧
    (setBounce n (v.setWidth 5)).extractLsb' 0 17 = n.extractLsb' 0 17 ∧
    (setBounce n (v.setWidth 5)).extractLsb' 22 106 = n.extractLsb' 22 106 := by
  rw [BitVec.setWidth_eq_extractLsb' (by decide)]
  exact field_put _ _ _

/-! Privileged words -/

section
variable {s : State} {t : Thread} {runs : List (VReg × Nat)} {k : Res State}

theorem privLane_go (hp : (s.ctx t.ctx).priv = true) (hb : t.inBlocks runs = true) : s.privLane t runs k = k := by
  simp [State.privLane, hp, hb]

theorem privLane_refuses (hp : (s.ctx t.ctx).priv = false) : s.privLane t runs k = .error (Cause.of .privileged) := by
  simp [State.privLane, hp]

theorem ctxOperand_ok {b : SrcB} {y : Word} (hy : s.srcI t b = .ok y) (hk : y.toNat ≤ 63) (hne : y.toNat ≠ t.ctx) :
    s.ctxOperand t b = .ok y.toNat := by
  have hbad : (decide (63 < y.toNat) || y.toNat == t.ctx) = false := by simp [hk, hne]
  simp only [State.ctxOperand, hy, bind, Except.bind, hbad, Bool.false_eq_true, if_false]

end

/-! HALT -/

/-- A context marked halted. -/
def State.halting (s : State) (k : Nat) : State := s.updCtx k fun c => { c with halted := true }

theorem halting_halted {s : State} {k : Nat} (hk : k < s.d.ctxs.length) : ((s.halting k).ctx k).halted = true := by
  unfold State.halting State.updCtx State.ctx
  simp [List.getD_eq_getElem?_getD, hk]

/-- What a word answers that acts on one thread alone, with what it raises delivered. -/
theorem lanes_ok {s s' : State} {g : Grd} {t : Thread} {runs : List (VReg × Nat)} {f : State → Thread → Res State} (hs : s.solo g t)
    (hb : t.inBlocks runs = true) (hf : f s t = .ok s') : s.lanes g runs f = s'.settle := by
  obtain ⟨h1, h2, h3⟩ := hs
  unfold State.lanes
  rw [h1]
  simp only [List.foldl_cons, List.foldl_nil, h2, h3, hb, hf, Bool.not_true, Bool.false_eq_true, if_false]

/-- What HALT makes of its lane. -/
def State.haltLane (s : State) (t : Thread) (c : Ctl) : State :=
  if s.busyThread t.uid then (s.halting t.ctx).launchFlight t c (.exit true) else (s.halting t.ctx).exitBoth t.uid

theorem exec_halt_lanes (s : State) (c : Ctl) :
    exec (.halt c) s = .next (s.lanes c.grd [] fun s t => s.privLane t [] (.ok (s.haltLane t c))).reap := rfl

section
variable {s : State} {t : Thread} {c : Ctl} (hs : s.solo c.grd t)
include hs

theorem exec_halt (hp : (s.ctx t.ctx).priv = true) : exec (.halt c) s = .next (s.haltLane t c).settle.reap := by
  rw [exec_halt_lanes, lanes_ok hs rfl (privLane_go hp rfl)]

section
variable (hk : t.ctx < s.d.ctxs.length)
include hk

omit hs in
theorem halting_gone : (s.halting t.ctx).Gone [] t.ctx true := ⟨fun _ _ hin => (nomatch hin), halting_halted hk⟩

/-- A thread with nothing in flight ends. -/
theorem haltLane_exits (hst : t.status ≠ .exited) (hbusy : s.busyThread t.uid = false) :
    (s.haltLane t c).settle.reap.Gone [t.uid] t.ctx true := by
  obtain ⟨-, ht, -⟩ := hs
  obtain ⟨keep, hthin, -⟩ := reap_thinned (s.haltLane t c).settle
  refine hthin.gone (State.Gone.settle ?_)
  unfold State.haltLane
  rw [hbusy]
  exact (halting_gone hk).exitBoth_cons ht hst

omit hs in
/-- Another ends once what it has in flight has completed. -/
theorem haltLane_flies (hcalm : s.calm) (hbusy : s.busyThread t.uid = true) :
    (s.haltLane t c).settle.reap.Gone [] t.ctx true ∧ ∃ f ∈ (s.haltLane t c).settle.reap.x.flights, f.thread = t.uid ∧ f.op = .exit true := by
  have hlane : s.haltLane t c = (s.halting t.ctx).launchFlight t c (.exit true) := by
    unfold State.haltLane
    rw [hbusy]
    rfl
  obtain ⟨keep, hthin, -⟩ := reap_thinned (s.haltLane t c).settle
  refine ⟨hthin.gone (State.Gone.settle ?_), (s.halting t.ctx).launched t c (.exit true), ?_, rfl, rfl⟩
  · rw [hlane]
    exact (halting_gone hk).launchFlight _ _ _
  · have hcalm' : (s.halting t.ctx).calm := hcalm
    rw [hthin.flights, hlane, settle_calm (calm_launchFlight hcalm' _ _ _), launchFlight_launched]
    exact List.mem_append_right _ (List.mem_singleton_self _)

end

end

/-- A thread that has raised a code outlasts a reap. -/
theorem Raising.reap {s s' : State} {t : Thread} {c : Cause} (h : Raising s s' t c) : ∃ t' r, s'.reap.thread? t.uid = some t' ∧ t'.v = t.v ∧
    t'.trap = some r ∧ reportCode r.report = c.code.val := by
  obtain ⟨keep, hthin, hkeep⟩ := reap_thinned s'
  obtain ⟨u, hu, huid⟩ := h.uids
  obtain ⟨w, hw⟩ := hthin.stays u hu (hkeep u hu (h.live u hu huid))
  have hsome : (s'.reap.thread? t.uid).isSome = true := List.find?_isSome.2 ⟨{ u with wct := w }, hw, beq_iff_eq.2 huid⟩
  obtain ⟨t', ht'⟩ := Option.isSome_iff_exists.1 hsome
  obtain ⟨hmem, htu⟩ := thread?_mem ht'
  obtain ⟨v, hv, w', rfl⟩ := hthin.came t' hmem
  obtain ⟨hvv, r, hr, hrep⟩ := h.threads v hv htu
  exact ⟨_, r, ht', hvv, hr, by rw [hrep]; exact reportCode_mkReport ..⟩

/-! Completions -/

section
variable {s : State} {t : Thread} {f : Flight} (hf : s.flight? f.uid = some f) (ht : s.thread? f.thread = some t)
  (hswap : s.swappedOut t = false) (hst : f.stalled = none)
include hf ht hswap hst

theorem exec_complete : exec (.instructionComplete f.uid) s = .next (s.completeOp f) :=
  exec_instructionComplete hf (mayComplete_of ht hswap hst)

/-- SETSR completes after the earlier ones of its thread. -/
theorem exec_doneSetsr {n : Bool} {v : Word} (hop : f.op = .setsr n v) (hreplay : t.isReplay = false)
    (hfirst : ∀ g ∈ s.x.flights, g.thread = f.thread → g.uid < f.uid → ∀ m v, g.op ≠ .setsr m v) :
    exec (.instructionComplete f.uid) s = .next ((s.updThread t.uid fun u =>
      { u with name := s.formName t.ctx (if n then setBounce t.name (v.setWidth 5) else setChild t.name (v.setWidth 6)) }).finish f) := by
  rw [exec_complete hf ht hswap hst]
  simp only [State.completeOp, hop]
  unfold State.doneSetsr
  split
  · next hany =>
    obtain ⟨g, hg, hop'⟩ := List.any_eq_true.1 hany
    obtain ⟨hmem, htest⟩ := List.mem_filter.1 hg
    obtain ⟨hthread, hlt⟩ := Bool.and_eq_true_iff.1 htest
    split at hop'
    · next m v hset => exact absurd hset (hfirst g hmem (beq_iff_eq.1 hthread) (of_decide_eq_true hlt) m v)
    · exact nomatch hop'
  · simp only [ht, hreplay, Bool.false_eq_true, if_false]

end

theorem finish_m (s : State) (f : Flight) : (s.finish f).m = s.m := by
  rw [finish_eq]
  rfl

/-- No TLB keeps an entry that TLBINV names. -/
theorem dropped_hit {m : Sparse (List TlbEntry)} {k va n : Nat} {q : Nat × List TlbEntry}
    (hq : q ∈ (m.map fun e => (e.1, e.2.filter fun x => !x.hit k va n)).filter fun e => !e.2.isEmpty) {e : TlbEntry} (he : e ∈ q.2) :
    e.hit k va n = false := by
  obtain ⟨p, -, rfl⟩ := List.mem_map.1 (List.mem_filter.1 hq).1
  simpa using (List.mem_filter.1 he).2

theorem doneTlbinv_drops (s : State) (f : Flight) (va n k : Nat) :
    f ∉ (s.doneTlbinv f va n k).x.flights ∧ (s.doneTlbinv f va n k).m.dram = s.m.dram ∧ (s.doneTlbinv f va n k).m.home = s.m.home ∧
      (∀ e ∈ (s.doneTlbinv f va n k).m.lastPage, e ∈ s.m.lastPage ∧ e.2.hit k va n = false) ∧
      (∀ e ∈ s.m.lastPage, e.2.hit k va n = false → e ∈ (s.doneTlbinv f va n k).m.lastPage) ∧
      (∀ q ∈ (s.doneTlbinv f va n k).m.coreTlb, ∀ e ∈ q.2, e.hit k va n = false) ∧
      ∀ q ∈ (s.doneTlbinv f va n k).m.sectorTlb, ∀ e ∈ q.2, e.hit k va n = false := by
  refine ⟨finish_flights _ f, ?_⟩
  unfold State.doneTlbinv
  rw [finish_m]
  refine ⟨rfl, rfl, fun e he => ?_, fun e he hhit => ?_, fun q hq e he => dropped_hit hq he, fun q hq e he => dropped_hit hq he⟩
  · obtain ⟨hmem, hhit⟩ := List.mem_filter.1 he
    exact ⟨hmem, by simpa using hhit⟩
  · exact List.mem_filter.2 ⟨he, by simp [hhit]⟩

/-- CTXSAVE first marks its context. -/
theorem doneCtxsave_begins (s : State) (f : Flight) {k : Nat} (hk : k < s.d.ctxs.length) : ((s.doneCtxsave f k false).ctx k).saved = true := by
  unfold State.doneCtxsave State.ctx State.updFlight State.updCtx
  simp [List.getD_eq_getElem?_getD, hk]

/-- It ends when nothing of the context is on a core. -/
theorem doneCtxsave_ends {s : State} (f : Flight) {k : Nat} (hteams : ∀ u ∈ s.x.teams, u.ctx = k → u.swapped ≠ none)
    (hloose : ∀ u ∈ s.x.threads, u.ctx = k → u.team ≠ none) (htiles : s.e.tiles = []) : s.doneCtxsave f k true = s.finish f := by
  have hno : (s.x.teams.filter fun t => t.ctx == k && t.swapped.isNone) = [] := List.filter_eq_nil_iff.2 fun u hu => by
    have := hteams u hu
    simp only [Bool.and_eq_true, beq_iff_eq, Option.isNone_iff_eq_none]
    exact fun h => this h.1 h.2
  have hnone : (s.x.threads.any fun t => t.ctx == k && t.team.isNone) = false := by
    rw [List.any_eq_false]
    intro u hu
    have := hloose u hu
    simp only [Bool.and_eq_true, beq_iff_eq, Option.isNone_iff_eq_none]
    exact fun h => this h.1 h.2
  unfold State.doneCtxsave
  simp [hno, hnone, htiles]

end Sys2Proof.Machine

namespace Sys2Proof

open Machine

/-- Settles O40: each word in flight by the rule for a word of one thread (`next_lanes_solo`), a code by `lanes_raises`, and the end of
HALT by what an exit and a reap keep (`State.Gone`, `reap_thinned`). That TLBINV with b = 0 does not check its VA is log 84 of the model,
and that HALT marks its context at issue log 55. -/
theorem systemInstructions : Obligations.SystemInstructions := by
  unfold Obligations.SystemInstructions
  intro s t tm c n d a x b y hs hcalm htm huniq hb hy
  dsimp only
  have ht : s.thread? t.uid = some t := hs.2.1
  have hbb : t.inBlocks (bRuns b 1) = true := inBlocks_sub hb fun p hp => List.mem_append_right _ hp
  have hbd : t.inBlocks [(d, 8)] = true := inBlocks_sub hb (by simp)
  have hbax : t.inBlocks ([(a, 2), (x, 1)] ++ bRuns b 1) = true := inBlocks_sub hb fun p hp => by
    rcases List.mem_append.1 hp with hp | hp
    · exact List.mem_append_left _ (List.mem_cons_of_mem _ hp)
    · exact List.mem_append_right _ hp
  have hbd1 : t.inBlocks ((d, 1) :: bRuns b 1) = true := by
    refine inBlocks_cons.2 ⟨?_, hbb⟩
    have := (inBlocks_cons.1 hbd).1
    dsimp only at this ⊢
    omega
  refine ⟨fun r hr hlt => ⟨exec_getsr hs hcalm hbd1 hy hr hlt, fun htime => exec_getsr_time hs hcalm hbd1 hy (htime ▸ hr) hlt⟩,
    ⟨rfl, rfl, rfl, ?_, rfl, quarters_append t.name⟩, ?_, ?_, fun hp => ⟨fun hk hva => ?_, fun hk => ⟨?_, fun hne => ⟨?_, ?_⟩⟩, fun hlen => ?_⟩,
    fun hp hq i hi => ?_, fun f hf hthread hswap hst => ?_⟩
  · simp [State.srval, State.srTeam, htm]
  · refine next_lanes_solo hs hbb ?_ (calm_launchFlight hcalm _ _ _)
    simp only [hy, bind, Except.bind]
  · refine next_lanes_solo hs hbd ?_ (calm_launchFlight hcalm _ _ _)
    simp only [htm]
    cases s.det t with
    | true => rfl
    | false => simp only [Bool.false_eq_true, if_false, BitVec.extractLsb'_zero]
  · refine next_lanes_solo hs (runs := []) rfl ?_ (calm_launchFlight hcalm _ _ _)
    have hbad : (y != 0#32 && ptrVa (t.pair a.toNat) % 65536 != 0) = false := by
      rcases hva with rfl | hva
      · rfl
      · simp [hva]
    simp only [privLane_go hp hbax, hy, bind, Except.bind, Nat.not_lt.2 hk, hbad, Bool.false_eq_true, if_false]
  · refine next_lanes_solo hs (runs := []) rfl ?_ (calm_launchFlight hcalm _ _ _)
    simp only [privLane_go hp hbb, hy, bind, Except.bind, Nat.not_lt.2 hk, if_false]
  · refine next_lanes_solo hs (runs := []) rfl ?_ (calm_launchFlight hcalm _ _ _)
    simp only [privLane_go hp hbb, ctxOperand_ok hy hk hne, bind, Except.bind]
  · refine next_lanes_solo hs (runs := []) rfl ?_ (calm_launchFlight hcalm _ _ _)
    simp only [privLane_go hp hbb, ctxOperand_ok hy hk hne, bind, Except.bind]
  · refine ⟨_, exec_halt hs hp, ?_⟩
    cases hbusy : s.busyThread t.uid with
    | false =>
      have hst : t.status ≠ .exited := by rw [(solo_issued hs huniq).1]; nofun
      have hgone := haltLane_exits hs hlen hst hbusy
      exact ⟨hgone.halted, fun _ u hu => hgone.exited u (thread?_mem hu).1 (by simp [(thread?_mem hu).2]), nofun⟩
    | true =>
      obtain ⟨hgone, hfl⟩ := haltLane_flies hlen hcalm hbusy
      exact ⟨hgone.halted, nofun, fun _ => hfl⟩
  · have hraise {runs : List (VReg × Nat)} {k : State → Thread → Res State} :
        Raising s (s.lanes c.grd [] fun s t => s.privLane t runs (k s t)) t (Cause.of .privileged) :=
      lanes_raises hs hq rfl (privLane_refuses hp)
    have hplain {i : Instr} {s' : State} (he : exec i s = .next s') (h : Raising s s' t (Cause.of .privileged)) :
        ∃ (s' : State) (t' : Thread) (r : TrapRec), exec i s = .next s' ∧ s'.thread? t.uid = some t' ∧ t'.v = t.v ∧
          t'.trap = some r ∧ reportCode r.report = Code.val .privileged ∧
          (s'.ctx t.ctx).halted = (s.ctx t.ctx).halted ∧ (i ≠ .halt c → s'.d = s.d ∧ s'.m = s.m) := by
      obtain ⟨t', r, ht', hv, hr, hcode⟩ := h.thread?
      refine ⟨s', t', r, he, ht', hv, hr, hcode, ?_, fun _ => ⟨h.d rfl, h.m⟩⟩
      unfold State.ctx
      rw [h.d rfl]
    simp only [List.mem_cons, List.not_mem_nil, or_false] at hi
    rcases hi with rfl | rfl | rfl | rfl | rfl
    · exact hplain rfl hraise
    · exact hplain rfl hraise
    · exact hplain rfl hraise
    · exact hplain rfl hraise
    · have hhalt := hraise (runs := []) (k := fun s t => .ok (s.haltLane t c))
      obtain ⟨t', r, ht', hv, hr, hcode⟩ := hhalt.reap
      refine ⟨_, t', r, exec_halt_lanes s c, ht', hv, hr, hcode, ?_, fun hne => absurd rfl hne⟩
      obtain ⟨keep, hthin, -⟩ := reap_thinned (s.lanes c.grd [] fun s t => s.privLane t [] (.ok (s.haltLane t c)))
      refine (hthin.halted t.ctx).trans ?_
      unfold State.ctx
      rw [hhalt.d rfl]
  · have ht' : s.thread? f.thread = some t := hthread ▸ ht
    have hdone := exec_complete hf ht' hswap hst
    refine ⟨fun m v hop hreplay hfirst => ?_, fun va k j hop => ?_, fun k hop => ?_, fun k hop => ?_, fun k hop => ?_, fun k hop hteams hloose htiles => ?_⟩
    · refine ⟨_, exec_doneSetsr hf ht' hswap hst hop hreplay fun g hg hgt => hfirst g hg (hgt.trans hthread), ?_, ?_⟩
      · rintro rfl
        exact setChild_fields t.name v
      · rintro rfl
        exact setBounce_fields t.name v
    · refine ⟨s.doneTlbinv f va k j, ?_, doneTlbinv_drops s f va k j⟩
      rw [hdone]
      simp only [State.completeOp, hop]
    · rw [hdone]
      simp only [State.completeOp, hop]
      rfl
    · rw [hdone]
      simp only [State.completeOp, hop]
      rfl
    · refine ⟨_, hdone, fun hk => ?_⟩
      simp only [State.completeOp, hop]
      exact doneCtxsave_begins s f hk
    · rw [hdone]
      simp only [State.completeOp, hop]
      rw [doneCtxsave_ends f hteams hloose htiles]

end Sys2Proof
end

/-! Copy words at issue (R103, R210 to R214, R251). -/

section

namespace Sys2Proof.Machine

/-! The lock table and the pending counts -/

theorem copyRoom_iff {s : State} {tm? : Option Team} {n : Nat} {ls : List Nat} : s.copyRoom tm? n ls = true ↔
    s.m.locks.length + n ≤ 512 ∧ ∀ tm, tm? = some tm → ∀ l ∈ ls, tm.pendOf l < 15 := by
  unfold State.copyRoom
  cases tm? with
  | none => simp
  | some tm => simp

theorem pend_puts : ∀ (ls : List Nat) (p : Sparse Nat), ls.Nodup → ∀ l,
    (sget (ls.foldl (fun p l => sput p l ((sget p l).getD 0 + 1)) p) l).getD 0 = (sget p l).getD 0 + if l ∈ ls then 1 else 0
  | [], p, _, l => by simp
  | j :: ls, p, hnodup, l => by
    obtain ⟨hj, hls⟩ := List.nodup_cons.1 hnodup
    rw [List.foldl_cons, pend_puts ls _ hls l]
    by_cases hl : l = j
    · subst hl
      rw [sget_sput_self, if_neg hj, if_pos List.mem_cons_self]
      rfl
    · rw [sget_sput_other _ hl]
      simp [hl]

theorem eraseDups_nodup : ∀ ls : List Nat, ls.eraseDups.Nodup
  | [] => List.nodup_nil
  | a :: ls => by
    rw [List.eraseDups_cons, List.nodup_cons]
    refine ⟨fun h => ?_, eraseDups_nodup _⟩
    have := (List.mem_filter.1 (List.mem_eraseDups.1 h)).2
    simp at this
termination_by ls => ls.length
decreasing_by exact Nat.lt_succ_of_le (List.length_filter_le _ _)

theorem pieceLines_nodup (ps : List CopyPiece) : (pieceLines ps).Nodup := eraseDups_nodup _

/-! What a copy word that its checks allow does -/

section
variable {s : State} {t : Thread} {c : Ctl} {tensor : BitVec 12} {ps : List CopyPiece} {ls : List (DWord × Nat × Bool)}
  {src : List (DWord × Nat)}

/-- There is room for a copy of a thread. -/
def State.roomFor (s : State) (t : Thread) (n : Nat) (lines : List Nat) : Prop :=
  s.m.locks.length + n ≤ 512 ∧ ∀ tm, s.teamOf t = some tm → ∀ l ∈ lines, tm.pendOf l < 15

theorem startCopy_nothing : s.startCopy t c tensor [] ls src = s.launchFlight t c (.write [] []) := rfl

theorem startCopy_waits (hps : ps ≠ []) (hroom : ¬s.roomFor t ls.length (pieceLines ps)) : s.startCopy t c tensor ps ls src =
    s.updThread t.uid fun u => { u with status := .copyWait ls.length (pieceLines ps), mid := true } := by
  have hfull : s.copyRoom (s.teamOf t) ls.length (pieceLines ps) = false := Bool.eq_false_iff.2 fun h => hroom (copyRoom_iff.1 h)
  have he : ps.isEmpty = false := by simpa using hps
  unfold State.startCopy
  simp only [he, hfull, Bool.false_eq_true, Bool.not_false, if_false, if_true]

/-- The copy that begins. -/
def State.newCopy (s : State) (t : Thread) (tensor : BitVec 12) (ps : List CopyPiece) (src : List (DWord × Nat)) : CopyJob :=
  { uid := s.x.nextUid, thread := t.uid, team := t.team, ctx := t.ctx, core := t.core, flight := s.x.nextUid + 1, tensor := tensor,
    ro := false, pieces := ps, src := src, begun := false, wait := [], landed := [], bad := [], lines := pieceLines ps,
    wct := [], stalled := none, failed := none }

/-- The flight of the copy that begins. -/
def State.newCopyFlight (s : State) (t : Thread) (c : Ctl) : Flight :=
  State.launched { s with x := { s.x with nextUid := s.x.nextUid + 1 } } t c (.copyEnd s.x.nextUid)

/-- The state once the copy's word is in flight, and its lines count. -/
def State.copyFlying (s : State) (t : Thread) (c : Ctl) (ps : List CopyPiece) : State :=
  let u := State.launchFlight { s with x := { s.x with nextUid := s.x.nextUid + 1 } } t c (.copyEnd s.x.nextUid)
  match s.teamOf t with
  | some tm => u.pendAdd tm.uid (pieceLines ps)
  | none => u

theorem startCopy_begins (hps : ps ≠ []) (hroom : s.roomFor t ls.length (pieceLines ps)) : s.startCopy t c tensor ps ls src =
    { s.copyFlying t c ps with
      m := { (s.copyFlying t c ps).m with locks := (s.copyFlying t c ps).m.locks ++ ls.map fun l => lockOf s.x.nextUid t.ctx l.1 l.2.1 l.2.2 }
      e := { (s.copyFlying t c ps).e with copies := (s.copyFlying t c ps).e.copies ++ [s.newCopy t tensor ps src] } } := by
  have hok : s.copyRoom (s.teamOf t) ls.length (pieceLines ps) = true := copyRoom_iff.2 hroom
  have he : ps.isEmpty = false := by simpa using hps
  unfold State.startCopy
  simp only [he, hok, Bool.false_eq_true, Bool.not_true, if_false]
  rfl

theorem copyFlying_frame : (s.copyFlying t c ps).m = s.m ∧ (s.copyFlying t c ps).e = s.e ∧
    (s.copyFlying t c ps).x.flights = s.x.flights ++ [s.newCopyFlight t c] ∧
    (s.calm → (s.copyFlying t c ps).calm) := by
  let u : State := { s with x := { s.x with nextUid := s.x.nextUid + 1 } }
  have hk := launchFlight_kept u t c (.copyEnd s.x.nextUid)
  have hf := launchFlight_launched u t c (.copyEnd s.x.nextUid)
  have hc : s.calm → (u.launchFlight t c (.copyEnd s.x.nextUid)).calm := fun h => calm_launchFlight (s := u) h t c _
  unfold State.copyFlying
  dsimp only
  split
  · exact ⟨hk.m, hk.e, hf, fun h => calm_of_threads (hc h) rfl⟩
  · exact ⟨hk.m, hk.e, hf, hc⟩

theorem copyFlying_pend {tm : Team} (htm : s.teamOf t = some tm) : ∃ tm', (s.copyFlying t c ps).team? tm.uid = some tm' ∧
    ∀ l, tm'.pendOf l = tm.pendOf l + if l ∈ pieceLines ps then 1 else 0 := by
  let u : State := { s with x := { s.x with nextUid := s.x.nextUid + 1 } }
  have hk := launchFlight_kept u t c (.copyEnd s.x.nextUid)
  have hteam : (u.launchFlight t c (.copyEnd s.x.nextUid)).team? tm.uid = some tm := by
    unfold State.team?
    rw [hk.teams]
    exact (teamOf_team? htm).2
  unfold State.copyFlying
  dsimp only
  rw [htm]
  dsimp only
  unfold State.pendAdd
  rw [team?_updTeam fun _ => by rfl, hteam]
  refine ⟨_, by rw [Option.map_some, if_pos rfl], fun l => ?_⟩
  exact pend_puts _ _ (pieceLines_nodup ps) l

theorem calm_startCopy (hc : s.calm) : (s.startCopy t c tensor ps ls src).calm := by
  by_cases hps : ps = []
  · subst hps
    exact calm_launchFlight hc _ _ _
  · by_cases hroom : s.roomFor t ls.length (pieceLines ps)
    · rw [startCopy_begins hps hroom]
      exact calm_of_threads (copyFlying_frame.2.2.2 hc) rfl
    · rw [startCopy_waits hps hroom]
      exact calm_updThread hc fun _ => by rfl

end

/-! The checks of a copy word -/

section
variable {s : State} {t : Thread} {c : Ctl} {a x : VReg} {b : SrcB} {y : Word} {esz : BitVec 3}

/-- A range of a team's scratchpad that a copy may name. -/
def State.copyFits (s : State) (t : Thread) (y : Word) (n : Nat) : Prop := n = 0 ∨ ∃ tm, s.teamOf t = some tm ∧ y.toNat + n ≤ tm.ssize

theorem copySpad_ok {n : Nat} (h : s.copyFits t y n) : s.copySpad t y n = .ok () := by
  unfold State.copySpad
  rcases h with rfl | ⟨tm, htm, hfit⟩
  · rfl
  · split
    · rfl
    · unfold State.spadTeam
      rw [htm]
      dsimp only
      rw [if_pos hfit]

theorem plainLen_ok {w : Word} (h16 : w.toNat % 16 = 0) (hle : w.toNat ≤ 2 ^ 24) : plainLen w = .ok w.toNat := by
  unfold plainLen
  rw [if_pos (by simp [h16]; omega)]

theorem gatherOps_ok {w : Word} (hesz : esz ≠ 7#3) (hle : w.toNat ≤ 65536) :
    gatherOps t esz a w = .ok (t.pair a.toNat, t.pair (a.toNat + 2), 2 ^ (esz.toNat + 2), w.toNat) := by
  unfold gatherOps
  rw [if_neg (by simp [hesz]; omega)]

theorem gatherAlign_ok {base list : DWord} {es : Nat} (hl : list.toNat % 4 = 0) (hb : base.toNat % min es 16 = 0) :
    gatherAlign base list es = .ok () := by
  unfold gatherAlign
  simp only [alignTo_ok hl, alignTo_ok hb, bind, Except.bind]

section
variable (hs : s.solo c.grd t) (hcalm : s.calm) (hy : s.srcI t b = .ok y)
include hs hcalm hy

/-- CPY of one range. -/
theorem exec_cpy (hb : t.inBlocks ([(a, 2), (x, 1)] ++ bRuns b 1) = true) (hp : (t.pair a.toNat).toNat % 16 = 0) (hoff : y.toNat % 16 = 0)
    (h16 : (t.vget x.toNat).toNat % 16 = 0) (hle : (t.vget x.toNat).toNat ≤ 2 ^ 24) (hfit : s.copyFits t y (t.vget x.toNat).toNat)
    (s2g : Bool) : exec (.cpy c s2g false 0#3 a b x) s = .next (s.startCopy t c 0#12
      (if (t.vget x.toNat).toNat = 0 then [] else if s2g then [⟨.spad y.toNat, .glob (t.pair a.toNat), (t.vget x.toNat).toNat⟩]
        else [⟨.glob (t.pair a.toNat), .spad y.toNat, (t.vget x.toNat).toNat⟩])
      [(t.pair a.toNat, (t.vget x.toNat).toNat, s2g)] (if s2g then [] else [(t.pair a.toNat, (t.vget x.toNat).toNat)])) := by
  refine next_lanes_solo hs hb ?_ (calm_startCopy hcalm)
  simp only [hy, plainLen_ok h16 hle, alignTo_ok hp, alignTo_zeroExtend hoff, copySpad_ok hfit, bind, Except.bind, Bool.and_false,
    Bool.not_false, bne_self_eq_false, Bool.or_self, Bool.false_eq_true, if_false, beq_iff_eq]

/-- CPY of a gather. -/
theorem exec_cpy_gather (hb : t.inBlocks ([(a, 4), (x, 1)] ++ bRuns b 1) = true) (hlist : (t.pair (a.toNat + 2)).toNat % 4 = 0)
    (hp : (t.pair a.toNat).toNat % min (2 ^ (esz.toNat + 2)) 16 = 0) (hesz : esz ≠ 7#3) (hle : (t.vget x.toNat).toNat ≤ 65536)
    (hoff : y.toNat % 16 = 0) (hfit : s.copyFits t y (2 ^ (esz.toNat + 2) * (t.vget x.toNat).toNat)) :
    exec (.cpy c false true esz a b x) s = .next (s.startCopy t c 0#12
      (gatherPieces (t.pair a.toNat) (t.pair (a.toNat + 2)) (2 ^ (esz.toNat + 2)) (t.vget x.toNat).toNat fun o => .spad (y.toNat + o))
      [(t.pair (a.toNat + 2), 4 * (t.vget x.toNat).toNat, false)] [(t.pair (a.toNat + 2), 4 * (t.vget x.toNat).toNat)]) := by
  refine next_lanes_solo hs hb ?_ (calm_startCopy hcalm)
  simp only [hy, gatherOps_ok hesz hle, gatherAlign_ok hlist hp, alignTo_zeroExtend hoff, copySpad_ok hfit, bind, Except.bind,
    Bool.false_and, Bool.not_true, Bool.or_self, Bool.false_eq_true, if_false, if_true]

/-- CPYG of one range. -/
theorem exec_cpyg (hb : t.inBlocks ([(a, 2), (x, 2)] ++ bRuns b 1) = true) (hp : (t.pair a.toNat).toNat % 16 = 0)
    (hq : (t.pair x.toNat).toNat % 16 = 0) (h16 : y.toNat % 16 = 0) (hle : y.toNat ≤ 2 ^ 24)
    (hapart : ptrVa (t.pair a.toNat) + y.toNat ≤ ptrVa (t.pair x.toNat) ∨ ptrVa (t.pair x.toNat) + y.toNat ≤ ptrVa (t.pair a.toNat) ∨
      y.toNat = 0) : exec (.cpyg c false 0#3 a b x) s = .next (s.startCopy t c 0#12
        (if y.toNat = 0 then [] else [⟨.glob (t.pair a.toNat), .glob (t.pair x.toNat), y.toNat⟩])
        [(t.pair a.toNat, y.toNat, false), (t.pair x.toNat, y.toNat, true)] [(t.pair a.toNat, y.toNat)]) := by
  refine next_lanes_solo hs hb ?_ (calm_startCopy hcalm)
  have hno : (decide (ptrVa (t.pair a.toNat) < ptrVa (t.pair x.toNat) + y.toNat) &&
      decide (ptrVa (t.pair x.toNat) < ptrVa (t.pair a.toNat) + y.toNat) && y.toNat != 0) = false := by
    simp only [Bool.and_eq_false_iff, decide_eq_false_iff_not, bne_eq_false_iff_eq]
    omega
  simp only [hy, plainLen_ok h16 hle, alignTo_ok hp, alignTo_ok hq, hno, bind, Except.bind, Bool.not_false, bne_self_eq_false,
    Bool.and_false, Bool.false_eq_true, if_false, beq_iff_eq]

/-- CPYG of a gather. -/
theorem exec_cpyg_gather (hb : t.inBlocks ([(a, 4), (x, 2)] ++ bRuns b 1) = true) (hlist : (t.pair (a.toNat + 2)).toNat % 4 = 0)
    (hp : (t.pair a.toNat).toNat % min (2 ^ (esz.toNat + 2)) 16 = 0) (hesz : esz ≠ 7#3) (hle : y.toNat ≤ 65536)
    (hq : (t.pair x.toNat).toNat % 16 = 0) : exec (.cpyg c true esz a b x) s = .next (s.startCopy t c 0#12
      (gatherPieces (t.pair a.toNat) (t.pair (a.toNat + 2)) (2 ^ (esz.toNat + 2)) y.toNat fun o => .glob (t.pair x.toNat + BitVec.ofNat 64 o))
      [(t.pair (a.toNat + 2), 4 * y.toNat, false), (t.pair x.toNat, 2 ^ (esz.toNat + 2) * y.toNat, true)]
      [(t.pair (a.toNat + 2), 4 * y.toNat)]) := by
  refine next_lanes_solo hs hb ?_ (calm_startCopy hcalm)
  simp only [hy, gatherOps_ok hesz hle, gatherAlign_ok hlist hp, alignTo_ok hq, bind, Except.bind,
    Bool.not_true, Bool.false_and, Bool.false_eq_true, if_false, if_true]

/-- The global range of a tile's pieces. -/
def tileRange (ps : List CopyPiece) : List (DWord × Nat) :=
  match pieceRange ps with
  | some r => [(BitVec.ofNat 64 r.1, r.2 - r.1)]
  | none => []

omit hy hs hcalm in
theorem tileRange_locks (ps : List CopyPiece) (s2t : Bool) : (tileRange ps).map (fun r => (r.1, r.2, s2t)) =
    match pieceRange ps with
    | some r => [(BitVec.ofNat 64 r.1, r.2 - r.1, s2t)]
    | none => [] := by
  unfold tileRange
  cases pieceRange ps <;> rfl

/-- CPYT. -/
theorem exec_cpyt {tm : Team} {dn : DReg} {s2t : Bool} {d : BitVec 256} (hb : t.inBlocks ([(x, 4)] ++ bRuns b 1) = true)
    (htm : s.teamOf t = some tm) (hd : tm.d.getD dn.toNat 0#256 = d) (hkind : descKind d = 2) (hoff : y.toNat % 16 = 0)
    (hfit : s.copyFits t y (tsTile d 0 * tsTile d 1 * tsTile d 2 * tsTile d 3 * 2 ^ descEsize d)) (hro : s2t = true → descRo d = false) :
    let ps := tilePieces d s2t (fun k => (t.vget (x.toNat + k)).toInt) y.toNat
    exec (.cpyt c s2t dn b x) s = .next (s.startCopy t c (descTensor d) ps ((tileRange ps).map fun r => (r.1, r.2, s2t))
      (if s2t then [] else tileRange ps)) := by
  refine next_lanes_solo hs hb ?_ (calm_startCopy hcalm)
  have hread : (s2t && descRo d) = false := by
    cases s2t with
    | true => exact hro rfl
    | false => rfl
  simp only [hy, htm, hd, hkind, alignTo_zeroExtend hoff, copySpad_ok hfit, hread, bind, Except.bind, bne_self_eq_false, Bool.false_eq_true,
    if_false]
  rfl

end

end

end Sys2Proof.Machine
end

/-! What a copy reads and writes at each kind of end (R104, R210, R212), where no core owns a line. -/

section

namespace Sys2Proof.Machine

/-! An engine's reads and writes at home -/

theorem XlatOnly.memOnly {s s' : State} (h : XlatOnly s s') : MemOnly s s' := by
  obtain ⟨_, _, _, rfl⟩ := h
  exact .of_eq rfl rfl rfl rfl rfl rfl

theorem XlatOnly.homeSame {s s' : State} (h : XlatOnly s s') (hs : s.Wf) : HomeSame s s' := ⟨h.wf hs, fun l => by rw [h.homeLine], h.homeByte⟩

theorem XlatOnly.homeBytes {s s' : State} (h : XlatOnly s s') (pa n : Nat) : s'.homeBytes pa n = s.homeBytes pa n := by
  obtain ⟨_, _, _, rfl⟩ := h
  rfl

theorem HomePut.homeBytes {s s' : State} (h : HomeSame s s') (pa n : Nat) : s'.homeBytes pa n = s.homeBytes pa n :=
  List.map_congr_left fun i _ => h.byte (pa + i)

section
variable {s : State} (ho : s.Ownerless) (core c : Nat) (p : DWord) (n : Nat) (tensor : BitVec 12)
include ho

theorem xlatOnly_engCheck (modifies : Bool) : XlatOnly s (s.engCheck core c p n modifies tensor).1 := by
  unfold State.engCheck
  refine foldl_keeps (P := fun a : State × Except Stop (List (Nat × Nat)) => XlatOnly s a.1) _ _ (.refl s) fun a part _ ha => ?_
  dsimp only
  split
  · exact ha
  · have hpage := ha.trans (xlatOnly_pageCheck (ha.ownerless ho) core none c (p + BitVec.ofNat 64 part.1) part.2 modifies false true tensor 5)
    split
    · next e => rw [e] at hpage; exact hpage
    · next e => rw [e] at hpage; exact hpage
    · next e => rw [e] at hpage; exact hpage

omit ho

theorem memOnly_retagHome (s : State) (pa : Nat) : MemOnly s (s.retagHome c tensor pa n) := by
  unfold State.retagHome
  split
  · rfl
  · exact MemOnly.foldl _ s fun u l => memOnly_touchHome u l _ _

variable (h : s.Wf)
include h

theorem homeSame_retagHome (pa : Nat) : HomeSame s (s.retagHome c tensor pa n) := by
  unfold State.retagHome
  split
  · exact .refl h
  · exact foldl_keeps (P := HomeSame s) _ _ (.refl h) fun u l _ hu => hu.trans (.of_kept fun q => homeKept_touchHome q l _ _ hu.wf)

include ho

/-- An engine's load changes no byte at home. -/
theorem engLoad_kept : HomeSame s (s.engLoad core c tensor p n).1 ∧ MemOnly s (s.engLoad core c tensor p n).1 := by
  have hcheck := xlatOnly_engCheck ho core c p n tensor false
  unfold State.engLoad
  split
  · next e => rw [e] at hcheck; exact ⟨hcheck.homeSame h, hcheck.memOnly⟩
  · next e =>
    rw [e] at hcheck
    refine foldl_keeps (P := fun a : State × List Byte × Bool => HomeSame s a.1 ∧ MemOnly s a.1) _ _ ⟨hcheck.homeSame h, hcheck.memOnly⟩
      fun a g _ ⟨hsame, hmem⟩ => ?_
    dsimp only
    split
    · exact ⟨hsame, hmem⟩
    · have htag := hsame.trans (homeSame_retagHome (s := a.1) c g.2 tensor hsame.wf g.1)
      rw [readHome_ownerless (htag.ownerless ho)]
      exact ⟨htag, hmem.trans (memOnly_retagHome c g.2 tensor a.1 g.1)⟩

/-- One of a range in one page reads its bytes at home. -/
theorem engLoad_one {s1 : State} {pa : Nat} (hcheck : s.engCheck core c p n false tensor = (s1, .ok [(pa, n)])) (hw : isWindow pa = false) :
    ∃ s2 bad, s.engLoad core c tensor p n = (s2, .ok (s.homeBytes pa n, bad)) ∧ HomeSame s s2 ∧ MemOnly s s2 := by
  obtain ⟨hsame, hmem⟩ := engLoad_kept ho core c p n tensor h
  have hx := xlatOnly_engCheck ho core c p n tensor false
  rw [hcheck] at hx
  have htag := (hx.homeSame h).trans (homeSame_retagHome (s := s1) c n tensor (hx.wf h) pa)
  have hload : ∃ s2 bad, s.engLoad core c tensor p n = (s2, .ok (s.homeBytes pa n, bad)) := by
    unfold State.engLoad
    rw [hcheck]
    simp only [List.foldl_cons, List.foldl_nil, hw, Bool.false_eq_true, if_false, readHome_ownerless (htag.ownerless ho), htag.homeBytes,
      List.nil_append]
    exact ⟨_, _, rfl⟩
  obtain ⟨s2, bad, hload⟩ := hload
  rw [hload] at hsame hmem
  exact ⟨s2, bad, hload, hsame, hmem⟩

/-- An engine's store of a range in one page puts its bytes at home. -/
theorem engStore_one {s1 : State} {pa : Nat} {bs : List Byte} (hcheck : s.engCheck core c p bs.length true tensor = (s1, .ok [(pa, bs.length)]))
    (hw : isWindow pa = false) (bad : Bool) : ∃ s2 w, s.engStore core c tensor p bs bad = (s2, .ok w) ∧ HomePut (listBytes pa bs) s s2 := by
  have hx := xlatOnly_engCheck ho core c p bs.length tensor true
  rw [hcheck] at hx
  have hput := homePut_writeHome (hx.wf h) (hx.ownerless ho) c tensor pa bs bad
  unfold State.engStore
  rw [hcheck]
  simp only [List.foldl_cons, List.foldl_nil, hw, Bool.false_eq_true, if_false, List.take_length]
  exact ⟨_, _, rfl, (hx.homeSame h).after_same hput⟩

end

/-! The ends of a copy -/

/-- A team that has stored nothing of its own aside reads memory's bytes. -/
theorem overlay_nothing {s : State} {t : Thread} (h : ∀ tm, s.teamOf t = some tm → tm.isolated = []) (va : Nat) (bs : List Byte) :
    s.overlay t va bs = bs := by
  unfold State.overlay
  split
  · rfl
  · next tm htm => rw [h tm htm]; rfl

section
variable {s : State} {k : CopyJob} {t : Thread} (ht : s.thread? k.thread = some t) (hiso : ∀ tm, s.teamOf t = some tm → tm.isolated = [])
include ht hiso

theorem overlay_kept {s' : State} (hm : MemOnly s s') : ∃ t', s'.thread? k.thread = some t' ∧ ∀ va bs, s'.overlay t' va bs = bs := by
  obtain ⟨w, hw⟩ := hm.thread? ht
  exact ⟨_, hw, overlay_nothing fun tm htm => hiso tm ((hm.teamOf _).symm.trans htm)⟩

theorem copyRead_glob {n : Nat} {a : DWord} {s2 : State} {bs : List Byte} {bad : Bool} (hm : MemOnly s s2)
    (hload : s.engLoad k.core k.ctx k.tensor a n = (s2, .ok (bs, bad))) : s.copyRead k (.glob a) n = (s2, .ok (bs, bad)) := by
  obtain ⟨t', ht', hover⟩ := overlay_kept ht hiso hm
  unfold State.copyRead
  simp only [hload, ht', hover]

/-- An element is read where the index read from its list puts it. The end and the load are variables with their equations beside: of
known ones the kernel would evaluate a load of 4 bytes, and with it the division of a sum by 65536. -/
theorem copyRead_elem {e : CopyEnd} {n size off : Nat} {base list : DWord} (he : .elem base list size off = e)
    {load : State → Nat → Nat → BitVec 12 → DWord → Nat → State × Except Stop (List Byte × Bool)} (hl : State.engLoad = load)
    {s2 s4 : State} {ix : List Byte × Bool} {bs : List Byte} {bad : Bool} (hm : MemOnly s s2) (hm' : MemOnly s s4)
    (hix : load s k.core k.ctx k.tensor list 4 = (s2, .ok ix))
    (hload : load s2 k.core k.ctx k.tensor (base + BitVec.ofNat 64 (leNat ix.1 * size + off)) n = (s4, .ok (bs, bad))) :
    s.copyRead k e n = (s4, .ok (bs, bad || ix.2)) := by
  obtain ⟨t2, ht2, hover2⟩ := overlay_kept ht hiso hm
  obtain ⟨t4, ht4, hover4⟩ := overlay_kept ht hiso hm'
  unfold State.copyRead
  rw [hl]
  subst he
  simp only [hix, ht2, hover2, hload, ht4, hover4]

omit hiso in
theorem copyWrite_glob (h : s.isolates t = false) (a : DWord) (bs : List Byte) (bad : Bool) :
    s.copyWrite k (.glob a) bs bad = s.engStore k.core k.ctx k.tensor a bs bad := by
  unfold State.copyWrite
  simp only [ht, Option.bind_some, h, Bool.false_eq_true, if_false]

end

theorem copyRead_spad {s : State} {k : CopyJob} {u : Nat} {tm : Team} (hu : k.team = some u) (htm : s.team? u = some tm) (o n : Nat) :
    s.copyRead k (.spad o) n = (s, .ok (tm.spadRead o n, tm.spadPoison o n)) := by
  simp only [State.copyRead, hu, Option.bind_some, htm]

theorem copyWrite_spad {s : State} {k : CopyJob} {u : Nat} {tm : Team} (hu : k.team = some u) (htm : s.team? u = some tm) (o : Nat)
    (bs : List Byte) (bad : Bool) (hspad : swf 0#8 tm.spad = true) : ∃ s2 tm', s.copyWrite k (.spad o) bs bad = (s2, .ok []) ∧
      s2.team? u = some tm' ∧ s2.m = s.m ∧
      ∀ x, tm'.spadRead x 1 = if o ≤ x ∧ x < o + bs.length then [bs.getD (x - o) 0#8] else tm.spadRead x 1 := by
  obtain rfl := team?_uid htm
  refine ⟨s.spadStore tm.uid o bs bad, tm.stored o bs bad, ?_, spadStore_team? htm o bs bad, rfl, stored_spadRead hspad o bs bad⟩
  simp only [State.copyWrite, hu]

section
variable {s : State} {k : CopyJob} {t : Thread} (ht : s.thread? k.thread = some t) (h : s.Wf) (ho : s.Ownerless)
include ht h ho

theorem copyWrite_home (hplain : s.isolates t = false) {n pa : Nat} {a : DWord} {s1 : State} {bs : List Byte} (hlen : bs.length = n)
    (hcheck : s.engCheck k.core k.ctx a n true k.tensor = (s1, .ok [(pa, n)])) (hw : isWindow pa = false) (bad : Bool) :
    ∃ s2 w, s.copyWrite k (.glob a) bs bad = (s2, .ok w) ∧
      ∀ q, s2.homeByte q = if pa ≤ q ∧ q < pa + n then bs.getD (q - pa) 0#8 else s.homeByte q := by
  subst hlen
  obtain ⟨s2, w, hstore, hput⟩ := engStore_one ho k.core k.ctx a k.tensor h hcheck hw bad
  exact ⟨s2, w, (copyWrite_glob ht hplain a bs bad).trans hstore, fun q => by rw [hput.byte, listBytes_getD]⟩

variable (hiso : ∀ tm, s.teamOf t = some tm → tm.isolated = [])
include hiso

theorem copyRead_home {n pa : Nat} {a : DWord} {s1 : State}
    (hcheck : s.engCheck k.core k.ctx a n false k.tensor = (s1, .ok [(pa, n)])) (hw : isWindow pa = false) :
    ∃ s2 bad, s.copyRead k (.glob a) n = (s2, .ok (s.homeBytes pa n, bad)) ∧ ∀ q, s2.homeByte q = s.homeByte q := by
  obtain ⟨s2, bad, hload, hsame, hmem⟩ := engLoad_one ho k.core k.ctx a n k.tensor h hcheck hw
  exact ⟨s2, bad, copyRead_glob ht hiso hmem hload, hsame.byte⟩

theorem copyRead_elem_home {n pa size off : Nat} {base list : DWord} {s2 s3 : State} {ix : List Byte × Bool}
    (hix : s.engLoad k.core k.ctx k.tensor list 4 = (s2, .ok ix))
    (hcheck : s2.engCheck k.core k.ctx (base + BitVec.ofNat 64 (leNat ix.1 * size + off)) n false k.tensor = (s3, .ok [(pa, n)]))
    (hw : isWindow pa = false) : ∃ s4 bad, s.copyRead k (.elem base list size off) n = (s4, .ok (s.homeBytes pa n, bad)) ∧
      ∀ q, s4.homeByte q = s.homeByte q := by
  obtain ⟨hsame, hmem⟩ := engLoad_kept ho k.core k.ctx list 4 k.tensor h
  rw [hix] at hsame hmem
  obtain ⟨s4, bad, hload, hsame4, hmem4⟩ := engLoad_one (hsame.ownerless ho) k.core k.ctx _ n k.tensor hsame.wf hcheck hw
  rw [hsame.homeBytes] at hload
  exact ⟨s4, _, copyRead_elem ht hiso rfl rfl hmem (hmem.trans hmem4) hix hload, fun q => (hsame4.byte q).trans (hsame.byte q)⟩

end

end Sys2Proof.Machine
end

/-! What a copy's events do: it begins, its bytes land, and it ends (R72, R102 to R104, R214). -/

section

namespace Sys2Proof.Machine

/-! The core's own bytes of a range go home -/

theorem pageParts_one {va n : Nat} (hn : 0 < n) (hpage : va % 65536 + n ≤ 65536) : pageParts va n = [(0, n)] := by
  have hone : (va % 65536 + n + 65535) / 65536 = 1 := by omega
  have hmin : min n (65536 - va % 65536) = n := by omega
  unfold pageParts
  rw [if_neg (by simp; omega), hone]
  simp [hmin]

theorem memOnly_wbRange (s : State) (core c lo n : Nat) : MemOnly s (s.wbRange core c lo n).1 := by
  unfold State.wbRange
  refine MemOnly.foldl_fst _ (s, []) fun a part => ?_
  have ht := memOnly_translate a.1 core none c (lo + part.1) false
  dsimp only
  split
  · next e => rw [e] at ht; exact ht
  · next e =>
    rw [e] at ht
    exact ht.trans (MemOnly.foldl_fst _ (_, a.2) fun _ _ => memOnly_writeBackOf _ _ _ _)

/-- What steps that each send a copy's chosen bytes home make of a byte, the copies being of distinct lines. -/
theorem sentHome_byte {β : Type} {st : β → State} {step : β → Copy → β} {sel : Copy → Nat → Bool} (q : Nat) :
    ∀ (cs : List Copy) (a : β), (∀ a, (st a).Wf → (st a).Ownerless → ∀ c ∈ cs, HomePut (c.sent (sel c)) (st a) (st (step a c))) →
      (st a).Wf → (st a).Ownerless → (cs.Pairwise fun c d => c.line ≠ d.line) →
      (st (cs.foldl step a)).homeByte q = ((cs.find? fun c => c.line == q / 256).bind fun c => c.sent (sel c) q).getD ((st a).homeByte q)
  | [], _, _, _, _, _ => rfl
  | c :: cs, a, hstep, h, ho, hlines => by
    obtain ⟨hc, hcs⟩ := List.pairwise_cons.1 hlines
    have hput := hstep a h ho c List.mem_cons_self
    rw [List.foldl_cons, sentHome_byte q cs (step a c) (fun a h ho d hd => hstep a h ho d (List.mem_cons_of_mem _ hd)) hput.wf
      (hput.ownerless ho) hcs, hput.byte]
    by_cases hq : c.line = q / 256
    · have hrest : cs.find? (fun d => d.line == q / 256) = none := List.find?_eq_none.2 fun d hd hd' =>
        hc d hd (hq.trans (beq_iff_eq.1 hd').symm)
      rw [hrest, List.find?_cons_of_pos (by simp [hq]), Option.bind_none, Option.getD_none, Option.bind_some]
    · have hnone : c.sent (sel c) q = none := by
        unfold Copy.sent lineBytes
        split
        · rw [if_neg (Ne.symm hq)]
        · rfl
      rw [hnone, List.find?_cons_of_neg (by simpa using hq), Option.getD_none]

/-- The core's copies of a context's lines that a physical range reaches. -/
def Copy.reaches (core c pa n : Nat) (k : Copy) : Bool :=
  k.place == .l1 core && k.ctx == c && decide (pa < 256 * k.line + 256) && decide (256 * k.line < pa + n)

section
variable {s : State} (h : s.Wf) (hone : s.oneCopy) (core c pa n q : Nat)

include hone in
theorem reached_lines : (s.m.copies.filter (Copy.reaches core c pa n)).Pairwise fun k d => k.line ≠ d.line := by
  have hkeys : s.m.copies.Pairwise fun k d => (k.place, k.line, k.ctx) ≠ (d.place, d.line, d.ctx) := List.pairwise_map.1 hone
  refine (hkeys.sublist List.filter_sublist).imp_of_mem fun {k d} hk hd hne hline => hne ?_
  have hk' := (List.mem_filter.1 hk).2
  have hd' := (List.mem_filter.1 hd).2
  simp only [Copy.reaches, Bool.and_eq_true, beq_iff_eq] at hk' hd'
  rw [hk'.1.1.1, hk'.1.1.2, hd'.1.1.1, hd'.1.1.2, hline]

/-- The reached copy of a byte's line, and the byte that it masks. -/
theorem reached_byte : (((s.m.copies.filter (Copy.reaches core c pa n)).find? fun k => k.line == q / 256).bind fun k =>
    k.sent (fun o => decide (pa ≤ 256 * k.line + o) && decide (256 * k.line + o < pa + n)) q) =
      if pa ≤ q ∧ q < pa + n then s.maskedAt core c q else none := by
  have hsent (k : Copy) (hp : k.place = .l1 core) (hl : k.line = q / 256) :
      k.sent (fun o => decide (pa ≤ 256 * k.line + o) && decide (256 * k.line + o < pa + n)) q =
        if pa ≤ q ∧ q < pa + n then sget k.mask (q % 256) else none := by
    have hq : 256 * k.line + q % 256 = q := by omega
    rw [Copy.sent_l1 hp]
    unfold lineBytes
    rw [if_pos hl.symm, sget_filter _ fun o => decide (pa ≤ 256 * k.line + o) && decide (256 * k.line + o < pa + n), hq]
    simp
  by_cases hin : pa ≤ q ∧ q < pa + n
  · have hpred : (fun k : Copy => decide (Copy.reaches core c pa n k = true ∧ (k.line == q / 256) = true)) =
        fun k : Copy => k.place == .l1 core && k.line == q / 256 && k.ctx == c := by
      funext k
      rw [Bool.eq_iff_iff]
      simp only [Copy.reaches, Bool.and_eq_true, beq_iff_eq, decide_eq_true_eq]
      constructor
      · rintro ⟨⟨⟨⟨hp, hc⟩, -⟩, -⟩, hl⟩
        exact ⟨⟨hp, hl⟩, hc⟩
      · rintro ⟨⟨hp, hl⟩, hc⟩
        exact ⟨⟨⟨⟨hp, hc⟩, by omega⟩, by omega⟩, hl⟩
    rw [List.find?_filter, hpred, if_pos hin]
    unfold State.maskedAt State.copy?
    cases hk : s.m.copies.find? fun k => k.place == .l1 core && k.line == q / 256 && k.ctx == c with
    | none => rfl
    | some k =>
      have hk' := List.find?_some (p := fun k : Copy => k.place == .l1 core && k.line == q / 256 && k.ctx == c) hk
      simp only [Bool.and_eq_true, beq_iff_eq] at hk'
      rw [Option.bind_some, Option.bind_some, hsent k hk'.1.1 hk'.1.2, if_pos hin]
  · rw [if_neg hin]
    cases hk : (s.m.copies.filter (Copy.reaches core c pa n)).find? fun k => k.line == q / 256 with
    | none => rfl
    | some k =>
      have hl : k.line = q / 256 := beq_iff_eq.1 (List.find?_some (p := fun k : Copy => k.line == q / 256) hk)
      have hp := (List.mem_filter.1 (List.mem_of_find?_eq_some hk)).2
      simp only [Copy.reaches, Bool.and_eq_true, beq_iff_eq] at hp
      rw [Option.bind_some, hsent k hp.1.1.1 hl, if_neg hin]

include h hone in
/-- The masked bytes of a range in one page go home. -/
theorem wbRange_byte (ho : s.Ownerless) {va : Nat} {x : Xlat} {s1 : State} (hn : 0 < n) (hpage : va % 65536 + n ≤ 65536)
    (htr : s.translate core none c va false = (s1, .ok (pa, x))) :
    (s.wbRange core c va n).1.homeByte q = if pa ≤ q ∧ q < pa + n then (s.maskedAt core c q).getD (s.homeByte q) else s.homeByte q := by
  have hx := xlatOnly_translate ho core none c va false
  rw [htr] at hx
  unfold State.wbRange
  rw [pageParts_one hn hpage]
  simp only [List.foldl_cons, List.foldl_nil, Nat.add_zero, htr]
  refine (sentHome_byte (st := Prod.fst) (sel := fun k o => decide (pa ≤ 256 * k.line + o) && decide (256 * k.line + o < pa + n)) q
    (s1.m.copies.filter (Copy.reaches core c pa n)) (s1, [])
    (fun a h' ho' k hk => homePut_writeBack h' ho' (wf_mask (hx.wf h) (List.mem_filter.1 hk).1) _) (hx.wf h) (hx.ownerless ho)
    (by rw [hx.copies]; exact reached_lines hone core c pa n)).trans ?_
  rw [hx.copies, reached_byte, hx.homeByte]
  split <;> rfl

end

/-! Copies in the engine's table -/

/-- The copy of a uid. -/
def State.copyJob? (s : State) (u : Nat) : Option CopyJob := s.e.copies.find? fun j => j.uid == u

theorem copyJob?_updCopy {s : State} {u : Nat} {j : CopyJob} {f : CopyJob → CopyJob} (hj : s.copyJob? u = some j)
    (hf : ∀ j, j.uid = u → (f j).uid = u) : (s.updCopy u f).copyJob? u = some (f j) := by
  have hju : j.uid = u := beq_iff_eq.1 (List.find?_some (p := fun j : CopyJob => j.uid == u) hj)
  have hcomp : ((fun j : CopyJob => j.uid == u) ∘ fun k => if k.uid == u then f k else k) = fun j => j.uid == u := by
    funext k
    dsimp only [Function.comp]
    split
    · next hk => rw [hf k (beq_iff_eq.1 hk)]; simp [hk]
    · rfl
  unfold State.copyJob? at hj ⊢
  unfold State.updCopy
  dsimp only
  rw [List.find?_map, hcomp, hj, Option.map_some, if_pos (by simp [hju])]

theorem updCopy_others {s : State} {u : Nat} {f : CopyJob → CopyJob} (hf : ∀ j, j.uid = u → (f j).uid = u) :
    ((s.updCopy u f).e.copies.filter fun j => j.uid != u) = s.e.copies.filter fun j => j.uid != u := by
  unfold State.updCopy
  dsimp only
  induction s.e.copies with
  | nil => rfl
  | cons k ks ih =>
    rw [List.map_cons]
    by_cases hk : k.uid = u
    · rw [if_pos (by simp [hk]), List.filter_cons_of_neg (by simp [hf k hk]), List.filter_cons_of_neg (by simp [hk]), ih]
    · rw [if_neg (by simp [hk]), List.filter_cons_of_pos (by simp [hk]), List.filter_cons_of_pos (by simp [hk]), ih]

end Sys2Proof.Machine
end

/-! A copy's events (R72, R102 to R104, R214): it begins, its next bytes land, and it ends. -/

section

namespace Sys2Proof.Machine

/-! Counts of scratchpad lines -/

/-- Every team still holds its scratchpad's bytes. -/
def SpadsKept (s s' : State) : Prop := ∀ u tm, s.team? u = some tm → ∃ tm', s'.team? u = some tm' ∧ tm'.spad = tm.spad

namespace SpadsKept

@[refl] theorem refl (s : State) : SpadsKept s s := fun _ tm htm => ⟨tm, htm, rfl⟩

theorem trans {s t u : State} (h : SpadsKept s t) (h' : SpadsKept t u) : SpadsKept s u := fun v tm htm => by
  obtain ⟨tm1, htm1, hspad1⟩ := h v tm htm
  obtain ⟨tm2, htm2, hspad2⟩ := h' v tm1 htm1
  exact ⟨tm2, htm2, hspad2.trans hspad1⟩

theorem of_teams {s s' : State} (h : s'.x.teams = s.x.teams) : SpadsKept s s' := fun _ tm htm =>
  ⟨tm, by unfold State.team?; rw [h]; exact htm, rfl⟩

theorem updTeam (s : State) (w : Nat) {f : Team → Team} (hu : ∀ t, (f t).uid = t.uid) (hs : ∀ t, (f t).spad = t.spad) :
    SpadsKept s (s.updTeam w f) := fun v tm htm => by
  rw [team?_updTeam hu, htm, Option.map_some]
  refine ⟨_, rfl, ?_⟩
  split
  · exact hs tm
  · rfl

end SpadsKept

/-- From `s` to `s'` no more than pending counts and the threads that wait for them have changed. -/
structure PendOnly (s s' : State) : Prop where
  m : s'.m = s.m
  e : s'.e = s.e
  flights : s'.x.flights = s.x.flights
  spads : SpadsKept s s'

namespace PendOnly

@[refl] theorem refl (s : State) : PendOnly s s := ⟨rfl, rfl, rfl, .refl s⟩

theorem trans {s t u : State} (h : PendOnly s t) (h' : PendOnly t u) : PendOnly s u :=
  ⟨h'.m.trans h.m, h'.e.trans h.e, h'.flights.trans h.flights, h.spads.trans h'.spads⟩

end PendOnly

theorem pendOnly_pendSub (s : State) (u l : Nat) : PendOnly s (s.pendSub u l) := by
  unfold State.pendSub
  split
  · exact .refl s
  · next tm htm =>
    have hcount : PendOnly s (s.updTeam u fun t => { t with pend := sputD 0 t.pend l (tm.pendOf l - 1) }) :=
      ⟨rfl, rfl, rfl, .updTeam s u (fun _ => by rfl) fun _ => by rfl⟩
    dsimp only
    split
    · exact hcount.trans ⟨rfl, rfl, rfl, .of_teams rfl⟩
    · exact hcount

/-- A copy that has fewer lines to reach. -/
def CopyJob.fewer (left : List Nat) (k : CopyJob) : CopyJob := { k with lines := k.lines.filter fun l => left.contains l }

section
variable {s : State} {u : Nat} {j : CopyJob} (hj : s.copyJob? u = some j)
include hj

theorem pendOnly_copyLines : PendOnly (s.updCopy u (CopyJob.fewer (pieceLines j.pieces))) (s.copyLines u) := by
  unfold State.copyJob? at hj
  unfold State.copyLines
  rw [hj]
  dsimp only
  split
  · exact foldl_keeps (P := PendOnly _) _ _ (.refl _) fun b l _ hb => hb.trans (pendOnly_pendSub b _ l)
  · exact .refl _

/-- Without lines no count falls. -/
theorem copyLines_none (hl : j.lines = []) : s.copyLines u = s.updCopy u (CopyJob.fewer (pieceLines j.pieces)) := by
  unfold State.copyJob? at hj
  unfold State.copyLines
  rw [hj]
  dsimp only
  rw [hl]
  split <;> rfl

end

/-! The poison bit of a destination -/

theorem copyPoison_kept {s : State} (ho : s.Ownerless) (k : CopyJob) (dst : CopyEnd) :
    (s.copyPoison k dst).e = s.e ∧ (∀ q, (s.copyPoison k dst).homeByte q = s.homeByte q) ∧ SpadsKept s (s.copyPoison k dst) := by
  unfold State.copyPoison
  split
  · exact ⟨rfl, fun _ => rfl, .refl s⟩
  · split
    · exact ⟨rfl, fun _ => rfl, .updTeam s _ (fun _ => by rfl) fun _ => by rfl⟩
    · exact ⟨rfl, fun _ => rfl, .refl s⟩
  · next a _ =>
    split
    · exact ⟨rfl, fun _ => rfl, .refl s⟩
    · have hx := xlatOnly_engCheck ho k.core k.ctx a 1 k.tensor true
      have hkept {s1 : State} (h : XlatOnly s s1) : s1.e = s.e ∧ (∀ q, s1.homeByte q = s.homeByte q) ∧ SpadsKept s s1 :=
        ⟨h.e, h.homeByte, .of_teams (by rw [h.x])⟩
      split
      · next e =>
        rw [e] at hx
        obtain ⟨he, hbyte, hspads⟩ := hkept hx
        split
        · exact ⟨he, hbyte, hspads⟩
        · exact ⟨he, hbyte, hspads⟩
      · next e =>
        rw [e] at hx
        exact hkept hx
  · exact ⟨rfl, fun _ => rfl, .refl s⟩

/-! A copy begins -/

/-- An earlier access of a copy's thread has still to perform. -/
def State.copyEarly (s : State) (k : CopyJob) : Bool :=
  s.x.flights.any fun g => g.thread == k.thread && decide (g.uid < k.flight) && (!g.op.ranges.isEmpty || g.op.spad)

/-- The core's own bytes of a copy's source ranges go home. -/
def State.copyHomes (s : State) (k : CopyJob) : State := k.src.foldl (fun s r => s.copyHome k r.1 r.2) s

section
variable {s : State} {k : CopyJob}

theorem copyBegin_early (h : s.copyEarly k = true) : s.copyBegin k = s := if_pos h

/-- Of ends that are no elements of a gather no more bytes go home. -/
theorem copyBegin_ready (h : s.copyEarly k = false) (hplain : ∀ r ∈ k.pieces, ∀ b l z o, r.src ≠ .elem b l z o) :
    s.copyBegin k = (s.copyHomes k).updCopy k.uid fun k => { k with begun := true } := by
  have hnone (f : State × Bool → CopyPiece → State × Bool)
      (hf : ∀ a r, (∀ b l z o, r.src ≠ .elem b l z o) → f a r = a) : k.pieces.foldl f (s.copyHomes k, false) = (s.copyHomes k, false) :=
    foldl_keeps (P := fun a => a = (s.copyHomes k, false)) _ _ rfl fun a r hr ha => (hf a r (hplain r hr)).trans ha
  have hgo : (s.x.flights.any fun f => f.thread == k.thread && decide (f.uid < k.flight) && (!f.op.ranges.isEmpty || f.op.spad)) = false := h
  unfold State.copyBegin
  rw [hgo]
  dsimp only
  rw [if_neg Bool.false_ne_true]
  generalize hr : List.foldl _ (_, false) k.pieces = r
  obtain rfl : r = (s.copyHomes k, false) := hr.symm.trans <| hnone _ fun a r hr => by
    split
    · next b l z o e => exact absurd e (hr b l z o)
    · rfl
  rfl

theorem copyHomes_job (hk : s.copyJob? k.uid = some k) : ∃ w, (s.copyHomes k).copyJob? k.uid = some { k with wait := w } := by
  refine foldl_keeps (P := fun u : State => ∃ w, u.copyJob? k.uid = some { k with wait := w }) _ _ ⟨k.wait, hk⟩
    fun u r _ ⟨w, hw⟩ => ?_
  have hwb : (u.wbRange k.core k.ctx (ptrVa r.1) r.2).1.copyJob? k.uid = some { k with wait := w } := by
    unfold State.copyJob?
    rw [(memOnly_wbRange u k.core k.ctx (ptrVa r.1) r.2).e]
    exact hw
  have hnew := copyJob?_updCopy (f := fun j => { j with wait := wctJoin j.wait (u.wbRange k.core k.ctx (ptrVa r.1) r.2).2 }) hwb fun _ => id
  exact ⟨_, hnew⟩

theorem copyHomes_one {p : DWord} {n : Nat} (hsrc : k.src = [(p, n)]) (q : Nat) :
    (s.copyHomes k).homeByte q = (s.wbRange k.core k.ctx (ptrVa p) n).1.homeByte q := by
  unfold State.copyHomes
  rw [hsrc]
  rfl

end

/-! The events -/

section
variable {s : State} {k : CopyJob} (hk : s.copyJob? k.uid = some k)
include hk

section
variable (hok : k.failed = none) (hgo : k.stalled = none) {p : CopyPiece} {rest : List CopyPiece} (hps : k.pieces = p :: rest)
include hok hgo hps

theorem exec_copyLineLands_begins (hb : k.begun = false) : exec (.copyLineLands k.uid) s = .next (s.copyBegin k) := by
  unfold State.copyJob? at hk
  show execCopyLineLands k.uid s = _
  unfold execCopyLineLands
  simp only [hk, hps, hok, hgo, hb, Option.isSome_none, Bool.or_self, Bool.false_eq_true, Bool.not_false, if_false, if_true]

/-- A copy after its next bytes have landed. -/
def CopyJob.moved (k : CopyJob) (p : CopyPiece) (rest : List CopyPiece) (poison : Bool) (w : Sparse Nat) : CopyJob :=
  { k.land p.dst (chunk p) poison with
    pieces := if p.len ≤ chunk p then rest else ⟨p.src.skip (chunk p), p.dst.skip (chunk p), p.len - chunk p⟩ :: rest
    wct := wctJoin k.wct w }

theorem exec_copyLineLands_moves (hb : k.begun = true) (hpassed : s.passedAt (coreDie k.core) k.wait = true) {s1 s2 : State}
    {bs : List Byte} {poison : Bool} {w : Sparse Nat} (hread : s.copyRead k p.src (chunk p) = (s1, .ok (bs, poison)))
    (hwrite : s1.copyWrite k p.dst bs (poison || k.bad.contains p.dst.sector) = (s2, .ok w)) : exec (.copyLineLands k.uid) s =
      .next (((s2.copyPoison (k.moved p rest poison w) p.dst).updCopy k.uid fun _ => k.moved p rest poison w).copyLines k.uid) := by
  unfold State.copyJob? at hk
  show execCopyLineLands k.uid s = _
  unfold execCopyLineLands
  simp only [hk, hps, hok, hgo, hb, hpassed, hread, hwrite, Option.isSome_none, Bool.or_self, Bool.false_eq_true, Bool.not_true, if_false]
  rfl

end

/-- What stands once a copy has moved bytes. -/
theorem copyMoved_kept {s2 : State} (ho : s2.Ownerless) (he : s2.e.copies = s.e.copies) {k' : CopyJob} (hu : k'.uid = k.uid)
    (dst : CopyEnd) {s' : State} (hs' : ((s2.copyPoison k' dst).updCopy k.uid fun _ => k').copyLines k.uid = s') :
    s'.copyJob? k.uid = some (k'.fewer (pieceLines k'.pieces)) ∧ (∀ q, s'.homeByte q = s2.homeByte q) ∧ SpadsKept s2 s' := by
  obtain ⟨hpe, hbyte, hspads⟩ := copyPoison_kept ho k' dst
  have hjob : (s2.copyPoison k' dst).copyJob? k.uid = some k := by
    unfold State.copyJob?
    rw [hpe, he]
    exact hk
  have hnew := copyJob?_updCopy (f := fun _ => k') hjob fun _ _ => hu
  have hpend := pendOnly_copyLines hnew
  rw [hs'] at hpend
  refine ⟨?_, fun q => ?_, hspads.trans ((SpadsKept.of_teams rfl).trans hpend.spads)⟩
  · unfold State.copyJob?
    rw [hpend.e]
    exact copyJob?_updCopy hnew fun _ => id
  · unfold State.homeByte State.homeLine State.dramByte
    rw [hpend.m]
    exact hbyte q

theorem exec_copyComplete_waits (hok : k.failed = none) (hwait : k.pieces ≠ [] ∨ s.homesPassed k.wct = false) :
    exec (.copyComplete k.uid) s = .next s := by
  unfold State.copyJob? at hk
  have hstay : (k.failed.isNone && (!k.pieces.isEmpty || !s.homesPassed k.wct)) = true := by
    rcases hwait with h | h
    · simp [hok, h]
    · simp [hok, h]
  show execCopyComplete k.uid s = _
  unfold execCopyComplete
  rw [hk]
  dsimp only
  rw [if_pos hstay]

/-- The state once a copy's locks, lines and entry have gone. -/
def State.copyEnded (s : State) (u : Nat) : State :=
  let s1 := { s with m := { s.m with locks := s.m.locks.filter fun l => l.owner != u } }
  let s2 := (s1.updCopy u fun k => { k with pieces := [] }).copyLines u
  { s2 with e := { s2.e with copies := s2.e.copies.filter fun j => j.uid != u } }

theorem copyEnded_kept : (s.copyEnded k.uid).m = { s.m with locks := s.m.locks.filter fun l => l.owner != k.uid } ∧
    (s.copyEnded k.uid).e.copies = (s.e.copies.filter fun j => j.uid != k.uid) ∧ (s.copyEnded k.uid).x.flights = s.x.flights := by
  have hjob : State.copyJob? { s with m := { s.m with locks := s.m.locks.filter fun l => l.owner != k.uid } } k.uid = some k := hk
  have hpend := pendOnly_copyLines (copyJob?_updCopy (f := fun j => { j with pieces := [] }) hjob fun _ => id)
  refine ⟨hpend.m, ?_, hpend.flights⟩
  unfold State.copyEnded
  dsimp only
  rw [hpend.e, updCopy_others (by exact fun _ => id), updCopy_others (by exact fun _ => id)]

theorem copyEnded_x (hl : k.lines = []) : (s.copyEnded k.uid).x = s.x := by
  have hjob : State.copyJob? { s with m := { s.m with locks := s.m.locks.filter fun l => l.owner != k.uid } } k.uid = some k := hk
  unfold State.copyEnded
  dsimp only
  rw [copyLines_none (copyJob?_updCopy (f := fun j => { j with pieces := [] }) hjob fun _ => id) hl]
  rfl

section
variable {f : Flight} (hf : s.flight? k.flight = some f)
include hf

theorem copyEnded_flight? : (s.copyEnded k.uid).flight? k.flight = some f := by
  unfold State.flight?
  rw [(copyEnded_kept hk).2.2]
  exact hf

theorem exec_copyComplete_ends (hok : k.failed = none) (hps : k.pieces = []) (hpassed : s.homesPassed k.wct = true) :
    exec (.copyComplete k.uid) s = .next ((s.copyEnded k.uid).finish f) := by
  have hflight := copyEnded_flight? hk hf
  unfold State.copyEnded at hflight
  unfold State.copyJob? at hk
  show execCopyComplete k.uid s = _
  unfold execCopyComplete
  rw [hk]
  dsimp only at hflight ⊢
  rw [if_neg (by simp [hps, hpassed]), hflight, hok]
  rfl

theorem exec_copyComplete_fails {z : Cause} (hz : k.failed = some z) :
    exec (.copyComplete k.uid) s = .next (((s.copyEnded k.uid).finish f).raiseAt k.thread f.site z) := by
  have hflight := copyEnded_flight? hk hf
  unfold State.copyEnded at hflight
  unfold State.copyJob? at hk
  show execCopyComplete k.uid s = _
  unfold execCopyComplete
  rw [hk]
  dsimp only at hflight ⊢
  rw [if_neg (by simp [hz]), hflight, hz]
  rfl

end

end

/-- A thread that waits at a copy word becomes Ready there once there is room. -/
theorem exec_copyRoom {s : State} {t : Thread} {n : Nat} {ls : List Nat} (ht : s.thread? t.uid = some t)
    (hst : t.status = .copyWait n ls) {dec : Decidable (s.roomFor t n ls)} : exec (.copyRoom t.uid) s =
      .next (if s.roomFor t n ls then s.updThread t.uid fun u => { u with status := .boundary } else s) := by
  show execCopyRoom t.uid s = _
  unfold execCopyRoom
  rw [ht]
  dsimp only
  rw [hst]
  dsimp only
  exact congrArg Host.Outcome.next (if_congr copyRoom_iff rfl rfl)

end Sys2Proof.Machine
end

/-! O24: copy words, copies and their ends. -/

section

namespace Sys2Proof

open Machine

section
variable {s : State} {t : Thread} {c : Ctl} {tensor : BitVec 12} {ps : List CopyPiece} {ls : List (DWord × Nat × Bool)}
  {src : List (DWord × Nat)}

/-- What stands once a copy has begun. -/
theorem startCopy_begun (hps : ps ≠ []) (hroom : s.roomFor t ls.length (pieceLines ps)) :
    ∃ s' k f, s.startCopy t c tensor ps ls src = s' ∧ s'.e.copies = s.e.copies ++ [k] ∧ s'.x.flights = s.x.flights ++ [f] ∧
      k.pieces = ps ∧ k.thread = t.uid ∧ k.ctx = t.ctx ∧ k.core = t.core ∧ k.team = t.team ∧ k.begun = false ∧ k.src = src ∧
      k.lines = pieceLines ps ∧ k.flight = f.uid ∧ f.op = .copyEnd k.uid ∧ f.thread = t.uid ∧
      f.qc = (if c.qe then some c.qc.toNat else none) ∧
      s'.m = { s.m with locks := s.m.locks ++ ls.map fun l =>
        ⟨k.uid, t.ctx, ptrVa l.1 / 64 * 64, (ptrVa l.1 + l.2.1 + 63) / 64 * 64, l.2.2⟩ } ∧
      ∀ tm, s.teamOf t = some tm → ∃ tm', s'.team? tm.uid = some tm' ∧
        ∀ l, tm'.pendOf l = tm.pendOf l + if l ∈ pieceLines ps then 1 else 0 := by
  obtain ⟨hm, he, hflights, -⟩ := copyFlying_frame (s := s) (t := t) (c := c) (ps := ps)
  refine ⟨_, s.newCopy t tensor ps src, s.newCopyFlight t c, startCopy_begins hps hroom, ?_, hflights, rfl, rfl, rfl, rfl, rfl, rfl, rfl,
    rfl, rfl, rfl, rfl, rfl, ?_, fun tm htm => copyFlying_pend htm⟩
  · dsimp only
    rw [he]
  · dsimp only
    rw [hm]
    rfl

end

section
variable {s : State} {k : CopyJob} (hk : s.copyJob? k.uid = some k) (hok : k.failed = none) (hgo : k.stalled = none) {p : CopyPiece}
  {rest : List CopyPiece} (hps : k.pieces = p :: rest)
include hk hok hgo hps

/-- A copy begins, and its core's own bytes of a source range in one page go home. -/
theorem copy_begins (hb : k.begun = false) (hearly : s.copyEarly k = false) (hplain : ∀ r ∈ k.pieces, ∀ b l z o, r.src ≠ .elem b l z o) :
    ∃ s' j, exec (.copyLineLands k.uid) s = .next s' ∧ s'.copyJob? k.uid = some j ∧ j.begun = true ∧ j.pieces = k.pieces ∧
      ∀ p n pa x s1, k.src = [(p, n)] → ptrVa p % 65536 + n ≤ 65536 → 0 < n →
        s.translate k.core none k.ctx (ptrVa p) false = (s1, .ok (pa, x)) → s.Wf → s.Ownerless → s.oneCopy →
        ∀ q, s'.homeByte q = if pa ≤ q ∧ q < pa + n then (s.maskedAt k.core k.ctx q).getD (s.homeByte q) else s.homeByte q := by
  obtain ⟨w, hw⟩ := copyHomes_job hk
  have hexec := exec_copyLineLands_begins hk hok hgo hps hb
  rw [copyBegin_ready hearly hplain] at hexec
  have hjob := copyJob?_updCopy (f := fun j => { j with begun := true }) hw fun _ => id
  refine ⟨_, _, hexec, hjob, rfl, rfl, fun p n pa x s1 hsrc hpage hn htr h ho hone q => ?_⟩
  exact (copyHomes_one hsrc q).trans (wbRange_byte h hone k.core k.ctx pa n q ho hn hpage htr)

/-- A copy's next bytes move. -/
theorem copy_moves (hb : k.begun = true) (hpassed : s.passedAt (coreDie k.core) k.wait = true) {s1 s2 : State} {bs : List Byte}
    {poison : Bool} {w : Sparse Nat} (hread : s.copyRead k p.src (chunk p) = (s1, .ok (bs, poison)))
    (hwrite : s1.copyWrite k p.dst bs (poison || k.bad.contains p.dst.sector) = (s2, .ok w)) (ho : s2.Ownerless)
    (he : s2.e.copies = s.e.copies) : ∃ s' j, exec (.copyLineLands k.uid) s = .next s' ∧ s'.copyJob? k.uid = some j ∧
      j.pieces = (if p.len ≤ chunk p then rest else ⟨p.src.skip (chunk p), p.dst.skip (chunk p), p.len - chunk p⟩ :: rest) ∧
      j.wct = wctJoin k.wct w ∧ (∀ q, s'.homeByte q = s2.homeByte q) ∧ SpadsKept s2 s' := by
  obtain ⟨hjob, hbyte, hspads⟩ := copyMoved_kept hk ho he (k' := k.moved p rest poison w) rfl p.dst rfl
  exact ⟨_, _, exec_copyLineLands_moves hk hok hgo hps hb hpassed hread hwrite, hjob, rfl, rfl, hbyte, hspads⟩

end

/-- Settles O24: each copy word that its checks allow starts a copy; its events follow from what each does to the copy in the
table, and its ends from an engine's reads and writes at home. That a copy begins only after its thread's earlier accesses, a sector
at a time, is the model's choice (log 41), as is what binds a gather's destination (log 65). -/
theorem copies : Obligations.Copies := by
  unfold Obligations.Copies
  refine ⟨?_, ?_, ?_⟩
  · intro s t c esz a x dn b y s2t i runs ps ls src hs hcalm _ hb hy p list q m es fits elems hcase room
    have hexec : ∃ tensor, exec i s = .next (s.startCopy t c tensor ps ls src) := by
      rcases hcase with ⟨hp, hy16, hm, hle, hfit, rfl, ⟨rfl, rfl, rfl, rfl⟩ | ⟨rfl, rfl, rfl, rfl⟩⟩ |
        ⟨hp, hq, hy16, hle, hapart, rfl, rfl, rfl, rfl, rfl⟩ |
        ⟨hlist, hp, hesz, ⟨hle, hy16, hfit, rfl, rfl, rfl, rfl, rfl⟩ | ⟨hle, hq, rfl, rfl, rfl, rfl, rfl⟩⟩ |
        ⟨tm, htm, hkind, hy16, hfit, hro, rfl, rfl, rfl, hls, hsrc⟩
      · exact ⟨_, exec_cpy hs hcalm hy hb hp hy16 hm hle hfit false⟩
      · exact ⟨_, exec_cpy hs hcalm hy hb hp hy16 hm hle hfit true⟩
      · exact ⟨_, exec_cpyg hs hcalm hy hb hp hq hy16 hle hapart⟩
      · exact ⟨_, exec_cpy_gather hs hcalm hy hb hlist hp hesz hle hy16 hfit⟩
      · exact ⟨_, exec_cpyg_gather hs hcalm hy hb hlist hp hesz hle hq⟩
      · obtain rfl := hls.trans (tileRange_locks _ s2t).symm
        rw [List.map_map] at hsrc
        obtain rfl := hsrc.trans (congrArg (fun r => if s2t then [] else r) (List.map_id _))
        exact ⟨_, exec_cpyt hs hcalm hy hb htm rfl hkind hy16 hfit hro⟩
    obtain ⟨tensor, hexec⟩ := hexec
    refine ⟨fun hps => ?_, fun hps hroom => ?_, fun hps hroom => ?_⟩
    · rw [hexec, hps, startCopy_nothing]
    · rw [hexec, startCopy_waits hps hroom]
    · obtain ⟨s', k, f, hstart, hfacts⟩ := startCopy_begun hps hroom
      exact ⟨s', k, f, by rw [hexec, hstart], hfacts⟩
  · intro s k f hk hf _ early
    obtain ⟨hm, hcopies, hflights⟩ := copyEnded_kept hk
    refine ⟨fun p rest hok hgo hps => ⟨fun hb hearly => ?_, copy_begins hk hok hgo hps, ?_⟩,
      exec_copyComplete_waits hk, fun hok hps hl hpassed => ?_, fun z hz => ?_, fun t n ls ht hst => exec_copyRoom ht hst⟩
    · rw [exec_copyLineLands_begins hk hok hgo hps hb, copyBegin_early hearly]
    · intro hb hpassed s1 s2 bs poison w hread hwrite ho _ he
      exact copy_moves hk hok hgo hps hb hpassed hread hwrite ho he
    · exact ⟨_, exec_copyComplete_ends hk hf hok hps hpassed, hm, hcopies, copyEnded_x hk hl⟩
    · exact ⟨_, exec_copyComplete_fails hk hf hz, by rw [hm], hcopies, hflights⟩
  · intro s k t n ht hplain hiso _ _ h ho
    refine ⟨fun b => rfl, fun o u tm hu htm => ⟨copyRead_spad hu htm o n, copyWrite_spad hu htm o⟩, fun a pa s1 => copyRead_home ht h ho hiso,
      fun base list size off s2 ix hix => ⟨fun pl s1 hcheck hw => ?_, fun pa s3 hcheck hw _ => ?_⟩,
      fun a bs bad pa s1 hlen hcheck hw => ?_⟩
    · obtain ⟨s2', bad, hload, hsame, -⟩ := engLoad_one ho k.core k.ctx list 4 k.tensor h hcheck hw
      obtain ⟨rfl, hix'⟩ := Prod.mk.inj (hload.symm.trans hix)
      exact ⟨by rw [← Except.ok.inj hix'], hsame.byte⟩
    · exact copyRead_elem_home ht h ho hiso hix hcheck hw
    · exact copyWrite_home ht h ho hplain hlen hcheck hw bad

end Sys2Proof
end

section
/-! What a write without translation leaves: the bytes at home, the poison of the sectors that it covers (R345, R349, R444), and the
rest as it was, where no core owns a line. -/

namespace Sys2Proof.Machine

/-! Poison -/

/-- A sector's poison after the poison of a sector has been set or cleared. -/
theorem poisoned_setPoison {s : State} (h : srising s.m.poison = true) (pa : Nat) (p : Bool) (q : Nat) :
    (s.setPoison pa p).poisoned q = if q / 64 = pa / 64 then p else s.poisoned q := by
  unfold State.poisoned
  rw [setPoison_m_poison]
  by_cases e : q / 64 = pa / 64
  · rw [if_pos e, e]
    cases p with
    | true => simp [sset]
    | false => simp [sset, sget_sdel_self h]
  · rw [if_neg e]
    cases p with
    | true => simp [sset, sget_sput_other _ e]
    | false => simp [sset, sget_sdel_other e]

theorem srising_poison {s : State} (h : s.Wf) : srising s.m.poison = true := ((wf_iff _).1 h).2.2.1

/-- A range touches a sector. -/
theorem mem_sectorsOf {a n k : Nat} : k ∈ sectorsOf a n ↔ 0 < n ∧ a < 64 * k + 64 ∧ 64 * k < a + n := by
  unfold sectorsOf
  split
  · next h =>
    have : n = 0 := by simpa using h
    simp [this]
  · next h =>
    have hn : n ≠ 0 := by simpa using h
    rw [List.mem_map]
    constructor
    · rintro ⟨i, hi, rfl⟩
      have := List.mem_range.1 hi
      omega
    · rintro ⟨_, h1, h2⟩
      exact ⟨k - a / 64, List.mem_range.2 (by omega), by omega⟩

/-- The bytes of a line cover a sector of it. -/
def wholeSector (bs : Sparse Byte) (k : Nat) : Bool := (bs.filter fun p => p.1 / 64 == k).length == 64

theorem nodup_keys {α : Type} {m : Sparse α} (h : srising m = true) : (m.map Prod.fst).Nodup := by
  induction m with
  | nil => exact List.nodup_nil
  | cons p r ih =>
    obtain ⟨hlt, hr⟩ := (srising_cons p.1 p.2 r).1 h
    refine List.nodup_cons.2 ⟨fun hmem => ?_, ih hr⟩
    obtain ⟨q, hq, he⟩ := List.mem_map.1 hmem
    exact absurd (hlt q hq) (by omega)

/-- A sector is covered where each of its bytes is among those of the line. -/
theorem wholeSector_iff {bs : Sparse Byte} (h : srising bs = true) (k : Nat) :
    wholeSector bs k = true ↔ ∀ i, i < 64 → (sget bs (64 * k + i)).isSome = true := by
  have hnodup := nodup_keys (srising_filter (fun p => p.1 / 64 == k) h)
  have hmem (o : Nat) : o ∈ (bs.filter fun p => p.1 / 64 == k).map Prod.fst ↔ o / 64 = k ∧ (sget bs o).isSome = true := by
    rw [List.mem_map]
    constructor
    · rintro ⟨p, hp, rfl⟩
      obtain ⟨hp, hk⟩ := List.mem_filter.1 hp
      exact ⟨by simpa using hk, by rw [sget_of_mem h hp]; rfl⟩
    · rintro ⟨hk, hs⟩
      obtain ⟨v, hv⟩ := Option.isSome_iff_exists.1 hs
      exact ⟨(o, v), List.mem_filter.2 ⟨mem_of_sget hv, by simpa using hk⟩, rfl⟩
  have hsub : (bs.filter fun p => p.1 / 64 == k).map Prod.fst ⊆ List.range' (64 * k) 64 := fun o ho =>
    List.mem_range'_1.2 (by have := (hmem o).1 ho; omega)
  have hle := hnodup.subperm hsub
  unfold wholeSector
  rw [beq_iff_eq, ← List.length_map (f := Prod.fst)]
  constructor
  · intro hlen i hi
    have hperm := hle.perm_of_length_le (by simp [hlen])
    exact ((hmem _).1 (hperm.mem_iff.2 (List.mem_range'_1.2 (by omega)))).2
  · intro hall
    have hge := (List.nodup_range' (s := 64 * k) (n := 64)).subperm fun o ho => (hmem o).2 (by
      have ho := List.mem_range'_1.1 ho
      have := hall (o - 64 * k) (by omega)
      rw [Nat.add_sub_cancel' ho.1] at this
      exact ⟨by omega, this⟩)
    have h1 := hle.length_le
    have h2 := hge.length_le
    simp only [List.length_range'] at h1 h2
    omega

/-! The lines that a write reaches -/

/-- Parts of distinct lines, rising, none beyond that of an address. -/
def partsRise (pa : Nat) (ps : List (Nat × Sparse Byte)) : Prop :=
  ps.Pairwise (fun p q => p.1 < q.1) ∧ ∀ p ∈ ps, p.1 ≤ pa / 256

theorem partsRise_step {acc : List (Nat × Sparse Byte)} {pa : Nat} (b : Byte) (h : partsRise pa acc) :
    partsRise (pa + 1) (partsStep acc (pa, b)) := by
  obtain ⟨hrise, hle⟩ := h
  have hsucc : pa / 256 ≤ (pa + 1) / 256 := Nat.div_le_div_right (Nat.le_succ pa)
  have happend {ps : List (Nat × Sparse Byte)} (hr : ps.Pairwise fun p q => p.1 < q.1) (hlt : ∀ p ∈ ps, p.1 < pa / 256)
      (m : Sparse Byte) : partsRise (pa + 1) (ps ++ [(pa / 256, m)]) := by
    refine ⟨List.pairwise_append.2 ⟨hr, List.pairwise_singleton _ _, fun p hp q hq => ?_⟩, fun p hp => ?_⟩
    · rw [List.mem_singleton.1 hq]
      exact hlt p hp
    · rcases List.mem_append.1 hp with hp | hp
      · exact (hlt p hp).le.trans hsucc
      · rw [List.mem_singleton.1 hp]
        exact hsucc
  unfold partsStep
  split
  · next l m r hrev =>
    have hacc : acc = r.reverse ++ [(l, m)] := by rw [← List.reverse_reverse acc, hrev, List.reverse_cons]
    rw [hacc] at hrise
    obtain ⟨hr, -, hlast⟩ := List.pairwise_append.1 hrise
    have hbelow : ∀ p ∈ r.reverse, p.1 < l := fun p hp => hlast p hp (l, m) (List.mem_singleton_self _)
    have hl : l ≤ pa / 256 := hle (l, m) (by rw [hacc]; simp)
    split
    · next he =>
      obtain rfl : l = pa / 256 := by simpa using he
      exact happend hr hbelow _
    · next he =>
      have hlt : l < pa / 256 := lt_of_le_of_ne hl (by simpa using he)
      rw [hacc]
      refine happend hrise (fun p hp => ?_) _
      rcases List.mem_append.1 hp with hp | hp
      · exact (hbelow p hp).trans hlt
      · rw [List.mem_singleton.1 hp]
        exact hlt
  · exact happend (ps := []) List.Pairwise.nil (fun _ hp => nomatch hp) _

/-- The parts of bytes are of distinct lines. -/
theorem lineParts_rise (pa : Nat) (bs : List Byte) : (lineParts pa bs).Pairwise fun p q => p.1 < q.1 := by
  have key : ∀ (bs : List Byte) (n : Nat) (acc : List (Nat × Sparse Byte)), partsRise (pa + n) acc →
      (((bs.zipIdx n).map fun b => (pa + b.2, b.1)).foldl partsStep acc).Pairwise fun p q => p.1 < q.1 := by
    intro bs
    induction bs with
    | nil => exact fun n acc hacc => hacc.1
    | cons b bs ih =>
      intro n acc hacc
      rw [List.zipIdx_cons, List.map_cons, List.foldl_cons]
      exact ih (n + 1) _ (partsRise_step b hacc)
  exact key bs 0 [] ⟨List.Pairwise.nil, fun _ hp => nomatch hp⟩

/-- A byte of parts of distinct lines is one of the part of its line. -/
theorem partsBytes_some {ps : List (Nat × Sparse Byte)} {q : Nat} (h : (partsBytes ps q).isSome = true) :
    ∃ p ∈ ps, p.1 = q / 256 ∧ (sget p.2 (q % 256)).isSome = true := by
  induction ps with
  | nil => exact absurd h (by simp [partsBytes])
  | cons p ps ih =>
    unfold partsBytes at h
    rw [List.foldl_cons, partsBytes_or, Option.or_none] at h
    cases hps : partsBytes ps q with
    | some b =>
      obtain ⟨p', hp', hq⟩ := ih (by rw [hps]; rfl)
      exact ⟨p', List.mem_cons_of_mem _ hp', hq⟩
    | none =>
      rw [hps, Option.none_or] at h
      unfold lineBytes at h
      split at h
      · next e => exact ⟨p, List.mem_cons_self, e.symm, h⟩
      · exact nomatch h

theorem partsBytes_of_mem {ps : List (Nat × Sparse Byte)} {q : Nat} {p : Nat × Sparse Byte} (hp : p ∈ ps) (hl : p.1 = q / 256)
    (hs : (sget p.2 (q % 256)).isSome = true) : (partsBytes ps q).isSome = true := by
  induction ps with
  | nil => exact nomatch hp
  | cons p' ps ih =>
    unfold partsBytes
    rw [List.foldl_cons, partsBytes_or, Option.or_none]
    rcases List.mem_cons.1 hp with rfl | hp
    · unfold lineBytes
      rw [if_pos hl.symm, Option.isSome_or, hs, Bool.or_true]
    · rw [Option.isSome_or, ih hp, Bool.true_or]

/-- The parts of bytes cover a sector where the bytes do. -/
theorem lineParts_whole (pa : Nat) (bs : List Byte) (j : Nat) :
    ((lineParts pa bs).any fun p => decide (j / 4 = p.1) && wholeSector p.2 (j % 4)) =
      decide (pa ≤ 64 * j ∧ 64 * j + 64 ≤ pa + bs.length) := by
  obtain ⟨hwf, hbytes⟩ := lineParts_bytes pa bs
  have hline (i : Nat) (hi : i < 64) : (64 * j + i) / 256 = j / 4 ∧ (64 * j + i) % 256 = 64 * (j % 4) + i := by omega
  have hin (q : Nat) : (partsBytes (lineParts pa bs) q).isSome = true ↔ pa ≤ q ∧ q < pa + bs.length := by
    rw [hbytes]
    split
    · next h => simp [h]; omega
    · next h => simpa using h
  have hrising (p : Nat × Sparse Byte) (hp : p ∈ lineParts pa bs) : srising p.2 = true := ((lineWf_iff _).1 (hwf p hp)).1
  rw [Bool.eq_iff_iff, List.any_eq_true, decide_eq_true_eq]
  constructor
  · rintro ⟨p, hp, hwhole⟩
    obtain ⟨hl, hw⟩ := Bool.and_eq_true_iff.1 hwhole
    have hl : j / 4 = p.1 := by simpa using hl
    have hbyte (i : Nat) (hi : i < 64) : pa ≤ 64 * j + i ∧ 64 * j + i < pa + bs.length := by
      obtain ⟨hdiv, hmod⟩ := hline i hi
      refine (hin _).1 (partsBytes_of_mem hp (by rw [hdiv, hl]) ?_)
      rw [hmod]
      exact (wholeSector_iff (hrising p hp) _).1 hw i hi
    have h0 := hbyte 0 (by decide)
    have h63 := hbyte 63 (by decide)
    omega
  · rintro ⟨hlo, hhi⟩
    have hpart (i : Nat) (hi : i < 64) : ∃ p ∈ lineParts pa bs, p.1 = j / 4 ∧ (sget p.2 (64 * (j % 4) + i)).isSome = true := by
      obtain ⟨p, hp, hpl, hps⟩ := partsBytes_some ((hin (64 * j + i)).2 (by omega))
      obtain ⟨hdiv, hmod⟩ := hline i hi
      exact ⟨p, hp, hpl.trans hdiv, hmod ▸ hps⟩
    obtain ⟨p, hp, hpl, -⟩ := hpart 0 (by decide)
    have hnodup : ((lineParts pa bs).map Prod.fst).Nodup := List.pairwise_map.2 ((lineParts_rise pa bs).imp fun h => Nat.ne_of_lt h)
    refine ⟨p, hp, Bool.and_eq_true_iff.2 ⟨by simp [hpl], (wholeSector_iff (hrising p hp) _).2 fun i hi => ?_⟩⟩
    obtain ⟨p', hp', hpl', hs⟩ := hpart i hi
    rw [← List.inj_on_of_nodup_map hnodup hp' hp (hpl'.trans hpl.symm)]
    exact hs

/-! What the homes leave alone -/

/-- From `s` to `s'` no thread and no register has changed, no copy has come, and the poison of some sectors has been cleared. -/
structure Merged (whole : Nat → Bool) (s s' : State) : Prop where
  x : s'.x = s.x
  h : s'.h = s.h
  copies : ∀ c ∈ s'.m.copies, c ∈ s.m.copies
  poison : ∀ j, s'.poisoned (64 * j) = (s.poisoned (64 * j) && !whole j)

namespace Merged

theorem of_eq {s s' : State} (hx : s'.x = s.x) (hh : s'.h = s.h) (hc : s'.m.copies = s.m.copies) (hp : s'.m.poison = s.m.poison) :
    Merged (fun _ => false) s s' :=
  ⟨hx, hh, fun _ hc' => hc ▸ hc', fun j => by simp [State.poisoned, hp]⟩

theorem refl (s : State) : Merged (fun _ => false) s s := of_eq rfl rfl rfl rfl

theorem trans {w v : Nat → Bool} {s t u : State} (h : Merged w s t) (k : Merged v t u) : Merged (fun j => w j || v j) s u where
  x := k.x.trans h.x
  h := k.h.trans h.h
  copies c hc := h.copies c (k.copies c hc)
  poison j := by rw [k.poison, h.poison, Bool.not_or, Bool.and_assoc]

theorem congr {w v : Nat → Bool} {s s' : State} (h : Merged w s s') (hw : ∀ j, w j = v j) : Merged v s s' := (funext hw : w = v) ▸ h

/-- A change that clears no poison, before another. -/
theorem after_same {w : Nat → Bool} {s t u : State} (h : Merged (fun _ => false) s t) (k : Merged w t u) : Merged w s u :=
  (h.trans k).congr fun _ => Bool.false_or _

end Merged

theorem merged_flushHome (s : State) (l : Nat) : Merged (fun _ => false) s (s.flushHome l) := by
  have hbytes : Merged (fun _ => false) s ((s.homeLine l).bytes.foldl (fun s p => s.setDram (256 * l + p.1) p.2) s) :=
    foldl_keeps _ _ (.refl s) fun _ _ _ hu => hu.after_same (.of_eq rfl rfl rfl rfl)
  exact hbytes.after_same (.of_eq rfl rfl rfl rfl)

theorem merged_evictHome (s : State) (l : Nat) : Merged (fun _ => false) s (s.evictHome l) :=
  (merged_flushHome s l).after_same (.of_eq rfl rfl rfl rfl)

theorem merged_sliceRoom (s : State) (j : Nat) : Merged (fun _ => false) s (s.sliceRoom j) := by
  unfold State.sliceRoom
  dsimp only
  split
  · exact .refl s
  · split
    · exact ⟨rfl, rfl, fun c hc => List.mem_of_mem_erase hc, fun _ => (Bool.and_true _).symm⟩
    · split
      · exact merged_evictHome s _
      · exact .refl s

theorem merged_touchHome (s : State) (l : Nat) (c : Option Nat) (t : BitVec 12) : Merged (fun _ => false) s (s.touchHome l c t) := by
  have hroom : Merged (fun _ => false) s (if (s.homeLine l).held then s else s.sliceRoom (homeSlice (256 * l))) := by
    split
    · exact .refl s
    · exact merged_sliceRoom s _
  have hline (u : State) : Merged (fun _ => false) u (let hl := u.homeLine l
      if hl.ctx == c then (if t == 0#12 then u else u.updHome l fun k => { k with tensor := t })
      else (u.flushHome l).updHome l fun k => { k with ctx := c, tensor := t }) := by
    dsimp only
    split_ifs
    · exact .refl u
    · exact .of_eq rfl rfl rfl rfl
    · exact (merged_flushHome u l).after_same (.of_eq rfl rfl rfl rfl)
  exact hroom.after_same (hline _)

/-- Sectors of a line that its bytes cover are cleared of poison. -/
theorem merged_clear (l : Nat) (w : Nat → Bool) : ∀ (ks : List Nat) {s : State}, srising s.m.poison = true →
    Merged (fun j => ks.any fun k => decide (j = 4 * l + k) && w k) s
      (ks.foldl (fun s k => if w k = true then s.setPoison (256 * l + 64 * k) false else s) s)
  | [], s, _ => .refl s
  | k :: ks, s, h => by
    have hrise : srising (if w k = true then s.setPoison (256 * l + 64 * k) false else s).m.poison = true := by
      split
      · rw [setPoison_m_poison]
        exact srising_sset _ _ h
      · exact h
    have hone : Merged (fun j => decide (j = 4 * l + k) && w k) s (if w k = true then s.setPoison (256 * l + 64 * k) false else s) := by
      split
      · next hw =>
        refine ⟨rfl, rfl, fun _ hc => hc, fun j => ?_⟩
        rw [poisoned_setPoison h, hw]
        by_cases hj : j = 4 * l + k
        · rw [if_pos (by omega)]; simp [hj]
        · rw [if_neg (by omega)]; simp [hj]
      · next hw =>
        exact (Merged.refl s).congr fun j => by simp [hw]
    rw [List.foldl_cons]
    exact (hone.trans (merged_clear l w ks hrise)).congr fun j => by rw [List.any_cons]

theorem merged_mergeHome {s : State} (h : s.Wf) (l : Nat) (c : Option Nat) (t : BitVec 12) (bs : Sparse Byte) :
    Merged (fun j => decide (j / 4 = l) && wholeSector bs (j % 4)) s (s.mergeHome l c t bs false) := by
  have htouch := merged_touchHome s l c t
  have hput : Merged (fun _ => false) s ((s.touchHome l c t).updHome l fun h =>
      { h with bytes := bs.foldl (fun m p => sput m p.1 p.2) h.bytes }) := htouch.after_same (.of_eq rfl rfl rfl rfl)
  have hclear := merged_clear l (wholeSector bs) (List.range 4) (s := (s.touchHome l c t).updHome l fun h =>
      { h with bytes := bs.foldl (fun m p => sput m p.1 p.2) h.bytes })
    (show srising (s.touchHome l c t).m.poison = true from srising_poison (wf_touchHome l c t h))
  unfold State.mergeHome
  simp only [Bool.false_and, Bool.false_eq_true, if_false]
  refine (hput.after_same hclear).congr fun j => ?_
  rw [Bool.eq_iff_iff, List.any_eq_true]
  simp only [List.mem_range, Bool.and_eq_true, decide_eq_true_eq]
  constructor
  · rintro ⟨k, hk, rfl, hw⟩
    exact ⟨by omega, by rwa [show (4 * l + k) % 4 = k by omega]⟩
  · rintro ⟨rfl, hw⟩
    exact ⟨j % 4, Nat.mod_lt _ (by decide), by omega, hw⟩

/-! A write without translation -/

/-- One line's bytes of a write without translation. -/
def State.storePart (s : State) (p : Nat × Sparse Byte) : State :=
  (s.mergeHome p.1 (s.homeLine p.1).ctx 0#12 p.2 false).wakeLine p.1 none

theorem homePut_storePart {s : State} (h : s.Wf) {p : Nat × Sparse Byte} (hp : Memory.lineWf p.2 = true) :
    HomePut (lineBytes p.1 p.2) s (s.storePart p) :=
  (homePut_mergeHome h hp _ _ _).then_same (homeSame_beside (wf_wakeLine _ _ (wf_mergeHome _ _ _ _ _ h ((lineWf_iff _).1 hp).2)) rfl rfl)

theorem merged_storePart {s : State} (h : s.Wf) (p : Nat × Sparse Byte) :
    Merged (fun j => decide (j / 4 = p.1) && wholeSector p.2 (j % 4)) s (s.storePart p) :=
  ((merged_mergeHome h p.1 (s.homeLine p.1).ctx 0#12 p.2).trans
    (u := s.storePart p) (.of_eq rfl rfl rfl rfl)).congr fun _ => Bool.or_false _

theorem storeParts_leaves : ∀ (ps : List (Nat × Sparse Byte)) {s : State}, s.Wf → (∀ p ∈ ps, Memory.lineWf p.2 = true) →
    HomePut (partsBytes ps) s (ps.foldl State.storePart s) ∧
      Merged (fun j => ps.any fun p => decide (j / 4 = p.1) && wholeSector p.2 (j % 4)) s (ps.foldl State.storePart s)
  | [], s, h, _ => ⟨.refl h, .refl s⟩
  | p :: ps, s, h, hps => by
    have hput := homePut_storePart h (hps p List.mem_cons_self)
    obtain ⟨hputs, hmerged⟩ := storeParts_leaves ps hput.wf fun x hx => hps x (List.mem_cons_of_mem _ hx)
    refine ⟨(hput.trans hputs).congr fun q => ?_, ((merged_storePart h p).trans hmerged).congr fun j => by rw [List.any_cons]⟩
    unfold partsBytes
    rw [List.foldl_cons, partsBytes_or ps q ((lineBytes p.1 p.2 q).or none), Option.or_none]
    rfl

/-- Where no core owns a line, a write without translation recalls nothing. -/
theorem physWrite_parts {s : State} (h : s.Wf) (ho : s.Ownerless) {pa : Nat} (bs : List Byte) (hdram : s.isDram pa = true) :
    s.physWrite pa bs = (lineParts pa bs).foldl State.storePart s := by
  have key : ∀ (ps : List (Nat × Sparse Byte)) (a : State × Nat), a.1.Wf → a.1.Ownerless → (∀ p ∈ ps, Memory.lineWf p.2 = true) →
      (ps.foldl (fun a p =>
        let s := ((a.1.recall p.1).mergeHome p.1 (a.1.homeLine p.1).ctx 0#12 p.2 false).wakeLine p.1 none
        (s, max a.2 (s.wctOf (256 * p.1) + 1))) a).1 = ps.foldl State.storePart a.1 := by
    intro ps
    induction ps with
    | nil => intro a _ _ _; rfl
    | cons p ps ih =>
      intro a ha hoa hps
      have hput := homePut_storePart ha (hps p List.mem_cons_self)
      rw [List.foldl_cons, List.foldl_cons]
      dsimp only
      rw [recall_of_owner_none (hoa p.1)]
      exact ih (a.1.storePart p, _) hput.wf (hput.ownerless hoa) fun x hx => hps x (List.mem_cons_of_mem _ hx)
  unfold State.physWrite State.physStore
  rw [if_pos hdram]
  exact key _ (s, 0) h ho (lineParts_bytes pa bs).1

theorem homePut_physWrite {s : State} (h : s.Wf) (ho : s.Ownerless) {pa : Nat} (bs : List Byte) (hdram : s.isDram pa = true) :
    HomePut (listBytes pa bs) s (s.physWrite pa bs) := by
  obtain ⟨hwf, hbytes⟩ := lineParts_bytes pa bs
  rw [physWrite_parts h ho bs hdram]
  exact (storeParts_leaves _ h hwf).1.congr hbytes

theorem merged_physWrite {s : State} (h : s.Wf) (ho : s.Ownerless) {pa : Nat} (bs : List Byte) (hdram : s.isDram pa = true) :
    Merged (fun j => decide (pa ≤ 64 * j ∧ 64 * j + 64 ≤ pa + bs.length)) s (s.physWrite pa bs) := by
  rw [physWrite_parts h ho bs hdram]
  exact (storeParts_leaves _ h (lineParts_bytes pa bs).1).2.congr (lineParts_whole pa bs)

end Sys2Proof.Machine
end

section
/-! A record of another event that waits behind the one of OSABORT (R429), and the statement that it refutes: O28. -/

namespace Sys2Proof.Machine

/-- A section without pre-images forms no record for its OSABORT, but the record of another event that waited behind it enters the
ring. -/
theorem recordPre_lets_go {s : State} {u fl : Nat} {key : DWord} {t : Thread} {h : HeldSec} {r : BitVec 512}
    (ht : s.thread? u = some t) (hk : (t.secs.find? fun h => h.key == key) = some h) (hpre : h.pre = [])
    (hrecs : t.recs = [(fl, none), (0, some [r])]) :
    s.recordPre u fl key = ((s.updThread u fun t => { t with recs := [] }).pushRecord r).updThread u fun t =>
      { t with secs := t.secs.map fun k => if k.key == key then { k with pre := [] } else k } := by
  unfold State.recordPre
  rw [ht]
  dsimp only
  rw [hk]
  dsimp only
  rw [hpre, List.map_nil]
  unfold State.emitNow
  rw [ht]
  simp [hrecs]

/-- A record enters a ring that is on and has room: its bytes are written at the ring's slot. -/
theorem pushRecord_m {s : State} (r : BitVec 512) (hen : s.h.cb.en = true) (hroom : s.h.cb.room = true) :
    (s.pushRecord r).m = (s.physWrite (s.h.cb.slot 64) (natBytes 64 r.toNat)).m := by
  unfold State.pushRecord
  simp [hen, hroom, Ring.send, State.physWrite]

/-- A core that holds no copy has no release work. -/
theorem releaseWork_of_no_copies {s : State} (h : s.m.copies = []) (t : Thread) (level : Nat) (hdet : s.det t = false) :
    (s.releaseWork t level).1 = s := by
  unfold State.releaseWork State.releaseCore
  rw [h]
  split
  · rfl
  · dsimp only
    split
    · simp [hdet]
    · rfl

/-- A holder of key 0 whose section has no pre-image. The record of another event of it waits behind one that its OSABORT in flight
is still to form. -/
def aborting : Thread := { lone with secs := [⟨0#64, 0#32, false, []⟩], recs := [(2, none), (0, some [1#512])] }

/-- The OSABORT of key 0, before its release work. -/
def abortFlight : Flight := ⟨2, 0, 1, ⟨0#64, 0#64, 0, 0⟩, none, 0, .osend 0#64 true false, false, [], none⟩

/-- The holder, its OSABORT, and a contributor ring that is on and empty, at address 0. -/
def abortingState : State :=
  { withThreads [aborting] with
    x := { (withThreads [aborting]).x with flights := [abortFlight], nextUid := 3 }
    h := { HostState.reset with cb := { Ring.reset with ctl := 0x80000000#32 } } }

theorem abortingState_recordPre : (abortingState.recordPre 1 2 0#64).m = (abortingState.physWrite 0 (natBytes 64 (1#512).toNat)).m := by
  rw [recordPre_lets_go (t := aborting) rfl rfl rfl rfl]
  exact pushRecord_m (s := abortingState.updThread 1 fun t => { t with recs := [] }) 1#512 rfl rfl

/-- The release work lets the waiting record into the ring, whose first byte changes at home. -/
theorem abortingState_byte : (((abortingState.recordPre 1 2 0#64).releaseWork aborting 5).1).homeByte 0 = 1#8 := by
  have hwf : abortingState.Wf := rfl
  have hwritten := merged_physWrite hwf (fun _ => rfl) (natBytes 64 (1#512).toNat) (pa := 0) rfl
  have hnone : (abortingState.recordPre 1 2 0#64).m.copies = [] := by
    rw [abortingState_recordPre]
    exact List.eq_nil_iff_forall_not_mem.2 fun c hc => nomatch hwritten.copies c hc
  calc (((abortingState.recordPre 1 2 0#64).releaseWork aborting 5).1).homeByte 0
      = (abortingState.recordPre 1 2 0#64).homeByte 0 := by rw [releaseWork_of_no_copies hnone aborting 5 rfl]
    _ = (abortingState.physWrite 0 (natBytes 64 (1#512).toNat)).homeByte 0 := by
      unfold State.homeByte State.dramByte State.homeLine
      rw [abortingState_recordPre]
    _ = 1#8 := by
      rw [(homePut_physWrite hwf (fun _ => rfl) _ rfl).byte, listBytes_getD, if_pos ⟨Nat.le_refl 0, by rw [length_natBytes]; decide⟩,
        BitVec.toNat_one (by decide)]
      rfl

/-- The core holds no masked byte of the context, and the byte was zero. -/
theorem abortingState_masked : (abortingState.maskedAt 0 0 0).getD (abortingState.homeByte 0) = 0#8 := rfl

end Sys2Proof.Machine

namespace Sys2Proof

open Machine

/-- Refutes O28: the bytes that change at home in the release work of OSABORT are not only those that the core held. A section without
pre-images forms no record of its own, but a record of the thread that waited behind the place of its records enters the contributor
ring (R429), which lies in memory. -/
theorem not_orderedSections : ¬ Obligations.OrderedSections := by
  intro h
  obtain ⟨-, -, -, -, hflights⟩ := h abortingState abortingState aborting always 0#6 0#8 0#8 (.s8 0#8) 0#32
    (KeyEntry.fresh 0 0 0#64) false ⟨rfl, rfl, rfl⟩
    (by simp only [State.calm, abortingState, withThreads, List.mem_singleton, forall_eq]; rfl) rfl rfl
    (fun u hu _ => List.mem_singleton.1 hu) rfl rfl
    (by simp only [abortingState, List.mem_singleton, forall_eq]; decide)
  obtain ⟨-, hend, -⟩ := hflights abortFlight rfl rfl rfl rfl
  obtain ⟨-, -, hbytes⟩ := hend 0#64 true rfl rfl
  have hbyte := hbytes rfl rfl (fun _ => rfl) List.nodup_nil 0
  exact absurd ((abortingState_byte.symm.trans hbyte).trans abortingState_masked) (by decide)

end Sys2Proof
end

section
/-! What comes from outside the device: the host's aperture, peers, snoops, scrubs and upsets of registers. -/

namespace Sys2Proof.Machine

/-! Writes from outside (R99, R345, R350) -/

theorem poisoned_sector (s : State) (q : Nat) : s.poisoned (64 * (q / 64)) = s.poisoned q := by
  unfold State.poisoned
  rw [Nat.mul_div_cancel_left _ (by decide)]

/-- Sectors that have been poisoned one after another. -/
theorem poisoned_foldl_setPoison (q : Nat) : ∀ (ks : List Nat) {s : State}, s.Wf →
    (ks.foldl (fun s k => s.setPoison (64 * k) true) s).poisoned q = (decide (q / 64 ∈ ks) || s.poisoned q)
  | [], s, _ => by simp
  | k :: ks, s, h => by
    rw [List.foldl_cons, poisoned_foldl_setPoison q ks (wf_setPoison _ true h), poisoned_setPoison (srising_poison h),
      Nat.mul_div_cancel_left _ (by decide)]
    by_cases hk : q / 64 = k
    · simp [hk]
    · simp [hk]

/-- The bytes stand where they were written, and every other as it did. -/
def BytesAt (s s' : State) (pa : Nat) (bs : List Byte) : Prop :=
  (∀ k, k < bs.length → s'.homeByte (pa + k) = bs.getD k 0#8) ∧
    ∀ q, q < pa ∨ pa + bs.length ≤ q → s'.homeByte q = s.homeByte q

theorem HomePut.bytesAt {s s' : State} {pa : Nat} {bs : List Byte} (h : HomePut (listBytes pa bs) s s') : BytesAt s s' pa bs :=
  ⟨fun k hk => by rw [h.byte, listBytes_getD, if_pos (by omega), Nat.add_sub_cancel_left],
    fun q hq => by rw [h.byte, listBytes_getD, if_neg (by omega)]⟩

section
variable {s : State} (h : s.Wf) (ho : s.Ownerless) {pa : Nat} (bs : List Byte) (hdram : s.isDram pa = true)
include h ho hdram

/-- A write from outside whose data came sound. -/
theorem outsideWrite_sound : let s' := s.outsideWrite pa bs false
    (∀ k, k < bs.length → s'.homeByte (pa + k) = bs.getD k 0#8) ∧
    (∀ q, q < pa ∨ pa + bs.length ≤ q → s'.homeByte q = s.homeByte q) ∧
    (∀ k, pa ≤ 64 * k → 64 * k + 64 ≤ pa + bs.length → s'.poisoned (64 * k) = false) ∧
    (∀ k, s.poisoned (64 * k) = true → (64 * k < pa ∨ pa + bs.length < 64 * k + 64) → s'.poisoned (64 * k) = true) ∧
    s'.x = s.x ∧ ∀ c ∈ s'.m.copies, c ∈ s.m.copies := by
  obtain ⟨hin, hout⟩ := (homePut_physWrite h ho bs hdram).bytesAt
  have hmerged := merged_physWrite h ho bs hdram
  refine ⟨hin, hout, fun k hlo hhi => ?_, fun k hk hpart => ?_, hmerged.x, hmerged.copies⟩
  · exact (hmerged.poison k).trans (by simp [hlo, hhi])
  · refine (hmerged.poison k).trans ?_
    rw [hk, Bool.true_and, Bool.not_eq_true', decide_eq_false_iff_not]
    omega

/-- A write from outside whose data came poisoned. -/
theorem outsideWrite_poisoned : let s' := s.outsideWrite pa bs true
    s'.h = s.h ∧ (∀ k, k < bs.length → s'.homeByte (pa + k) = bs.getD k 0#8 ∧ s'.poisoned (pa + k) = true) ∧
    (∀ q, q < pa ∨ pa + bs.length ≤ q → s'.homeByte q = s.homeByte q) ∧
    ∀ k, 64 * k + 64 ≤ pa ∨ pa + bs.length ≤ 64 * k → s'.poisoned (64 * k) = s.poisoned (64 * k) := by
  have hput := homePut_physWrite h ho bs hdram
  have hmerged := merged_physWrite h ho bs hdram
  have hsame (ks : List Nat) : HomeSame (s.physWrite pa bs) (ks.foldl (fun s k => s.setPoison (64 * k) true) (s.physWrite pa bs)) :=
    foldl_keeps _ _ (.refl hput.wf) fun u k _ hu => hu.then_same (homeSame_beside (wf_setPoison _ true hu.wf) rfl rfl)
  obtain ⟨hin, hout⟩ := (hput.then_same (hsame (sectorsOf pa bs.length))).bytesAt
  have hpoison (q : Nat) := poisoned_foldl_setPoison q (sectorsOf pa bs.length) hput.wf
  unfold State.outsideWrite
  rw [hdram, Bool.and_true, if_pos rfl]
  refine ⟨?_, fun k hk => ⟨hin k hk, ?_⟩, hout, fun k hk => ?_⟩
  · exact foldl_keeps (P := fun u : State => u.h = s.h) _ _ hmerged.h fun _ _ _ hu => hu
  · rw [hpoison, decide_eq_true (mem_sectorsOf.2 (by omega)), Bool.true_or]
  · have hnot : 64 * k / 64 ∉ sectorsOf pa bs.length := fun hmem => by have := mem_sectorsOf.1 hmem; omega
    rw [hpoison, decide_eq_false hnot, Bool.false_or, hmerged.poison, decide_eq_false (by omega), Bool.not_false, Bool.and_true]

end

/-- A write to memory that is absent. -/
theorem outsideWrite_absent {s : State} {pa : Nat} (hdram : s.isDram pa = false) (bs : List Byte) (poison : Bool) :
    s.outsideWrite pa bs poison = s := by
  simp [State.outsideWrite, State.physWrite, State.physStore, hdram]

/-! Reads from outside (R345, R350) -/

theorem outsideRead_ownerless {s : State} (ho : s.Ownerless) {pa : Nat} (n : Nat) (hdram : s.isDram pa = true) :
    s.outsideRead pa n = (s, some (s.homeBytes pa n, (List.range n).any fun k => s.poisoned (pa + k))) := by
  have hany : ((sectorsOf pa n).any fun k => s.poisoned (64 * k)) = (List.range n).any fun k => s.poisoned (pa + k) := by
    rw [Bool.eq_iff_iff, List.any_eq_true, List.any_eq_true]
    constructor
    · rintro ⟨k, hk, hp⟩
      obtain ⟨_, h1, h2⟩ := mem_sectorsOf.1 hk
      refine ⟨64 * k - pa, List.mem_range.2 (by omega), ?_⟩
      rw [← poisoned_sector, show (pa + (64 * k - pa)) / 64 = k by omega]
      exact hp
    · rintro ⟨k, hk, hp⟩
      have hk := List.mem_range.1 hk
      exact ⟨(pa + k) / 64, mem_sectorsOf.2 (by omega), (poisoned_sector s _).trans hp⟩
  unfold State.outsideRead
  rw [if_pos hdram, readHome_ownerless ho]
  exact congrArg (fun b => (s, some (s.homeBytes pa n, b))) hany

/-- From `s` to `s'` only the tags of the lines at home have changed. -/
structure Leased (s s' : State) : Prop where
  home : HomeSame s s'
  eq : ∃ ls, s' = { s with m := { s.m with home := ls } }

theorem Leased.refl {s : State} (h : s.Wf) : Leased s s := ⟨.refl h, _, rfl⟩

/-- The lease of a peer on one line, where the lease clock of its home is trusted. -/
def State.peerLine (s : State) (l : Nat) : State :=
  if s.guarded (homeDie (256 * l)) then s else s.updHome l fun k => { k with expPeer := max k.expPeer (s.now (homeDie (256 * l)) + 512) }

theorem Leased.peerLine {s s' : State} (h : Leased s s') (l : Nat) : Leased s (s'.peerLine l) := by
  unfold State.peerLine
  split
  · exact h
  · refine ⟨h.home.then_same (.of_kept fun q => homeKept_updHome q l h.home.wf (fun _ => rfl) fun _ => rfl), ?_⟩
    obtain ⟨ls, rfl⟩ := h.eq
    exact ⟨_, rfl⟩

theorem leased_peerLease {s : State} (h : s.Wf) (pa n : Nat) : Leased s (s.peerLease pa n) :=
  foldl_keeps _ _ (.refl h) fun _ l _ hu => hu.peerLine l

theorem Leased.guarded {s s' : State} (h : Leased s s') (die : Nat) : s'.guarded die = s.guarded die := by obtain ⟨ls, rfl⟩ := h.eq; rfl
theorem Leased.now {s s' : State} (h : Leased s s') (die : Nat) : s'.now die = s.now die := by obtain ⟨ls, rfl⟩ := h.eq; rfl

/-- Each line that a peer reads is leased to it beyond the time at its home. -/
theorem peerLease_expPeer {s : State} (h : s.Wf) {pa n l : Nat} (hlo : pa / 256 ≤ l) (hhi : l ≤ (pa + n - 1) / 256) (hn : 1 ≤ n)
    (hg : s.guarded (homeDie (256 * l)) = false) :
    s.now (homeDie (256 * l)) < ((s.peerLease pa n).homeLine l).expPeer := by
  have hmem : l ∈ (List.range ((pa % 256 + n + 255) / 256)).map fun i => pa / 256 + i :=
    List.mem_map.2 ⟨l - pa / 256, List.mem_range.2 (by omega), by omega⟩
  refine (foldl_reaches (f := State.peerLine) (P := Leased s)
    (Q := fun u => Leased s u ∧ s.now (homeDie (256 * l)) < (u.homeLine l).expPeer) hmem (fun u k hu => hu.peerLine k)
    (fun u k _ hu => ⟨hu.1.peerLine k, ?_⟩) (fun u hu => ⟨hu.peerLine l, ?_⟩) s (.refl h)).2
  · obtain ⟨hu, hlt⟩ := hu
    unfold State.peerLine
    split
    · exact hlt
    · rw [homeLine_updHome hu.home.wf]
      split
      · next e => subst e; exact lt_of_lt_of_le hlt (le_max_left _ _)
      · exact hlt
  · unfold State.peerLine
    rw [hu.guarded, hg, if_neg (by decide), homeLine_updHome hu.home.wf, if_pos rfl, hu.now]
    exact lt_of_lt_of_le (by omega) (le_max_right _ _)

/-! Peers -/

/-- What a link's window and the installed memory admit (R350). -/
theorem linkAdmits_iff (s : State) (link pa n : Nat) : s.linkAdmits link pa n = true ↔
    ((s.h.linkwin.getD link 0#128).extractLsb' 0 48).toNat ≤ pa ∧
      pa + n ≤ ((s.h.linkwin.getD link 0#128).extractLsb' 0 48).toNat + ((s.h.linkwin.getD link 0#128).extractLsb' 64 48).toNat ∧
        s.isDram pa = true ∧ s.isDram (pa + n - 1) = true := by
  simp only [State.linkAdmits, Bool.and_eq_true, decide_eq_true_eq, and_assoc]

/-! Snoops -/

theorem homeLine_flushHome_bytes {s : State} (h : s.Wf) (l : Nat) : ((s.flushHome l).homeLine l).bytes = [] := by
  unfold State.flushHome
  rw [homeLine_updHome (foldl_keeps (P := State.Wf) _ _ h fun _ _ _ hb => wf_setDram _ _ hb), if_pos rfl]

/-- Bytes that are written to DRAM at distinct offsets. -/
theorem dramByte_foldl_setDram (pa : Nat) : ∀ (bs : List (Nat × Byte)) {s : State}, s.Wf → (bs.map Prod.fst).Nodup →
    (∀ p ∈ bs, (bs.foldl (fun s b => s.setDram (pa + b.1) b.2) s).dramByte (pa + p.1) = p.2) ∧
      ∀ q, (∀ p ∈ bs, q ≠ pa + p.1) → (bs.foldl (fun s b => s.setDram (pa + b.1) b.2) s).dramByte q = s.dramByte q
  | [], _, _, _ => ⟨fun _ hp => (nomatch hp), fun _ _ => rfl⟩
  | b :: bs, s, h, hnodup => by
    obtain ⟨hb, hnodup⟩ := List.nodup_cons.1 hnodup
    obtain ⟨hin, hout⟩ := dramByte_foldl_setDram pa bs (wf_setDram (pa + b.1) b.2 h) hnodup
    refine ⟨fun p hp => ?_, fun q hq => ?_⟩
    · rcases List.mem_cons.1 hp with rfl | hp
      · refine (hout _ fun r hr he => hb (List.mem_map.2 ⟨r, hr, (Nat.add_left_cancel he).symm⟩)).trans ?_
        rw [dramByte_setDram h, if_pos rfl]
      · exact hin p hp
    · refine (hout q fun p hp => hq p (List.mem_cons_of_mem _ hp)).trans ?_
      rw [dramByte_setDram h, if_neg (hq b List.mem_cons_self)]

/-- Bytes of a line that its home does not hold are written to DRAM. -/
theorem homeByte_foldl_setDram {s : State} (h : s.Wf) {line : Nat} (hline : (s.homeLine line).bytes = []) {bs : List (Nat × Byte)}
    (hnodup : (bs.map Prod.fst).Nodup) (hlt : ∀ p ∈ bs, p.1 < 256) :
    let s' := bs.foldl (fun s b => s.setDram (256 * line + b.1) b.2) s
    (∀ p ∈ bs, s'.homeByte (256 * line + p.1) = p.2) ∧
      ∀ q, (∀ p ∈ bs, q ≠ 256 * line + p.1) → s'.homeByte q = s.homeByte q := by
  obtain ⟨hin, hout⟩ := dramByte_foldl_setDram (256 * line) bs h hnodup
  have hkept (k : Nat) : (bs.foldl (fun s b => s.setDram (256 * line + b.1) b.2) s).homeLine k = s.homeLine k :=
    homeLine_setDrams line k bs s
  refine ⟨fun p hp => ?_, fun q hq => ?_⟩
  · have hp256 := hlt p hp
    unfold State.homeByte
    rw [hkept, show (256 * line + p.1) / 256 = line by omega, hline, hin p hp]
    rfl
  · unfold State.homeByte
    rw [hkept, hout q hq]

/-- The last lease on a line that a snoop waits for has ended or not (R354). -/
theorem snoop_waits (s : State) (line : Nat) :
    (s.leaseEnd (256 * line) == 0 || decide (s.leaseEnd (256 * line) < s.now (homeDie (256 * line)))) = false ↔
    ((s.homeLine line).expDie ≠ 0 ∧
        s.now (homeDie (256 * line)) ≤ (s.homeLine line).expDie + (if s.guarded (homeDie (256 * line)) then 40 else 0)) ∨
      ((s.homeLine line).expDev ≠ 0 ∧
        s.now (homeDie (256 * line)) ≤ (s.homeLine line).expDev + (if s.guarded (homeDie (256 * line)) then 40 else 2)) ∨
      (s.homeLine line).expPeer ≠ 0 ∧ s.now (homeDie (256 * line)) ≤ (s.homeLine line).expPeer + 40 := by
  unfold State.leaseEnd
  rw [Nat.mul_div_cancel_left _ (by decide : 0 < 256)]
  simp only [Bool.or_eq_false_iff, beq_eq_false_iff_ne, decide_eq_false_iff_not, beq_iff_eq]
  split_ifs <;> omega

end Sys2Proof.Machine
end

section
/-! What an access, a snoop, a scrub and an upset from outside do, and the statement that they settle: O52. -/

namespace Sys2Proof.Machine

theorem exec_hostApertureAccess (off : Nat) (a : HostAcc) (s : State) :
    exec (.hostApertureAccess off a) s = execHostApertureAccess off a s := rfl
theorem exec_peerRequest (link pa : Nat) (a : HostAcc) (s : State) :
    exec (.peerRequest link pa a) s = execPeerRequest link pa a s := rfl
theorem exec_hostSnoop (line : Nat) (bs : List (Nat × Byte)) (s : State) :
    exec (.hostSnoop line bs) s = execHostSnoop line bs s := rfl
theorem exec_dramScrub (sector : Nat) (c : EccCheck) (s : State) : exec (.dramScrub sector c) s = .next (s.scrub sector c) := rfl

/-- An error is recorded after those before it. -/
theorem addError_errors (s : State) (pa : Nat) (code : Code) (unit index ctx : Nat) (parked fatal dropped : Bool) (cause die : Nat) :
    ∃ r, (s.addError pa code unit index ctx parked fatal dropped cause die).1.h.errors = s.h.errors ++ [r] ∧
      r.code = code ∧ r.cause = cause ∧ r.unit = unit ∧ r.index = index :=
  ⟨_, rfl, rfl, rfl, rfl, rfl⟩

section
variable (s : State)

/-! The host's aperture -/

theorem exec_aperture_write {off : Nat} (hoff : off < 2 ^ 36) (bs : List Byte) (poison : Bool) :
    exec (.hostApertureAccess off (.write bs poison)) s = .next (s.outsideWrite (s.h.apbase.toNat % 2 ^ 48 + off) bs poison) := by
  rw [exec_hostApertureAccess, execHostApertureAccess, if_pos hoff]

theorem exec_aperture_read {off : Nat} (hoff : off < 2 ^ 36) (n : Nat) :
    exec (.hostApertureAccess off (.read n)) s =
      let r := s.outsideRead (s.h.apbase.toNat % 2 ^ 48 + off) n
      .next { r.1 with h := { r.1.h with hostRead := r.2 } } := by
  rw [exec_hostApertureAccess, execHostApertureAccess, if_pos hoff]

theorem exec_aperture_outside {off : Nat} (hoff : 2 ^ 36 ≤ off) (a : HostAcc) : exec (.hostApertureAccess off a) s = .next s := by
  rw [exec_hostApertureAccess, execHostApertureAccess, if_neg (Nat.not_lt.2 hoff)]

/-! Peers -/

/-- A flit that a link has received ends the resends of it. -/
def State.received (link : Nat) : State := { s with b := { s.b with resends := updAt s.b.resends link fun _ => 0 } }

variable {s}
variable {link : Nat}

theorem exec_peer_down (hdown : s.b.links.getLsbD link = false) (pa : Nat) (a : HostAcc) :
    exec (.peerRequest link pa a) s = .next s := by
  rw [exec_peerRequest]
  simp only [execPeerRequest, hdown, Bool.not_false, if_true]

variable (hup : s.b.links.getLsbD link = true) {pa : Nat}
include hup

theorem exec_peer_refused {n : Nat} (hno : s.linkAdmits link pa n = false) :
    let s' := (s.addError 0 .linkError 11 link 0 false false false 2 (link / 3)).1
    exec (.peerRequest link pa (.read n)) s = .next s' ∧
      ∀ bs poison, bs.length = n → exec (.peerRequest link pa (.write bs poison)) s = .next s' := by
  refine ⟨?_, fun bs poison hlen => ?_⟩
  · rw [exec_peerRequest]
    simp [execPeerRequest, hup, hno]
  · subst hlen
    rw [exec_peerRequest]
    simp [execPeerRequest, hup, hno]

theorem exec_peer_write {bs : List Byte} (hok : s.linkAdmits link pa bs.length = true) (poison : Bool) :
    exec (.peerRequest link pa (.write bs poison)) s =
      let s' := (s.received link).outsideWrite pa bs poison
      .next (if poison then (s'.addError (pa / 64 * 64) .linkError 11 link 0 false false false 3 (link / 3)).1 else s') := by
  rw [exec_peerRequest]
  simp [execPeerRequest, State.received, hup, hok]

theorem exec_peer_read {n : Nat} (ho : s.Ownerless) (hok : s.linkAdmits link pa n = true) :
    exec (.peerRequest link pa (.read n)) s = .next ((s.received link).peerLease pa n) := by
  rw [exec_peerRequest]
  have hread : ((s.received link).readHome pa n).1 = s.received link := by
    rw [readHome_ownerless (s := s.received link) ho]
  simp only [execPeerRequest, hup, hok, Bool.not_true, Bool.false_eq_true, if_false]
  exact congrArg (fun u : State => Host.Outcome.next (u.peerLease pa n)) hread

end

section
variable {s : State} {line : Nat}

/-! Snoops -/

theorem exec_snoop_waits (bs : List (Nat × Byte)) (h : isHostMem (256 * line) = false ∨
      (s.leaseEnd (256 * line) == 0 || decide (s.leaseEnd (256 * line) < s.now (homeDie (256 * line)))) = false) :
    exec (.hostSnoop line bs) s = .next s := by
  rw [exec_hostSnoop]
  rcases h with h | h
  · simp only [execHostSnoop, h, Bool.not_false, Bool.true_or, if_true]
  · simp only [execHostSnoop, h, Bool.not_false, Bool.or_true, if_true]

/-- A snoop after the last lease: what the home holds goes to DRAM, and then the host's bytes. -/
theorem exec_snoop {bs : List (Nat × Byte)} (ho : s.Ownerless) (hhost : isHostMem (256 * line) = true)
    (hend : (s.leaseEnd (256 * line) == 0 || decide (s.leaseEnd (256 * line) < s.now (homeDie (256 * line)))) = true)
    (hlt : ∀ p ∈ bs, p.1 < 256) :
    exec (.hostSnoop line bs) s =
      let u := bs.foldl (fun s b => s.setDram (256 * line + b.1) b.2) (s.flushHome line)
      .next (State.wakeLine { u with m := { u.m with hostLines := sdel u.m.hostLines line } } line none) := by
  have hall : (bs.filter fun b => decide (b.1 < 256)) = bs := List.filter_eq_self.2 fun p hp => decide_eq_true (hlt p hp)
  rw [exec_hostSnoop]
  simp only [execHostSnoop, hhost, hend, Bool.not_true, Bool.or_false, Bool.false_eq_true, if_false, recall_of_owner_none (ho line), hall]

theorem setDrams_leaves (bs : List (Nat × Byte)) (u : State) :
    let u' := bs.foldl (fun s b => s.setDram (256 * line + b.1) b.2) u
    u'.x = u.x ∧ u'.m.copies = u.m.copies :=
  foldl_keeps (P := fun u' : State => u'.x = u.x ∧ u'.m.copies = u.m.copies) _ _ ⟨rfl, rfl⟩ fun _ _ _ hu => hu

end

/-! Scrubs -/

/-- Device memory is not the host's. -/
theorem paUnit_of_isDram {s : State} {pa : Nat} (h : s.isDram pa = true) :
    paUnit pa = (if isLpddr pa then 10 else 9, homeSlice pa) := by
  have hhost : isHostMem pa = false := by
    simp only [State.isDram, isStacked, isLpddr, Bool.or_eq_true, Bool.and_eq_true, decide_eq_true_eq] at h
    simp only [isHostMem, Bool.and_eq_false_iff, decide_eq_false_iff_not]
    omega
  unfold paUnit
  rw [hhost, if_neg (by decide)]
  split <;> rfl

theorem toNat_satInc (w : Word) : (satInc w).toNat = Nat.min (w.toNat + 1) 0xFFFFFFFF := by
  unfold satInc
  split
  · next h => rw [beq_iff_eq.1 h]; rfl
  · next h =>
    have hne : w.toNat ≠ 0xFFFFFFFF := fun e => h (beq_iff_eq.2 (BitVec.eq_of_toNat_eq e))
    have hlt := w.isLt
    rw [BitVec.toNat_add, Nat.mod_eq_of_lt (by simp; omega)]
    exact (Nat.min_eq_left (by simp; omega)).symm

section
variable {s : State} {sector : Nat} (hdram : s.isDram (64 * sector) = true)
include hdram

theorem exec_scrub_corrected : exec (.dramScrub sector .corrected) s =
    .next (State.addError { s with h := { s.h with corr := updAt s.h.corr (homeDie (64 * sector)) satInc } } (64 * sector)
      .softErrorCorrected (if isLpddr (64 * sector) then 10 else 9) (homeSlice (64 * sector)) 0 false false false 0
      (homeDie (64 * sector))).1 := by
  rw [exec_dramScrub]
  simp only [State.scrub, hdram, paUnit_of_isDram hdram, Bool.not_true, Bool.false_eq_true, if_false]

theorem exec_scrub_uncorrectable : exec (.dramScrub sector .uncorrectable) s =
    .next ((s.setPoison (64 * sector) true).addError (64 * sector) .uncorrectable (if isLpddr (64 * sector) then 10 else 9)
      (homeSlice (64 * sector)) 0 false false false 0 (homeDie (64 * sector))).1 := by
  rw [exec_dramScrub]
  simp only [State.scrub, hdram, paUnit_of_isDram hdram, Bool.not_true, Bool.false_eq_true, if_false]

end

theorem exec_scrub_absent {s : State} {sector : Nat} (h : s.isDram (64 * sector) = false) (c : EccCheck) :
    exec (.dramScrub sector c) s = .next s := by
  rw [exec_dramScrub]
  simp only [State.scrub, h, Bool.not_false, if_true]

theorem exec_scrub_clean (s : State) (sector : Nat) : exec (.dramScrub sector .clean) s = .next s :=
  congrArg Host.Outcome.next (ite_self s)

/-! Upsets of registers -/

section
variable {s : State} {u : Nat} {t : Thread} (h : s.thread? u = some t)
include h

theorem upset_regs_corrected : s.upset (.regs u) true = s.upsetCorrected 0 0 t.core t.ctx (coreDie t.core) false := by
  unfold State.upset
  dsimp only
  rw [h]
  rfl

theorem upset_regs_uncorrectable : s.upset (.regs u) false =
    (s.addError 0 .uncorrectable 0 t.core t.ctx false false false 0 (coreDie t.core)).1.freeze t.ctx
      (bareReport (s.now (coreDie t.core)) t.ctx (Cause.of .uncorrectable)) true := by
  unfold State.upset
  dsimp only
  rw [h]
  rfl

end

theorem freeze_frozen {s : State} {c : Nat} (h : c < s.d.ctxs.length) (r : BitVec 512) (msg : Bool) :
    ((s.freeze c r msg).ctx c).frozen = true := by
  have hctx (f : Ctx → Ctx) : (s.updCtx c f).ctx c = f (s.ctx c) := (getD_modify h f c Ctx.reset).trans (if_pos rfl)
  unfold State.freeze
  split
  · next hf => rw [hctx]; exact hf
  · dsimp only
    split <;> exact congrArg Ctx.frozen (hctx _)

end Sys2Proof.Machine

namespace Sys2Proof

open Machine

/-- Settles O52, from what a write without translation leaves at home and of poison, what a peer's read leases, and one equation for
each outcome of an access, a snoop and a scrub. -/
theorem outsideAccess : Obligations.OutsideAccess := by
  refine ⟨fun s pa bs n h ho => ⟨fun off hpa => ?aperture, fun link => ?peer⟩,
    fun s line bs h ho => ⟨fun hwait => ?snoopWaits, fun hhost hlive hg hnodup hlt => ?snoopDone⟩,
    fun s k => ⟨exec_scrub_clean s k, fun hdram c => exec_scrub_absent hdram c,
      fun hdram => ⟨?scrubCorrected, ?scrubUncorrectable⟩, fun u t ht hctx => ?upsetRegs⟩⟩
  case aperture =>
    refine ⟨fun hoff hdram => ⟨?_, ?_, ?_⟩, fun hdram p => ?_, fun hoff hdram => ?_, fun hoff a => exec_aperture_outside s hoff a⟩
    · exact ⟨_, hpa ▸ exec_aperture_write s hoff bs false, outsideWrite_sound h ho bs hdram⟩
    · exact ⟨_, hpa ▸ exec_aperture_write s hoff bs true, outsideWrite_poisoned h ho bs hdram⟩
    · rw [exec_aperture_read s hoff, ← hpa, outsideRead_ownerless ho n hdram]
    · rcases Nat.lt_or_ge off (2 ^ 36) with hoff | hoff
      · rw [exec_aperture_write s hoff, ← hpa, outsideWrite_absent hdram]
      · exact exec_aperture_outside s hoff _
    · rw [exec_aperture_read s hoff, ← hpa]
      simp [State.outsideRead, hdram]
  case peer =>
    refine ⟨fun hdown a => exec_peer_down hdown pa a, fun hup => ?_⟩
    have hadmits (n : Nat) := linkAdmits_iff s link pa n
    refine ⟨fun hok => ⟨?_, ?_⟩, fun hno p => ?_, fun hok => ?_, fun hno => ?_, fun hok l hlo hhi hn hg => ?_⟩
    · exact ⟨_, exec_peer_write hup ((hadmits _).2 hok) false, outsideWrite_sound (s := s.received link) h ho bs hok.2.2.1⟩
    · obtain ⟨hh, htaint⟩ := outsideWrite_poisoned (s := s.received link) h ho bs hok.2.2.1
      obtain ⟨r, herr, hr⟩ := addError_errors ((s.received link).outsideWrite pa bs true) (pa / 64 * 64) .linkError 11 link 0 false
        false false 3 (link / 3)
      rw [hh] at herr
      exact ⟨_, exec_peer_write hup ((hadmits _).2 hok) true, ⟨r, herr, hr⟩, htaint⟩
    · have hrefused := (exec_peer_refused hup (Bool.eq_false_iff.2 (mt (hadmits _).1 hno))).2 bs p rfl
      exact ⟨_, _, hrefused, rfl, rfl, rfl, rfl, rfl, rfl, rfl⟩
    · have hleased := leased_peerLease (s := s.received link) h pa n
      obtain ⟨ls, heq⟩ := hleased.eq
      refine ⟨_, exec_peer_read hup ho ((hadmits n).2 hok), hleased.home.byte, ?_⟩
      rw [heq]
      exact ⟨rfl, rfl, rfl⟩
    · exact ⟨_, _, (exec_peer_refused hup (Bool.eq_false_iff.2 (mt (hadmits n).1 hno))).1, rfl, rfl, rfl, rfl, rfl, rfl, rfl⟩
    · exact ⟨_, exec_peer_read hup ho ((hadmits n).2 hok), peerLease_expPeer (s := s.received link) h hlo hhi hn hg⟩
  case snoopWaits =>
    refine exec_snoop_waits bs (hwait.imp_right fun hlive => (snoop_waits s line).2 ?_)
    split_ifs at hlive ⊢ <;> omega
  case snoopDone =>
    have hend := Bool.eq_true_of_not_eq_false (mt (snoop_waits s line).1
      (by simpa only [hg, Bool.false_eq_true, if_false, Nat.add_zero] using hlive))
    obtain ⟨hin, hout⟩ := homeByte_foldl_setDram (wf_flushHome line h) (homeLine_flushHome_bytes h line) hnodup hlt
    obtain ⟨hx, hcopies⟩ := setDrams_leaves (line := line) bs (s.flushHome line)
    exact ⟨_, exec_snoop ho hhost hend hlt, hx.trans (merged_flushHome s line).x, hcopies.trans (flushHome_copies s line), hin,
      fun q hq => (hout q hq).trans (homeKept_flushHome q line h).byte⟩
  case scrubCorrected =>
    refine ⟨_, _, exec_scrub_corrected hdram, rfl, rfl, rfl, rfl, rfl, rfl, rfl, rfl, rfl, fun _ => ⟨rfl, fun hd => ?_⟩,
      fun hne => nomatch hne⟩
    exact (congrArg BitVec.toNat ((getD_modify hd satInc _ 0#32).trans (if_pos rfl))).trans (toNat_satInc _)
  case scrubUncorrectable =>
    refine ⟨_, _, exec_scrub_uncorrectable hdram, rfl, rfl, rfl, rfl, rfl, rfl, rfl, rfl, rfl, fun hne => (nomatch hne),
      fun _ hrise => ⟨?_, fun j hj => ?_⟩⟩
    · exact (poisoned_setPoison hrise _ true _).trans (if_pos rfl)
    · exact (poisoned_setPoison hrise _ true _).trans (if_neg (by omega))
  case upsetRegs =>
    let u := (s.addError 0 .uncorrectable 0 t.core t.ctx false false false 0 (coreDie t.core)).1
    obtain ⟨hx, hm⟩ := freeze_x_m u t.ctx (bareReport (s.now (coreDie t.core)) t.ctx (Cause.of .uncorrectable)) true
    rw [upset_regs_corrected ht, upset_regs_uncorrectable ht]
    exact ⟨rfl, rfl, rfl, freeze_frozen (s := u) hctx _ _, hm, (congrArg ExecState.threads hx :)⟩

end Sys2Proof
end

section
/-! Masked bytes in the L1s (R85, R94): what the homes do brings none, and the release of a core leaves none of the context. -/

namespace Sys2Proof.Machine

/-- Masked bytes stand in the L1s only where `P` admits them, of a core, a line and a context. -/
def State.Confined (P : Nat → Nat → Nat → Prop) (s : State) : Prop :=
  ∀ c ∈ s.m.copies, ∀ core, c.place = .l1 core → c.mask ≠ [] → P core c.line c.ctx

theorem tagged_sameKey (c : Copy) (t : BitVec 12) : (c.tagged t).SameKey c := by
  unfold Copy.tagged
  split <;> exact ⟨rfl, rfl, rfl⟩

namespace State.Confined

variable {P : Nat → Nat → Nat → Prop} {s s' : State} (h : s.Confined P)
include h

theorem of_subset (hc : ∀ c ∈ s'.m.copies, c ∈ s.m.copies) : s'.Confined P := fun c hc' => h c (hc c hc')

theorem imp {Q : Nat → Nat → Nat → Prop} (hPQ : ∀ core l x, P core l x → Q core l x) : s.Confined Q :=
  fun c hc core hp hm => hPQ _ _ _ (h c hc core hp hm)

theorem putCopy {c : Copy} (hc : ∀ core, c.place = .l1 core → c.mask ≠ [] → P core c.line c.ctx) : (s.putCopy c).Confined P := by
  intro k hk
  rcases mem_putCopy.1 hk with ⟨hk, -⟩ | ⟨rfl, -⟩
  · exact h k hk
  · exact hc

theorem mergeHome (l : Nat) (c : Option Nat) (t : BitVec 12) (bs : Sparse Byte) (bad : Bool) : (s.mergeHome l c t bs bad).Confined P := by
  unfold State.mergeHome
  refine foldl_keeps (P := State.Confined P) _ _ (h.of_subset (merged_touchHome s l c t).copies) fun u k _ hu => ?_
  split_ifs
  · exact hu.of_subset fun _ hc => hc
  · exact hu.of_subset fun _ hc => hc
  · exact hu

theorem updatePath (core : Option Nat) (l c : Nat) (t : BitVec 12) (bs : Sparse Byte) (bad : Bool) :
    (s.updatePath core l c t bs bad).Confined P := by
  unfold State.updatePath
  split
  · exact h
  · next k hk =>
    obtain ⟨p, -, hp⟩ := Option.bind_eq_some_iff.1 hk
    have hmem := h k (List.mem_of_find?_eq_some hp)
    refine h.putCopy fun core hplace hmask => ?_
    obtain ⟨hp, hl, hc⟩ := tagged_sameKey { k with sectors := k.sectors.map fun d => (d.1, d.2.merge d.1 bs bad) } t
    rw [tagged_mask] at hmask
    rw [hl, hc]
    exact hmem core (hp.symm.trans hplace) hmask

theorem collectCore (core c l w : Nat) : (s.collectCore core c l w).Confined P :=
  h.of_subset fun _ hc => by rwa [collectCore_home] at hc

theorem recallLine (l : Nat) : (s.recall l).Confined P := by
  unfold State.recall
  split
  · exact h
  · next core _ =>
    refine foldl_keeps (P := State.Confined P) _ _ (h.of_subset fun _ hc => hc) fun u c _ hu => ?_
    have hpath := (hu.mergeHome l (some c.ctx) c.tensor c.mask false).updatePath (some core) l c.ctx c.tensor c.mask false
    dsimp only
    generalize (u.mergeHome l (some c.ctx) c.tensor c.mask false).updatePath (some core) l c.ctx c.tensor c.mask false = v at hpath ⊢
    have hcollect : State.Confined P (if c.mask.isEmpty then v else v.collectCore core c.ctx l (v.wctOf (256 * l))) := by
      split
      · exact hpath
      · exact hpath.collectCore _ _ _ _
    exact (hcollect.putCopy (c := { c with own := none, mask := [], sectors := [] }) fun _ _ hm => absurd rfl hm).of_subset fun _ hc => hc

theorem performHome (core : Option Nat) (l c : Nat) (t : BitVec 12) (bs : Sparse Byte) (bad : Bool) :
    (s.performHome core l c t bs bad).1.Confined P := by
  unfold State.performHome
  split
  · exact h
  · have hrecall : State.Confined P (if s.ownedBy core l c then s else s.recall l) := by
      split
      · exact h
      · exact h.recallLine l
    have hpath := (hrecall.mergeHome l (some c) t bs bad).updatePath core l c t bs bad
    dsimp only
    split
    · exact hpath.of_subset fun _ hc => hc
    · exact hpath.of_subset fun _ hc => hc

/-- A copy whose masked bytes all go home keeps none, nor does another of its line. -/
theorem writeBack {c : Copy} {core : Nat} (hc : c.place = .l1 core) (hm : c.mask ≠ []) :
    (s.writeBack c fun _ => true).1.Confined fun k l x => P k l x ∧ ¬(k = core ∧ l = c.line ∧ x = c.ctx) := by
  have hput : (s.putCopy (c.kept fun _ => true)).Confined fun k l x => P k l x ∧ ¬(k = core ∧ l = c.line ∧ x = c.ctx) := by
    intro k hk core' hplace hmask
    rcases mem_putCopy.1 hk with ⟨hk, hne⟩ | ⟨rfl, -⟩
    · exact ⟨h k hk core' hplace hmask, fun ⟨hcore, hl, hx⟩ => hne ⟨by rw [hplace, hcore]; exact hc.symm, hl, hx⟩⟩
    · exact absurd (List.filter_eq_nil_iff.2 fun _ _ => by simp) hmask
  refine (hput.performHome (some core) c.line c.ctx c.tensor (c.mask.filter fun _ => true) false).of_subset fun k hk => ?_
  rwa [writeBack_m hc (by rw [mask_all]; exact hm)] at hk

/-- The release of a core leaves none of the context's masked bytes in its L1. -/
theorem releaseCore (core ctx : Nat) : (s.releaseCore core ctx).1.Confined fun k l x => P k l x ∧ ¬(k = core ∧ x = ctx) := by
  have key : ∀ (cs : List Copy) (a : State × Sparse Nat) (Q : Nat → Nat → Nat → Prop), a.1.Confined Q →
      (∀ c ∈ cs, c.place = .l1 core ∧ c.ctx = ctx ∧ c.mask ≠ []) →
      (cs.foldl (fun a c =>
        let r := a.1.writeBack c fun _ => true
        (r.1, wctAdd a.2 (homeDie (256 * c.line)) r.2)) a).1.Confined fun k l x =>
          Q k l x ∧ ∀ c ∈ cs, ¬(k = core ∧ l = c.line ∧ x = ctx) := by
    intro cs
    induction cs with
    | nil => exact fun a Q ha _ => ha.imp fun _ _ _ hq => ⟨hq, fun _ hc => nomatch hc⟩
    | cons c cs ih =>
      intro a Q ha hcs
      obtain ⟨hplace, rfl, hmask⟩ := hcs c List.mem_cons_self
      exact (ih (_, _) _ (ha.writeBack hplace hmask) fun k hk => hcs k (List.mem_cons_of_mem _ hk)).imp
        fun _ _ _ ⟨⟨hq, hne⟩, hrest⟩ => ⟨hq, List.forall_mem_cons.2 ⟨hne, hrest⟩⟩
  let cs := s.m.copies.filter fun c => c.place == .l1 core && c.ctx == ctx && !c.mask.isEmpty
  have hmem (c : Copy) : c ∈ cs ↔ c ∈ s.m.copies ∧ c.place = .l1 core ∧ c.ctx = ctx ∧ c.mask ≠ [] := by
    simp [cs, List.mem_filter, and_assoc]
  have hnow : s.Confined fun k l x => P k l x ∧ (k = core → x = ctx → ∃ c ∈ cs, c.line = l) := fun c hc k hplace hmask =>
    ⟨h c hc k hplace hmask, fun hk hx => ⟨c, (hmem c).2 ⟨hc, hk ▸ hplace, hx, hmask⟩, rfl⟩⟩
  refine (key cs (s, []) _ hnow fun c hc => ((hmem c).1 hc).2).imp
    fun k l x ⟨⟨hp, hline⟩, hnone⟩ => ⟨hp, fun ⟨hk, hx⟩ => ?_⟩
  obtain ⟨c, hc, rfl⟩ := hline hk hx
  exact hnone c hc ⟨hk, rfl, hx⟩

end State.Confined

/-- A core whose L1 holds no masked byte of the context has nothing to release. -/
theorem releaseCore_unmasked {s : State} (h : s.Unmasked) (core ctx : Nat) : s.releaseCore core ctx = (s, []) := by
  unfold State.releaseCore
  rw [List.filter_eq_nil_iff.2 fun c hc => by simp [h c hc]]
  rfl

/-! The release of a launch (R94) -/

/-- The release of the cores one after another. -/
def State.releaseCores (s : State) (ctx : Nat) (cores : List Nat) : State × Sparse Nat :=
  cores.foldl (fun a c =>
    let r := a.1.releaseCore c ctx
    (r.1, wctJoin a.2 r.2)) (s, [])

theorem launchRelease_eq (s : State) (l : Launch) : s.launchRelease l =
    let r := s.releaseCores l.ctx (List.range 144)
    r.1.updLaunch l.uid fun l => { l with wct := wctJoin l.wct r.2, released := true } := rfl

theorem memOnly_releaseCores (s : State) (ctx : Nat) (cores : List Nat) : MemOnly s (s.releaseCores ctx cores).1 :=
  MemOnly.foldl_fst cores (s, []) fun a c => memOnly_releaseCore a.1 c ctx

theorem releaseCores_clear (s : State) (ctx : Nat) (cores : List Nat) :
    (s.releaseCores ctx cores).1.Confined fun k _ x => ¬(k ∈ cores ∧ x = ctx) := by
  have key : ∀ (cores : List Nat) (a : State × Sparse Nat) (Q : Nat → Nat → Nat → Prop), a.1.Confined Q →
      (cores.foldl (fun a c =>
        let r := a.1.releaseCore c ctx
        (r.1, wctJoin a.2 r.2)) a).1.Confined fun k l x => Q k l x ∧ ¬(k ∈ cores ∧ x = ctx) := by
    intro cores
    induction cores with
    | nil => exact fun a Q ha => ha.imp fun _ _ _ hq => ⟨hq, fun hk => nomatch hk.1⟩
    | cons c cores ih =>
      intro a Q ha
      have hcores := ih ((a.1.releaseCore c ctx).1, wctJoin a.2 (a.1.releaseCore c ctx).2) _ (ha.releaseCore c ctx)
      refine hcores.imp fun k l x ⟨⟨hq, hne⟩, hrest⟩ => ⟨hq, fun ⟨hk, hx⟩ => ?_⟩
      rcases List.mem_cons.1 hk with hk | hk
      · exact hne ⟨hk, hx⟩
      · exact hrest ⟨hk, hx⟩
  exact (key cores (s, []) (fun _ _ _ => True) fun _ _ _ _ _ => trivial).imp fun _ _ _ hq => hq.2

theorem releaseCores_unmasked {s : State} (h : s.Unmasked) (ctx : Nat) (cores : List Nat) : s.releaseCores ctx cores = (s, []) :=
  foldl_keeps (P := fun a => a = (s, [])) _ _ rfl fun a c _ ha => by
    rw [ha]
    dsimp only
    rw [releaseCore_unmasked h]
    rfl

end Sys2Proof.Machine
end

section
/-! The end of a launch and its stall: its release, its SIGNAL counter, and the episode of a stall (R94, R312, R376, R414). Settles
O45. -/

namespace Sys2Proof.Machine

theorem exec_launchComplete (u : Nat) (s : State) : exec (.launchComplete u) s = execLaunchComplete u s := rfl
theorem exec_orderedStall (u : Nat) (s : State) : exec (.orderedStall u) s = execOrderedStall u s := rfl

section
variable {s : State} {l : Launch} (hl : s.launch? l.uid = some l)
include hl

theorem launch?_mem : l ∈ s.d.launches := List.mem_of_find?_eq_some hl

theorem launch?_updLaunch_self {f : Launch → Launch} (h : ∀ l, (f l).uid = l.uid) :
    (s.updLaunch l.uid f).launch? l.uid = some (f l) := by
  rw [launch?_updLaunch h, hl, Option.map_some, if_pos rfl]

/-! LAUNCH_COMPLETE -/

theorem exec_launchComplete_early (hover : s.launchOver l = false) : exec (.launchComplete l.uid) s = .next s := by
  simp only [exec_launchComplete, execLaunchComplete, hl, hover, Bool.not_false, if_true]

theorem exec_launchComplete_release (hover : s.launchOver l = true) (hrel : l.released = false) (hdet : lrDet l.record = false) :
    exec (.launchComplete l.uid) s = .next (s.launchRelease l) := by
  simp only [exec_launchComplete, execLaunchComplete, hl, hover, hrel, State.detSummary, hdet, Bool.not_true, Bool.not_false,
    Bool.true_or, Bool.false_eq_true, if_true, if_false]

omit hl in
theorem launchRelease_clear : (s.launchRelease l).Confined fun k _ x => ¬(k ∈ List.range 144 ∧ x = l.ctx) := by
  rw [launchRelease_eq]
  exact (releaseCores_clear s l.ctx (List.range 144)).of_subset fun _ hc => by rwa [updLaunch_m] at hc

/-- The release of a launch: its mark, and nothing else of its state. -/
theorem launchRelease_launch? : ∃ w, (s.launchRelease l).launch? l.uid = some { l with wct := w, released := true } := by
  obtain ⟨w, hw⟩ := (memOnly_releaseCores s l.ctx (List.range 144)).launch? hl
  rw [launchRelease_eq]
  exact ⟨_, launch?_updLaunch_self (l := { l with wct := w }) hw fun _ => rfl⟩

omit hl in
theorem launchRelease_unmasked (h : s.Unmasked) :
    s.launchRelease l = s.updLaunch l.uid fun l => { l with released := true } := by
  rw [launchRelease_eq, releaseCores_unmasked h]
  rfl

section
variable (hover : s.launchOver l = true) (hrel : l.released = true)
include hover hrel

theorem exec_launchComplete_waits (hpassed : s.allPassed l.wct = false) : exec (.launchComplete l.uid) s = .next s := by
  simp only [exec_launchComplete, execLaunchComplete, hl, hover, hrel, hpassed, Bool.not_true, Bool.not_false, Bool.false_eq_true,
    if_true, if_false]

variable (hpassed : s.allPassed l.wct = true)
include hpassed

theorem exec_launchComplete_signals {s1 : State} {w : Sparse Nat} (hsig : s.signal l = (s1, .ok w)) :
    exec (.launchComplete l.uid) s = .next (s1.dropLaunch l) := by
  simp only [exec_launchComplete, execLaunchComplete, hl, hover, hrel, hpassed, hsig, Bool.not_true, Bool.false_eq_true, if_false]

theorem exec_launchComplete_freezes {s1 : State} {c : Code} {a : DWord} (hsig : s.signal l = (s1, .code c a)) :
    exec (.launchComplete l.uid) s =
      .next ((s1.freeze l.ctx (bareReport (s1.now 0) l.ctx ⟨c, 0#8, lrSignal l.record, false, false⟩) true).dropLaunch l) := by
  simp only [exec_launchComplete, execLaunchComplete, hl, hover, hrel, hpassed, hsig, Bool.not_true, Bool.false_eq_true, if_false]

end

omit hl in
/-- A launch that is dropped is done, and its section entries and bindings are gone. -/
theorem dropLaunch_done {k : Launch} (hk : s.launch? l.uid = some k) :
    (∃ k, (s.dropLaunch l).launch? l.uid = some k ∧ k.state = .done) ∧
    (∀ k ∈ (s.dropLaunch l).y.keys, k.launch ≠ l.uid) ∧ ∀ b ∈ (s.dropLaunch l).e.bindings, b.launch ≠ l.uid := by
  have huid : k.uid = l.uid := by simpa using List.find?_some hk
  have hdone : (s.dropLaunch l).launch? l.uid = some { k with state := .done } := by
    rw [← huid] at hk ⊢
    unfold State.dropLaunch
    rw [← huid]
    exact launch?_updLaunch_self (f := fun l => { l with state := .done }) hk fun _ => rfl
  refine ⟨⟨_, hdone, rfl⟩, fun k hk => ?_, fun b hb => ?_⟩
  · simpa using (List.mem_filter.1 hk).2
  · simpa using (List.mem_filter.1 hb).2

end

section
variable {s : State} {l : Launch}

theorem signal_none (h : lrSignal l.record = 0#64) : s.signal l = (s, .ok []) := by
  simp only [State.signal, h, beq_self_eq_true, if_true]

section
variable (hp : lrSignal l.record ≠ 0#64) (hfails : ∀ f ∈ s.d.dfails, f.1 ≠ l.uid)
  (hfaults : ∀ f ∈ s.h.faults, ∀ w ∈ f.waiters, w.1 ≠ .launch l.uid)
include hp hfails hfaults

theorem signal_tests : (lrSignal l.record == 0#64) = false ∧
    (s.d.dfails.find? fun f => f.1 == l.uid && inRange (lrSignal l.record) f.2.1 8) = none ∧
    (s.h.faults.any fun f => f.waiters.any fun w => w.1 == .launch l.uid && inRange (lrSignal l.record) w.2 8) = false := by
  refine ⟨by simpa using hp, List.find?_eq_none.2 fun f hf => by simp [hfails f hf], List.any_eq_false.2 fun f hf => ?_⟩
  rw [Bool.not_eq_true]
  refine List.any_eq_false.2 fun w hw => ?_
  rw [beq_eq_false_iff_ne.2 (hfaults f hf w hw), Bool.false_and]
  exact Bool.false_ne_true

theorem signal_counts {s1 : State} {segs : List (Nat × Nat)}
    (hcheck : s.engCheck 0 l.ctx (lrSignal l.record) 8 true 0#12 = (s1, .ok segs)) (hwin : isWindow (segs.headD (0, 0)).1 = false) :
    ∃ w, s.signal l =
      ((s1.rmwHome none l.ctx 0#12 (segs.headD (0, 0)).1 8 (fun old => some (old + lrSigval l.record)) false).1, .ok w) := by
  obtain ⟨h0, h1, h2⟩ := signal_tests hp hfails hfaults
  refine ⟨wctAdd [] (homeDie (segs.headD (0, 0)).1)
    (s1.rmwHome none l.ctx 0#12 (segs.headD (0, 0)).1 8 (fun old => some (old + lrSigval l.record)) false).2.2, ?_⟩
  simp only [State.signal, h0, h1, h2, hcheck, hwin, Bool.false_eq_true, if_false]

theorem signal_meets {s1 : State} {c : Code} {a : DWord}
    (hcheck : s.engCheck 0 l.ctx (lrSignal l.record) 8 true 0#12 = (s1, .error (.code c a))) : s.signal l = (s1, .code c a) := by
  obtain ⟨h0, h1, h2⟩ := signal_tests hp hfails hfaults
  simp only [State.signal, h0, h1, h2, hcheck, Bool.false_eq_true, if_false]

end

end

/-- Memory alone changes no register. -/
theorem MemOnly.registers {s s' : State} (h : MemOnly s s') : s'.x.threads.map Thread.v = s.x.threads.map Thread.v := by
  obtain ⟨w, hx⟩ := h.x
  rw [hx]
  exact List.map_map ..

/-- The counter's word after the signal; no other byte changes. -/
theorem rmwHome_adds {s : State} (h : s.Wf) (ho : s.Ownerless) {pa : Nat} (halign : pa % 8 = 0) (ctx : Nat) (v : DWord) :
    let s' := (s.rmwHome none ctx 0#12 pa 8 (fun old => some (old + v)) false).1
    s'.homeWord pa true = s.homeWord pa true + v ∧ ∀ q, q < pa ∨ pa + 8 ≤ q → s'.homeByte q = s.homeByte q := by
  have hput := homePut_rmwHome h ho (pa := pa) (n := 8) (by omega) none ctx 0#12 (fun old => old + v) false
  have hlen : (loBytes 8 (leWord (s.homeBytes pa 8) + v)).length = 8 := length_natBytes _ _
  refine ⟨?_, fun q hq => ?_⟩
  · have hbytes := homeBytes_put hput.byte
    rw [hlen] at hbytes
    rw [homeWord_eq, homeWord_eq]
    exact (congrArg leWord hbytes).trans (leWord_loBytes (leWord (s.homeBytes pa 8) + v).isLt)
  · exact hput.bytesAt.2 q (by rw [hlen]; exact hq)

/-! Freezing -/

section
variable {s : State} {c : Nat} (hfrozen : (s.ctx c).frozen = false) (r : BitVec 512)
include hfrozen

theorem freeze_ctx (hc : c < s.d.ctxs.length) :
    (s.freeze c r true).ctx c = { s.ctx c with frozen := true, report := withFreeze r } := by
  unfold State.freeze
  rw [hfrozen, if_neg (by decide)]
  exact (getD_modify hc _ c Ctx.reset).trans (if_pos rfl)

theorem freeze_launches : (s.freeze c r true).d.launches = s.d.launches := by
  unfold State.freeze
  rw [hfrozen, if_neg (by decide)]
  rfl

end

/-- FREEZE stands below the fields of a report. -/
theorem extract_withFreeze (r : BitVec 512) {start : Nat} (n : Nat) (h : 82 < start) :
    (withFreeze r).extractLsb' start n = r.extractLsb' start n := by
  ext i hi
  have hbit : (1#512 <<< 82).getLsbD (start + i) = false := by
    rw [BitVec.getLsbD_shiftLeft, BitVec.getLsbD_one, decide_eq_false (by omega : ¬start + i - 82 = 0), Bool.and_false, Bool.and_false]
  rw [withFreeze, BitVec.getElem_extractLsb', BitVec.getElem_extractLsb', BitVec.getLsbD_or, hbit, Bool.or_false]

theorem withFreeze_bit (r : BitVec 512) : (withFreeze r).getLsbD 82 = true := by
  simp [withFreeze]

/-- The address and the program counter of a report. -/
theorem extract_mkReport (ln : BitVec 128) (pc addr hdr : DWord) (time : Nat) (c : Cause) (core slice lane slot ctx word : Nat)
    (freeze : Bool) (team : Word) (tid : Nat) :
    let r := mkReport ln pc addr hdr time c core slice lane slot ctx word freeze team tid
    r.extractLsb' 256 64 = addr ∧ r.extractLsb' 320 64 = pc := by
  constructor
  · ext i hi
    have hbelow (n : Nat) (h : n ≤ 256) : ¬ 256 + i < n := by omega
    have hfield (n m : Nat) (h : m + n ≤ 256) : ¬ 256 + i - m < n := by omega
    simp only [mkReport, BitVec.getElem_extractLsb', BitVec.getLsbD_append, Nat.sub_sub]
    simp only [hbelow, hfield, Nat.reduceAdd, Nat.reduceLeDiff, if_false]
    rw [Nat.add_sub_cancel_left, if_pos hi, BitVec.getLsbD_eq_getElem hi]
  · ext i hi
    have hbelow (n : Nat) (h : n ≤ 320) : ¬ 320 + i < n := by omega
    have hfield (n m : Nat) (h : m + n ≤ 320) : ¬ 320 + i - m < n := by omega
    simp only [mkReport, BitVec.getElem_extractLsb', BitVec.getLsbD_append, Nat.sub_sub]
    simp only [hbelow, hfield, Nat.reduceAdd, Nat.reduceLeDiff, if_false]
    rw [Nat.add_sub_cancel_left, if_pos hi, BitVec.getLsbD_eq_getElem hi]

theorem extract_bareReport (time ctx : Nat) (c : Cause) :
    (bareReport time ctx c).extractLsb' 256 64 = c.addr ∧ (bareReport time ctx c).extractLsb' 320 64 = 0#64 := extract_mkReport ..

/-! ORDERED_STALL -/

section
variable {s : State} {l : Launch} (hl : s.launch? l.uid = some l)
include hl

theorem exec_orderedStall_trap (hfired : l.stallFired = false) {c : Nat} (hsince : l.stallSince = some c)
    (hlong : c + 1048576 ≤ s.x.clk) :
    exec (.orderedStall l.uid) s = .next
      ((s.updLaunch l.uid fun k => { k with stallFired := true, watched := s.stallList k }).launchTrap l.uid (s.stallReport l)) := by
  simp only [exec_orderedStall, execOrderedStall, hl, hfired, hsince, Nat.reducePow, hlong, Bool.false_eq_true, if_true, if_false]

theorem exec_orderedStall_outlasts (hfired : l.stallFired = true) {c : Nat} (hend : l.stallEnd = some c) (hlong : c + 1048576 ≤ s.x.clk) :
    exec (.orderedStall l.uid) s = .next
      ((s.updLaunch l.uid fun k => { k with stallEnd := none }).freeze l.ctx (s.stallReport l) true) := by
  simp only [exec_orderedStall, execOrderedStall, hl, hfired, hend, Nat.reducePow, hlong, if_true]

theorem exec_orderedStall_early (hfired : l.stallFired = false) (h : ∀ c, l.stallSince = some c → s.x.clk < c + 1048576) :
    exec (.orderedStall l.uid) s = .next s := by
  cases hs : l.stallSince with
  | none => simp only [exec_orderedStall, execOrderedStall, hl, hfired, hs, Bool.false_eq_true, if_false]
  | some c =>
    simp only [exec_orderedStall, execOrderedStall, hl, hfired, hs, Nat.reducePow, Nat.not_le.2 (h c hs), Bool.false_eq_true, if_false]

theorem exec_orderedStall_handled (hfired : l.stallFired = true) (h : ∀ c, l.stallEnd = some c → s.x.clk < c + 1048576) :
    exec (.orderedStall l.uid) s = .next s := by
  cases hs : l.stallEnd with
  | none => simp only [exec_orderedStall, execOrderedStall, hl, hfired, hs, if_true]
  | some c => simp only [exec_orderedStall, execOrderedStall, hl, hfired, hs, Nat.reducePow, Nat.not_le.2 (h c hs), if_true, if_false]

theorem launchTrap_handler (hfrozen : (s.ctx l.ctx).frozen = false) (h : lrTraph l.record ≠ 0#64) (r : BitVec 512) :
    s.launchTrap l.uid r = s.updLaunch l.uid fun l => { l with traps := l.traps ++ [r] } := by
  have h : (lrTraph l.record == 0#64) = false := by simpa using h
  simp only [State.launchTrap, hl, hfrozen, h, Bool.false_eq_true, if_false]

theorem launchTrap_freezes (hfrozen : (s.ctx l.ctx).frozen = false) (h : lrTraph l.record = 0#64) (r : BitVec 512) :
    s.launchTrap l.uid r = s.freeze l.ctx r true := by
  simp only [State.launchTrap, hl, hfrozen, h, beq_self_eq_true, Bool.false_eq_true, if_true, if_false]

end

/-! What is kept of a stall after every step -/

/-- The episode of a launch's stall after a step: it goes on, or it has ended as a watched thread has moved (R414). -/
def State.episode (s : State) (l : Launch) : Launch :=
  if !l.stallFired then l else if stallMoved l.watched (s.stallList l) then l.endEpisode else { l with watched := s.stallList l }

/-- A launch with the clock since which it stands stalled after a step. -/
def State.timed (s : State) (l : Launch) : Launch :=
  let handled := s.x.threads.any fun t => t.launch == l.uid && t.isHandler && t.status != .exited
  { l with stallSince := if s.stalledNow l && !handled then l.stallSince.or (some s.x.clk) else none }

theorem watchStall_eq (s : State) :
    s.watchStall = { s with d := { s.d with launches := s.d.launches.map fun l => s.timed (s.episode l) } } := rfl

theorem episode_same (s : State) (l : Launch) : (s.episode l).uid = l.uid ∧ (s.episode l).record = l.record ∧
    (s.episode l).state = l.state ∧ (s.episode l).stallSince = l.stallSince := by
  unfold State.episode Launch.endEpisode
  split_ifs <;> exact ⟨rfl, rfl, rfl, rfl⟩

theorem episode_stallFired (s : State) (l : Launch) :
    (s.episode l).stallFired = (l.stallFired && !stallMoved l.watched (s.stallList l)) := by
  unfold State.episode Launch.endEpisode
  cases hfired : l.stallFired with
  | false => exact hfired
  | true => cases stallMoved l.watched (s.stallList l) <;> simp

/-- Whether a launch stands stalled is a matter of its threads. -/
theorem stalledNow_congr (s : State) {k l : Launch} (h : k.uid = l.uid) : s.stalledNow k = s.stalledNow l := by
  unfold State.stalledNow State.stallThreads
  rw [h]

end Sys2Proof.Machine

namespace Sys2Proof

open Machine

/-- Settles O45, from the release of the cores, the cases of a SIGNAL counter, and what ORDERED_STALL and every step do to a launch's
stall. -/
theorem launchEnd : Obligations.LaunchEnd := by
  intro s l hl
  refine ⟨exec_launchComplete_early hl, fun hover hrel hdet => ?release,
    fun hover hrel => ⟨exec_launchComplete_waits hl hover hrel, ?signal⟩,
    fun hfired hsince => exec_orderedStall_early hl hfired (by simp [hsince]), fun hfired c hsince => ⟨fun hshort => ?early, ?trap⟩,
    fun hfired => ⟨exec_orderedStall_handled hl hfired, ?outlasts⟩, ?kept⟩
  case release =>
    obtain ⟨w, hw⟩ := launchRelease_launch? hl
    refine ⟨_, _, exec_launchComplete_release hl hover hrel hdet, hw, rfl, rfl, rfl, fun c hc core hcore hplace hctx => ?_, fun h => ?_⟩
    · exact by_contra fun hmask => launchRelease_clear c hc core hplace hmask ⟨List.mem_range.2 hcore, hctx⟩
    · have heq := launchRelease_unmasked (l := l) h
      rw [heq] at hw ⊢
      have hk := launch?_updLaunch_self hl (f := fun l => { l with released := true }) fun _ => rfl
      exact ⟨rfl, (congrArg Launch.wct (Option.some.inj (hk.symm.trans hw))).symm⟩
  case signal =>
    intro hpassed
    refine ⟨fun hp => ?_, fun hp hfails hfaults s1 => ⟨fun pa segs hcheck hpa halign hwin hwf ho hthreads hl1 => ?_,
      fun c a hcheck hfrozen hctx hthreads hl1 => ?_⟩⟩
    · obtain ⟨hk, hkeys, hbindings⟩ := dropLaunch_done hl
      exact ⟨_, ⟨exec_launchComplete_signals hl hover hrel hpassed (signal_none hp), hk, hkeys, hbindings, rfl⟩, rfl⟩
    · subst hpa
      obtain ⟨w, hsig⟩ := signal_counts hp hfails hfaults hcheck hwin
      have hmem := memOnly_rmwHome s1 none l.ctx 0#12 (segs.headD (0, 0)).1 8 (fun old => some (old + lrSigval l.record)) false
      obtain ⟨_, hl2⟩ := hmem.launch? hl1
      obtain ⟨hk, hkeys, hbindings⟩ := dropLaunch_done hl2
      obtain ⟨hword, hbytes⟩ := rmwHome_adds hwf ho halign l.ctx (lrSigval l.record)
      exact ⟨_, ⟨exec_launchComplete_signals hl hover hrel hpassed hsig, hk, hkeys, hbindings,
        hmem.registers.trans (congrArg (List.map Thread.v) hthreads)⟩, hword, hbytes⟩
    · let r := bareReport (s1.now 0) l.ctx ⟨c, 0#8, lrSignal l.record, false, false⟩
      obtain ⟨hx, hm⟩ := freeze_x_m s1 l.ctx r true
      have hfreeze := freeze_ctx hfrozen r hctx
      have hl2 : (s1.freeze l.ctx r true).launch? l.uid = some l := by
        unfold State.launch?
        rw [freeze_launches hfrozen]
        exact hl1
      obtain ⟨hk, hkeys, hbindings⟩ := dropLaunch_done hl2
      obtain ⟨haddr, hpc⟩ := extract_bareReport (s1.now 0) l.ctx ⟨c, 0#8, lrSignal l.record, false, false⟩
      have hreport := congrArg Ctx.report hfreeze
      refine ⟨_, ⟨exec_launchComplete_freezes hl hover hrel hpassed (signal_meets hp hfails hfaults hcheck), hk, hkeys, hbindings,
        (congrArg (fun x : ExecState => x.threads.map Thread.v) hx).trans (congrArg (List.map Thread.v) hthreads)⟩,
        congrArg Ctx.frozen hfreeze, ?_, ?_, ?_, ?_, hm⟩
      · exact (congrArg reportCode hreport).trans ((extract_withFreeze r 8 (by decide)).trans (reportCode_mkReport ..))
      · exact (congrArg (BitVec.extractLsb' 256 64) hreport).trans ((extract_withFreeze r 64 (by decide)).trans haddr)
      · exact (congrArg (BitVec.extractLsb' 320 64) hreport).trans ((extract_withFreeze r 64 (by decide)).trans hpc)
      · exact (congrArg (fun r : BitVec 512 => r.getLsbD 82) hreport).trans (withFreeze_bit r)
  case early =>
    refine exec_orderedStall_early hl hfired fun c' hc' => ?_
    obtain rfl : c = c' := Option.some.inj (hsince.symm.trans hc')
    exact hshort
  case trap =>
    intro hlong hfrozen
    let u := s.updLaunch l.uid fun k => { k with stallFired := true, watched := s.stallList k }
    let k : Launch := { l with stallFired := true, watched := s.stallList l }
    have hu : u.launch? k.uid = some k := launch?_updLaunch_self hl fun _ => rfl
    have hexec := exec_orderedStall_trap hl hfired hsince hlong
    by_cases htraph : lrTraph l.record = 0#64
    · rw [launchTrap_freezes (s := u) (l := k) hu hfrozen htraph] at hexec
      obtain ⟨hx, hm⟩ := freeze_x_m u l.ctx (s.stallReport l) true
      have hk : (u.freeze l.ctx (s.stallReport l) true).launch? k.uid = some k := by
        unfold State.launch?
        rw [freeze_launches (s := u) hfrozen]
        exact hu
      refine ⟨_, _, hexec, hk, rfl, hx, hm, fun h => absurd htraph h, fun _ hctx => ?_⟩
      have hfreeze := freeze_ctx (s := u) hfrozen (s.stallReport l) hctx
      exact ⟨congrArg Ctx.frozen hfreeze, congrArg Ctx.report hfreeze⟩
    · rw [launchTrap_handler (s := u) (l := k) hu hfrozen htraph] at hexec
      have hk := launch?_updLaunch_self (s := u) (l := k) hu (f := fun n => { n with traps := n.traps ++ [s.stallReport l] })
        fun _ => rfl
      exact ⟨_, _, hexec, hk, rfl, rfl, rfl, fun _ => ⟨rfl, rfl⟩, fun h => absurd h htraph⟩
  case outlasts =>
    intro c hend hlong hfrozen hctx
    let u := s.updLaunch l.uid fun k => { k with stallEnd := none }
    obtain ⟨hx, hm⟩ := freeze_x_m u l.ctx (s.stallReport l) true
    have hfreeze := freeze_ctx (s := u) hfrozen (s.stallReport l) hctx
    exact ⟨_, exec_orderedStall_outlasts hl hfired hend hlong, hx, hm, congrArg Ctx.frozen hfreeze, congrArg Ctx.report hfreeze⟩
  case kept =>
    obtain ⟨huid, hrecord, hstate, hsince⟩ := episode_same s l
    have hsame := stalledNow_congr s huid
    rw [watchStall_eq]
    refine ⟨rfl, rfl, _, List.mem_map_of_mem (launch?_mem hl), huid, hrecord, hstate, fun hno => ?_, episode_stallFired s l,
      fun hstalled hexited => ?_⟩
    · simp only [State.timed, hsame, hno, Bool.false_and, Bool.false_eq_true, if_false]
    · have hhandled : (s.x.threads.any fun t => t.launch == l.uid && t.isHandler && t.status != .exited) = false :=
        List.any_eq_false.2 fun t ht => by simpa using hexited t ht
      simp only [State.timed, hsame, hstalled, huid, hhandled, hsince, Bool.not_false, Bool.and_self, if_true]
      cases l.stallSince <;> rfl

end Sys2Proof
end
